-- ==== Sys2Proof/Word.lean ====
section
/-! DEFINITION. The word types of the FY-4800 model: bytes, the register and field widths, byte strings. -/

namespace Sys2Proof

abbrev Byte := BitVec 8
abbrev W16 := BitVec 16
abbrev W32 := BitVec 32
abbrev W64 := BitVec 64
/-- A 128-bit instruction word of a core program (04_core_programs.md R83). -/
abbrev Insn := BitVec 128
/-- A byte string, lowest address first (R14). -/
abbrev Bytes := List (BitVec 8)

/-- A function of the PCIe device: 0 is the PF, n from 1 to 16 is VF n (R297, R298). -/
abbrev Fn := Fin 17
/-- A queue pair of a function (12_host_interface.md, Queue pairs). -/
abbrev QpNo := Fin 64
/-- A partition number (Table 0.2). -/
abbrev PartNo := Fin 16
/-- A physical core number (Table 2.6). -/
abbrev CoreNo := Fin 34
/-- A cellar controller number. -/
abbrev CtrlNo := Fin 8
/-- A Tirtar port number. -/
abbrev PortNo := Fin 8
/-- A request-table slot (R10, R220). -/
abbrev SlotNo := Fin 8192
/-- An index ID (Table 0.2). -/
abbrev IndexNo := Fin 64
/-- A table ID (Table 0.2). -/
abbrev TableNo := Fin 256

end Sys2Proof
end

