-- ==== Sys2Proof/Syntax.lean ====
section
/-! DEFINITION. The commands of the block: one constructor per row of spec/opcode_table.json, with the operands the model gives each row
(the table gives none; INVENTORY.md, Instructions). -/

namespace Sys2Proof

/-- The header of a submission entry as it was fetched (Table 12.12), with the function and queue pair it came from. -/
structure Hdr where
  fn       : Fn
  qp       : QpNo
  /-- byte 2: bit 0 INDIRECT, bit 1 BARRIER -/
  flags    : Byte
  /-- byte 3: partition in bits [3:0] -/
  part     : Byte
  tag      : W32
  paramLen : W32
  /-- bytes 12 to 15, reserved -/
  rsv      : W32
  /-- the run of the queue pair it was fetched in: the porch sets it, whatever the sender gives -/
  run      : W32
  deriving DecidableEq, Repr

/-- A die of the cellar: controller, channel, die (Table 11.1). -/
structure DieId where
  ctrl : CtrlNo
  chan : Fin 16
  die  : Fin 4
  deriving DecidableEq, Repr

/-- What a launch leaves for one request when it ends (R225, R196): the FP32 words its program produced.
`logits` for a decode or a final prefill chunk, `vector` for an embed, `pairs` and `heads` for the candidates of a group in order. -/
structure LaunchOut where
  slot   : SlotNo
  logits : List W32
  vector : List W32
  pairs  : List W32
  heads  : List W32
  deriving DecidableEq, Repr

/-- The four resources a partition's regulators guard (R130). -/
inductive Resource where
  | hbm | attic | cellar | tirtar
  deriving DecidableEq, Repr

/-- How a flash operation ended (R281, R282): the step of Table 11.3 that gave the data, or a failed program or erase. -/
inductive FlashResult where
  /-- a read decoded at `step` 1 to 5, with the largest raw bit-error count of its four codewords -/
  | read (step : Fin 6) (errors : W16)
  /-- a page program that succeeded or failed -/
  | program (ok : Bool)
  /-- an erase that succeeded or failed -/
  | erase (ok : Bool)
  deriving DecidableEq, Repr

/-- Why a lane fails (R329). -/
inductive LaneReason where
  | lostLock | fecLimit | eighthSend
  deriving DecidableEq, Repr

/-- The units of Table 15.2, in table order: the code of a unit is its position counted from 1 (Table 15.13). -/
inductive FaultUnit where
  | engine | sram | sequencer | sfu | hallway | hbm | attic | controlSram | control | textEngine
  | mergeUnit | scanUnit | cellar | tirtar | pcie | powerStage
  deriving DecidableEq, Repr

/-- The region whose content a class 2 fault loses: the rows of Table 15.4. -/
inductive LostRegion where
  | kvPage | landing | sharedBase | imageFrame | textTable | directory | pantry | tableRow | work | replayCopy | mirror | lent
  deriving DecidableEq, Repr

/-- A detection report to the fault logic (Tables 15.2 and 15.13). -/
structure FaultReport where
  unit     : FaultUnit
  /-- MECH of Table 15.13 -/
  mech     : Fin 8
  /-- the physical core, where the unit is part of a core -/
  core     : CoreNo
  /-- the engine of that core -/
  engine   : Fin 4
  /-- true: a column, false: a row -/
  isCol    : Bool
  line     : BitVec 7
  /-- SRAM bank, accumulator banks counted from 48 -/
  bank     : BitVec 6
  /-- stack and channel, package, controller or port, by unit -/
  inst     : W16
  /-- device address or the unit's own coordinates -/
  addr     : W64
  /-- the partitions hit, where the unit belongs to no core: bit p for partition p -/
  parts    : BitVec 16
  /-- class 2: the region hit -/
  region   : LostRegion
  /-- the request whose content is hit, where the report names one -/
  slot     : SlotNo
  /-- the KV page of that request, layer group and page number; a table and its row in `addr`; a landing place in `page`; the copy of a replay
  record in `page`, 0 or 1; a mirror's source in `group`, its reference in `addr` -/
  group    : W16
  page     : W16
  /-- text engine: the step's logits were lost; HBM and attic: a whole channel is lost; replay record: both copies are lost -/
  lost     : Bool
  deriving DecidableEq, Repr

/-- The header fields of a fabric message that its receiver acts on (Table 14.3). -/
structure MsgHdr where
  src     : W16
  msgId   : W32
  /-- bit 0 REPLY, bit 1 RESYNC, bit 2 ERROR -/
  flags   : Byte
  /-- lease window, table ID, index ID or request reference -/
  context : W64
  deriving DecidableEq, Repr

/-- One filter term (R156). -/
structure FilterTerm where
  mask  : W64
  value : W64
  deriving DecidableEq, Repr

/-- A candidate as it travels between scan units, the merge unit and shard members (R138, R346). -/
structure Cand where
  id      : W64
  version : W64
  tag     : W64
  score   : W32
  /-- the member's fabric address; 0 for the own index -/
  member  : W16
  deriving DecidableEq, Repr

/-- One occurrence of a gather (R177). -/
structure Occ where
  index  : W64
  weight : W32
  deriving DecidableEq, Repr

/-- One entry of a table.write (Table 13.10): row, MODE (0 replace, 1 add), WIDTH FP32 values. -/
structure WriteEntry where
  row    : W32
  mode   : Byte
  values : List W32
  deriving DecidableEq, Repr

/-- One entry of a neighbour's route table (R337). -/
structure RouteAdv where
  dest : W16
  hops : BitVec 6
  deriving DecidableEq, Repr

/-- A shard group announced in a routing update (R346): index, GROUP, DIM, METRIC of the announcing module. -/
structure GroupAdv where
  member : W16
  index  : IndexNo
  group  : BitVec 12
  dim    : W16
  metric : Byte
  deriving DecidableEq, Repr

/-- The state of a request that a mirror or a migration carries (R350, R353). -/
structure MirrorDesc where
  part     : PartNo
  tenant   : W16
  modelId  : W64
  tag      : W32
  isAsk    : Bool
  grammarEn : Bool
  grammar  : BitVec 6
  seed     : W64
  /-- Table 13.4 and Table 13.5 -/
  sampling : Bytes
  stop     : Bytes
  prompt   : List W32
  /-- emitted tokens and the porch's byte count -/
  tokens   : List W32
  bytes    : W32
  deriving DecidableEq, Repr

/-- The commands. Each constructor is one row of spec/opcode_table.json; LAWS.json maps it to the row's mnemonic. -/
inductive Instr where
  -- porch (R302 to R314, R437)
  | sqTailDoorbell (fn : Fn) (qp : QpNo) (v : W32)
  | cqHeadDoorbell (fn : Fn) (qp : QpNo) (v : W32)
  | orHeadDoorbell (fn : Fn) (qp : QpNo) (v : W32)
  | qpEnable (fn : Fn) (qp : QpNo) (v : W32)
  | qpDisable (fn : Fn) (qp : QpNo) (v : W32)
  | qpDrainEnd (fn : Fn) (qp : QpNo)
  | ringDmaFailure (fn : Fn) (qp : QpNo)
  | commandFetch (fn : Fn) (qp : QpNo)
  | functionLevelReset (fn : Fn)
  | linkLoss
  -- start (R401 to R416)
  | perstAssert
  | resetRelease (romOk : Bool) (readable : Bool) (buttonHeld : Bool)
  | bootStepEnd (ok : Bool) (units : W64) (aon : W32)
  -- Zhevel commands: header and parameter block (Table 13.3)
  | identify (h : Hdr) (pb : Bytes)
  | tenantLoad (h : Hdr) (pb : Bytes)
  | tenantUnload (h : Hdr) (pb : Bytes)
  | baseUnload (h : Hdr) (pb : Bytes)
  | baseLoad (h : Hdr) (pb : Bytes)
  | tenantInfo (h : Hdr) (pb : Bytes)
  | ask (h : Hdr) (pb : Bytes)
  | generate (h : Hdr) (pb : Bytes)
  | embed (h : Hdr) (pb : Bytes)
  | search (h : Hdr) (pb : Bytes)
  | rerank (h : Hdr) (pb : Bytes)
  | cancel (h : Hdr) (pb : Bytes)
  | step (h : Hdr) (pb : Bytes)
  | indexCreate (h : Hdr) (pb : Bytes)
  | indexModify (h : Hdr) (pb : Bytes)
  | indexDestroy (h : Hdr) (pb : Bytes)
  | indexInsert (h : Hdr) (pb : Bytes)
  | indexDelete (h : Hdr) (pb : Bytes)
  | indexMerge (h : Hdr) (pb : Bytes)
  | indexInfo (h : Hdr) (pb : Bytes)
  | indexLoad (h : Hdr) (pb : Bytes)
  | passageGet (h : Hdr) (pb : Bytes)
  | tableCreate (h : Hdr) (pb : Bytes)
  | tableDestroy (h : Hdr) (pb : Bytes)
  | tableWrite (h : Hdr) (pb : Bytes)
  | tableGather (h : Hdr) (pb : Bytes)
  | tableInfo (h : Hdr) (pb : Bytes)
  | vocabLoad (h : Hdr) (pb : Bytes)
  | vocabUnload (h : Hdr) (pb : Bytes)
  | grammarLoad (h : Hdr) (pb : Bytes)
  | grammarUnload (h : Hdr) (pb : Bytes)
  | tokenize (h : Hdr) (pb : Bytes)
  | detokenize (h : Hdr) (pb : Bytes)
  | partSet (h : Hdr) (pb : Bytes)
  | partStats (h : Hdr) (pb : Bytes)
  | partRegulate (h : Hdr) (pb : Bytes)
  | selftest (h : Hdr) (pb : Bytes)
  | selftestPieceEnd (pass : Bool) (engine : Fin 4) (isCol : Bool) (line : BitVec 7)
  | calibrate (h : Hdr) (pb : Bytes)
  | maintPolicy (h : Hdr) (pb : Bytes)
  | evacuate (h : Hdr) (pb : Bytes)
  | fabStatus (h : Hdr) (pb : Bytes)
  | fabLeaseAcquire (h : Hdr) (pb : Bytes)
  | fabLeaseRelease (h : Hdr) (pb : Bytes)
  | fabLeaseOffer (h : Hdr) (pb : Bytes)
  | fabLeaseWithdraw (h : Hdr) (pb : Bytes)
  | fabBuddy (h : Hdr) (pb : Bytes)
  | fwStage (h : Hdr) (pb : Bytes)
  | fwCommit (h : Hdr) (pb : Bytes)
  | attest (h : Hdr) (pb : Bytes)
  | bbxRead (h : Hdr) (pb : Bytes)
  | bbxAck (h : Hdr) (pb : Bytes)
  | sensors (h : Hdr) (pb : Bytes)
  | acctRead (h : Hdr) (pb : Bytes)
  | acctReadClear (h : Hdr) (pb : Bytes)
  -- retrieval events (R144 to R168)
  | scanPlanDispatch (ctrl : CtrlNo)
  | scanPageScored (adm : W64) (ctrl : CtrlNo) (page : W32) (readable : Bool)
  | passageFetchDone (slot : SlotNo) (readable : Bool)
  | mutationPublish (index : IndexNo)
  | mergeCommit (index : IndexNo) (bucket : BitVec 28)
  | generationRetire (index : IndexNo) (bucket : BitVec 28)
  | hotReplicaCommit (index : IndexNo) (bucket : BitVec 28)
  -- launches, landing, pager, regulators (R113 to R133, R225, R257)
  | launchStart (part : PartNo)
  | launchEnd (part : PartNo) (cycles : W64) (outs : List LaunchOut)
  | grammarMaskReady (slot : SlotNo)
  | layerLanded (part : PartNo) (place : Fin 64) (crcOk : Bool)
  | pagerTransferDone (part : PartNo)
  | regulatedTransferStart (part : PartNo) (res : Resource)
  | slowdownWindowClose (part : PartNo) (obs : W64) (int : W64)
  | preemptSave (core : CoreNo)
  | preemptWatchdog (core : CoreNo)
  | sequencerWatchdog (core : CoreNo)
  -- core programs (R33 to R99)
  | xferCopy (core : CoreNo) (w : Insn)
  | xferDecompress (core : CoreNo) (w : Insn)
  | xferZeroFill (core : CoreNo) (w : Insn)
  | xferComplete (core : CoreNo)
  | mmaPass (core : CoreNo) (w : Insn)
  | activityDecay (core : CoreNo) (engine : Fin 4)
  | sfuFused (core : CoreNo) (w : Insn)
  | sfuStatsFirst (core : CoreNo) (w : Insn)
  | sfuStatsFeed (core : CoreNo) (w : Insn)
  | sfuStatsFinish (core : CoreNo) (w : Insn)
  | vecAdd (core : CoreNo) (w : Insn)
  | vecSubtract (core : CoreNo) (w : Insn)
  | vecMultiply (core : CoreNo) (w : Insn)
  | vecMaximum (core : CoreNo) (w : Insn)
  | vecMinimum (core : CoreNo) (w : Insn)
  | vecConvert (core : CoreNo) (w : Insn)
  | vecAbsolute (core : CoreNo) (w : Insn)
  | vecSelect (core : CoreNo) (w : Insn)
  | selPass (core : CoreNo) (w : Insn)
  | selMerge (core : CoreNo) (w : Insn)
  | syncSignal (core : CoreNo) (w : Insn)
  | signalTakeEffect (core : CoreNo)
  | syncWait (core : CoreNo) (w : Insn)
  | syncBarrier (core : CoreNo) (w : Insn)
  | syncFence (core : CoreNo) (w : Insn)
  | nop (core : CoreNo) (w : Insn)
  | loadi (core : CoreNo) (w : Insn)
  | loadp (core : CoreNo) (w : Insn)
  | addi (core : CoreNo) (w : Insn)
  | ctrlAdd (core : CoreNo) (w : Insn)
  | muli (core : CoreNo) (w : Insn)
  | loop (core : CoreNo) (w : Insn)
  | loopr (core : CoreNo) (w : Insn)
  | branch (core : CoreNo) (w : Insn)
  | setseg (core : CoreNo) (w : Insn)
  | endProgram (core : CoreNo) (w : Insn)
  | mark (core : CoreNo) (w : Insn)
  | droopStretch (core : CoreNo)
  | stretchExit (core : CoreNo)
  -- tables (R178 to R189)
  | gatherComplete (gid : W32)
  | countHalving (table : TableNo)
  | writeEntryApply (table : TableNo)
  -- cellar (R269 to R296)
  | flashOpComplete (die : DieId) (r : FlashResult)
  | patrolRead (die : DieId)
  | activityClaim (aid : W32)
  | blockErase (die : DieId) (block : W16)
  | dieFail (die : DieId)
  | controllerLost (ctrl : CtrlNo)
  -- faults (R357 to R371)
  | faultCorrected (f : FaultReport)
  | faultStep (f : FaultReport)
  | faultPage (f : FaultReport)
  | faultFront (f : FaultReport)
  | faultBeyondSparing (f : FaultReport)
  | hbmParityRebuildDone (stack : Fin 6)
  -- power and clocks (R380 to R400)
  | powerSample (mv : W32) (mw : W32)
  | phaseFail (phase : Fin 18)
  | thermalSample (junctions : List W16) (hbm : List W16) (packages : List W16)
  | thermalHoldExpiry
  | modEnAssert
  | modEnDeassert
  | domainSleep (dom : Fin 57)
  | domainWakeDone (dom : Fin 57)
  | pllLock (core : CoreNo)
  | inrushWindow (ramp : Bool)
  -- Tirtar links and routes (R329 to R340)
  | portUp (port : PortNo) (peer : W16) (serial : W64)
  | linkAuthDone (port : PortNo) (ok : Bool) (digest : BitVec 128)
  | laneFail (lane : Fin 18) (reason : LaneReason)
  | flitReceive (port : PortNo) (flit : Bytes)
  | nakReceive (port : PortNo) (ack : BitVec 12)
  | addressProbe (port : PortNo) (cand : W16) (serial : W64)
  | addressProbeTimeout
  | routingUpdate (port : PortNo) (routes : List RouteAdv) (groups : List GroupAdv)
  | routeAdvertiseTimer
  | routeExpire (dest : W16)
  | peerDownNotice (reporter : W16) (lost : W16) (electricalIdle : Bool)
  | departingNotice (src : W16)
  | messageRetryTimeout (dest : W16) (cls : Byte) (msgId : W32)
  -- Tirtar messages (R341 to R353)
  | remoteMemoryRead (m : MsgHdr) (offset : W64) (units : Fin 5)
  | remoteMemoryWrite (m : MsgHdr) (offset : W64) (data : Bytes)
  | leaseOfferMsg (m : MsgHdr) (gib : Byte)
  | leaseGrantMsg (m : MsgHdr) (gib : Byte)
  | leaseWithdrawalNotice (m : MsgHdr)
  | leaseReleaseMsg (m : MsgHdr)
  | gatherRequestMsg (m : MsgHdr) (ownerPools : Bool) (pool : Fin 3) (indices : List W64) (bags : List (List Occ))
  | gatherReplyMsg (m : MsgHdr) (shard : Fin 64) (rows : List (W64 × List W32)) (sums : List (List W32 × W32))
  | tableUpdateMsg (m : MsgHdr) (entries : List WriteEntry)
  | replicaRequestMsg (m : MsgHdr) (row : W32)
  | replicaInstallMsg (m : MsgHdr) (row : W32) (values : List W32)
  | replicaDiscardMsg (m : MsgHdr) (row : W32)
  | shardSearchMsg (m : MsgHdr) (query : List W32) (k : Byte) (p : W16) (w : Byte) (filter : List FilterTerm)
  | shardSearchReply (m : MsgHdr) (cands : List Cand) (rounds : Byte) (snapshot : W64)
  | textFetchMsg (m : MsgHdr) (id : W64) (version : W64) (text : Bytes)
  | holdReleaseMsg (m : MsgHdr)
  | mirrorOpen (m : MsgHdr) (d : MirrorDesc)
  | mirrorUpdate (m : MsgHdr) (tokens : List W32) (bytes : W32)
  | mirrorClose (m : MsgHdr)
  | migrationMsg (m : MsgHdr) (d : MirrorDesc)
  -- module service and management port (R424 to R434)
  | serviceButtonPress (ms : W32)
  | removalComplete
  | latchOpen
  | latchClose
  | alertResponseRead
  | mctpBbxRead (start : W64) (max : W32)
  | pldmMonitoring
  | pldmFru
  | pldmFirmwareUpdate (image : Bytes)
  | spdmGetVersion
  | spdmGetCapabilities
  | spdmNegotiateAlgorithms
  | spdmGetDigests
  | spdmGetCertificate (slot : Byte)
  | spdmChallenge (slot : Byte) (nonce : BitVec 256)
  | spdmGetMeasurements (index : Byte) (nonce : BitVec 256)
  | spdmUnsupportedRequest (code : Byte)
  -- register rows (R17)
  | pwrDroopCfgWrite (v : W32)
  | memPagerCfgWrite (part : PartNo) (v : W32)
  | schSchedCfgWrite (part : PartNo) (v : W32)
  | retHotCfgWrite (v : W32)
  | tblHotCfgWrite (v : W32)
  | celGcCfgWrite (v : W32)
  | celMaintCfgWrite (v : W32)
  | fabShardGrpWrite (index : IndexNo) (v : W32)
  | bbxTimeHiWrite (v : W32)
  | pwrCapCfgWrite (v : W32)
  | pwrThermCfgWrite (v : W32)
  | secImgPolicyWrite (v : W32)
  | secImgKeyWrite (slot : Fin 16) (word : Fin 16) (v : W32)
  | retOvrClear (index : IndexNo) (v : W32)
  | tblReclaimWaitClear (v : W32)
  | txtSampleAnomClear (v : W32)
  | celUncorrClear (v : W32)
  | bbxSealedLostClear (v : W32)
  | retSeqLoRead (index : IndexNo)
  | schStepLoRead (part : PartNo)
  | bbxSeqLoRead
  | regWrite (fn : Fn) (offset : W32) (width : BitVec 8) (v : W64)
  -- power presence, configuration space and later rows
  | powerOn (mv : W32)
  | alwaysOnPowerLoss
  | configRequest (vfs : Option (Fin 17))
  | portRetrainDone (port : PortNo)
  | cellarChannelLost (ctrl : CtrlNo) (chan : Fin 16)
  | tableUpdateAck (m : MsgHdr) (applied : W32)
  | replicaInstallAck (m : MsgHdr) (row : W32)
  | mirrorErrorReply (m : MsgHdr)
  | passLastWrite (core : CoreNo) (engine : Fin 4)
  | sfuVecSelComplete (core : CoreNo)
  deriving DecidableEq, Repr

end Sys2Proof
end

