-- ==== Sys2Proof/Decode.lean ====
section
/-! DEFINITION. The command a table word spells. No row of spec/opcode_table.json gives bits ("fields" is empty in every row and no row has
"fixed"), so no word spells a command. -/

namespace Sys2Proof

/-- The rows of the table that give bits: none. -/
def bitRows : List (Nat × Nat × Instr) := []

/-- The command of the first row whose length and bits the word has. -/
def rowOf (nbits w : Nat) : List (Nat × Nat × Instr) → Option Instr
  | [] => none
  | (n, v, i) :: l => if n = nbits && v = w then some i else rowOf nbits w l

/-- The command a word spells by the table's bits: `none` for every word. -/
def decodeTableWord (nbits w : Nat) : Option Instr := rowOf nbits w bitRows

end Sys2Proof
end

