-- ==== Sys2Proof/Config.lean ====
section
/-! DEFINITION. What an implementation fixes and what the spec leaves open: the variant's figures, and the free values (constants with no body). -/

namespace Sys2Proof

/-- The two orderable variants (R4, R5). -/
inductive Variant where
  | f48 | f96
  deriving DecidableEq, Repr

namespace Config

/-- A fresh free number: nothing is known of its value. `ctr` is State.freeCtr, which every use advances. -/
opaque freeNat : Nat → Nat

/-- The bits the silicon revision gives an SFU function (Table 3.3 code) at an input, where R442 leaves them to the revision. -/
opaque sfuBits : Nat → W32 → W32

/-- The element code a NaN takes in an MX block of FP6 or FP4: the block's scale is 0xFF (Table 2.2), the element's own code is not stated. -/
opaque mxNan : Nat → Nat

/-- SM2 verification (R410, GM/T 0009, default identifier): public key x ‖ y, digest, signature r ‖ s. The spec names the standard and does not restate it. -/
opaque sm2Verify : BitVec 512 → BitVec 256 → BitVec 512 → Bool

/-- The device-identity SM2 signature over a digest; the number is the random choice a signature makes (R417, R421). -/
opaque sm2Sign : BitVec 256 → Nat → BitVec 512

/-- Does the certificate verify under the Yeholt root with the code-signing usage (R411), and which key does it carry? -/
opaque certKey : Bytes → Option (BitVec 512)

/-- The device certificate chain of SPDM slot 0 (R417). -/
opaque certChain : Bytes

/-- VARIANT code (R5). -/
def variantCode : Variant → BitVec 4
  | .f48 => 1
  | .f96 => 2

/-- CEL_DATA_PAGES (R270). -/
def dataPages : Variant → Nat
  | .f48 => 366210880
  | .f96 => 732421872

/-- One-bit buffer blocks per plane (Table 11.1). -/
def oneBitPerPlane : Variant → Nat
  | .f48 => 50
  | .f96 => 100

/-- Good blocks per plane at shipment, the least the spec allows (Table 11.1). -/
def goodPerPlane : Variant → Nat
  | .f48 => 1224
  | .f96 => 2448

/-- Good blocks per plane below which a die is failed (R283). -/
def goodMin : Variant → Nat
  | .f48 => 1200
  | .f96 => 2400

/-- Bytes of the system area (Table 11.2, R368). -/
def systemBytes : Variant → Nat
  | .f48 => 200000000000
  | .f96 => 400000000000

/-- Bytes of the system area that the translation maps, their journals and the firmware boot region take (R368): the spec gives no figure. -/
opaque sysShared : Fin 100000000000

/-- MEM_HBM_GRAN (R105). -/
def hbmGran : Nat := 193116
/-- MEM_ATT_GRAN (R105). -/
def attGran : Nat := 480640
/-- Granules the replay journal and the mirror region take from the attic (Table 5.4, R349): 2,560 MiB and 2,304 MiB. -/
def journalGran : Nat := 1280
def mirrorGran : Nat := 1152
/-- Bytes of a granule (R105). -/
def granule : Nat := 2097152

end Config
end Sys2Proof
end

