-- ==== Sys2Proof/Machine/KMap.lean ====
section
/-! DEFINITION. Finite maps from numbers to data as lists with strictly rising keys: one canonical form, so equal maps are equal data. -/

namespace Sys2Proof.Machine

/-- A finite map: (key, value) pairs, keys strictly rising. -/
abbrev KMap (α : Type) := List (Nat × α)

/-- The value at `k`, if there is one. -/
def KMap.get? {α : Type} : KMap α → Nat → Option α
  | [], _ => none
  | (j, v) :: m, k => if j = k then some v else KMap.get? m k

/-- The value at `k`, or `d`. -/
def KMap.getD {α : Type} (m : KMap α) (k : Nat) (d : α) : α :=
  match KMap.get? m k with
  | some v => v
  | none => d

/-- Is there a value at `k`? -/
def KMap.has {α : Type} (m : KMap α) (k : Nat) : Bool :=
  match KMap.get? m k with
  | some _ => true
  | none => false

/-- The map with `v` at `k`. -/
def KMap.set {α : Type} : KMap α → Nat → α → KMap α
  | [], k, v => [(k, v)]
  | (j, u) :: m, k, v =>
    if k < j then (k, v) :: (j, u) :: m
    else if j = k then (k, v) :: m
    else (j, u) :: KMap.set m k v

/-- The map without `k`. -/
def KMap.erase {α : Type} : KMap α → Nat → KMap α
  | [], _ => []
  | (j, u) :: m, k => if j = k then m else (j, u) :: KMap.erase m k

/-- The map with `v` at `k`, where a value equal to `d` is not listed. -/
def KMap.setD {α : Type} [DecidableEq α] (m : KMap α) (k : Nat) (d v : α) : KMap α :=
  if v = d then KMap.erase m k else KMap.set m k v

/-- The map with the value at `k` changed by `f`, from `d` where nothing is listed. -/
def KMap.modD {α : Type} [DecidableEq α] (m : KMap α) (k : Nat) (d : α) (f : α → α) : KMap α :=
  KMap.setD m k d (f (KMap.getD m k d))

/-- The map with the value at `k`, if any, changed by `f`. -/
def KMap.mod {α : Type} (m : KMap α) (k : Nat) (f : α → α) : KMap α :=
  match KMap.get? m k with
  | some v => KMap.set m k (f v)
  | none => m

/-- Every listed value changed by `f`. -/
def KMap.mapAll {α : Type} (m : KMap α) (f : Nat → α → α) : KMap α :=
  List.map (fun kv => (kv.1, f kv.1 kv.2)) m

/-- The keys, rising. -/
def KMap.keys {α : Type} (m : KMap α) : List Nat := List.map Prod.fst m

/-- The values, in key order. -/
def KMap.vals {α : Type} (m : KMap α) : List α := List.map Prod.snd m

/-- The keys rise strictly from above `lo`. -/
def KMap.sortedFrom {α : Type} : Nat → KMap α → Bool
  | _, [] => true
  | lo, (j, _) :: m => decide (lo ≤ j) && KMap.sortedFrom (j + 1) m

/-- The canonical form: keys strictly rising. -/
def KMap.wf {α : Type} (m : KMap α) : Bool := KMap.sortedFrom 0 m

/-- The smallest number at or above `lo` that is no key, looking at most `fuel` numbers ahead. -/
def KMap.firstFree {α : Type} (m : KMap α) : Nat → Nat → Option Nat
  | _, 0 => none
  | lo, fuel + 1 => if KMap.has m lo then KMap.firstFree m (lo + 1) fuel else some lo

end Sys2Proof.Machine
end

