-- ==== Sys2Proof/Machine/State.lean ====
section
/-! DEFINITION. The state of the block: every register, ring, table, buffer, counter, mode and pin that spec/ gives the FY-4800, as plain data. -/

namespace Sys2Proof.Machine

/-- Memory by byte: (address, byte) pairs, addresses strictly rising, no entry equal to what an unlisted address reads as (0). -/
abbrev Mem := List Host.Cell

/-! ## Porch -/

/-- A text record as it is written to an output ring (Table 12.14), less its phase bit. -/
structure TextRec where
  handle  : W32
  tag     : W32
  byteOff : W32
  /-- bit 1 MIGRATED, bit 2 REPLAYED -/
  flags   : Byte
  text    : Bytes
  /-- the slot whose porch count the record adds to when it becomes visible (R267) -/
  slot    : Nat
  deriving DecidableEq, Repr

/-- A completion entry (Table 12.13), less SQ_HEAD, QP and phase, which the write adds. -/
structure Compl where
  tag    : W32
  status : W16
  detail : W16
  info   : Byte
  r0 : W32
  r1 : W32
  r2 : W32
  r3 : W32
  deriving DecidableEq, Repr

/-- The registers and running state of one queue pair (Tables 12.8 to 12.11, R302 to R312). -/
structure Qp where
  sqb : W64
  cqb : W64
  orb : W64
  en  : Bool
  orLog2 : BitVec 5
  cqLog2 : BitVec 5
  sqLog2 : BitVec 5
  orVec  : Byte
  cqVec  : Byte
  orCoal : BitVec 4
  cqCoal : BitVec 4
  active  : Bool
  orSpill : Bool
  badCfg  : Bool
  badDb   : Bool
  badDma  : Bool
  stopped : Bool
  /-- bases and sizes latched at the enable (R302) -/
  runSqb : W64
  runCqb : W64
  runOrb : W64
  runSq  : Nat
  runCq  : Nat
  runOr  : Nat
  /-- ring positions, counted without wrap from the enable -/
  sqHead : Nat
  sqTail : Nat
  cqHead : Nat
  cqTail : Nat
  orHead : Nat
  orTail : Nat
  /-- commands fetched and still without their completion (R307) -/
  inFlight : Nat
  /-- the overflow store holds 2 MiB of HBM (R302) -/
  store    : Bool
  /-- records waiting in the overflow store, oldest first (R311) -/
  overflow : List TextRec
  /-- completions that wait for a request's records to be visible (R28, R241, R311): slot, queue pair that takes the entry, entry -/
  held     : List (Nat × Nat × Compl)
  /-- enables so far: a command of an earlier run writes nothing (the model's own) -/
  runs  : W32
  /-- entries made visible since the last interrupt (R312) -/
  cqNew : Nat
  orNew : Nat
  deriving DecidableEq, Repr

/-- A queue pair after reset (Tables 12.8 to 12.11). -/
def Qp.reset : Qp :=
  { sqb := 0, cqb := 0, orb := 0, en := false, orLog2 := 6, cqLog2 := 4, sqLog2 := 4, orVec := 0, cqVec := 0, orCoal := 0,
    cqCoal := 0, active := false, orSpill := false, badCfg := false, badDb := false, badDma := false, stopped := false,
    runSqb := 0, runCqb := 0, runOrb := 0, runSq := 0, runCq := 0, runOr := 0, sqHead := 0, sqTail := 0, cqHead := 0,
    cqTail := 0, orHead := 0, orTail := 0, inFlight := 0, store := false, overflow := [], held := [], runs := 0, cqNew := 0, orNew := 0 }

/-- A command that was fetched and waits (R319, R372): opcode, header, parameters. -/
structure Cmd where
  op : W16
  h  : Hdr
  pb : Bytes
  deriving DecidableEq, Repr

/-- The porch (12_host_interface.md). -/
structure Porch where
  /-- queue pairs by 64 × function + number -/
  qps : KMap Qp
  /-- commands waiting for a change of an object they name, in admission order (R319) -/
  waiting : List Cmd
  /-- MSI-X messages sent, by 2,048 × function + vector (R312) -/
  msix : KMap Nat
  /-- VF enables: bit n − 1 for VF n (R297, R349) -/
  vfs : BitVec 16
  linkUp : Bool
  /-- data returned by the last register read -/
  readData : W64
  /-- configuration requests answered with Request Retry Status, and normally (R408) -/
  cfgRetry : Nat
  cfgDone  : Nat
  deriving DecidableEq, Repr

/-! ## Requests, partitions, steps -/

/-- What a slot's request is (R220). -/
inductive ReqKind where
  | ask | generate | embed | search | rerank
  deriving DecidableEq, Repr

/-- STATE of Table 9.2. -/
inductive ReqState where
  | free | front | prefill | decode | pageWait | ended | rebuilding
  deriving DecidableEq, Repr

/-- A KV page of a sequence: its layer group, its number in the group's list, its page-table entry (Table 5.6), and whether its content is lost (R128, R365). -/
structure KvPage where
  group : Nat
  no    : Nat
  entry : W64
  lost  : Bool
  deriving DecidableEq, Repr

/-- A passage of stage 6 to 8: the candidate, its text and its two tokenisations, the scores it got. -/
structure Passage where
  cand    : Cand
  fetched : Bool
  dropped : Bool
  text    : Bytes
  rTok    : List W32
  tTok    : List W32
  logit   : Option W32
  head    : Option W32
  score   : W32
  deriving DecidableEq, Repr

/-- A request and its replay record (Tables 9.2 and 15.3): one entry of the request table. -/
structure Req where
  gen    : BitVec 19
  kind   : ReqKind
  state  : ReqState
  /-- stage of Table 1.2 -/
  stage  : Nat
  fn     : Fn
  qp     : QpNo
  tag    : W32
  part   : PartNo
  raw    : Bool
  params : Bytes
  tenant   : W16
  index    : Nat
  embedder : W16
  reranker : W16
  head     : W16
  grammar  : Option Nat
  /-- snapshot S (R23) and admission number (R146) -/
  snap : W64
  adm  : W64
  /-- `RET_HOT_CFG` as it was at admission (R170), and a margin overrun counted for the search (R155) -/
  hot     : W32
  overran : Bool
  /-- texts after any cut -/
  query : Bytes
  instr : Bytes
  qTok  : List W32
  rTok  : List W32
  vec   : List W32
  passages : List Passage
  /-- final rank order: positions in `passages` (R199) -/
  final : List Nat
  rounds : Nat
  report : Bytes
  /-- feature vectors of stage 7 by feature slot: one per bag (R178); a gather had an unreachable occurrence (R198) -/
  feats : List (Nat × List (List W32))
  headDegraded : Bool
  /-- result words 1 to 3 of an embed, search or rerank -/
  res : List W32
  prompt : List W32
  prefilled : Nat
  emitted : List W32
  /-- stop-string buffer (R265) and bytes handed to the porch, bytes visible (R267) -/
  buf : Bytes
  issued  : Nat
  visible : Nat
  gState : W16
  gStack : List W16
  maskReady : Bool
  /-- first OK code that arose (R26) -/
  okCode : W16
  replayed : Bool
  migrated : Bool
  throttled : Bool
  degraded : Bool
  cancelled : Bool
  /-- how the request ended: status, DETAIL -/
  fin : Option (W16 × W16)
  /-- its completion is written, or is never to be written -/
  closed : Bool
  waitAge : Nat
  pageAge : Nat
  lastStep : W64
  placed : Bool
  /-- it waits for a rebuild item (R364) -/
  rebuild : Bool
  /-- committed count C (R363) -/
  committed : Nat
  pages : List KvPage
  /-- PHASE and UPDATE of both copies, and their validity (R360, R361) -/
  phase : Nat
  update : W64
  copyA : Bool
  copyB : Bool
  step  : W64
  /-- shard members and their snapshots (R348) -/
  members : List (W16 × W64)
  waitMembers : List W16
  /-- its mirror at the buddy is open (R350); it was told ERROR -/
  mirrored : Bool
  mirrorBad : Bool
  deriving DecidableEq, Repr

/-- One item of a step (Table 9.3). -/
inductive ItemKind where
  | decode | prefill | embed | pairs | heads | rebuild | repair
  deriving DecidableEq, Repr

structure Item where
  kind   : ItemKind
  slot   : Nat
  seqs   : Nat
  tokens : Nat
  /-- position of the item's first token, or of its first candidate -/
  pos    : Nat
  deriving DecidableEq, Repr

/-- A launch of a step (Table 4.16 launch kinds, R218): the model whose program runs, the layer it reads, its items. -/
structure Launch where
  kind    : Nat
  model   : W64
  layer   : Nat
  slots   : List Nat
  started : Bool
  deriving DecidableEq, Repr

/-- The step that runs on a partition (R225, R229). -/
structure StepRun where
  number   : W64
  items    : List Item
  launches : List Launch
  outs     : List LaunchOut
  est      : Nat
  cycles   : Nat
  /-- the raw packet it serves: the command, entries run, entries skipped -/
  packet   : Option (Cmd × Nat × Nat)
  empty    : Bool
  deriving DecidableEq, Repr

/-- One slot of a landing (R113, R114): the model and layer it holds or receives. -/
structure LandSlot where
  model  : W64
  layer  : Nat
  landed : Bool
  /-- a frame of it failed its CRC and was fetched once more (R112) -/
  retried : Bool
  deriving DecidableEq, Repr

/-- A frame of a KV pool or spill, by its first 4 KiB unit in its tier's window: its units, reference count and step of last use (05_memory_tiers.md, KV pages).
`copy`: the spill or lease frame that holds an identical copy (CLEAN of Table 5.6); `split`: the step for which private copies were last taken of it (R121). -/
structure Frame where
  units : Nat
  refs  : Nat
  last  : W64
  copy  : Option Nat
  split : Option W64
  deriving DecidableEq, Repr

/-- A token-bucket regulator (Table 5.8): EN, BORROW, SHARE, DEPTH and the bucket's tokens (R131, R132). -/
structure Regulator where
  en     : Bool
  borrow : Bool
  share  : BitVec 11
  depth  : W16
  tokens : Int
  deriving DecidableEq, Repr

def Regulator.reset : Regulator := { en := false, borrow := true, share := 0x040, depth := 0x0100, tokens := 0x0100 }

/-- An accounting record (Table 9.10), every counter 64 bits. -/
structure Acct where
  qwaitSteps : W64
  qwaitUs    : W64
  pageWait   : W64
  preempt    : W64
  displaced  : W64
  tokensIn   : W64
  tokensOut  : W64
  rebuild    : W64
  searches   : W64
  cellar     : W64
  throttle   : W64
  requests   : W64
  deriving DecidableEq, Repr

def Acct.zero : Acct :=
  { qwaitSteps := 0, qwaitUs := 0, pageWait := 0, preempt := 0, displaced := 0, tokensIn := 0, tokensOut := 0, rebuild := 0,
    searches := 0, cellar := 0, throttle := 0, requests := 0 }

/-- A pager transfer in flight (R124 to R126, R129): fetch or eviction of a sequence's pages, or their move from a lease to the attic. -/
structure PagerOp where
  fetch : Bool
  toAttic : Bool
  slot  : Nat
  cls   : Nat
  /-- pages of a released request, freed at the boundary after the transfer -/
  orphan : List KvPage
  deriving DecidableEq, Repr

/-- What a transfer that waits on a regulator is (R131): the pager's, a layer's, a scan plan's reads on a controller,
an XFER of a core, a gather's row reads, the passage-store reads of a request's stage 6. -/
inductive TransferKey where
  | pager | layer (model : W64) (layer : Nat) | scan (adm : W64) (ctrl : Nat) | xfer (core : Nat) | gather (gid : W32) | fetch (slot : Nat)
  deriving DecidableEq, Repr

/-- A transfer that waits on a regulator (R131) and its 4 KiB units. -/
structure Transfer where
  units : Nat
  key   : TransferKey
  deriving DecidableEq, Repr

/-- A partition (Tables 9.1, 9.5 to 9.8, 5.7 to 5.10; R210 to R240). -/
structure Part where
  /-- physical cores by position -/
  cores : List Nat
  /-- core count the latest part.set asked for, while it is pending, with its header (R213) -/
  target : Option (Nat × Hdr)
  raw   : Bool
  quota : Nat
  landing : Nat
  work    : Nat
  kvPool  : Nat
  images  : Nat
  kvSpill : Nat
  sched   : W32
  schedNew : Option W32
  pager    : W32
  pagerNew : Option W32
  /-- regulators on HBM, attic, cellar, Tirtar, and the words waiting for the boundary -/
  regs    : List Regulator
  regsNew : Option (List W32)
  /-- transfers that wait on a regulator: its resource, the transfer, in order (R131) -/
  transfers : List (Nat × Transfer)
  /-- number the next step takes, and the last one that ended (R224) -/
  nextStep : W64
  lastStep : W64
  stepHiLatch : W32
  cyc     : W32
  floorOk : Bool
  run     : Option StepRun
  /-- raw step packets waiting, in fetch order (R229) -/
  packets : List Cmd
  /-- the packet at the front was in an abandoned step and runs again (Table 15.6) -/
  again   : Bool
  land    : List LandSlot
  /-- W of its landing (R113), as it was last recomputed (R113, R214) -/
  w       : Nat
  frames  : KMap Frame
  spill   : KMap Frame
  pagerOps : List PagerOp
  /-- pages to free at the next boundary -/
  dead : List KvPage
  /-- R127 holds, as the pager last found it -/
  withheld : Bool
  /-- free frames fell below LOW_WM and have not reached HIGH_WM since (R124) -/
  evicting : Bool
  slow    : W32
  stallObs : W32
  stallInt : W32
  acct    : Acct
  deriving DecidableEq, Repr

def Part.reset : Part :=
  { cores := [], target := none, raw := false, quota := 8192, landing := 0, work := 0, kvPool := 0, images := 0, kvSpill := 0,
    sched := 0x078081C0, schedNew := none, pager := 0x10301002, pagerNew := none,
    regs := [Regulator.reset, Regulator.reset, Regulator.reset, Regulator.reset], regsNew := none, transfers := [],
    nextStep := 0, lastStep := 0, stepHiLatch := 0, cyc := 0, floorOk := false, run := none, packets := [], again := false, land := [], w := 0,
    frames := [], spill := [], pagerOps := [], dead := [], withheld := false, evicting := false, slow := 0x0400, stallObs := 0, stallInt := 0, acct := Acct.zero }

/-! ## Tenants, vocabularies, grammars -/

/-- A core program of an image (Table 4.17). -/
structure Prog where
  id     : Nat
  lat    : Nat
  cores  : Nat
  segBase : Nat
  constOff : Nat
  constLen : Nat
  insns  : List Insn
  deriving DecidableEq, Repr

/-- What the device keeps of a verified model image (Tables 4.14 to 4.19). -/
structure Model where
  /-- bytes of the image, as its copy in the system area takes them (R368) -/
  imageLen : Nat
  modelId : W64
  kind    : Nat
  baseId  : W64
  vocabCheck : W32
  vocabSize  : Nat
  maxContext : Nat
  layerGroups : Nat
  kvBytes : Nat
  outDim  : Nat
  params  : Nat
  passClass : Nat
  stored  : Nat
  decoded : Nat
  layers  : Nat
  layerBytes : Nat
  hint     : Nat
  distance : Nat
  progs : List Prog
  /-- SEGMENTS: space, peer position, extent in 4 KiB units, tensor bound (0: a buffer) -/
  segs  : List (Nat × Nat × Nat × Nat)
  consts : Bytes
  /-- tensors: TENSOR_ID, bytes as stored, bytes decoded -/
  tensors : List (Nat × Bytes × Bytes)
  /-- launch kind, PROG_ID -/
  launch : List (Nat × Nat)
  deriving DecidableEq, Repr

/-- One segment of a prompt template after tokenising (Table 8.3, R203). -/
structure TSeg where
  type   : Nat
  tokens : List W32
  deriving DecidableEq, Repr

/-- A registered tenant (R216). -/
structure Tenant where
  model   : Model
  vocab   : Nat
  mask    : BitVec 16
  qCapDef : Nat
  lead : List W32
  join : List W32
  tail : List W32
  segs   : List TSeg
  prefixOn : Bool
  /-- placement and prefetch distance by partition (tenant.info, Table 13.11) -/
  place : List Nat
  dist  : List Nat
  acct  : Acct
  deriving DecidableEq, Repr

/-- A resident base (R217, R117). -/
structure Base where
  model  : Model
  shared : Bool
  deriving DecidableEq, Repr

/-- A vocabulary (Tables 10.2 to 10.4). -/
structure Vocab where
  check : W32
  size  : Nat
  split : Nat
  eos   : Nat
  bos   : Nat
  byteMap : List Nat
  /-- bytes and CONTROL of each token -/
  toks   : List (Bytes × Bool)
  merges : List (Nat × Nat × Nat)
  len    : Nat
  deriving DecidableEq, Repr

/-- A grammar (Tables 10.6 to 10.8). -/
structure Grammar where
  vocabCheck : W32
  vocabSize  : Nat
  start   : Nat
  classes : List Nat
  /-- FIRST, COUNT, ACCEPT -/
  states  : List (Nat × Nat × Bool)
  /-- CLASS, NEXT, PUSH -/
  trans   : List (Nat × Nat × Nat)
  len     : Nat
  deriving DecidableEq, Repr

/-- The serving engine (09_serving_engine.md) with the objects its requests bind. -/
structure Sch where
  /-- live and ended requests by slot -/
  slots : KMap Req
  /-- generation each slot was last given (R10); the slots' retained handles (Table 9.2) -/
  gens  : KMap (BitVec 19)
  /-- `SCH_REQ_TABLE` as host software reads it: entries as last updated, by slot (R222, Table 9.2) -/
  entries : KMap Bytes
  parts : KMap Part
  tenants : KMap Tenant
  /-- bases by MODEL_ID -/
  bases   : KMap Base
  vocabs  : KMap Vocab
  grammars : KMap Grammar
  /-- an evacuation under way: its header (none: a removal's), requests migrated, live requests when it began (R353, R427) -/
  evac : Option (Option Hdr × Nat × Nat)
  sampleAnom : W32
  deriving DecidableEq, Repr

/-! ## Memory tiers -/

/-- What granules hold (Table 5.4), with the other things the spec gives HBM or attic granules: vocabularies and grammars, overflow stores (R302), the mirror region
(R349), the firmware staging area (R412), attic offered and lent (R343); and granules retired (R359). -/
inductive Region where
  | landing (part : Nat) | work (part : Nat) | kvPool (part : Nat) | save (part : Nat) | base (model : Nat) | index (i : Nat) | pantry (table : Nat)
  | vocab (v : Nat) | grammar (g : Nat) | orStore (qp : Nat)
  | images (part : Nat) | baseImage (model : Nat) | kvSpill (part : Nat) | table (t : Nat) | journal | mirror | staging | offer | lent (borrower : W16) (ref : W64)
  | retired
  deriving DecidableEq, Repr

/-- A run of granules of one region: the first one's number in its tier's window, and how many. -/
structure GranRun where
  region : Region
  first  : Nat
  count  : Nat
  deriving DecidableEq, Repr

/-- Device memory and the granules of HBM and attic (05_memory_tiers.md). -/
structure Memory where
  /-- by 44-bit device address (Table 5.3) -/
  bytes : Mem
  /-- runs of allocated granules, rising and disjoint; retired attic granules are runs of `Region.retired` -/
  hbm : List GranRun
  att : List GranRun
  deriving DecidableEq, Repr

/-! ## Cores -/

/-- A segment register (Table 4.2, R85): space, peer position, launch base, base, extent end, as byte addresses in the space. -/
structure Seg where
  space : Nat
  peer  : Nat
  /-- tenant whose image it binds, and the tensor or buffer bound -/
  src   : Nat
  bound : Nat
  /-- further delta tenants of the launch, whose tensors of the same ID follow, each `span` bytes on (R218) -/
  others : List Nat
  span   : Nat
  launchBase : Nat
  base  : Nat
  stop  : Nat
  deriving DecidableEq, Repr

def Seg.none : Seg := { space := 8, peer := 0, src := 0, bound := 0, others := [], span := 0, launchBase := 0, base := 0, stop := 0 }

/-- A pass in flight (R36): its engine, the accumulator entries it writes (first entry, 128 columns each), the SRAM ranges it reads. -/
structure Pass where
  engine : Nat
  base   : Nat
  rows   : List (List W32)
  reads  : List (Nat × Nat)
  deriving DecidableEq, Repr

/-- An SFU, VEC or SEL instruction in flight (R67), or an issued XFER (R86): the bytes it will write, and the semaphore an XFER raises. -/
structure Write where
  /-- (address, bytes) runs -/
  runs : List (Nat × Bytes)
  /-- (address, length) ranges of the core's own SRAM it reads -/
  reads : List (Nat × Nat)
  sem  : Option (Fin 16)
  /-- it is a SEL instruction -/
  sel  : Bool
  /-- the regulator an XFER waits on (R131): 0 HBM, 1 attic -/
  waits : Option Nat
  deriving DecidableEq, Repr

/-- A signal that waits for the core's earlier writes (R90): target position, semaphore, count, XFERs, SFU, VEC or SEL writes and passes still ahead of it. -/
structure Sig where
  target : Nat
  sem    : Fin 16
  count  : W16
  xfers  : Nat
  units  : Nat
  passes : Nat
  deriving DecidableEq, Repr

/-- A physical core (02, 03, 04). -/
structure Core where
  /-- STATE of Table 2.6 -/
  state  : BitVec 3
  fenced : BitVec 4
  lat    : Bool
  /-- a launch runs on the core; the program has ended (R94 end) -/
  busy   : Bool
  ended  : Bool
  /-- the running program, its sequences' slots and its layer group -/
  prog   : List Insn
  slots  : List Nat
  /-- what the position is given of the launch's items: slot, first position or candidate, tokens (R24, R195, R223) -/
  given  : List (Nat × Nat × List W32)
  pc     : Nat
  sc     : List W32
  segs   : List Seg
  sems   : List W16
  words  : List W32
  /-- loop stack: first instruction, last instruction, runs left (R94) -/
  loops  : List (Nat × Nat × Nat)
  /-- accumulators by (engine × 1,024 + entry) × 128 + column (02, The cell and the engine) -/
  acc    : KMap W32
  xfers  : List Write
  passes : List Pass
  unitOps : List Write
  sigs   : List Sig
  /-- the instruction the sequencer holds (R48 to R50, R90) -/
  held   : Option Insn
  /-- barrier this core has arrived at: BAR_ID, GROUP -/
  barrier : Option (Nat × BitVec 32)
  /-- pre-emption asked for; the core stands at a MARK with these masks (R95) -/
  preempt : Bool
  atMark  : Option (BitVec 48 × BitVec 32 × W16)
  lastMark : W16
  /-- row statistics started since launch, by state-block address: function, elements fed, a NaN among them (R74 to R76, R88) -/
  stats  : KMap (Nat × Nat × Bool)
  /-- activity of each engine in eighths (R53) -/
  activity : List Nat
  /-- per-engine 32-bit shift register of the dummy operands (R52) -/
  lfsr     : List W32
  stretched : Bool
  droops   : W32
  /-- faults of this start: residue by column, bank errors, watchdogs (Table 15.2) -/
  residue  : KMap Nat
  bankErr  : KMap Nat
  dogs     : Nat
  pllLocked : Bool
  deriving DecidableEq, Repr

def Core.reset : Core :=
  { state := 0, fenced := 0, lat := false, busy := false, ended := false, prog := [], slots := [], given := [], pc := 0, sc := List.replicate 16 0, segs := List.replicate 16 Seg.none,
    sems := List.replicate 16 0, words := List.replicate 64 0, loops := [], acc := [], xfers := [], passes := [], unitOps := [],
    sigs := [], held := none, barrier := none, preempt := false, atMark := none, lastMark := 0, stats := [],
    activity := [0, 0, 0, 0], lfsr := [1, 1, 1, 1], stretched := false, droops := 0, residue := [], bankErr := [],
    dogs := 0, pllLocked := false }

/-! ## Retrieval -/

/-- Where an extent lies: controller, first data page, records (Table 6.3). -/
structure Extent where
  ctrl  : Nat
  page  : Nat
  count : Nat
  deriving DecidableEq, Repr

/-- A bucket directory entry (Table 6.3) with the old-generation entry and replica that belong to it (R142). -/
structure Bucket where
  ext  : Option Extent
  gen  : Nat
  /-- older generation still readable: its extent (none: GEN 0), GEN, the merge point M that replaced it, its replica -/
  old  : Option (Option Extent × Nat × W64 × Option Extent)
  hot  : Option Extent
  /-- merge point of the current generation -/
  mergePoint : W64
  full : Bool
  due  : Bool
  /-- mutations published when the bucket became due (Table 11.5) -/
  dueAt : W64
  deriving DecidableEq, Repr

def Bucket.empty : Bucket := { ext := none, gen := 0, old := none, hot := none, mergePoint := 0, full := false, due := false, dueAt := 0 }

/-- A mudroom entry (Table 6.4) in its bucket's list. -/
structure Mud where
  bucket  : Nat
  id      : W64
  tag     : W64
  version : W64
  foldGen : W32
  spill   : Bool
  vec     : List W32
  deriving DecidableEq, Repr

/-- A tombstone and the buckets it is attached to (R149, R150). -/
structure Tomb where
  id : W64
  n  : W64
  buckets : List Nat
  deriving DecidableEq, Repr

/-- A passage-store entry (Table 6.5) with its text. -/
structure StoreEntry where
  id : W64
  version : W64
  home  : Nat
  spill : Option Nat
  deleted : Bool
  text  : Bytes
  deriving DecidableEq, Repr

/-- A mutation of the index's log (R148): an insert with its vector and text, or a delete. -/
structure Mutation where
  seq : W64
  insert : Bool
  id  : W64
  tag : W64
  vec : List W32
  text : Bytes
  /-- the command completes with the publication of its last entry -/
  last : Option (Hdr × Compl)
  /-- its text has found its store pages, and the numbers of the page writes it waits for (R148, R273) -/
  placed : Bool
  writes : List Nat
  deriving DecidableEq, Repr

/-- An `index.load` whose pages are not all acknowledged (R165, R273): its command and completion, whether it is the final one, the page writes it waits
for, what its buckets were before, and the passages it brought. -/
structure Load where
  h      : Hdr
  compl  : Compl
  final  : Bool
  writes : List Nat
  before : List (Nat × Bucket)
  ids    : List W64
  deriving DecidableEq, Repr

/-- An index (Tables 6.1 and 13.12). -/
structure Index where
  dim    : Nat
  metric : Nat
  hashBits : Nat
  cap    : Nat
  spillTau : W32
  pDef   : Nat
  dMargin : Nat
  storeBits : Nat
  mudQuota : Nat
  mergeAt : Nat
  load    : Bool
  loading : Bool
  embedder : W16
  reranker : W16
  head     : W16
  /-- TABLE, SOURCE, POOL (Table 8.1) -/
  featureSlots : List (Nat × Nat × Nat)
  proj    : List (List W32)
  /-- highest published sequence, and highest number given -/
  seq     : W64
  given   : W64
  dir     : KMap Bucket
  mud     : List Mud
  tombs   : List Tomb
  store   : List StoreEntry
  /-- the passage store's pages: by home page, the chain's data pages in order (R166) -/
  pages   : KMap (List Nat)
  /-- admitted and not yet published, in sequence order -/
  waiting : List Mutation
  /-- loads under way, oldest first -/
  loads   : List Load
  overruns : W32
  /-- searches planned; admission number and buckets probed of the last 65,536, latest first (R164) -/
  searches : Nat
  probes   : List (W64 × List Nat)
  seqHiLatch : W32
  /-- not rebuilt at DIR_LOAD (Table 17.1) -/
  unloaded : Bool
  deriving DecidableEq, Repr

/-- One bucket of a probe plan (R143, R144). -/
structure PlanEntry where
  bucket : Nat
  gen    : Nat
  ext    : Option Extent
  deriving DecidableEq, Repr

/-- A retrieval under way (R145 to R158): a search, the stage 3 to 5 of an ask, or a member's part of a fan-out. -/
structure Job where
  adm   : W64
  /-- the request served, or the asking member and its message -/
  slot  : Option Nat
  remote : Option MsgHdr
  index : Nat
  snap  : W64
  query : List W32
  k : Nat
  d : Nat
  p : Nat
  w : Nat
  filter : List FilterTerm
  round : Nat
  plan  : List PlanEntry
  /-- controllers whose contexts it waits for, and those it holds -/
  queued : List Nat
  holds  : List Nat
  /-- page reads outstanding: controller, data page -/
  reads  : List (Nat × Nat)
  /-- best k + d of each scan unit, and of the mudroom scanner under unit 128 -/
  lists  : List (Nat × List Cand)
  /-- lists of earlier rounds: the length each was returned with, and what is left of it (R154, R157) -/
  earlier : List (Nat × List Cand)
  overrun : Bool
  /-- scan units that failed in this search (R169) -/
  failed  : List Nat
  /-- `RET_HOT_CFG` as it was when the search was admitted (R170) -/
  hot     : W32
  unreadable : Bool
  /-- the partition charged, and the tenant -/
  part    : Nat
  tenant  : W16
  /-- survivors are found; members still to answer -/
  own     : Option (List Cand)
  members : List W16
  others  : List Cand
  rounds  : Nat
  cancelled : Bool
  deriving DecidableEq, Repr

/-- A context of a dropped search on a controller, kept with the search's snapshot until the page it is scoring is done (R168). -/
structure LeftCtx where
  adm   : W64
  ctrl  : Nat
  index : Nat
  snap  : W64
  deriving DecidableEq, Repr

/-- A `passage.get` whose page reads are under way: its command and parameters, the version found and its text, the pages that hold it. -/
structure Get where
  no   : Nat
  h    : Hdr
  pb   : Bytes
  version : W64
  text : Bytes
  pages : List Nat
  deriving DecidableEq, Repr

/-- The retrieval block (06_retrieval.md). -/
structure Ret where
  indexes : KMap Index
  jobs    : List Job
  nextAdm : W64
  /-- query contexts held, by controller (R146) -/
  ctx     : List Nat
  hotCfg  : W32
  /-- snapshots held for other members: member, index, snapshot (R348) -/
  memberHolds : List (W16 × W64 × Nat × W64)
  /-- contexts of dropped searches that still score a page (R168) -/
  left    : List LeftCtx
  /-- extents given up that a planned scan still reads (R164): dimension, extent -/
  leaving : List (Nat × Extent)
  gets    : List Get
  nextGet : Nat
  deriving DecidableEq, Repr

/-! ## Sparse tables -/

/-- A table (Table 7.1). Indirection entries (Table 7.2), slot contents as element codes, reclaim list, candidate list (R181). -/
structure Table where
  mode  : Nat
  fmt   : Nat
  width : Nat
  rows  : Nat
  seed  : W64
  subA  : Nat
  subB  : Nat
  combine : Nat
  pantryRows : Nat
  owners : List W16
  ownerPools : Bool
  /-- indirection entries by physical row -/
  entries : KMap W64
  attic   : KMap (List W32)
  pantry  : KMap (List W32)
  /-- slots in the reclaim list: pantry?, slot, stamp (R186) -/
  reclaim : List (Bool × Nat × Nat)
  /-- gathers admitted (R186) -/
  gathers : Nat
  /-- candidate list: row, count (R181); slices gathered -/
  cands   : List (Nat × Nat)
  slices  : Nat
  /-- hot rows that wait for a pantry slot to be reclaimed (R182) -/
  hotWait : List Nat
  /-- replica holders by row -/
  holders : List (Nat × W16)
  /-- rows whose slot was lost and that no write has renewed (Table 15.4) -/
  lost : List Nat
  destroy : Option Hdr
  deriving DecidableEq, Repr

/-- A gather under way (R178, R179, R191). -/
structure Gather where
  gid   : W32
  table : Nat
  pool  : Nat
  bags  : List (List Occ)
  /-- the command served, or the request and its feature slot -/
  cmd   : Option (Hdr × W64)
  slot  : Option (Nat × Nat)
  part  : Nat
  /-- the gather's entry table: (table, row) and the entry read -/
  kept  : List ((Nat × Nat) × W64)
  /-- distinct physical rows, each with its entry in the gather's entry table (R178) -/
  rows  : Nat
  /-- its number in the gather count of each table it reads (R186) -/
  stamps : List (Nat × Nat)
  /-- shards still to answer; rows delivered by logical index; per-shard sums -/
  shards : List Nat
  far    : List (W64 × List W32)
  sums   : List (Nat × List (List W32 × W32))
  lostShards : List Nat
  deriving DecidableEq, Repr

/-- A table.write under way (R185 to R189): entries left for the local shards, owners not yet acknowledged, holders awaited. -/
structure TWrite where
  /-- the model's own number, by which acknowledgements find it -/
  no    : Nat
  table : Nat
  cmd   : Option Hdr
  remote : Option MsgHdr
  /-- entries the write was given -/
  count : Nat
  entries : List WriteEntry
  /-- the entry at the front found no free slot and waits (R186) -/
  waited : Bool
  /-- owners still to acknowledge: the numbers of their entries in the command -/
  owners : List (W16 × List Nat)
  /-- holders awaited, each with the MSG_ID of the install it was sent -/
  holders : List (W16 × W32)
  /-- a row formed and not yet swapped: row, attic slot, pantry slot, element codes -/
  formed  : Option (Nat × Nat × Option Nat × List W32)
  failed  : Option Nat
  deriving DecidableEq, Repr

/-- The sparse-gather unit (07_sparse_tables.md). -/
structure Tbl where
  tables  : KMap Table
  gathers : List Gather
  writes  : List TWrite
  nextGid : W32
  nextWrite : Nat
  hotCfg  : W32
  reclaimWait : W32
  deriving DecidableEq, Repr

/-! ## Cellar -/

/-- A flash block (R275 to R282). -/
structure Block where
  oneBit : Bool
  closed : Bool
  /-- pages programmed, and the data page each holds (none: invalid) -/
  pages  : List (Option Nat)
  erases : Nat
  /-- erases and programs of the die when it was closed -/
  closedAt : Nat
  closedNo : Nat
  reads  : Nat
  /-- the page a decode recorded with the most bit errors, and how many (R280) -/
  worst  : Option (Nat × Nat)
  retired : Bool
  /-- activity that claims it -/
  claim  : Option W32
  deriving DecidableEq, Repr

/-- A maintenance activity (Table 11.5). -/
inductive ActKind where
  | refresh | rebuild | gc | fold | wear | merge | replica
  deriving DecidableEq, Repr

structure Activity where
  aid   : W32
  kind  : ActKind
  /-- die number, 4 × (16 × controller + channel) + die -/
  die   : Nat
  source : Option Nat
  /-- destination blocks, by key: relocation blocks of one die, or those of a rebuild or of a new extent -/
  dests  : List Nat
  index  : Nat
  bucket : Nat
  urgent : Bool
  age    : Nat
  claimed : Bool
  /-- merge point fixed (R160) -/
  mergePoint : W64
  /-- copies a static wear move has made, their map entries unchanged so far (R291): data page, source, destination -/
  copies : List (Nat × Nat × Nat)
  /-- how far a merge or replica is: 0 before its first operation, 1 its reads issued, 2 its writes issued (R160, R164) -/
  phase  : Nat
  /-- controller of the new extent, and the extent once its writes are issued -/
  ctrl   : Nat
  ext    : Option Extent
  /-- entries a merge folds, whether CAP left some out (R161), pages of the old generation that could not be read (R288) -/
  took   : List Mud
  full   : Bool
  bad    : List Nat
  deriving DecidableEq, Repr

/-- What a flash operation does. -/
inductive OpKind where
  | scan (adm : W64) | patrol | fetch (slot i : Nat) | get (no : Nat) | actRead (aid : W32) | actWrite (aid : W32) | erase (aid : W32) | hostWrite | parityWrite
  deriving DecidableEq, Repr

/-- A flash operation queued on a die: what it does, the page it is for (by its key in the map), the block and the page of the block it reads. An erase has
its block; a copy being written has the place it was read from. A read may be of another page of the row, from which its page is reconstructed. -/
structure FlashOp where
  kind  : OpKind
  page  : Nat
  block : Nat
  place : Nat
  deriving DecidableEq, Repr

/-- A page write that is not acknowledged yet (R273): its number, its page's key, the new data, the merge or replica it belongs to. Once `programmed` (a trim
has nothing to program), `data` is what the row's parity page has still to take in: old XOR new data (R285). -/
structure PageWrite where
  no   : Nat
  key  : Nat
  data : BitVec 131072
  act  : Option W32
  programmed : Bool
  deriving DecidableEq, Repr

/-- A die (R290, R294, R295). -/
structure Die where
  queue  : List FlashOp
  running : Option FlashOp
  erases : Nat
  programs : Nat
  oneBitPrograms : Nat
  /-- operations started since one of class 1 or 3, and since one of class 5 -/
  since3 : Nat
  since5 : Nat
  patrolBlock : Nat
  failed : Bool
  /-- its pages are rebuilt on the other dies of its channel (R283) -/
  rebuilt : Bool
  /-- good blocks lost per plane -/
  lost   : List Nat
  deriving DecidableEq, Repr

def Die.reset : Die :=
  { queue := [], running := none, erases := 0, programs := 0, oneBitPrograms := 0, since3 := 0, since5 := 0, patrolBlock := 0,
    failed := false, rebuilt := false, lost := [0, 0, 0, 0] }

/-- The cellar (11_cellar.md). Keys: data page c × 2^32 + d; parity page of row r 2^35 + r; block 65,536 × die + block. -/
structure Cel where
  /-- contents of data pages and, by row, of parity pages, zero where unlisted -/
  data   : KMap (BitVec 131072)
  parity : KMap (BitVec 131072)
  /-- physical page of a data or parity page: block key × 2,048 + page; unlisted: unmapped (R272); 0xFFFFFFFF: none, a write still on its way or made through
  the row's parity alone (R286) -/
  map    : KMap Nat
  /-- page writes not acknowledged, oldest first, and the number the next one takes -/
  pend   : List PageWrite
  nextWrite : Nat
  blocks : KMap Block
  dies   : KMap Die
  acts   : List Activity
  nextAid : W32
  /-- data pages allocated to extents and stores, by controller -/
  used   : List Nat
  lostCtrl : List Bool
  lostChan : KMap Bool
  uncorr  : W32
  gcCfg   : W32
  maintCfg : W32
  /-- bytes of the system area in use by image copies (R368) -/
  sysUsed : Nat
  /-- stripes that the journal named as under update at the last reset, until the mount recomputes their parity (R273); while the cellar runs, the rows of
  `pend` are under update -/
  open_   : List Nat
  /-- the three-quarter condition of R159 holds -/
  crowded : Bool
  deriving DecidableEq, Repr

/-! ## Tirtar -/

/-- A port (Table 14.9, R329 to R333). -/
structure Port where
  up   : Bool
  auth : Bool
  authFail : Bool
  half : Bool
  spared : Bool
  retrains : Byte
  peer   : W16
  serial : W64
  /-- next SEQ to send, last SEQ accepted, and flits not yet acknowledged with their send counts -/
  txSeq : BitVec 12
  rxSeq : BitVec 12
  replay : List (BitVec 12 × Nat × Bytes)
  /-- flit credits held for each virtual channel, and flits held in each receive buffer (R331) -/
  credits : List Nat
  rxHeld  : List Nat
  retraining : Bool
  deriving DecidableEq, Repr

def Port.reset : Port :=
  { up := false, auth := false, authFail := false, half := false, spared := false, retrains := 0, peer := 0, serial := 0, txSeq := 0,
    rxSeq := 0xFFF, replay := [], credits := [136, 136, 136, 136], rxHeld := [0, 0, 0, 0], retraining := false }

/-- Where a packet that arrives goes (R338): to this module, waiting to start, over a port, or discarded. -/
inductive Toward where
  | here | waiting | over (port : Nat) | gone
  deriving DecidableEq, Repr
/-- A packet arriving on a virtual channel of a port, or waiting to be forwarded: its flits not yet sent on (FIRST, LAST, packet data), how many it has in all, and
whether its last has arrived. -/
structure Transit where
  port : Nat
  vc   : Nat
  dest : W16
  toward : Toward
  total : Nat
  flits : List (Bool × Bool × Bytes)
  whole : Bool
  deriving DecidableEq, Repr

/-- A route (R337): port, hop count, neighbour address, whether it was refreshed. -/
structure Route where
  port : Nat
  hops : Nat
  via  : W16
  deriving DecidableEq, Repr

/-- A message a module has sent, by class with what it carries (Table 14.4). -/
inductive MsgBody where
  | probe (cand : W16) (serial : W64) | probeAnswer (cand : W16) | routes (l : List RouteAdv) (g : List GroupAdv)
  | peerDown (lost : W16) (electricalIdle : Bool) | departing
  | memRead (window : Nat) (offset : W64) (units : Nat) | memWrite (window : Nat) (offset : W64) (data : Bytes)
  | memData (data : Bytes) | memDone
  | leaseOffer (gib : Nat) | leaseAsk (gib : Nat) | leaseGrant (gib : Nat) | leaseWithdraw (window : Nat) | leaseRelease (window : Nat)
  | gatherReq (gid : W32) (table : Nat) (ownerPools : Bool) (pool : Nat) (indices : List W64) (bags : List (List Occ)) | gatherRows (rows : List (W64 × List W32))
  | gatherSums (sums : List (List W32 × W32)) | gatherReject
  | update (write : Nat) (table : Nat) (entries : List WriteEntry) | updateAck (applied : Nat)
  | replicaAsk (table : Nat) (row : Nat) | replicaInstall (table : Nat) (row : Nat) (values : List W32) | replicaAck (row : Nat)
  | replicaDiscard (table : Nat) (row : Nat) | replicaDenied
  | shardSearch (adm : W64) (index : Nat) (query : List W32) (k p w : Nat) (filter : List FilterTerm)
  | shardResult (cands : List Cand) (rounds : Nat) (snap : W64) | shardError
  | textFetch (index : Nat) (id : W64) (version : W64) | text (version : W64) (text : Bytes) | holdRelease (ref : W64)
  | mirrorOpen (slot : Nat) (d : MirrorDesc) | mirrorUpdate (slot : Nat) (tokens : List W32) (bytes : W32) | mirrorClose (slot : Nat)
  | mirrorError (slot : Nat) | migration (slot : Nat) (d : MirrorDesc)
  | certs (nonce : BitVec 256) | flit (data : Bytes) | nak (last : BitVec 12) | credits (vc n : Nat) | error
  deriving DecidableEq, Repr

/-- A message on its way out (Table 14.3): destination, class, MSG_ID, RESYNC, body, sends so far. `port` is set for link-level traffic. -/
structure OutMsg where
  dest  : W16
  cls   : Byte
  msgId : W32
  resync : Bool
  reply  : Bool
  body   : MsgBody
  sends  : Nat
  port   : Option Nat
  deriving DecidableEq, Repr

/-- A mirrored request held for a source (R349, R350). -/
structure Mirror where
  src  : W16
  ref  : W64
  desc : MirrorDesc
  deriving DecidableEq, Repr

/-- A lease window held by this module (R343). -/
structure Window where
  lender : W16
  gib    : Nat
  /-- pages are being fetched home (R129, R345) -/
  draining : Bool
  deriving DecidableEq, Repr

/-- Attic this module lends (R343): borrower, its window reference, GiB. -/
structure Lent where
  borrower : W16
  ref : W64
  gib : Nat
  deriving DecidableEq, Repr

/-- The fabric block (14_tirtar_fabric.md). -/
structure Fab where
  ports : KMap Port
  /-- failed lanes by lane number, and the spare in use of each half: the lane it replaces -/
  laneFailed : BitVec 18
  spareA : Option Nat
  spareB : Option Nat
  valid : Bool
  addr  : W16
  /-- candidate c under probe -/
  probeC : W32
  probing : Bool
  routes : KMap Route
  /-- next MSG_ID by stream: destination × 256 + class; and next expected by source × 256 + class -/
  txIds : KMap W32
  rxIds : KMap W32
  unreachable : List Nat
  out   : List OutMsg
  buddy : W16
  mirrors : List Mirror
  /-- requests taken over that wait for a CQ entry of their delivery queue pair (R307, R352) -/
  resuming : List MirrorDesc
  /-- the buddy became unreachable: no mirroring until a new pairing (R350) -/
  buddyDown : Bool
  /-- modules that have named this module as their buddy -/
  sources : List W16
  windows : KMap Window
  /-- GiB on offer, part by part, not yet granted -/
  offered : List Nat
  lent    : List Lent
  /-- withdrawals under way (R345) -/
  withdrawing : List Hdr
  /-- offers heard: lender, GiB -/
  offers : List (W16 × Nat)
  /-- acquires under way: command, lender asked, GiB -/
  acquiring : List (Hdr × W16 × Nat)
  groups : KMap W32
  /-- the groups in effect since the last routing update (R356) -/
  groupsNow : KMap W32
  heard : List GroupAdv
  /-- peer-down notices of reason electrical idle: lost module, reporter (R351) -/
  notices : List (W16 × W16)
  /-- neighbours of a module by its last routing update -/
  links   : KMap (List W16)
  /-- messages of ordered streams that arrived ahead of a gap, and numbers of unordered ones already applied (R341): stream key, MSG_ID, message -/
  early   : List (Nat × W32 × Option Instr)
  /-- packets in the receive buffers, oldest first (R331, R338) -/
  transit : List Transit
  deriving DecidableEq, Repr

/-! ## Faults, black box -/

/-- A piece of a self-test or calibration (R372): command, calibrate?, target, unit. -/
structure Piece where
  cmd : Cmd
  calib : Bool
  target : Nat
  unit : Nat
  started : Bool
  left : Nat
  records : Nat
  deriving DecidableEq, Repr

structure Ras where
  /-- RAS_REPAIR_FACnnn and RAS_REPAIR_FLDnnn fuse words by engine number (Table 2.9) -/
  fac : KMap W32
  fld : KMap W32
  /-- lines awaiting repair: engine, column?, line -/
  awaiting : List (Nat × Bool × Nat)
  /-- lines a field entry was burned for and whose engine has not been tested since (R61) -/
  burned : List (Nat × Bool × Nat)
  /-- lines replaced by the four spares of an engine, as fuse load applied them (R56): row 0, row 1, column 0, column 1 -/
  applied : KMap (List (Option Nat))
  hbmSpent : BitVec 6
  /-- stacks whose rebuild runs (R358) -/
  hbmRebuild : BitVec 6
  hbmLost : BitVec 6
  /-- LINES and RETIRED by package (Table 15.9) -/
  lines   : KMap Nat
  retired : KMap Nat
  /-- corrected errors of attic lines in this start -/
  lineErrs : KMap Nat
  corrected : W64
  /-- cores fused out: retired for good (R61) -/
  fusedOut : BitVec 34
  pieces : List Piece
  /-- a class 4 loss stands that no rebuild mends (DEGRADED) -/
  beyond : Bool
  /-- modes of a module-wide test: SERVICE reads 0 (R373) -/
  moduleTest : Bool
  deriving DecidableEq, Repr

/-- A black-box record (Table 15.11), less CHECK, which a read computes. -/
structure BbxRec where
  seq  : W64
  type : W16
  sev  : Byte
  sealed_ : Bool
  read : Bool
  start : W32
  hostTime : W64
  aon  : W32
  payload : Bytes
  deriving DecidableEq, Repr

structure Bbx where
  /-- the ring, oldest first; at most 126,976 records -/
  recs : List BbxRec
  nextSeq : W64
  sealedN : Nat
  lost    : W16
  starts  : W32
  timeLo  : W32
  timeHi  : W32
  /-- value in force and always-on cycles since it was written or since the start -/
  hostTime : W64
  aonCycles : Nat
  seqHiLatch : W32
  /-- kept in the persistent-state area (R374) -/
  savedAddr : W16
  sources : List W64
  deriving DecidableEq, Repr

/-! ## Power, start, service -/

/-- State of a power domain (Table 16.2). -/
inductive DomState where
  | off | sleep | on | changing
  deriving DecidableEq, Repr

structure Pwr where
  inputOn : Bool
  modEn   : Bool
  perstN  : Bool
  pwrGood : Bool
  tripN   : Bool
  doms    : KMap DomState
  droopCfg : W32
  capCfg   : W32
  thermCfg : W32
  cap      : Nat
  slowWait : Nat
  upWait   : Nat
  /-- power samples in mW, newest first, at most 1,024 -/
  samples  : List Nat
  low      : Nat
  overN     : Nat
  pwrHold  : Bool
  therm    : Nat
  thermHold : Bool
  thermShut : Bool
  floor    : Nat
  failed   : BitVec 18
  mv : Nat
  mw : Nat
  /-- last thermal readings in 1/256 °C: hottest junction, stack, package, cellar controller -/
  tJ : W16
  tS : W16
  tP : W16
  tC : W16
  /-- cores turned on in the present window and waiting to turn on; the same for ramps (R387) -/
  onWindow : Nat
  onWait   : List Nat
  rampWindow : Nat
  rampWait : List Nat
  inputLost : Bool
  deriving DecidableEq, Repr

/-- A staged or committed firmware image (Table 17.4). -/
structure FwImage where
  version : W32
  svn     : Nat
  digest  : BitVec 256
  bytes   : Bytes
  deriving DecidableEq, Repr

/-- The image the module leaves manufacture with (R409): version 1, SVN 0 (DESIGN CHOICE: the spec gives no figures; its bytes are not kept). -/
def FwImage.factory : FwImage := { version := 1, svn := 0, digest := 0, bytes := [] }

structure Boot where
  /-- STEP of SEC_BOOT: 0 while the ROM runs, the step's ID, 0xF in service -/
  step : Nat
  romHeld : Bool
  romStopped : Bool
  hold : Bool
  skipped : BitVec 10
  alt     : BitVec 10
  /-- path the running step is on, and the FAILS it carries -/
  path  : Nat
  fails : Nat
  service  : Bool
  recovery : Bool
  pcieReady : Bool
  svnFused : Nat
  svnRunning : Nat
  running : Option FwImage
  staged  : Option FwImage
  bootImg : Option FwImage
  imgPolicy : W32
  keys : KMap W32
  romDigest : BitVec 256
  /-- memory rates trained: path of HBM_TRAIN and ATT_TRAIN -/
  hbmPath : Nat
  attPath : Nat
  deriving DecidableEq, Repr

structure Svc where
  removal  : BitVec 2
  surprise : Bool
  latchOpen : Bool
  /-- the latch has opened since the last start: nothing is served until the next one (R434) -/
  opened   : Bool
  button   : Bool
  locate   : Bool
  alertN   : Bool
  /-- the last press was refused: blue blinks 4 Hz for 3 s -/
  refused  : Bool
  /-- requests migrated in this removal -/
  moved    : Nat
  deriving DecidableEq, Repr

/-- Answers given over the management port and the DOE mailbox (R420, R424). -/
inductive MgmtMsg where
  | bbx (recs : List BbxRec) | monitoring (mv mw : Nat) (tJ tS tP tC : W16) | fru (variant : BitVec 4) (coldPlate : Nat) (serial : W64)
  | fwAccepted | fwRejected
  | version (versions : List Nat) | capabilities (cert chal measSig : Bool) | algorithms (sm2 sm3 : Bool)
  | digests (slot0 : BitVec 256) | certificate (slot : Nat) (chain : Bytes) | challenge (slot : Nat) (nonce : BitVec 256) (sig : BitVec 512)
  | measurements (blocks : List (Nat × Bytes)) (nonce : BitVec 256) (sig : BitVec 512) | unsupported | busy
  deriving DecidableEq, Repr

structure Mgmt where
  out : List MgmtMsg
  deriving DecidableEq, Repr

/-- Identity fixed at manufacture, and the slot straps. -/
structure Ident where
  variant  : Variant
  stepping : BitVec 4
  serial   : W64
  slotId   : BitVec 3
  coldPlate : Nat
  deriving DecidableEq, Repr

/-! ## The whole block -/

structure State where
  /-- commands waiting, first in first out -/
  pending : List Instr
  /-- host memory, by 64-bit host address -/
  host  : Mem
  ident : Ident
  porch : Porch
  sch   : Sch
  mem   : Memory
  cores : KMap Core
  ret   : Ret
  tbl   : Tbl
  cel   : Cel
  fab   : Fab
  ras   : Ras
  bbx   : Bbx
  pwr   : Pwr
  boot  : Boot
  svc   : Svc
  mgmt  : Mgmt
  /-- the model's own counter of free values used (no part of the device) -/
  freeCtr : Nat
  deriving DecidableEq, Repr

/-- Why the model stops: never. The type has no constructor, because the spec gives every command of the table an effect in every state
(a fault inside the device is an event with a recovery, R357 to R371; a broken host obligation is answered under R7), so no meaning stops. -/
inductive Fault where
  deriving DecidableEq, Repr

/-- Why a command has no meaning. -/
inductive Refusal where
  /-- Raised only by Machine/Dispatch.lean for a row whose meaning is not written. Safe: nothing is claimed of it. -/
  | notModelled (mnemonic : String)
  deriving DecidableEq, Repr

/-- What a meaning answers. -/
abbrev Out := Host.Outcome State Fault Refusal

/-! ## Reset -/

def Porch.reset : Porch := { qps := [], waiting := [], msix := [], vfs := 0, linkUp := false, readData := 0, cfgRetry := 0, cfgDone := 0 }
def Sch.reset : Sch :=
  { slots := [], gens := [], entries := [], parts := [], tenants := [], bases := [], vocabs := [], grammars := [], evac := none, sampleAnom := 0 }
/-- The attic holds the replay journal, one copy in each half, and the mirror region (Table 5.4, R349). -/
def Memory.reset : Memory :=
  { bytes := [], hbm := [],
    att := [⟨.journal, 0, Config.journalGran / 2⟩, ⟨.mirror, Config.journalGran / 2, Config.mirrorGran⟩, ⟨.journal, Config.attGran / 2, Config.journalGran / 2⟩] }
def Ret.reset : Ret := { indexes := [], jobs := [], nextAdm := 0, ctx := List.replicate 8 0, hotCfg := 0x00010400, memberHolds := [], left := [], leaving := [], gets := [], nextGet := 0 }
def Tbl.reset : Tbl := { tables := [], gathers := [], writes := [], nextGid := 0, nextWrite := 0, hotCfg := 0x00010040, reclaimWait := 0 }
def Cel.reset : Cel :=
  { data := [], parity := [], map := [], pend := [], nextWrite := 0, blocks := [], dies := [], acts := [], nextAid := 0, used := List.replicate 8 0,
    lostCtrl := List.replicate 8 false, lostChan := [], uncorr := 0, gcCfg := 0x40104800, maintCfg := 0x880E6C2A, sysUsed := 0, open_ := [], crowded := false }
def Fab.reset : Fab :=
  { ports := [], laneFailed := 0, spareA := none, spareB := none, valid := false, addr := 0, probeC := 0, probing := false, routes := [],
    txIds := [], rxIds := [], unreachable := [], out := [], buddy := 0, mirrors := [], resuming := [], buddyDown := false, sources := [], windows := [], offered := [], lent := [],
    withdrawing := [], offers := [], acquiring := [], groups := [], groupsNow := [], heard := [], notices := [], links := [], early := [], transit := [] }
def Ras.reset : Ras :=
  { fac := [], fld := [], awaiting := [], burned := [], applied := [], hbmSpent := 0, hbmRebuild := 0, hbmLost := 0, lines := [], retired := [], lineErrs := [],
    corrected := 0, fusedOut := 0, pieces := [], beyond := false, moduleTest := false }
def Bbx.reset : Bbx :=
  { recs := [], nextSeq := 1, sealedN := 0, lost := 0, starts := 0, timeLo := 0, timeHi := 0, hostTime := 0, aonCycles := 0, seqHiLatch := 0,
    savedAddr := 0, sources := [] }
def Pwr.reset : Pwr :=
  { inputOn := true, modEn := true, perstN := false, pwrGood := true, tripN := true, doms := [(0, .on), (1, .on), (4, .on)],
    droopCfg := 0x00000008, capCfg := 0x00000384, thermCfg := 0x0000005F, cap := 0, slowWait := 0, upWait := 0, samples := [], low := 0,
    overN := 0, pwrHold := false, therm := 0, thermHold := false, thermShut := false, floor := 0, failed := 0, mv := 40000, mw := 0, tJ := 0,
    tS := 0, tP := 0, tC := 0, onWindow := 0, onWait := [], rampWindow := 0, rampWait := [], inputLost := false }
def Boot.reset : Boot :=
  { step := 0, romHeld := true, romStopped := false, hold := false, skipped := 0, alt := 0, path := 0, fails := 0, service := false,
    recovery := false, pcieReady := false, svnFused := 0, svnRunning := 0, running := none, staged := none, bootImg := some FwImage.factory, imgPolicy := 0,
    keys := [], romDigest := 0, hbmPath := 0, attPath := 0 }
def Svc.reset : Svc :=
  { removal := 0, surprise := false, latchOpen := false, opened := false, button := false, locate := false, alertN := true, refused := false, moved := 0 }
def Ident.reset : Ident := { variant := .f48, stepping := 1, serial := 1, slotId := 0, coldPlate := 1 }

/-- The module in module reset, before reset release (R18, R401): powered, PERST_N asserted, the boot ROM held at its first action. -/
def State.reset : State :=
  { pending := [], host := [], ident := Ident.reset, porch := Porch.reset, sch := Sch.reset, mem := Memory.reset, cores := [], ret := Ret.reset,
    tbl := Tbl.reset, cel := Cel.reset, fab := Fab.reset, ras := Ras.reset, bbx := Bbx.reset, pwr := Pwr.reset, boot := Boot.reset,
    svc := Svc.reset, mgmt := { out := [] }, freeCtr := 0 }

end Sys2Proof.Machine
end

