-- ==== Sys2Proof/Machine/Bits.lean ====
section
/-! DEFINITION. Bit fields, little-endian byte strings (R14), memory by byte, CRC-32C, SM3 and Philox. -/

namespace Sys2Proof.Machine

/-- Bits [hi:lo] of a number. -/
def bits (w hi lo : Nat) : Nat := (w >>> lo) % 2 ^ (hi + 1 - lo)
/-- Bit n of a number. -/
def bit (w n : Nat) : Bool := (w >>> n) % 2 == 1
def boolNat (b : Bool) : Nat := if b then 1 else 0
def ceilDiv (a b : Nat) : Nat := (a + b - 1) / b

/-- `n` bytes of a number, lowest first (R14). -/
def leBytes (n v : Nat) : Bytes :=
  match n with
  | 0 => []
  | k + 1 => BitVec.ofNat 8 v :: leBytes k (v >>> 8)
/-- A byte string as a number, lowest byte first (R14). -/
def leNat : Bytes → Nat
  | [] => 0
  | b :: bs => b.toNat + 256 * leNat bs
/-- Bytes [off, off + n), zero beyond the end. -/
def slice (b : Bytes) (off n : Nat) : Bytes :=
  let t := (b.drop off).take n
  t ++ List.replicate (n - t.length) 0
/-- The unsigned field of `n` bytes at an offset of a parameter block or record. -/
def fld (b : Bytes) (off n : Nat) : Nat := leNat ((b.drop off).take n)
def allZero (b : Bytes) : Bool := b.all (· == 0)
/-- Zero bytes appended up to a length. -/
def padTo (n : Nat) (b : Bytes) : Bytes := b ++ List.replicate (n - b.length) 0
/-- 32-bit words of a byte string. -/
def words32 (b : Bytes) : Nat → List W32
  | 0 => []
  | n + 1 => BitVec.ofNat 32 (leNat (b.take 4)) :: words32 (b.drop 4) n
def wordsBytes (l : List W32) : Bytes := l.flatMap fun w => leBytes 4 w.toNat
/-- Consecutive pieces of `k` elements, at most `fuel` of them. -/
def chunks {α : Type} (k : Nat) : Nat → List α → List (List α)
  | 0, _ => []
  | fuel + 1, l => if l.isEmpty then [] else l.take k :: chunks k fuel (l.drop k)
def pieces {α : Type} (k : Nat) (l : List α) : List (List α) := chunks k l.length l

/-! ## Lists -/

def setAt {α : Type} : List α → Nat → α → List α
  | [], _, _ => []
  | _ :: l, 0, v => v :: l
  | x :: l, n + 1, v => x :: setAt l n v
def modAt {α : Type} (l : List α) (n : Nat) (f : α → α) : List α :=
  match l[n]? with
  | some x => setAt l n (f x)
  | none => l
/-- Insertion into a list sorted under `lt`, after equals: a stable insertion sort's step. -/
def insertBy {α : Type} (lt : α → α → Bool) (x : α) : List α → List α
  | [] => [x]
  | y :: l => if lt x y then x :: y :: l else y :: insertBy lt x l
/-- Stable sort under `lt`. -/
def sortBy {α : Type} (lt : α → α → Bool) (l : List α) : List α := l.foldl (fun acc x => insertBy lt x acc) []
def dedup {α : Type} [BEq α] (l : List α) : List α := l.foldl (fun acc x => if acc.contains x then acc else acc ++ [x]) []
def sumNat (l : List Nat) : Nat := l.foldl (· + ·) 0
def maxNat (l : List Nat) : Nat := l.foldl max 0
def indexOf {α : Type} (p : α → Bool) : List α → Option Nat
  | [] => none
  | x :: l => if p x then some 0 else (indexOf p l).map (· + 1)
/-- (position, element) pairs. -/
def enum {α : Type} (l : List α) : List (Nat × α) := (List.range l.length).zip l

/-! ## Memory by byte: an unlisted address reads as zero -/

def Mem.read (m : Mem) (a : Nat) : Byte := KMap.getD m a 0
def Mem.write (m : Mem) (a : Nat) (b : Byte) : Mem := KMap.setD m a 0 b
def Mem.readN (m : Mem) (a : Nat) : Nat → Bytes
  | 0 => []
  | n + 1 => Mem.read m a :: Mem.readN m (a + 1) n
def Mem.writeN (m : Mem) (a : Nat) : Bytes → Mem
  | [] => m
  | b :: bs => Mem.writeN (Mem.write m a b) (a + 1) bs
def Mem.readLe (m : Mem) (a n : Nat) : Nat := leNat (Mem.readN m a n)
def Mem.writeLe (m : Mem) (a n v : Nat) : Mem := Mem.writeN m a (leBytes n v)
/-- `n` zero bytes: everything listed in the range goes (an entry of zero is never listed). -/
def Mem.zero (m : Mem) (a n : Nat) : Mem := m.filter fun c => c.1 < a || a + n ≤ c.1
/-- `n` bytes copied from `a` to `b`. -/
def Mem.copy (m : Mem) (a b n : Nat) : Mem :=
  (m.filter fun c => decide (a ≤ c.1) && decide (c.1 < a + n)).foldl (fun x c => Mem.write x (c.1 - a + b) c.2) (Mem.zero m b n)
/-- The canonical form: addresses strictly rising and no zero byte listed. -/
def Mem.wf (m : Mem) : Bool := KMap.wf m && m.all fun c => c.2 != 0

/-! ## CRC-32C (Castagnoli, reflected) -/

def crcBits : Nat → W32 → W32
  | 0, c => c
  | n + 1, c => crcBits n (if c.getLsbD 0 then (c >>> 1) ^^^ 0x82F63B78 else c >>> 1)
def crcByte (c : W32) (b : Byte) : W32 := crcBits 8 (c ^^^ b.zeroExtend 32)
/-- CRC-32C of a byte string (R110, R341, Tables 15.3 and 15.11). -/
def crc32c (b : Bytes) : W32 := (b.foldl crcByte 0xFFFFFFFF) ^^^ 0xFFFFFFFF

/-! ## SM3 (named by R100, R335, R402, R410; the algorithm is that of its standard) -/

def rol (x : W32) (n : Nat) : W32 := x.rotateLeft n
def sm3P0 (x : W32) : W32 := x ^^^ rol x 9 ^^^ rol x 17
def sm3P1 (x : W32) : W32 := x ^^^ rol x 15 ^^^ rol x 23
/-- Message expansion: the 68 words from the first 16, newest first. -/
def sm3Expand : Nat → List W32 → List W32
  | 0, w => w
  | n + 1, w =>
    let g := fun k => w.getD (k - 1) 0
    let v := sm3P1 (g 16 ^^^ g 9 ^^^ rol (g 3) 15) ^^^ rol (g 13) 7 ^^^ g 6
    sm3Expand n (v :: w)
/-- The 64 rounds over the expanded words; the register is A … H. -/
def sm3Rounds : Nat → Nat → List W32 → List W32 → List W32
  | 0, _, _, v => v
  | n + 1, j, w, [a, b, c, d, e, f, g, h] =>
    let t : W32 := if j < 16 then 0x79CC4519 else 0x7A879D8A
    let ss1 := rol (rol a 12 + e + rol t (j % 32)) 7
    let ss2 := ss1 ^^^ rol a 12
    let ff := if j < 16 then a ^^^ b ^^^ c else (a &&& b) ||| (a &&& c) ||| (b &&& c)
    let gg := if j < 16 then e ^^^ f ^^^ g else (e &&& f) ||| (~~~e &&& g)
    let w0 := w.getD j 0
    let w1 := w0 ^^^ w.getD (j + 4) 0
    let tt1 := ff + d + ss2 + w1
    let tt2 := gg + h + ss1 + w0
    sm3Rounds n (j + 1) w [tt1, a, rol b 9, c, sm3P0 tt2, e, rol f 19, g]
  | _, _, _, v => v
def beNat (b : Bytes) : Nat := b.foldl (fun a x => a * 256 + x.toNat) 0
def sm3Block (v : List W32) (blk : Bytes) : List W32 :=
  let w := (pieces 4 blk).map fun x => BitVec.ofNat 32 (beNat x)
  let w := (sm3Expand 52 w.reverse).reverse
  List.zipWith (· ^^^ ·) (sm3Rounds 64 0 w v) v
def sm3IV : List W32 :=
  [0x7380166F, 0x4914B2B9, 0x172442D7, 0xDA8A0600, 0xA96F30BC, 0x163138AA, 0xE38DEE4D, 0xB0FB0E4E]
/-- The SM3 digest, its first byte most significant. -/
def sm3 (b : Bytes) : BitVec 256 :=
  let n := b.length
  let z := (119 - n % 64) % 64
  let msg := b ++ [0x80] ++ List.replicate z 0 ++ (leBytes 8 (8 * n)).reverse
  let v := (pieces 64 msg).foldl sm3Block sm3IV
  BitVec.ofNat 256 (v.foldl (fun a x => a * 2 ^ 32 + x.toNat) 0)
/-- The digest's 32 bytes in order. -/
def digestBytes (d : BitVec 256) : Bytes := (leBytes 32 d.toNat).reverse

/-! ## Philox 4×32-10 (R261) -/

def philox : Nat → Nat → Nat → List Nat → List Nat
  | 0, _, _, c => c
  | n + 1, k0, k1, [c0, c1, c2, c3] =>
    let p0 := 0xD2511F53 * c0
    let p1 := 0xCD9E8D57 * c2
    let m := 2 ^ 32
    philox n ((k0 + 0x9E3779B9) % m) ((k1 + 0xBB67AE85) % m)
      [(p1 >>> 32) ^^^ c1 ^^^ k0, p1 % m, (p0 >>> 32) ^^^ c3 ^^^ k1, p0 % m]
  | _, _, _, c => c

end Sys2Proof.Machine
end

