-- ==== Sys2Proof/Machine/Regions.lean ====
section
/-! DEFINITION. The device address map (Table 5.3, R106) and the granules of HBM and attic (R105, R108): which region holds which granule, and the
device addresses of a region's bytes. -/

namespace Sys2Proof.Machine

/-! ## Addresses (Table 5.3) -/

/-- First byte of a 4 KiB unit of HBM, of the attic, and of a lease window. -/
def hbmAt (unit : Nat) : Nat := 2 ^ 39 + unit * 4096
def attAt (unit : Nat) : Nat := 2 ^ 40 + unit * 4096
def leaseAt (w unit : Nat) : Nat := 2 ^ 41 + w * 2 ^ 37 + unit * 4096
/-- An address of no page: reads as zero, and writes to it are dropped (assumption 67). It is outside the 44-bit map. -/
def noAddr : Nat := 2 ^ 44
/-- Does a device address lie in a populated range (R106)? `gib`: the size of each lease window, 0 where none is held. -/
def populated (gib : Nat → Nat) (a : Nat) : Bool :=
  if a < 2 ^ 39 then decide (a / 0x1000000 < 34) && decide (a % 0x1000000 < 0xC00000)
  else if a < 2 ^ 40 then decide (a - 2 ^ 39 < Config.hbmGran * Config.granule)
  else if a < 2 ^ 41 then decide (a - 2 ^ 40 < Config.attGran * Config.granule)
  else if a < 2 ^ 42 then decide ((a - 2 ^ 41) % 2 ^ 37 < gib ((a - 2 ^ 41) / 2 ^ 37) * 2 ^ 30)
  else false

/-- Runs of bytes are written; a run to no address is dropped. -/
def writeRuns (m : Mem) (l : List (Nat × Bytes)) : Mem := (l.filter fun r => r.1 < noAddr).foldl (fun m r => Mem.writeN m r.1 r.2) m
/-- Byte ranges are copied, one (from, to, bytes) after the other, and byte ranges are zeroed. -/
def copyRuns (m : Mem) (l : List (Nat × Nat × Nat)) : Mem := l.foldl (fun m r => Mem.copy m r.1 r.2.1 r.2.2) m
def zeroRuns (m : Mem) (l : List (Nat × Nat)) : Mem := l.foldl (fun m r => Mem.zero m r.1 r.2) m

/-! ## Granules (R105, R108) -/

/-- Granules a region holds, and granules allocated to any region or share. -/
def granOfRegion (l : List GranRun) (r : Region) : Nat := sumNat ((l.filter fun x => x.region == r).map GranRun.count)
def granUsed (l : List GranRun) : Nat := sumNat ((l.filter fun x => x.region != .retired).map GranRun.count)
def granRetired (l : List GranRun) : Nat := granOfRegion l .retired
/-- `n` granules for a region below `cap`, the lowest free ones. -/
def granTake (r : Region) (cap : Nat) : Nat → Nat → List GranRun → List GranRun
  | at_, n, [] => if min n (cap - at_) = 0 then [] else [⟨r, at_, min n (cap - at_)⟩]
  | at_, n, x :: l =>
    let g := min n (x.first - at_)
    (if g = 0 then [] else [⟨r, at_, g⟩]) ++ x :: granTake r cap (x.first + x.count) (n - g) l
/-- The last `n` granules of a region are released; the runs come in falling order. -/
def granDrop (r : Region) : Nat → List GranRun → List GranRun
  | _, [] => []
  | n, x :: l => if x.region = r then (if x.count ≤ n then granDrop r (n - x.count) l else { x with count := x.count - n } :: l) else x :: granDrop r n l
/-- A region grows or shrinks to `n` granules. -/
def granSize (l : List GranRun) (cap : Nat) (r : Region) (n : Nat) : List GranRun :=
  let have_ := granOfRegion l r
  if have_ ≤ n then granTake r cap 0 (n - have_) l else (granDrop r (have_ - n) l.reverse).reverse
/-- The 4 KiB units of a region, as ranges of its tier's window: first unit, unit after the last. -/
def regionUnits (l : List GranRun) (r : Region) : List (Nat × Nat) :=
  ((l.filter fun x => x.region == r).map fun x => (512 * x.first, 512 * (x.first + x.count))).foldr
    (fun x acc => match acc with | y :: m => if x.2 = y.1 then (x.1, y.2) :: m else x :: y :: m | [] => [x]) []
/-- The unit of its tier's window that lies `k` units into a region. -/
def unitAt : List (Nat × Nat) → Nat → Option Nat
  | [], _ => none
  | x :: l, k => if k < x.2 - x.1 then some (x.1 + k) else unitAt l (k - (x.2 - x.1))
/-- One granule of the attic is retired: its region takes a free one in its place where there is one, and the answer names the region that lost it. -/
def granRetire (l : List GranRun) (cap g : Nat) : List GranRun × Option Region :=
  match l.find? fun x => decide (x.first ≤ g) && decide (g < x.first + x.count) with
  | none =>
    ((l.takeWhile fun x => x.first < g) ++ ⟨.retired, g, 1⟩ :: l.dropWhile fun x => x.first < g, none)
  | some x =>
    if x.region = .retired then (l, none)
    else
      let cut := [(⟨x.region, x.first, g - x.first⟩ : GranRun), ⟨.retired, g, 1⟩, ⟨x.region, g + 1, x.first + x.count - (g + 1)⟩].filter fun y => y.count ≠ 0
      (granTake x.region cap 0 1 (l.flatMap fun y => if y = x then cut else [y]), some x.region)

def Memory.hbmUsed (m : Memory) : Nat := granUsed m.hbm
def Memory.attUsed (m : Memory) : Nat := granUsed m.att
def Memory.attRetired (m : Memory) : Nat := granRetired m.att
def Memory.hbmSize (m : Memory) (r : Region) (n : Nat) : Memory := { m with hbm := granSize m.hbm Config.hbmGran r n }
def Memory.attSize (m : Memory) (r : Region) (n : Nat) : Memory := { m with att := granSize m.att Config.attGran r n }
/-- Device address of byte `off` of a region of HBM. -/
def Memory.hbmAddr (m : Memory) (r : Region) (off : Nat) : Option Nat := (unitAt (regionUnits m.hbm r) (off / 4096)).map fun u => hbmAt u + off % 4096
def Memory.attAddr (m : Memory) (r : Region) (off : Nat) : Option Nat := (unitAt (regionUnits m.att r) (off / 4096)).map fun u => attAt u + off % 4096

end Sys2Proof.Machine
end

