-- ==== Sys2Proof/Machine/Fp.lean ====
section
/-! DEFINITION. The number formats of Tables 0.3 and 2.1 to 2.3 and exact FP32 arithmetic: every operation is computed exactly and rounded once (R37 to R44, R442). -/

namespace Sys2Proof.Machine

/-- A decoded element: NaN, an infinity, or the finite number ± m × 2^e (m = 0 keeps its sign). -/
inductive Num where
  | nan
  | inf (neg : Bool)
  | fin (neg : Bool) (m : Nat) (e : Int)
  deriving DecidableEq, Repr

/-- An exact dyadic number m × 2^e. -/
structure Dy where
  m : Int
  e : Int
  deriving DecidableEq, Repr

/-- m × 2^k as an integer, for k ≥ 0. -/
def shl (m : Int) (k : Int) : Int := m * (2 ^ k.toNat : Nat)

def Dy.add (a b : Dy) : Dy :=
  if a.e ≤ b.e then ⟨a.m + shl b.m (b.e - a.e), a.e⟩ else ⟨shl a.m (a.e - b.e) + b.m, b.e⟩
def Dy.neg (a : Dy) : Dy := ⟨-a.m, a.e⟩
def Dy.mul (a b : Dy) : Dy := ⟨a.m * b.m, a.e + b.e⟩
def Dy.zero : Dy := ⟨0, 0⟩
def Dy.sum (l : List Dy) : Dy := l.foldl Dy.add Dy.zero
/-- a < b, compared exactly. -/
def Dy.lt (a b : Dy) : Bool := (a.add b.neg).m < 0
def Dy.le (a b : Dy) : Bool := (a.add b.neg).m ≤ 0

def Num.dy : Num → Dy
  | .fin n m e => ⟨if n then -(m : Int) else m, e⟩
  | _ => Dy.zero
def Num.isNan : Num → Bool
  | .nan => true
  | _ => false
def Num.isInf : Num → Bool
  | .inf _ => true
  | _ => false
def Num.isNeg : Num → Bool
  | .nan => false
  | .inf n => n
  | .fin n _ _ => n
def Num.isZero : Num → Bool
  | .fin _ 0 _ => true
  | _ => false
def Num.flip : Num → Num
  | .nan => .nan
  | .inf n => .inf (!n)
  | .fin n m e => .fin (!n) m e
def Num.ofInt (i : Int) (e : Int) : Num := .fin (decide (i < 0)) i.natAbs e

/-- Exact product; an infinity times a zero is NaN (R37). -/
def Num.mul : Num → Num → Num
  | .nan, _ => .nan
  | _, .nan => .nan
  | .inf a, .inf b => .inf (a != b)
  | .inf a, .fin b m _ => if m = 0 then .nan else .inf (a != b)
  | .fin a m _, .inf b => if m = 0 then .nan else .inf (a != b)
  | .fin a m e, .fin b n f => .fin (a != b) (m * n) (e + f)

/-- Exact sum; an exact sum of zero is +0 unless both terms are −0. -/
def Num.add : Num → Num → Num
  | .nan, _ => .nan
  | _, .nan => .nan
  | .inf a, .inf b => if a = b then .inf a else .nan
  | .inf a, .fin _ _ _ => .inf a
  | .fin _ _ _, .inf b => .inf b
  | .fin a m e, .fin b n f =>
    let d := (Num.fin a m e).dy.add (Num.fin b n f).dy
    if d.m = 0 then .fin (a && b) 0 0 else .ofInt d.m d.e

/-- x < y for non-NaN numbers, −0.0 equal to +0.0. -/
def Num.lt : Num → Num → Bool
  | .nan, _ => false
  | _, .nan => false
  | .inf a, .inf b => a && !b
  | .inf a, .fin _ _ _ => a
  | .fin _ _ _, .inf b => !b
  | .fin a m e, .fin b n f => (Num.fin a m e).dy.lt (Num.fin b n f).dy
def Num.eqv (x y : Num) : Bool := !x.isNan && !y.isNan && !x.lt y && !y.lt x

/-! ## Floating formats -/

/-- A floating format (Table 2.1): exponent and mantissa bits, bias, the code of its largest finite magnitude, whether it has infinities. -/
structure FpFmt where
  eb   : Nat
  mb   : Nat
  bias : Nat
  top  : Nat
  ieee : Bool

def fp32 : FpFmt := ⟨8, 23, 127, 0x7F7FFFFF, true⟩
def bf16 : FpFmt := ⟨8, 7, 127, 0x7F7F, true⟩
def fp16 : FpFmt := ⟨5, 10, 15, 0x7BFF, true⟩
def e4m3 : FpFmt := ⟨4, 3, 7, 0x7E, false⟩
def e5m2 : FpFmt := ⟨5, 2, 15, 0x7B, true⟩
def e3m2 : FpFmt := ⟨3, 2, 3, 0x1F, false⟩
def e2m3 : FpFmt := ⟨2, 3, 1, 0x1F, false⟩
def e2m1 : FpFmt := ⟨2, 1, 1, 0x7, false⟩

/-- The value of a code in a floating format; codes above the largest finite are infinities or NaN where the format has them (Table 2.1). -/
def FpFmt.decode (f : FpFmt) (b : Nat) : Num :=
  let neg := (b >>> (f.eb + f.mb)) % 2 = 1
  let mag := b % 2 ^ (f.eb + f.mb)
  let ex := mag >>> f.mb
  let mant := mag % 2 ^ f.mb
  if f.top < mag then
    if f.ieee && mant = 0 then .inf neg else .nan
  else if ex = 0 then .fin neg mant (1 - (f.bias : Int) - f.mb)
  else .fin neg (2 ^ f.mb + mant) ((ex : Int) - f.bias - f.mb)

/-- The magnitude code nearest to m × 2^e, ties to even, before any overflow: codes above `top` mean overflow (R42). -/
def FpFmt.roundMag (f : FpFmt) (m : Nat) (e : Int) : Nat :=
  if m = 0 then 0 else
  let emin : Int := 1 - f.bias
  let msb : Int := e + m.log2
  let q : Int := (if msb < emin then emin else msb) - f.mb
  let k : Int := q - e
  let n : Nat :=
    if k ≤ 0 then m * 2 ^ (-k).toNat
    else
      let s := k.toNat
      let base := m >>> s
      let rem := m % 2 ^ s
      let half := 2 ^ (s - 1)
      if half < rem || (rem = half && base % 2 = 1) then base + 1 else base
  ((q + f.mb + f.bias - 1).toNat) * 2 ^ f.mb + n

/-- The canonical quiet NaN of a format (R37, Table 2.2). -/
def FpFmt.nan (f : FpFmt) : Nat :=
  if f.ieee then (2 ^ f.eb - 1) * 2 ^ f.mb + 2 ^ (f.mb - 1) else f.top + 1
def FpFmt.signBit (f : FpFmt) (neg : Bool) : Nat := if neg then 2 ^ (f.eb + f.mb) else 0

/-- Conversion to a floating format (R42, Table 2.2): overflow becomes an infinity where the format has one and saturates otherwise;
E4M3's NaN is 0x7F; Table 2.2 gives e5m2 the NaN 0x7F. `sat` saturates in every format (R185). -/
def FpFmt.encode (f : FpFmt) (sat : Bool) : Num → Nat
  | .nan => if f.eb = 5 && f.mb = 2 then 0x7F else f.nan
  | .inf n => f.signBit n + (if f.ieee && !sat then f.top + 1 else f.top)
  | .fin n m e =>
    let r := f.roundMag m e
    f.signBit n + (if f.top < r then (if f.ieee && !sat then f.top + 1 else f.top) else r)

/-! ## FP32 operations, each rounded once to nearest even -/

def toNum (x : W32) : Num := fp32.decode x.toNat
def ofNum (x : Num) : W32 := BitVec.ofNat 32 (fp32.encode false x)
def nan32 : W32 := 0x7FC00000
def isNan32 (x : W32) : Bool := (toNum x).isNan
def isInf32 (x : W32) : Bool := (toNum x).isInf
def finite32 (x : W32) : Bool := !isNan32 x && !isInf32 x
def negInf32 : W32 := 0xFF800000
def posInf32 : W32 := 0x7F800000
def one32 : W32 := 0x3F800000

def fadd (x y : W32) : W32 := ofNum ((toNum x).add (toNum y))
def fneg (x : W32) : W32 := if isNan32 x then nan32 else x ^^^ 0x80000000
def fsub (x y : W32) : W32 := ofNum ((toNum x).add (toNum y).flip)
def fmul (x y : W32) : W32 := ofNum ((toNum x).mul (toNum y))
/-- x × y + z with one rounding. -/
def ffma (x y z : W32) : W32 := ofNum (((toNum x).mul (toNum y)).add (toNum z))
def flt (x y : W32) : Bool := (toNum x).lt (toNum y)
def feq (x y : W32) : Bool := (toNum x).eqv (toNum y)
def fge (x y : W32) : Bool := !isNan32 x && !isNan32 y && !flt x y
def fabs (x : W32) : W32 := x &&& 0x7FFFFFFF
/-- An integer as FP32. -/
def ofNat32 (n : Nat) : W32 := ofNum (.fin false n 0)

/-- Quotient of finite numbers with a sticky bit below 64 extra bits. -/
def divNum : Num → Num → Num
  | .nan, _ => .nan
  | _, .nan => .nan
  | .inf _, .inf _ => .nan
  | .inf a, .fin b _ _ => .inf (a != b)
  | .fin a _ _, .inf b => .fin (a != b) 0 0
  | .fin a m e, .fin b n f =>
    if n = 0 then (if m = 0 then .nan else .inf (a != b))
    else if m = 0 then .fin (a != b) 0 0
    else
      let k := 64 + n.log2
      let t := m * 2 ^ k
      .fin (a != b) (2 * (t / n) + (if t % n = 0 then 0 else 1)) (e - f - k - 1)
/-- Correctly rounded division (R74). -/
def fdiv (x y : W32) : W32 := ofNum (divNum (toNum x) (toNum y))

/-- Integer square root by bisection on bits: the largest r with r × r ≤ n, for r below 2^k. -/
def isqrt (n : Nat) : Nat → Nat → Nat
  | 0, r => r
  | k + 1, r =>
    let t := r + 2 ^ k
    if t * t ≤ n then isqrt n k t else isqrt n k r

/-- Correctly rounded square root (R442, Table 3.4). -/
def fsqrt (x : W32) : W32 :=
  match toNum x with
  | .nan => nan32
  | .inf n => if n then nan32 else posInf32
  | .fin n m e =>
    if m = 0 then x
    else if n then nan32
    else
      let (m, e) := if e % 2 = 0 then (m * 2 ^ 64, e - 64) else (m * 2 ^ 65, e - 65)
      let r := isqrt m 48 0
      ofNum (.fin false (2 * r + (if r * r = m then 0 else 1)) (e / 2 - 1))

/-! ## Exponentials in fixed point (256 fraction bits) -/

/-- ln 2 × 2^256, rounded down. -/
def ln2Fix : Nat := 80260960185991308862233904206310070533990667611589946606122867505419956976171

/-- 1 + t/1 + t²/2 + … in fixed point: `term` is t^k / k!, `fuel` further terms. -/
def expSeries (t : Nat) : Nat → Nat → Nat → Nat
  | 0, _, _ => 0
  | fuel + 1, k, term =>
    let next := term * t / (2 ^ 256 * (k + 1))
    term + expSeries t fuel (k + 1) next

/-- 2^(f / 2^256) × 2^256 for f below 2^256, from below within 2^-240. -/
def exp2Frac (f : Nat) : Nat := expSeries (f * ln2Fix / 2 ^ 256) 60 0 (2 ^ 256)

/-- The fixed-point parts of a dyadic number: its floor and its fraction × 2^256 (exact for 256 or fewer fraction bits). -/
def floorFrac (d : Dy) : Int × Nat :=
  if 0 ≤ d.e then (shl d.m d.e, 0)
  else
    let p := (2 ^ (-d.e).toNat : Nat)
    (d.m / p, ((d.m % p).toNat * 2 ^ 256) / p)

/-- exp2, correctly rounded (R442, Tables 3.3 and 3.4). A power of two with a fraction is irrational, so it is never a tie and a sticky bit stands for its tail. -/
def fexp2 (x : W32) : W32 :=
  match toNum x with
  | .nan => nan32
  | .inf n => if n then 0 else posInf32
  | .fin n m e =>
    let d := (Num.fin n m e).dy
    if Dy.le ⟨128, 0⟩ d then posInf32
    else if Dy.le d ⟨-150, 0⟩ then 0
    else
      let (i, f) := floorFrac d
      if f = 0 then ofNum (.fin false 1 i)
      else ofNum (.fin false (2 * exp2Frac f + 1) (i - 257))

/-! ## Elements of every format code (Table 0.3) -/

/-- A format's element bits (Table 0.3). -/
def fmtBits : Nat → Nat
  | 0x0 => 32 | 0x1 => 16 | 0x2 => 16 | 0x7 => 6 | 0x8 => 6 | 0x9 => 4 | 0xB => 4 | _ => 8
/-- Is the format block-scaled (codes 0x6 to 0xB)? -/
def fmtBlock (c : Nat) : Bool := 6 ≤ c && c ≤ 11
/-- Bytes of one block scale: an E8M0 byte, or an FP16 value for code 0xB, or none. -/
def scaleBytes (c : Nat) : Nat := if c = 11 then 2 else if fmtBlock c then 1 else 0
def fmtValid (c : Nat) : Bool := c ≤ 11

/-- A two's-complement code of `w` bits as an integer. -/
def signed (w b : Nat) : Int := if b % 2 ^ w < 2 ^ (w - 1) then (b % 2 ^ w : Nat) else ((b % 2 ^ w : Nat) : Int) - (2 ^ w : Nat)

/-- The exact value of an element without its block scale (R37 `decode`). -/
def decodeElem (c b : Nat) : Num :=
  match c with
  | 0x0 => fp32.decode b
  | 0x1 => bf16.decode b
  | 0x2 => fp16.decode b
  | 0x3 => e4m3.decode b
  | 0x4 => e5m2.decode b
  | 0x5 => .ofInt (signed 8 b) 0
  | 0x6 => e4m3.decode b
  | 0x7 => e3m2.decode b
  | 0x8 => e2m3.decode b
  | 0x9 => e2m1.decode b
  | 0xA => .ofInt (signed 8 b) (-6)
  | _ => .ofInt (signed 4 b) 0

/-- A block scale's value: E8M0 (0xFF is NaN) for 0x6 to 0xA, FP16 for 0xB (R38), 1 where the format has no block. -/
def decodeScale (c s : Nat) : Num :=
  if c = 11 then fp16.decode s
  else if fmtBlock c then (if s = 0xFF then .nan else .fin false 1 ((s : Int) - 127))
  else .fin false 1 0

/-- An element with its block scale, rounded to FP32 (R64). A NaN scale makes the element NaN; a zero has the sign of the product of the two signs
(assumption 146). -/
def elem32 (c s b : Nat) : W32 :=
  match decodeScale c s with
  | .nan => nan32
  | sc => ofNum ((decodeElem c b).mul sc)

/-- Nearest integer to a dyadic number, ties to even. -/
def roundInt (d : Dy) : Int :=
  if 0 ≤ d.e then shl d.m d.e
  else
    let p := (2 ^ (-d.e).toNat : Nat)
    let q := d.m / p
    let r := d.m % p
    if (p : Int) < 2 * r || ((p : Int) = 2 * r && q % 2 = 1) then q + 1 else q

/-- Conversion to an integer element of `w` bits: saturates, NaN becomes 0 (Table 2.2). -/
def intElem (w : Nat) : Num → Nat
  | .nan => 0
  | .inf n => if n then 2 ^ (w - 1) else 2 ^ (w - 1) - 1
  | .fin n m e =>
    let i := roundInt (Num.fin n m e).dy
    let hi : Int := (2 ^ (w - 1) : Nat) - 1
    let i := if hi < i then hi else if i < -hi - 1 then -hi - 1 else i
    (i % (2 ^ w : Nat)).toNat

/-- Conversion of one value to the element code of a format, without its scale. -/
def encodeElem (c : Nat) (sat : Bool) (x : Num) : Nat :=
  match c with
  | 0x0 => fp32.encode sat x
  | 0x1 => bf16.encode sat x
  | 0x2 => fp16.encode sat x
  | 0x3 => e4m3.encode sat x
  | 0x4 => e5m2.encode sat x
  | 0x5 => intElem 8 x
  | 0x6 => e4m3.encode sat x
  | 0x7 => if x.isNan then Config.mxNan 7 % 64 else e3m2.encode sat x
  | 0x8 => if x.isNan then Config.mxNan 8 % 64 else e2m3.encode sat x
  | 0x9 => if x.isNan then Config.mxNan 9 % 16 else e2m1.encode sat x
  | 0xA => intElem 8 (x.mul (.fin false 1 6))
  | _ => intElem 4 x

/-- Shared-scale emax (Table 2.3). -/
def emaxOf : Nat → Int
  | 0x6 => 8 | 0x7 => 4 | 0x8 => 2 | 0x9 => 2 | _ => 0

/-- The largest magnitude of a list, NaNs left out: none when an infinity is present. -/
def amax (l : List Num) : Option Dy :=
  l.foldl (fun a x => match a, x with
    | none, _ => none
    | _, .inf _ => none
    | some d, .nan => some d
    | some d, .fin _ m e => if Dy.lt d ⟨m, e⟩ then some ⟨m, e⟩ else some d) (some Dy.zero)

/-- X of R43: floor(log2 amax) − emax limited to −127…127; −127 for 0 and 127 for an infinity. -/
def sharedExp (c : Nat) (l : List Num) : Int :=
  match amax l with
  | none => 127
  | some d =>
    if d.m = 0 then -127
    else
      let x : Int := d.e + d.m.natAbs.log2 - emaxOf c
      if x < -127 then -127 else if 127 < x then 127 else x

/-- A block of up to 32 FP32 values in a block format: the scale's code and the element codes (R43, R44). With a NaN in an MX block, X is that of the other
values; where the INT4 scale of a block that is not all zeros rounds to zero, elements divide by that zero (assumption 144). -/
def encodeBlock (c : Nat) (l : List W32) : Nat × List Nat :=
  let ns := l.map toNum
  if c = 11 then
    match amax ns with
    | some d =>
      if d.m = 0 then (0, ns.map fun _ => 0)
      else
        let s := fp16.encode true (divNum (.fin false d.m.natAbs d.e) (.fin false 7 0))
        (s, ns.map fun x => intElem 4 (divNum x (fp16.decode s)))
    | none => (0x7BFF, ns.map fun x => intElem 4 (divNum x (fp16.decode 0x7BFF)))
  else
    let x := sharedExp c ns
    let sc := if ns.any Num.isNan then 0xFF else (x + 127).toNat
    (sc, ns.map fun v => encodeElem c true (v.mul (.fin false 1 (-x))))

/-- A value in a format without blocks (R42). -/
def encodePlain (c : Nat) (x : W32) : Nat := encodeElem c false (toNum x)

/-! ## The column of a pass (R37, R38) -/

/-- One segment: element codes of 32 rows, the two formats, the two scale codes. -/
def segment (fa fw : Nat) (sa sw : Nat) (a w : List Nat) : W32 :=
  let p := List.zipWith (fun x y => (decodeElem fa x).mul (decodeElem fw y)) a w
  let ca := decodeScale fa sa
  let cw := decodeScale fw sw
  if ca.isNan || cw.isNan || p.any Num.isNan || (p.any (fun x => x == .inf true) && p.any (fun x => x == .inf false)) then nan32
  else if p.any Num.isInf then (if p.any (fun x => x == .inf true) then negInf32 else posInf32)
  else
    let d := Dy.sum (p.map Num.dy)
    let exact := ((Num.ofInt d.m d.e).mul ca).mul cw
    match exact with
    | .fin _ 0 _ => 0
    | v => ofNum v

/-- A column: segments in order from segment 0, each added in FP32. -/
def column (acc : W32) (accumulate : Bool) (segs : List W32) : W32 := segs.foldl fadd (if accumulate then acc else 0)

end Sys2Proof.Machine
end

