-- ==== Sys2Proof/Machine/Sfu.lean ====
section
/-! DEFINITION. The functions of Table 3.3. exp2 and sqrt are correctly rounded; for the others R442 leaves the bits to the silicon revision:
they are a free value (Config.sfuBits) held within the bounds of Table 3.3, the special values of Table 3.4 and the order of Table 3.5. -/

namespace Sys2Proof.Machine

/-- 2^256: the unit of the fixed-point approximations. -/
def fx : Nat := 2 ^ 256

/-- e^(X / 2^256) × 2^256, for X below 200 units; 0 below −180 units. -/
def expFix (x : Int) : Nat :=
  if x < -(180 * (fx : Int)) then 0
  else
    let n := x / (ln2Fix : Int)
    let r := (x % (ln2Fix : Int)).toNat
    let v := expSeries r 60 0 fx
    if 0 ≤ n then v * 2 ^ n.toNat else v / 2 ^ (-n).toNat

/-- z + z³/3 + z⁵/5 + … in fixed point. -/
def atanhSeries (z2 : Nat) : Nat → Nat → Nat → Nat
  | 0, _, _ => 0
  | fuel + 1, k, term => term / k + atanhSeries z2 fuel (k + 2) (term * z2 / fx)

/-- ln(V / 2^256) × 2^256 for V > 0. -/
def lnFix (v : Nat) : Int :=
  let s : Int := (v.log2 : Int) - 256
  let m := if 0 ≤ s then v / 2 ^ s.toNat else v * 2 ^ (-s).toNat
  let z := (m - fx) * fx / (m + fx)
  s * ln2Fix + 2 * (atanhSeries (z * z / fx) 90 1 z : Nat)

/-- x − x³/3! + … (odd) or 1 − x²/2! + … (even) in fixed point. -/
def trigSeries (x2 : Int) : Nat → Int → Int → Int
  | 0, _, _ => 0
  | fuel + 1, k, term => term + trigSeries x2 fuel (k + 2) (-(term * x2 / fx) / ((k + 1) * (k + 2)))

/-- π × 2^704. -/
def piFix : Nat :=
  264403268883012705961215481775599042848418374888344276058790861507563038066793830584963766254396824970443804706008333738387005015972170825399883524799105906232755937692199376453092690782199107514464641950200553399

/-- A dyadic number × 2^k, rounded down. -/
def Dy.fix (d : Dy) (k : Nat) : Int :=
  let e := d.e + k
  if 0 ≤ e then shl d.m e else d.m / (2 ^ (-e).toNat : Nat)

/-- x reduced modulo 2π, in fixed point. -/
def trigArg (d : Dy) : Int := (d.fix 704 % (2 * piFix : Int)) / (2 ^ 448 : Nat)

/-- The exact function value of Table 3.3, to far more bits than its bounds ask for. -/
def sfuExact (code : Nat) (d : Dy) : Dy :=
  let x := d.fix 256
  let one : Int := fx
  match code with
  | 0x02 => ⟨((d.e + (d.m.natAbs.log2 : Int)) * one + (lnFix (d.m.natAbs * fx / 2 ^ d.m.natAbs.log2)) * one / ln2Fix), -256⟩
  | 0x03 => (divNum (.fin false 1 0) (.ofInt d.m d.e)).dy
  | 0x04 =>
    let (m, e) := if d.e % 2 = 0 then (d.m.natAbs * 2 ^ 400, d.e - 400) else (d.m.natAbs * 2 ^ 401, d.e - 401)
    (divNum (.fin false 1 0) (.fin false (isqrt m 220 0) (e / 2))).dy
  | 0x06 => if 180 * one < x then ⟨1, 0⟩ else let t : Int := expFix x; ⟨t * one / (one + t), -256⟩
  | 0x07 => let t : Int := expFix (2 * x); ⟨(t - one) * one / (t + one), -256⟩
  | 0x08 =>
    -- 0.5 x (1 + tanh u) = x × sigmoid(2u), u = √(2/π)(x + 0.044715 x³)
    if 16 * one < x || x < -(16 * one) then (if 0 < x then d else Dy.zero) else
    let c : Int := (isqrt (2 * fx * fx * 2 ^ 704 / piFix) 300 0 : Nat)
    let cube := x * x / one * x / one * 44715 / 1000000
    let u := c * (x + cube) / one
    if 85 * one < u then d else
    let t : Int := expFix (2 * u)
    ⟨x * t / (one + t), -256⟩
  | 0x09 => if 180 * one < x then d else let t : Int := expFix x; ⟨x * t / (one + t), -256⟩
  | 0x0A => if 180 * one < x then d else ⟨lnFix (fx + expFix x), -256⟩
  | 0x0B => let a := trigArg d; ⟨trigSeries (a * a / one) 90 1 a, -256⟩
  | 0x0C => let a := trigArg d; ⟨trigSeries (a * a / one) 90 0 one, -256⟩
  | _ => d

/-- One ULP of y (03, Functions and accuracy). -/
def ulp (d : Dy) : Dy :=
  if d.m = 0 then ⟨1, -149⟩
  else
    let e : Int := d.e + d.m.natAbs.log2
    ⟨1, (if e < -126 then -126 else e) - 23⟩

def Dy.abs (d : Dy) : Dy := ⟨d.m.natAbs, d.e⟩
def Dy.max (a b : Dy) : Dy := if a.lt b then b else a

/-- The maximum error of Table 3.3 for a finite input d with exact value v. -/
def sfuTol (code : Nat) (d v : Dy) : Dy :=
  let a := d.abs
  let ulps : Int → Dy := fun n => (⟨n, 0⟩ : Dy).mul (ulp v)
  let sub := a.lt ⟨1, -126⟩
  let rel : Int → Dy := fun k => v.abs.mul ⟨1, k⟩
  let gt : Int → Bool := fun n => Dy.lt ⟨n, 0⟩ d
  match code with
  | 0x02 => if sub then ulps 2 else if (d.add ⟨-1, 0⟩).abs.lt ⟨1, -4⟩ then ⟨1, -28⟩ else ulps 1
  | 0x03 => if Dy.lt ⟨1, 126⟩ a then ⟨1, -149⟩ else ulps 1
  | 0x04 => if sub then ulps 8 else ulps 1
  | 0x06 => if gt 16 then ⟨1, -24⟩ else if d.lt ⟨-16, 0⟩ then rel (-8) else ulps 2
  | 0x07 => ulps 2
  | 0x08 => if d.lt ⟨-8, 0⟩ then ⟨1, -30⟩ else (ulps 4).max ⟨1, -24⟩
  | 0x09 => if gt 16 then rel (-22) else if d.lt ⟨-16, 0⟩ then rel (-8) else (ulps 4).max ⟨1, -24⟩
  | 0x0A => if gt 20 then ulps 1 else if d.lt ⟨-20, 0⟩ then rel (-8) else ulps 2
  | 0x0B => if Dy.lt ⟨1, 20⟩ a then ⟨1, -8⟩ else ⟨1, -22⟩
  | 0x0C => if Dy.lt ⟨1, 20⟩ a then ⟨1, -8⟩ else ⟨1, -22⟩
  | _ => Dy.zero

/-- The exact value rounded to FP32. -/
def roundDy (v : Dy) : W32 := ofNum (.ofInt v.m v.e)

/-- The exact value rounded to nearest. -/
def sfuNearest (code : Nat) (x : W32) : W32 := roundDy (sfuExact code (toNum x).dy)
/-- The largest finite FP32 value. -/
def maxFinite : Dy := ⟨16777215, 104⟩
/-- The revision's bits where they lie within the bound of Table 3.3; where the exact value is outside FP32 range, ±∞ (R69). Where no FP32 value lies
within the bound (sigmoid, SiLU and softplus below the least subnormals), the exact value rounded to nearest (assumption 148). -/
def sfuBounded (code : Nat) (x : W32) : W32 :=
  let d := (toNum x).dy
  let v := sfuExact code d
  let y := Config.sfuBits code x
  if v.abs.le maxFinite && finite32 y && (((toNum y).dy.add v.neg).abs.le (sfuTol code d v)) then y else sfuNearest code x

/-- Special inputs of Table 3.4: the fixed result, if the input is special for the function. -/
def sfuSpecial (code : Nat) (x : W32) : Option W32 :=
  let half : W32 := 0x3F000000
  let ln2 : W32 := 0x3F317218
  match toNum x with
  | .nan => some nan32
  | .inf false =>
    match code with
    | 0x03 => some 0
    | 0x04 => some 0
    | 0x06 => some one32
    | 0x07 => some one32
    | 0x0B => some nan32
    | 0x0C => some nan32
    | _ => some posInf32
  | .inf true =>
    match code with
    | 0x00 => some x
    | 0x01 => some 0
    | 0x03 => some 0x80000000
    | 0x06 => some 0
    | 0x07 => some 0xBF800000
    | 0x08 => some 0x80000000
    | 0x09 => some 0x80000000
    | 0x0A => some 0
    | _ => some nan32
  | .fin neg 0 _ =>
    match code with
    | 0x01 => some one32
    | 0x02 => some negInf32
    | 0x03 => some (if neg then negInf32 else posInf32)
    | 0x04 => some (if neg then negInf32 else posInf32)
    | 0x06 => some half
    | 0x0A => some ln2
    | 0x0C => some one32
    | _ => some x
  | .fin true _ _ => if code = 0x02 || code = 0x04 || code = 0x05 then some nan32 else none
  | .fin false _ _ => none

/-- Results Table 3.3 fixes outside a function's range, and within it those of `value`. -/
def sfuRanged (value : Nat → W32 → W32) (code : Nat) (x : W32) : W32 :=
  match code with
  | 0x07 => if Dy.lt ⟨10, 0⟩ (toNum x).dy.abs then (if (toNum x).isNeg then 0xBF800000 else one32) else value code x
  | 0x08 => if Dy.lt ⟨8, 0⟩ (toNum x).dy then x else value code x
  | _ => value code x

/-! ## Monotonicity (R71) -/

/-- Boundary `k` of sin or cos in Table 3.5, (2k − half) × π/2, as the FP32 value nearest to it. -/
def trigBound (half : Nat) (k : Int) : W32 := roundDy ⟨(2 * k - half) * piFix, -705⟩
/-- Does the trigonometric interval `k` hold both inputs? -/
def trigHolds (half : Nat) (k : Int) (a b : W32) : Bool := !flt a (trigBound half k) && !flt (trigBound half (k + 1)) b
/-- The interval of Table 3.5 that holds two inputs, if one does: `true` where the function rises on it. Where one FP32 step is longer than a period
(sin and cos from 2^26 on), the rounded boundaries hold no interval (assumption 148). -/
def sfuSlope (code : Nat) (a b : W32) : Option Bool :=
  let sameSign := a.getLsbD 31 == b.getLsbD 31
  let turn := fun (z : W32) => if !flt a z then some true else if !flt z b then some false else none
  let trig := fun (half : Nat) (up : Int) =>
    let d := (toNum a).dy
    if !finite32 a || !finite32 b || Dy.le ⟨1, 26⟩ d.abs || Dy.le ⟨1, 26⟩ (toNum b).dy.abs then none
    else
      let q := (2 * d.fix 704 + half * piFix) / (2 * piFix : Int)
      ([q - 1, q, q + 1].find? fun k => trigHolds half k a b).map fun k => k % 2 == up
  match code with
  | 0x02 => some true
  | 0x03 => if sameSign then some false else none
  | 0x04 => if a.getLsbD 31 || b.getLsbD 31 then none else some false
  | 0x06 => some true
  | 0x07 => some true
  | 0x08 => turn 0xBF40756A
  | 0x09 => turn 0xBFA3A4BA
  | 0x0A => some true
  | 0x0B => trig 1 0
  | 0x0C => trig 0 1
  | _ => none
/-- An SFU function of the revision's own bits, each within its bound. -/
def sfuRevised (code : Nat) (x : W32) : W32 :=
  match sfuSpecial code x with
  | some y => y
  | none => sfuRanged sfuBounded code x
/-- R71 for one pair of inputs: the results keep the order of their interval. -/
def sfuOrdered (code : Nat) (a b : W32) : Bool :=
  let fa := sfuRevised code a
  let fb := sfuRevised code b
  !flt a b || isNan32 fa || isNan32 fb || match sfuSlope code a b with
    | some true => !flt fb fa
    | some false => !flt fa fb
    | none => true
/-- Do the revision's bits of a function hold R71 over all inputs? -/
def sfuMonotone (code : Nat) : Bool := decide (∀ a b : W32, sfuOrdered code a b = true)

/-- An SFU function (Tables 3.3 and 3.4). The bits are a revision's (R442) whose functions hold Table 3.5; with bits that do not, each value is the nearest,
which holds it. -/
def sfuFn (code : Nat) (x : W32) : W32 :=
  match sfuSpecial code x with
  | some y => y
  | none =>
    match code with
    | 0x00 => x
    | 0x01 => fexp2 x
    | 0x05 => fsqrt x
    | _ => if sfuMonotone code then sfuRanged sfuBounded code x else sfuRanged sfuNearest code x

/-- Function codes of Table 3.3: the fused functions and the statistics. -/
def sfuFused (code : Nat) : Bool := code ≤ 0x0C
def sfuStat (code : Nat) : Bool := 0x10 ≤ code && code ≤ 0x12

/-- The fused form y = act(x × s_in + bias) × s_out before its conversion (R72). -/
def fused (code : Nat) (x sIn bias sOut : W32) : W32 := fmul (sfuFn code (ffma x sIn bias)) sOut

/-! ## Row statistics (R74 to R76) -/

/-- One lane's state: element count, and two FP32 values: (m, s), (mean, m2) or (unused, q). -/
structure Lane where
  n : Nat
  a : W32
  b : W32
  deriving DecidableEq, Repr

/-- The larger of two FP32 values; NaN when either is NaN. -/
def fmax (x y : W32) : W32 :=
  if isNan32 x || isNan32 y then nan32
  else if flt x y then y
  else if flt y x then x
  else if (toNum x).isNeg then y else x
def fmin (x y : W32) : W32 :=
  if isNan32 x || isNan32 y then nan32
  else if flt x y then x
  else if flt y x then y
  else if (toNum x).isNeg then x else y

def laneInit (code : Nat) : Lane := if code = 0x10 then ⟨0, negInf32, 0⟩ else ⟨0, 0, 0⟩
/-- element(t) of R74. -/
def laneElem (code : Nat) (t : W32) : Lane :=
  match code with
  | 0x10 => ⟨1, t, one32⟩
  | 0x11 => ⟨1, t, 0⟩
  | _ => ⟨1, 0, fmul t t⟩
/-- combine of R74. The larger of −0.0 and +0.0 is +0.0 (assumption 146). -/
def laneCombine (code : Nat) (x y : Lane) : Lane :=
  match code with
  | 0x10 =>
    let m := fmax x.a y.a
    if m = negInf32 then ⟨x.n + y.n, m, 0⟩
    else ⟨x.n + y.n, m, fadd (fmul x.b (fexp2 (fsub x.a m))) (fmul y.b (fexp2 (fsub y.a m)))⟩
  | 0x11 =>
    if y.n = 0 then x else if x.n = 0 then y
    else
      let n := x.n + y.n
      let d := fsub y.a x.a
      ⟨n, fadd x.a (fmul d (fdiv (ofNat32 y.n) (ofNat32 n))),
        fadd (fadd x.b y.b) (fmul (fmul d d) (fdiv (ofNat32 (x.n * y.n)) (ofNat32 n)))⟩
  | _ => ⟨x.n + y.n, 0, fadd x.b y.b⟩

/-- Feed elements to 256 lanes, the first at position `i` of its row. -/
def laneFeed (code : Nat) (ls : List Lane) (i : Nat) : List W32 → List Lane
  | [] => ls
  | t :: ts =>
    let l := i % 256
    laneFeed code (match ls[l]? with
      | some s => (ls.take l) ++ laneCombine code s (laneElem code t) :: ls.drop (l + 1)
      | none => ls) (i + 1) ts

/-- The fixed pairing tree (R74 `finish`): halve the width `n` times. -/
def laneTree (code : Nat) : Nat → List Lane → List Lane
  | 0, ls => ls
  | n + 1, ls =>
    let w := 2 ^ n
    laneTree code n (List.zipWith (laneCombine code) (ls.take w) ((ls.drop w).take w))

/-- A statistic over a row: the results' first and second word, the element count, and the NaN bit (R74, R76, Table 3.6). -/
def statFinish (code : Nat) (ls : List Lane) (sawNan : Bool) : W32 × W32 × Nat × Bool :=
  let r := ((laneTree code 8 ls)[0]?).getD (laneInit code)
  if sawNan then (nan32, if code = 0x12 then 0 else nan32, r.n, true)
  else match code with
    | 0x10 => (r.a, r.b, r.n, false)
    | 0x11 => (r.a, fdiv r.b (ofNat32 r.n), r.n, false)
    | _ => (fdiv r.b (ofNat32 r.n), 0, r.n, false)

/-- The statistic of a whole row held in one list (R259's softmax_stats). -/
def rowStats (code : Nat) (row : List W32) : W32 × W32 :=
  let bad := row.any fun t => isNan32 t || (code = 0x10 && t = posInf32)
  let r := statFinish code (laneFeed code (List.replicate 256 (laneInit code)) 0 row) bad
  (r.1, r.2.1)

end Sys2Proof.Machine
end

