-- ==== Sys2Proof/Machine/Ops.lean ====
section
/-! DEFINITION. Operations every family shares: parts of the state, free values, host memory, status codes, the black box, interrupts,
rings and completions. -/

namespace Sys2Proof.Machine

/-! ## Parts of the state -/

def State.onPorch (s : State) (f : Porch → Porch) : State := { s with porch := f s.porch }
def State.onSch (s : State) (f : Sch → Sch) : State := { s with sch := f s.sch }
def State.onMem (s : State) (f : Memory → Memory) : State := { s with mem := f s.mem }
/-- A region of HBM, of the attic, has `n` granules from here on. -/
def State.hbmSize (s : State) (r : Region) (n : Nat) : State := s.onMem fun m => m.hbmSize r n
/-- Units of the attic are zero-filled. -/
def State.zeroRegion (s : State) (units : List (Nat × Nat)) : State :=
  s.onMem fun m => { m with bytes := zeroRuns m.bytes (units.map fun u => (attAt u.1, 4096 * (u.2 - u.1))) }
def State.attSize (s : State) (r : Region) (n : Nat) : State := s.onMem fun m => m.attSize r n
def State.onRet (s : State) (f : Ret → Ret) : State := { s with ret := f s.ret }
def State.onTbl (s : State) (f : Tbl → Tbl) : State := { s with tbl := f s.tbl }
def State.onCel (s : State) (f : Cel → Cel) : State := { s with cel := f s.cel }
def State.onFab (s : State) (f : Fab → Fab) : State := { s with fab := f s.fab }
def State.onRas (s : State) (f : Ras → Ras) : State := { s with ras := f s.ras }
def State.onBbx (s : State) (f : Bbx → Bbx) : State := { s with bbx := f s.bbx }
def State.onPwr (s : State) (f : Pwr → Pwr) : State := { s with pwr := f s.pwr }
def State.onBoot (s : State) (f : Boot → Boot) : State := { s with boot := f s.boot }
def State.onSvc (s : State) (f : Svc → Svc) : State := { s with svc := f s.svc }

/-- A function over a list of things, state carried along. -/
def State.each {α : Type} (s : State) (l : List α) (f : State → α → State) : State := l.foldl f s
/-- `f` where `c` holds, else the state as it is. -/
def State.iff (s : State) (c : Bool) (f : State → State) : State := if c then f s else s

/-- A fresh free number (Config.freeNat): the model's counter advances. -/
def State.fresh (s : State) : Nat × State := (Config.freeNat s.freeCtr, { s with freeCtr := s.freeCtr + 1 })

def State.part (s : State) (p : Nat) : Part := KMap.getD s.sch.parts p Part.reset
def State.onPart (s : State) (p : Nat) (f : Part → Part) : State := s.onSch fun c => { c with parts := KMap.modD c.parts p Part.reset f }
def State.req? (s : State) (n : Nat) : Option Req := KMap.get? s.sch.slots n
def State.onReq (s : State) (n : Nat) (f : Req → Req) : State := s.onSch fun c => { c with slots := KMap.mod c.slots n f }
def State.core (s : State) (c : Nat) : Core := KMap.getD s.cores c Core.reset
def State.onCore (s : State) (c : Nat) (f : Core → Core) : State := { s with cores := KMap.modD s.cores c Core.reset f }
def State.qp (s : State) (k : Nat) : Qp := KMap.getD s.porch.qps k Qp.reset
def State.onQp (s : State) (k : Nat) (f : Qp → Qp) : State := s.onPorch fun p => { p with qps := KMap.modD p.qps k Qp.reset f }
def State.index? (s : State) (i : Nat) : Option Index := KMap.get? s.ret.indexes i
def State.onIndex (s : State) (i : Nat) (f : Index → Index) : State := s.onRet fun r => { r with indexes := KMap.mod r.indexes i f }
def State.table? (s : State) (t : Nat) : Option Table := KMap.get? s.tbl.tables t
def State.onTable (s : State) (t : Nat) (f : Table → Table) : State := s.onTbl fun r => { r with tables := KMap.mod r.tables t f }
def State.die (s : State) (d : Nat) : Die := KMap.getD s.cel.dies d Die.reset
def State.onDie (s : State) (d : Nat) (f : Die → Die) : State := s.onCel fun c => { c with dies := KMap.modD c.dies d Die.reset f }
def State.port (s : State) (p : Nat) : Port := KMap.getD s.fab.ports p Port.reset
def State.onPort (s : State) (p : Nat) (f : Port → Port) : State := s.onFab fun b => { b with ports := KMap.modD b.ports p Port.reset f }
def State.dom (s : State) (d : Nat) : DomState := KMap.getD s.pwr.doms d .off
def State.setDom (s : State) (d : Nat) (v : DomState) : State := s.onPwr fun w => { w with doms := KMap.setD w.doms d .off v }

/-- Key of a queue pair. -/
def qpKey (fn : Fn) (qp : QpNo) : Nat := 64 * fn.val + qp.val

/-! ## Host memory: 64-bit addresses; an address counter wraps at 2^64 -/

def hostAddr (a : Nat) : Nat := a % 2 ^ 64
def hostWriteM (m : Mem) (a : Nat) : Bytes → Mem
  | [] => m
  | b :: bs => hostWriteM (Mem.write m (hostAddr a) b) (a + 1) bs
def State.hostWrite (s : State) (a : Nat) (b : Bytes) : State := { s with host := hostWriteM s.host a b }
def State.hostRead (s : State) (a : Nat) : Nat → Bytes
  | 0 => []
  | n + 1 => Mem.read s.host (hostAddr a) :: State.hostRead s (a + 1) n

/-- The byte string a data list names (12, Submission entries): entries of 16 bytes, address and length; `none` where an entry's length is 0
or its reserved bytes are not 0. -/
def State.listData (s : State) (a : Nat) : Nat → Option Bytes
  | 0 => some []
  | n + 1 =>
    let e := s.hostRead a 16
    let len := fld e 8 4
    if len = 0 || fld e 12 4 ≠ 0 then none
    else match State.listData s (a + 16) n with
      | some t => some (s.hostRead (fld e 0 8) len ++ t)
      | none => none
/-- A DLREF at an offset of a parameter block: its entry count, and the data. -/
def dlCount (pb : Bytes) (off : Nat) : Nat := fld pb (off + 8) 4
def State.dlref (s : State) (pb : Bytes) (off : Nat) : Option Bytes := s.listData (fld pb off 8) (dlCount pb off)
/-- The field rules of a DLREF: count at most 65,536 (at least 1 where `need`), reserved bytes 0. -/
def dlOk (pb : Bytes) (off : Nat) (need : Bool) : Bool :=
  decide (dlCount pb off ≤ 65536) && (!need || dlCount pb off ≠ 0) && fld pb (off + 12) 4 == 0

/-! ## Status codes (Table 13.1) -/

def stOk : W16 := 0x0000
def stShort : W16 := 0x0001
def stFilterShort : W16 := 0x0002
def stTruncated : W16 := 0x0003
def stEos : W16 := 0x0010
def stStopString : W16 := 0x0011
def stStopToken : W16 := 0x0012
def stLength : W16 := 0x0013
def stGrammarEnd : W16 := 0x0014
def stGrammarDead : W16 := 0x0015
def stCancelled : W16 := 0x0016
def stParam : W16 := 0x0100
def stOpcode : W16 := 0x0101
def stNoResource : W16 := 0x0102
def stBusy : W16 := 0x0103
def stNotFound : W16 := 0x0104
def stAuth : W16 := 0x0105
def stState : W16 := 0x0106
def stDevice : W16 := 0x0200

/-- A check that failed: status and DETAIL (R317). -/
abbrev Fail := W16 × W16
/-- One check of R316: nothing where it holds, else the status and DETAIL. -/
def chk (ok : Bool) (st : W16) (detail : Nat) : Option Fail := if ok then none else some (st, BitVec.ofNat 16 detail)
/-- A parameter check: ERR_PARAM with the field's offset. -/
def pchk (off : Nat) (ok : Bool) : Option Fail := chk ok stParam off
/-- The first failure of a list of checks. -/
def firstFail : List (Option Fail) → Option Fail
  | [] => none
  | some f :: _ => some f
  | none :: l => firstFail l

/-! ## The black box (R374 to R377, R441) -/

/-- A payload from its fields in order: (bytes, value). -/
def payload (l : List (Nat × Nat)) : Bytes := l.flatMap fun f => leBytes f.1 f.2

def bbxCap : Nat := 126976
/-- The records with the oldest sealed one unsealed (R376). -/
def unsealOldest : List BbxRec → List BbxRec
  | [] => []
  | r :: l => if r.sealed_ then { r with sealed_ := false } :: l else r :: unsealOldest l
/-- The ring with its oldest unsealed record overwritten (R376). -/
def dropOldest : List BbxRec → List BbxRec
  | [] => []
  | r :: l => if r.sealed_ then r :: dropOldest l else l
def Bbx.append (b : Bbx) (type sev : Nat) (pl : Bytes) : Bbx :=
  let full := decide (bbxCap ≤ b.recs.length)
  let ring := if full then dropOldest b.recs else b.recs
  let sl := decide (2 ≤ sev)
  let overN := sl && decide (256 ≤ b.sealedN)
  let ring := if overN then unsealOldest ring else ring
  let r : BbxRec :=
    { seq := b.nextSeq, type := BitVec.ofNat 16 type, sev := BitVec.ofNat 8 sev, sealed_ := sl, read := false, start := b.starts,
      hostTime := b.hostTime, aon := BitVec.ofNat 32 (min (b.aonCycles / 1024) 0xFFFFFFFF), payload := slice pl 0 32 }
  { b with
    recs := ring ++ [r], nextSeq := b.nextSeq + 1,
    sealedN := if sl && !overN then b.sealedN + 1 else b.sealedN,
    lost := if overN && b.lost ≠ 0xFFFF then b.lost + 1 else b.lost }
/-- One record is written. -/
def State.record (s : State) (type sev : Nat) (pl : Bytes) : State :=
  let s := s.onBbx fun b => b.append type sev pl
  -- a record of SEV 3 pulls ALERT_N (R429)
  if sev = 3 then s.onSvc fun v => { v with alertN := false } else s

/-- The 64 bytes of a record (Table 15.11). -/
def BbxRec.bytes (r : BbxRec) : Bytes :=
  let body := fun (fl : Nat) =>
    leBytes 8 r.seq.toNat ++ leBytes 2 r.type.toNat ++ [r.sev] ++ leBytes 1 fl ++ leBytes 4 r.start.toNat ++ leBytes 8 r.hostTime.toNat ++
      leBytes 4 r.aon.toNat ++ slice r.payload 0 32
  body (boolNat r.sealed_ + 2 * boolNat r.read) ++ leBytes 4 (crc32c (body 0)).toNat

/-- Steps in force, s of R393. -/
def Pwr.steps (w : Pwr) : Nat := min 8 (max w.floor (w.cap + w.therm))
/-- A power event (TYPE 0x0020, R441). -/
def State.powerEvent (s : State) (ev : Nat) : State :=
  let w := s.pwr
  let steps := w.steps
  s.record 0x0020 (if ev = 1 || ev = 3 then 2 else 0)
    (payload [(4, w.mv), (4, w.mw), (1, w.cap), (1, steps), (1, w.floor), (1, ev)])
/-- A service action (TYPE 0x0030, R441). -/
def State.serviceAction (s : State) (action outcome : Nat) (value : Nat) : State :=
  s.record 0x0030 0 (payload [(1, action), (1, outcome), (2, 0), (8, value)])
/-- A fabric event (TYPE 0x0040, R441). -/
def State.fabricEvent (s : State) (ev port lane : Nat) (peer : W16) (serial : W64) (digest : BitVec 128) : State :=
  s.record 0x0040 (if ev = 1 then 0 else 2)
    (payload [(1, ev), (1, port), (1, lane), (1, 0), (2, peer.toNat), (2, 0), (8, serial.toNat)] ++ (leBytes 16 digest.toNat).reverse)
/-- A cellar event (TYPE 0x0050, R441). -/
def State.cellarEvent (s : State) (ev ctrl chan die block page : Nat) : State :=
  s.record 0x0050 (if ev = 0 then 1 else if ev = 2 then 0 else if ev = 5 then 3 else 2)
    (payload [(1, ev), (1, ctrl), (1, chan), (1, die), (4, block), (4, page)])
/-- A spare brought in (TYPE 0x0002, R441, R371). -/
def State.spareIn (s : State) (kind inst replaced spare : Nat) : State :=
  s.record 0x0002 0 (payload [(1, kind), (1, 0), (2, inst), (8, replaced), (8, spare)])

/-! ## Service state -/

/-- Physical cores in service (R62): STATE 1 of Table 2.6. -/
def State.inService (s : State) : List Nat := (List.range 34).filter fun c => (s.core c).state == 1 || (s.core c).state == 2
/-- `GLB_STATUS` SERVICE (Table 12.7, R373). -/
def State.service (s : State) : Bool := s.boot.service && !s.ras.moduleTest
/-- A loss of Table 11.4 that is not rebuilt (R287). -/
def cellarLoss (c : Cel) : Bool := c.lostCtrl.any id || !c.lostChan.isEmpty || c.dies.any fun d => d.2.failed && !d.2.rebuilt
/-- Bits set among the lowest `n`. -/
def countBits (n : Nat) (f : Nat → Bool) : Nat := ((List.range n).filter f).length
/-- `GLB_STATUS` DEGRADED (R62, R287, R357, R382, R407). Before fuse load no core has a state, and R62 does not apply. -/
def State.degraded (s : State) : Bool :=
  (!s.cores.isEmpty && decide (s.inService.length < 32)) || cellarLoss s.cel || s.ras.beyond
    || decide (2 < countBits 18 fun i => s.pwr.failed.getLsbD i) || s.boot.skipped != 0 || s.boot.alt != 0

/-- The module serves nothing: its latch has opened, or its supply is going (R354, R381, R389, R434). -/
def State.departed (s : State) : Bool := s.svc.opened || !s.pwr.modEn || s.pwr.inputLost

/-! ## Rings, interrupts, completions (R302 to R312) -/

/-- MSI-X vectors of a function (Table 12.1). -/
def vecCount (fn : Nat) : Nat := if fn = 0 then 256 else 112
/-- An MSI-X message (R312). -/
def State.msix (s : State) (k vec : Nat) : State :=
  s.onPorch fun p => { p with msix := KMap.set p.msix (2048 * (k / 64) + vec) (KMap.getD p.msix (2048 * (k / 64) + vec) 0 + 1) }
/-- 2^CQ_COAL or 2^OR_COAL (Table 12.10). -/
def coal (c : BitVec 4) : Nat := 2 ^ min c.toNat 12
/-- An entry of a ring becomes visible: the interrupt of R312 where the count is reached, or where no further entry is ready. -/
def State.cqIrq (s : State) (k : Nat) (last : Bool) : State :=
  let q := s.qp k
  if last || coal q.cqCoal ≤ q.cqNew + 1 then (s.onQp k fun q => { q with cqNew := 0 }).msix k q.cqVec.toNat
  else s.onQp k fun q => { q with cqNew := q.cqNew + 1 }
def State.orIrq (s : State) (k : Nat) (last : Bool) : State :=
  let q := s.qp k
  if last || coal q.orCoal ≤ q.orNew + 1 then (s.onQp k fun q => { q with orNew := 0 }).msix k q.orVec.toNat
  else s.onQp k fun q => { q with orNew := q.orNew + 1 }
/-- The phase of a ring entry: 1 on the first pass, flipping at each wrap (R308). -/
def phaseOf (pos size : Nat) : Nat := if (pos / size) % 2 = 0 then 1 else 0
/-- The 32 bytes of a completion entry (Table 12.13). -/
def Compl.bytes (c : Compl) (sqHead qp phase : Nat) : Bytes :=
  leBytes 4 c.tag.toNat ++ leBytes 2 c.status.toNat ++ leBytes 2 c.detail.toNat ++ leBytes 2 sqHead ++ leBytes 1 qp ++ [c.info] ++ leBytes 1 phase ++
    leBytes 3 0 ++ leBytes 4 c.r0.toNat ++ leBytes 4 c.r1.toNat ++ leBytes 4 c.r2.toNat ++ leBytes 4 c.r3.toNat
/-- A completion entry is written to the CQ of queue pair `k`, and its interrupt raised (R308, R312). -/
def State.writeCq (s : State) (k : Nat) (c : Compl) : State :=
  let q := s.qp k
  let b := c.bytes (if q.runSq = 0 then 0 else q.sqHead % q.runSq) (k % 64) (phaseOf q.cqTail q.runCq)
  let s := s.hostWrite (q.runCqb.toNat + 32 * (if q.runCq = 0 then 0 else q.cqTail % q.runCq)) b
  (s.onQp k fun q => { q with cqTail := q.cqTail + 1, inFlight := q.inFlight - 1 }).cqIrq k true
/-- A completion for a command of queue pair `k`; a stopped queue pair, and one that is not active, writes nothing (R305, R313). -/
def State.complete (s : State) (k : Nat) (c : Compl) : State :=
  let q := s.qp k
  if q.active && !q.stopped && !s.departed then s.writeCq k c else s
/-- The same for the command a header came with: nothing where its queue pair has begun another run since. -/
def State.completeFor (s : State) (h : Hdr) (c : Compl) : State := if (s.qp (qpKey h.fn h.qp)).runs = h.run then s.complete (qpKey h.fn h.qp) c else s
/-- INFO of a completion (Table 13.2). -/
def infoByte (replayed migrated throttled degraded : Bool) : Byte :=
  BitVec.ofNat 8 (boolNat replayed + 2 * boolNat migrated + 4 * boolNat throttled + 8 * boolNat degraded)
/-- The completion of a command that is no request: DEGRADED as GLB_STATUS has it. -/
def State.finish (s : State) (h : Hdr) (st : W16) (detail : W16) (r0 r1 r2 r3 : Nat) : State :=
  s.completeFor h
    { tag := h.tag, status := st, detail := detail, info := infoByte false false false s.degraded,
      r0 := BitVec.ofNat 32 r0, r1 := BitVec.ofNat 32 r1, r2 := BitVec.ofNat 32 r2, r3 := BitVec.ofNat 32 r3 }
/-- Success with its result words. -/
def State.ok (s : State) (h : Hdr) (r0 r1 r2 r3 : Nat) : State := s.finish h stOk 0 r0 r1 r2 r3
/-- An error: every result word is 0 (R317). -/
def State.err (s : State) (h : Hdr) (f : Fail) : State := s.finish h f.1 f.2 0 0 0 0
/-- An OUTBUF at an offset of a parameter block is filled, or the command fails with the bytes needed in RESULT3 (R317, R318). -/
def State.output (s : State) (h : Hdr) (pb : Bytes) (off : Nat) (b : Bytes) (r0 r1 r2 : Nat) : State :=
  if fld pb (off + 8) 4 < b.length then s.finish h stParam (BitVec.ofNat 16 off) 0 0 0 b.length
  else (s.hostWrite (fld pb off 8) b).ok h r0 r1 r2 0

/-- The 64 bytes of a text record (Table 12.14). -/
def TextRec.bytes (r : TextRec) (phase : Nat) : Bytes :=
  leBytes 4 r.handle.toNat ++ leBytes 4 r.tag.toNat ++ leBytes 4 r.byteOff.toNat ++ leBytes 1 r.text.length ++
    leBytes 1 (phase + (r.flags.toNat / 2) * 2) ++ leBytes 2 0 ++ slice r.text 0 48
/-- A record is written to the OR and is visible: the slot's porch count advances (R267, R308). -/
def State.writeOr (s : State) (k : Nat) (r : TextRec) (last : Bool) : State :=
  let q := s.qp k
  let s := s.hostWrite (q.runOrb.toNat + 64 * (if q.runOr = 0 then 0 else q.orTail % q.runOr)) (r.bytes (phaseOf q.orTail q.runOr))
  ((s.onQp k fun q => { q with orTail := q.orTail + 1 }).onReq r.slot fun x => { x with visible := x.visible + r.text.length }).orIrq k last
def Qp.orFree (q : Qp) : Bool := decide (q.orTail - q.orHead + 1 < q.runOr)
/-- Text records of one request, in stream order, to the OR or the overflow store (R266, R310, R311). The answer says whether a record
found the store full, and the rest of the stream was discarded. -/
def State.issueRecords (s : State) (k : Nat) : List TextRec → State × Bool
  | [] => (s, false)
  | r :: l =>
    let q := s.qp k
    if !q.active || q.stopped || s.departed then (s, false)
    else if q.orFree && q.overflow.isEmpty then State.issueRecords (s.writeOr k r l.isEmpty) k l
    else if q.overflow.length < 32768 then
      State.issueRecords (s.onQp k fun q => { q with overflow := q.overflow ++ [r], orSpill := true }) k l
    else (s, true)
/-- Counter arithmetic that stops at its top (R244). -/
def satAdd (w : Nat) (x : BitVec w) (n : Nat) : BitVec w := BitVec.ofNat w (min (x.toNat + n) (2 ^ w - 1))
/-- Charge a partition's record, and a tenant's where it is registered (R244). -/
def State.charge (s : State) (p : Nat) (tenant : W16) (f : Acct → Acct) : State :=
  let s := s.onPart p fun x => { x with acct := f x.acct }
  s.onSch fun c => { c with tenants := KMap.mod c.tenants tenant.toNat fun t => { t with acct := f t.acct } }
/-! ## Regulators (R131, R132) -/

/-- The bucket refills by time, which the model has not: it gains a free amount, up to its depth. -/
def State.refill (s : State) (p res : Nat) : State :=
  match (s.part p).regs[res]? with
  | none => s
  | some r =>
    let (n, s) := s.fresh
    s.onPart p fun x => { x with regs := setAt x.regs res { r with tokens := r.tokens + (n % (((r.depth.toNat : Int) - r.tokens).toNat + 1) : Nat) } }
/-- Units are taken from a bucket, which falls no lower than −DEPTH. -/
def State.spend (s : State) (p res units : Nat) : State :=
  s.onPart p fun x => { x with regs := modAt x.regs res fun r => { r with tokens := max (-(r.depth.toNat : Int)) (r.tokens - units) } }
/-- A transfer that never waits on a regulator is charged to its bucket all the same (R132). -/
def State.spendExempt (s : State) (p res units : Nat) : State :=
  match (s.part p).regs[res]? with
  | some r => if r.en then (s.refill p res).spend p res units else s
  | none => s
/-- Has a resource been idle of every other partition's traffic for the past 64 of its cycles (R131)? Not where a transfer of another partition waits on it; else
the model, which has no cycles, leaves it free. -/
def State.idleOf (s : State) (p res : Nat) : State × Bool :=
  if s.sch.parts.any fun x => x.1 ≠ p && x.2.transfers.any fun t => t.1 == res then (s, false)
  else let (n, s) := s.fresh; (s, bit n 0)
/-- May a transfer start: the bucket, refilled, holds its tokens, or it borrows an idle resource (R131)? -/
def State.mayTransfer (s : State) (p res units : Nat) (r : Regulator) : State × Bool :=
  let s := s.refill p res
  if decide ((units : Int) ≤ (((s.part p).regs[res]?).getD r).tokens) then (s, true)
  else if r.borrow then s.idleOf p res
  else (s, false)
/-- A transfer of a partition comes up: it starts, charged to the bucket, or waits, one throttle event. The answer says that it waits. -/
def State.regulate (s : State) (p res units : Nat) (exempt : Bool) (key : TransferKey) (slots : List Nat) : State × Bool :=
  match (s.part p).regs[res]? with
  | none => (s, false)
  | some r =>
    if !r.en then (s, false)
    else if exempt then (s.spendExempt p res units, false)
    else
      let (s, starts) := s.mayTransfer p res units r
      if starts then (s.spend p res units, false)
      else
        let s := s.onPart p fun x => { x with transfers := x.transfers ++ [(res, { units := units, key := key })] }
        let t : W16 := match slots.head?.bind s.req? with | some q => q.tenant | none => 0xFFFF
        ((s.charge p t fun a => { a with throttle := satAdd 64 a.throttle 1 }).each slots fun s n => s.onReq n fun q => { q with throttled := true }, true)
/-- Does a transfer of this key wait? -/
def Part.waitsFor (x : Part) (key : TransferKey) : Bool := x.transfers.any fun t => t.2.key == key

def handleOf (slot : Nat) (gen : BitVec 19) : Nat := gen.toNat * 8192 + slot
/-- STATE code of Table 9.2. -/
def reqCode : ReqState → Nat
  | .free => 0
  | .front => 1
  | .prefill => 2
  | .decode => 3
  | .pageWait => 4
  | .ended => 5
  | .rebuilding => 6
/-- An entry of the request table as the slot now is (Table 9.2). -/
def State.entryOf (s : State) (slot : Nat) (urgent : Bool) : Bytes :=
  let h := handleOf slot (KMap.getD s.sch.gens slot 0)
  match s.req? slot with
  | none => leBytes 4 h ++ List.replicate 28 0
  | some r =>
    let st := if r.rebuild && !r.closed && r.fin.isNone then .rebuilding else r.state
    leBytes 4 h ++ leBytes 1 (reqCode st) ++ leBytes 1 (r.part.val + 16 * boolNat r.raw + 32 * boolNat urgent) ++ leBytes 2 r.tenant.toNat
      ++ leBytes 4 r.prompt.length ++ leBytes 4 r.prefilled ++ leBytes 4 r.emitted.length ++ leBytes 2 r.waitAge ++ leBytes 2 r.pageAge
      ++ leBytes 8 r.lastStep.toNat
/-- An entry of the request table is updated: at admission, at the writing of the completion, at step boundaries (R222). -/
def State.publishEntry (s : State) (slot : Nat) (urgent : Bool) : State := s.onSch fun c => { c with entries := KMap.set c.entries slot (s.entryOf slot urgent) }
/-- A request's completion is written: its handle names no request from here on (R221), and REQUESTS counts it. -/
def State.closeReq (s : State) (slot : Nat) : State :=
  match s.req? slot with
  | none => s
  | some r =>
    if r.closed then s
    else ((s.onReq slot fun x => { x with closed := true, state := .ended }).charge r.part.val r.tenant fun a => { a with requests := satAdd 64 a.requests 1 }).publishEntry
      slot false
/-- Does the queue pair's overflow store hold a record of the slot? -/
def Qp.waits (q : Qp) (slot : Nat) : Bool := q.overflow.any fun r => r.slot == slot
/-- A request's completion waits until every record of the request is visible (R28, R311). -/
def State.completeAfter (s : State) (k slot : Nat) (c : Compl) : State :=
  let q := s.qp k
  if !q.active || q.stopped || s.departed then s.closeReq slot
  else if q.waits slot then s.onQp k fun q => { q with held := q.held ++ [(slot, k, c)] }
  else (s.writeCq k c).closeReq slot
/-- Held completions whose records are all visible are written (R311). -/
def State.releaseHeld (s : State) (k : Nat) : State :=
  let q := s.qp k
  let ready := q.held.filter fun e => !(q.waits e.1)
  let s := s.onQp k fun q => { q with held := q.held.filter fun e => q.waits e.1 }
  s.each ready fun s e => (s.complete e.2.1 e.2.2).closeReq e.1
/-- Records move from the overflow store to the OR in order while the OR has room (R311). -/
def State.moveOverflow (s : State) (k : Nat) : Nat → State
  | 0 => s
  | n + 1 =>
    let q := s.qp k
    match q.overflow with
    | [] => s
    | r :: l =>
      if q.orFree then State.moveOverflow ((s.onQp k fun q => { q with overflow := l }).writeOr k r (l.isEmpty || !((s.qp k).orTail - q.orHead + 2 < q.runOr))) k n
      else s

/-! ## Messages (Table 14.3, R341, R342) -/

/-- A message to a module, numbered in its stream; RESYNC where the stream's target had been unreachable. -/
def State.send (s : State) (dest : W16) (cls : Nat) (body : MsgBody) : State :=
  let key := dest.toNat * 256 + cls
  let f := s.fab
  let id := KMap.getD f.txIds key 0
  { s with fab := { f with
      txIds := KMap.set f.txIds key (id + 1), unreachable := f.unreachable.filter (· ≠ key),
      out := f.out ++ [{ dest := dest, cls := BitVec.ofNat 8 cls, msgId := id, resync := f.unreachable.contains key, reply := false, body := body,
                         sends := 1, port := none }] } }
/-- A reply: it echoes the MSG_ID. -/
def State.reply (s : State) (m : MsgHdr) (cls : Nat) (body : MsgBody) : State :=
  s.onFab fun f => { f with out := f.out ++ [{ dest := m.src, cls := BitVec.ofNat 8 cls, msgId := m.msgId, resync := false, reply := true,
                                               body := body, sends := 1, port := none }] }
/-- A link-level message on a port. -/
def State.sendPort (s : State) (port : Nat) (body : MsgBody) : State :=
  s.onFab fun f => { f with out := f.out ++ [{ dest := 0, cls := 0, msgId := 0, resync := false, reply := false, body := body, sends := 1,
                                               port := some port }] }

/-- Byte mode (R246, Table 10.1). -/
def byteVocab : Vocab :=
  { check := 0, size := 272, split := 0, eos := 257, bos := 256, byteMap := List.range 256,
    toks := (List.range 272).map fun i => if i < 256 then ([BitVec.ofNat 8 i], false) else ([], true), merges := [], len := 0 }

/-! ## Requests -/

/-- The slot a handle names (R10, R11, R221). -/
def State.named (s : State) (h : Nat) : Option Nat :=
  match s.req? (h % 8192) with
  | some r => if h / 8192 ≠ 0 && r.gen.toNat == h / 8192 && !r.closed then some (h % 8192) else none
  | none => none
def State.tenant? (s : State) (t : W16) : Option Tenant := KMap.get? s.sch.tenants t.toNat
def State.vocab? (s : State) (v : Nat) : Option Vocab := if v = 0 then some byteVocab else KMap.get? s.sch.vocabs v
/-- Slots of a partition's requests. -/
def State.slotsOf (s : State) (p : Nat) : List Nat := (s.sch.slots.filter fun x => x.2.part.val == p).map Prod.fst
/-- Live requests (R220). -/
def State.liveOf (s : State) (p : Nat) : List Nat := (s.sch.slots.filter fun x => x.2.part.val == p && !x.2.closed).map Prod.fst
def State.liveAll (s : State) : Nat := (s.sch.slots.filter fun x => !x.2.closed).length

end Sys2Proof.Machine
end

