-- ==== Sys2Proof/Machine/CellarOps.lean ====
section
/-! DEFINITION. Operations on the cellar: where data pages lie, reading, writing and trimming them with their parity (R270 to R273, R284 to R286),
and free blocks. -/

namespace Sys2Proof

/-- Number of a die: 4 × (16 × controller + channel) + die. -/
def DieId.no (d : DieId) : Nat := 4 * (16 * d.ctrl.val + d.chan.val) + d.die.val

end Sys2Proof

namespace Sys2Proof.Machine

abbrev PageData := BitVec 131072

/-- Number of a die: 4 × (16 × controller + channel) + die. -/
def dieNo (ctrl chan die : Nat) : Nat := 4 * (16 * ctrl + chan) + die
/-- Key of data page d of controller c. -/
def pageKey (c d : Nat) : Nat := c * 2 ^ 32 + d
def blockKey (die block : Nat) : Nat := die * 65536 + block
/-- Physical page: 2,048 × block key + page. -/
def physOf (blk page : Nat) : Nat := blk * 2048 + page

/-- R284. -/
def rowOf (d c : Nat) : Nat :=
  let g := d / 112
  let w := d % 112
  let k := w / 16
  let k := if c ≤ k then k + 1 else k
  g * 128 + k * 16 + w % 16
def parityController (r : Nat) : Nat := (r >>> 4) % 8

/-- The parity page of a row, and the controller, channel and row of a page (R284): all eight pages of a row lie on one channel number. -/
def parityKey (r : Nat) : Nat := 2 ^ 35 + r
def isParity (key : Nat) : Bool := decide (2 ^ 35 ≤ key)
def keyRow (key : Nat) : Nat := if isParity key then key - 2 ^ 35 else rowOf (key % 2 ^ 32) (key / 2 ^ 32)
def keyCtrl (key : Nat) : Nat := if isParity key then parityController (key - 2 ^ 35) else key / 2 ^ 32
def keyChan (key : Nat) : Nat := key % 16
/-- The data page of a controller in a stripe row: the inverse of R284. -/
def pageInRow (r c : Nat) : Nat :=
  let k := (r >>> 4) % 8
  112 * (r / 128) + 16 * (if c < k then k - 1 else k) + r % 16
/-- The other seven pages of a page's row. -/
def rowMates (key : Nat) : List Nat :=
  let r := keyRow key
  ((List.range 8).map fun o => if o = parityController r then parityKey r else pageKey o (pageInRow r o)).filter (· ≠ key)

/-- A data page's content: what is still being written of it, else what is on flash; an unmapped page reads as zeros (R272). -/
def Cel.read (c : Cel) (key : Nat) : PageData :=
  match (c.pend.filter fun w => w.key == key && !w.programmed).getLast? with
  | some w => w.data
  | none => KMap.getD c.data key 0
def pageBytes (p : PageData) : Bytes := leBytes 16384 p.toNat
def pageOf (b : Bytes) : PageData := BitVec.ofNat 131072 (leNat (b.take 16384))
/-- The bytes of `n` consecutive data pages. -/
def Cel.readRun (c : Cel) (ctrl d : Nat) : Nat → Bytes
  | 0 => []
  | n + 1 => pageBytes (c.read (pageKey ctrl d)) ++ Cel.readRun c ctrl (d + 1) n

/-- Pages of a block: 512 in one-bit mode, 1,536 in TLC (Table 11.1). -/
def blockPages (oneBit : Bool) : Nat := if oneBit then 512 else 1536
/-- One-bit blocks and good blocks of a die, four planes; a block's plane is its number modulo 4. The device uses good blocks only, taken as the
least number shipped and numbered from 0 (DESIGN CHOICE: the spec gives no plane or number to a bad block). -/
def oneBitBlocks (v : Variant) : Nat := 4 * Config.oneBitPerPlane v
def dieBlocks (v : Variant) : Nat := 4 * Config.goodPerPlane v
def Block.fresh (oneBit : Bool) : Block :=
  { oneBit := oneBit, closed := false, pages := [], erases := 0, closedAt := 0, closedNo := 0, reads := 0, worst := none, retired := false, claim := none }
def Cel.block (v : Variant) (c : Cel) (die block : Nat) : Block := KMap.getD c.blocks (blockKey die block) (Block.fresh (decide (block < oneBitBlocks v)))
def Cel.onBlock (c : Cel) (die block : Nat) (f : Block → Block) : Cel := { c with blocks := KMap.mod c.blocks (blockKey die block) f }
def Cel.die (c : Cel) (die : Nat) : Die := KMap.getD c.dies die Die.reset
def Cel.onDie (c : Cel) (die : Nat) (f : Die → Die) : Cel := { c with dies := KMap.modD c.dies die Die.reset f }
/-- Valid pages of a block. -/
def Block.valid (b : Block) : Nat := (b.pages.filter Option.isSome).length
/-- A block that can take a page: in use, open, not retired, with a page left. -/
def Block.open_ (b : Block) : Bool := !b.closed && !b.retired && decide (b.pages.length < blockPages b.oneBit)
/-- A block with nothing programmed. -/
def Block.free (b : Block) : Bool := b.pages.isEmpty && !b.retired && !b.closed
/-- Listed blocks of a die. -/
def Cel.blocksOf (c : Cel) (die : Nat) : List (Nat × Block) :=
  (c.blocks.filter fun x => x.1 / 65536 == die).map fun x => (x.1 % 65536, x.2)
/-- Free TLC blocks of a die. -/
def Cel.freeTlc (v : Variant) (c : Cel) (die : Nat) : Nat :=
  dieBlocks v - oneBitBlocks v - ((c.blocksOf die).filter fun x => !x.2.oneBit && !x.2.free).length
/-- The lowest `n` free blocks of a kind that no activity claims (which free block is the model's choice). -/
def Cel.freeBlocks (v : Variant) (c : Cel) (die : Nat) (oneBit : Bool) (n : Nat) : List Nat :=
  let lo := if oneBit then 0 else oneBitBlocks v
  let hi := if oneBit then oneBitBlocks v else dieBlocks v
  (((List.range ((c.blocksOf die).length + n)).filter fun i => let b := c.block v die (lo + i); decide (lo + i < hi) && b.free && b.claim.isNone).take n).map (lo + ·)
def Cel.freeBlock (v : Variant) (c : Cel) (die : Nat) (oneBit : Bool) : Option Nat := (c.freeBlocks v die oneBit 1).head?
/-- The block a host write of the die is programmed into: the open block of the kind that no activity claims, else a free one; a free TLC block only
while more than 4 are left (R274). -/
def Cel.openBlock (v : Variant) (c : Cel) (die : Nat) (oneBit : Bool) : Option Nat :=
  match (c.blocksOf die).find? fun x => x.2.oneBit == oneBit && x.2.open_ && !x.2.pages.isEmpty && x.2.claim.isNone with
  | some x => some x.1
  | none => if oneBit || decide (4 < c.freeTlc v die) then c.freeBlock v die oneBit else none
/-- The same for either kind: the one-bit buffer while it has a free page (R274); none where the write waits. -/
def Cel.hostBlock (v : Variant) (c : Cel) (die : Nat) : Option Nat :=
  match c.openBlock v die true with
  | some b => some b
  | none => c.openBlock v die false
/-- Bytes of a record, and pages of an extent (R141). -/
def recordLen (dim : Nat) : Nat := 24 + 4 * dim
def extentPages (dim count : Nat) : Nat := ceilDiv (count * recordLen dim) 16384
/-- A run of `n` data pages of a controller as a list of keys. -/
def runKeys (ctrl d n : Nat) : List Nat := (List.range n).map fun i => pageKey ctrl (d + i)

/-! ## Maintenance queues (Table 11.5) -/

/-- An activity is queued. -/
def Cel.nextAct (c : Cel) (a : Activity) : Cel := { c with acts := c.acts ++ [{ a with aid := c.nextAid }], nextAid := c.nextAid + 1 }
def actOf (k : ActKind) (die : Nat) : Activity :=
  { aid := 0, kind := k, die := die, source := none, dests := [], index := 0, bucket := 0, urgent := false, age := 0, claimed := false, mergePoint := 0, copies := [],
    phase := 0, ctrl := 0, ext := none, took := [], full := false, bad := [] }
def Cel.ages (c : Cel) (f : Activity → Bool) : Cel := { c with acts := c.acts.map fun a => if f a then { a with age := a.age + 1 } else a }
/-- The activity of a number, and a change to it. -/
def Cel.act? (c : Cel) (aid : W32) : Option Activity := c.acts.find? fun a => a.aid == aid
def Cel.onAct (c : Cel) (aid : W32) (f : Activity → Activity) : Cel := { c with acts := c.acts.map fun a => if a.aid == aid then f a else a }
def Cel.hasAct (c : Cel) (k : ActKind) (die : Nat) : Bool := c.acts.any fun a => a.kind == k && a.die == die

/-- `CEL_GC_CFG` and `CEL_MAINT_CFG` as the device takes them (Tables 11.8 and 11.9). -/
def Cel.gcUrgent (c : Cel) : Nat := max 5 (bits c.gcCfg.toNat 23 16)
def Cel.gcStart (c : Cel) : Nat := max (bits c.gcCfg.toNat 31 24) (c.gcUrgent + 1)
def Cel.wearK (c : Cel) : Nat := bits c.gcCfg.toNat 15 12
def Cel.ageCap (c : Cel) : Nat := max 1 (bits c.gcCfg.toNat 11 0)
def Cel.foldStart (c : Cel) : Nat := bits c.maintCfg.toNat 27 20
def Cel.foldUrgent (c : Cel) : Nat := if bits c.maintCfg.toNat 19 12 ≤ c.foldStart then c.foldStart + 1 else bits c.maintCfg.toNat 19 12
def Cel.refreshAt (c : Cel) (errors : Nat) : Bool := decide (3 * bits c.maintCfg.toNat 11 6 ≤ 2 * errors)
def Cel.urgentAt (c : Cel) (errors : Nat) : Bool := decide (5 * bits c.maintCfg.toNat 5 0 ≤ 2 * errors)

/-- One-bit pages programmed on a die, in 1/256 of all its one-bit pages, times that count. -/
def Cel.fill (c : Cel) (die : Nat) : Nat := 256 * sumNat (((c.blocksOf die).filter fun x => x.2.oneBit).map fun x => x.2.pages.length)
def oneBitPages (v : Variant) : Nat := 512 * oneBitBlocks v
/-- TLC blocks of a die in service, and the sum, the highest and the lowest of their erase counts. -/
def Cel.tlcIn (v : Variant) (c : Cel) (die : Nat) : Nat := dieBlocks v - oneBitBlocks v - ((c.blocksOf die).filter fun x => !x.2.oneBit && x.2.retired).length
def Cel.tlcErases (c : Cel) (die : Nat) : List Nat := ((c.blocksOf die).filter fun x => !x.2.oneBit && !x.2.retired).map fun x => x.2.erases
def Cel.meanErase (v : Variant) (c : Cel) (die : Nat) : Nat := sumNat (c.tlcErases die) / max 1 (c.tlcIn v die)
def Cel.spread (v : Variant) (c : Cel) (die : Nat) : Nat :=
  let l := c.tlcErases die
  maxNat l - (if l.length < c.tlcIn v die then 0 else l.foldl min (maxNat l))
/-- gc_score and gc_pick of R276. -/
def Cel.gcScore (v : Variant) (c : Cel) (die : Nat) (b : Block) : Int :=
  let age := min ((c.die die).erases - b.closedAt) c.ageCap
  let inv := blockPages b.oneBit - b.valid
  ((1024 * inv * (c.ageCap + age) / (blockPages b.oneBit * c.ageCap) : Nat) : Int) - (c.wearK : Int) * ((b.erases : Int) - (c.meanErase v die : Int))
def Cel.gcPick (v : Variant) (c : Cel) (die : Nat) : Option Nat :=
  let cand := (c.blocksOf die).filter fun x => !x.2.oneBit && x.2.closed && x.2.claim.isNone && !x.2.retired && decide (x.2.valid < blockPages x.2.oneBit)
  (cand.foldl (fun best x => match best with
    | none => some x
    | some y => if c.gcScore v die y.2 < c.gcScore v die x.2 then some x else some y) none).map Prod.fst
/-- The one-bit block closed earliest (R275); one that is claimed is waited for (R289). -/
def Cel.foldPick (c : Cel) (die : Nat) : Option Nat :=
  (((c.blocksOf die).filter fun x => x.2.oneBit && x.2.closed && !x.2.retired).foldl (fun best x => match best with
    | none => some x
    | some y => if x.2.closedNo < y.2.closedNo then some x else some y) none).map Prod.fst
/-- The closed block with the lowest erase count, claimed or not (R278, R289), and the free TLC block with the highest. -/
def Cel.wearPick (v : Variant) (c : Cel) (die : Nat) : Option Nat × Option Nat :=
  let tlc := (c.blocksOf die).filter fun x => !x.2.oneBit && !x.2.retired
  ((tlc.filter fun x => x.2.closed).foldl (fun best x => match best with
    | none => some x
    | some y => if x.2.erases < y.2.erases then some x else some y) none |>.map Prod.fst,
   match (tlc.filter fun x => x.2.free && x.2.claim.isNone).foldl (fun best x => match best with
    | none => some x
    | some y => if y.2.erases < x.2.erases then some x else some y) (none : Option (Nat × Block)) with
   | some x => some x.1
   | none => c.freeBlock v die false)
/-- Is an activity on a die urgent (Table 11.5)? -/
def Cel.urgent (v : Variant) (c : Cel) (a : Activity) : Bool :=
  match a.kind with
  | .refresh => a.urgent || (match a.source with | some b => decide ((if (c.block v a.die b).oneBit then 100000 else 10000) ≤ a.age) | none => false)
  | .rebuild => true
  | .gc => decide (49152 ≤ a.age) || decide (c.freeTlc v a.die < c.gcUrgent)
  | .fold => decide (16384 ≤ a.age) || decide (c.foldUrgent * oneBitPages v ≤ c.fill a.die)
  | .wear => decide (1024 ≤ a.age) || decide (400 < c.spread v a.die)
  | .merge => decide (65536 ≤ a.age) || c.crowded
  | .replica => false
/-- What a die queues after a program or an erase: garbage collection, a fold, a static wear move (R275, R277, R278). `more`: a collection has just ended. -/
def Cel.check (v : Variant) (c : Cel) (die : Nat) (more : Bool) : Cel :=
  if (c.die die).failed then c
  else
    let c := if !c.hasAct .gc die && decide (c.freeTlc v die < (if more then c.gcStart + 8 else c.gcStart)) then c.nextAct (actOf .gc die) else c
    let c := if !c.hasAct .fold die && decide (c.foldStart * oneBitPages v < c.fill die) then c.nextAct (actOf .fold die) else c
    if !c.hasAct .wear die && decide (200 < c.spread v die) then c.nextAct (actOf .wear die) else c
/-- A refresh of a block is queued once; a later cause may make it urgent. -/
def Cel.queueRefresh (c : Cel) (die block : Nat) (urgent : Bool) : Cel :=
  let is := fun (a : Activity) => a.kind == .refresh && a.die == die && a.source == some block
  if c.acts.any is then { c with acts := c.acts.map fun a => if is a then { a with urgent := a.urgent || urgent } else a }
  else c.nextAct { actOf .refresh die with source := some block, urgent := urgent }
/-- A page of a block is read: its counter, the age of its refresh, and the refresh of R279. -/
def Cel.countRead (v : Variant) (c : Cel) (die block : Nat) : Cel :=
  let c := (c.onBlock die block fun b => { b with reads := b.reads + 1 }).ages fun a => a.kind == .refresh && a.die == die && a.source == some block
  let b := c.block v die block
  if (if b.oneBit then 1000000 else 100000) ≤ b.reads && b.valid ≠ 0 then c.queueRefresh die block false else c

/-- A page is programmed into a block: it holds the data page `key`, or nothing valid; the block is closed when full. -/
def Cel.programPage (v : Variant) (c : Cel) (die block : Nat) (key : Option Nat) : Cel :=
  let b := c.block v die block
  let dv := c.die die
  let full := decide (blockPages b.oneBit ≤ b.pages.length + 1)
  let c := { c with
    blocks := KMap.set c.blocks (blockKey die block)
      { b with pages := b.pages ++ [key], closed := full, closedAt := if full then dv.erases else b.closedAt, closedNo := if full then dv.programs else b.closedNo },
    dies := KMap.setD c.dies die Die.reset
      { dv with programs := dv.programs + 1, oneBitPrograms := if b.oneBit then dv.oneBitPrograms + 1 else dv.oneBitPrograms } }
  (c.ages fun a => a.die == die && (a.kind == .gc || (a.kind == .fold && b.oneBit))).check v die false
/-- The physical page the next program of a block takes. -/
def Cel.nextPhys (v : Variant) (c : Cel) (die block : Nat) : Nat := physOf (blockKey die block) (c.block v die block).pages.length
/-- The page at a physical location is no longer valid. -/
def Cel.invalidate (c : Cel) (phys : Nat) : Cel :=
  { c with blocks := KMap.mod c.blocks (phys / 2048) fun b => { b with pages := setAt b.pages (phys % 2048) none } }
/-- A data or parity page is programmed into a block; its map entry names the new place and the old one is no longer valid. -/
def Cel.program (v : Variant) (c : Cel) (die block key : Nat) : Cel :=
  let ph := c.nextPhys v die block
  let c := match KMap.get? c.map key with | some old => c.invalidate old | none => c
  { (c.programPage v die block (some key)) with map := KMap.set c.map key ph }

/-- The controller of a new extent (R271): most free data pages, lost ones and those with a lost channel excluded; ties to the lower number. -/
def Cel.pickCtrl (v : Variant) (c : Cel) (skip : Option Nat) : Option Nat :=
  (List.range 8).foldl (fun best i =>
    if (c.lostCtrl[i]?).getD false || (c.lostChan.any fun x => x.1 / 16 == i) || skip == some i then best
    else match best with
      | none => some i
      | some b => if Config.dataPages v - (c.used[i]?).getD 0 > Config.dataPages v - (c.used[b]?).getD 0 then some i else some b) none
/-- The first run of `n` unmapped data pages that starts at a page congruent to `r` modulo 16. -/
def Cel.findRun (c : Cel) (ctrl n : Nat) : Nat → Nat → Nat
  | 0, d => d
  | fuel + 1, d => if (List.range n).any fun i => KMap.has c.map (pageKey ctrl (d + i)) then Cel.findRun c ctrl n fuel (d + 16) else d
def Cel.newRun (c : Cel) (ctrl bucket n : Nat) : Nat := c.findRun ctrl n ((c.map.length + 1) * (n / 16 + 2)) (bucket % 16)
/-- Free data pages of all controllers that take new extents. -/
def Cel.freePages (v : Variant) (c : Cel) : Nat :=
  sumNat ((List.range 8).map fun i => if (c.lostCtrl[i]?).getD false then 0 else Config.dataPages v - (c.used[i]?).getD 0)

/-- Is a die out of reach: failed, or on a lost channel or controller (Table 11.4)? -/
def Cel.dieLost (c : Cel) (die : Nat) : Bool := (c.die die).failed || KMap.has c.lostChan (die / 4) || (c.lostCtrl[die / 64]?).getD false
/-- Is a page's channel or controller lost? -/
def Cel.laneLost (c : Cel) (key : Nat) : Bool := (c.lostCtrl[keyCtrl key]?).getD false || KMap.has c.lostChan (16 * keyCtrl key + keyChan key)
/-- Is a page of the map still to be programmed for the first time? -/
def Cel.pending (c : Cel) (key : Nat) : Bool := c.pend.any fun w => w.key == key && !w.programmed
/-- Does a page lie on a lost die, channel or controller, or in its row's parity alone (R286)? -/
def Cel.pageLost (c : Cel) (key : Nat) : Bool :=
  c.laneLost key || (match KMap.get? c.map key with
    | some ph => if ph = 0xFFFFFFFF then !c.pending key else c.dieLost (ph / 2048 / 65536)
    | none => false)
/-- A page reads, directly or from its stripe; a second loss in its row makes it unreadable (R286, R288). -/
def Cel.readable (c : Cel) (key : Nat) : Bool := !c.pageLost key || (rowMates key).all fun k => !c.pageLost k
def Cel.pageReadable (c : Cel) (ctrl d : Nat) : Bool := c.readable (pageKey ctrl d)
/-- Where a page lies on a die in reach: die, block, page. An unmapped page, and one not programmed yet, is read from no die (R272). -/
def Cel.placeOf (c : Cel) (key : Nat) : Option (Nat × Nat × Nat) :=
  match KMap.get? c.map key with
  | some ph => if ph = 0xFFFFFFFF || c.laneLost key || c.dieLost (ph / 2048 / 65536) then none else some (ph / 2048 / 65536, ph / 2048 % 65536, ph % 2048)
  | none => none
/-- Where a page is read from: its own place, or for a lost page the other seven of its row (R286). -/
def Cel.readPlaces (c : Cel) (key : Nat) : List (Nat × Nat × Nat) :=
  if c.pageLost key then (if c.readable key then (rowMates key).filterMap c.placeOf else []) else (c.placeOf key).toList

/-- The class of a flash operation, and its order within the class (R294). -/
def Cel.opClass (v : Variant) (c : Cel) (op : FlashOp) : Nat × Nat :=
  let of_ := fun (aid : W32) => match c.acts.find? fun a => a.aid == aid with
    | none => (5, 0)
    | some a =>
      let u := c.urgent v a
      match a.kind with
      | .refresh => if u then (1, 0) else (5, 0)
      | .rebuild => (1, 0)
      | .gc => if u then (3, 0) else (5, 2)
      | .fold => if u then (3, 1) else (5, 1)
      | .wear => if u then (3, 3) else (5, 4)
      | .merge => if u then (3, 2) else (5, 3)
      | .replica => (5, 5)
  match op.kind with
  | .scan _ | .patrol | .fetch _ _ | .get _ => (2, 0)
  | .hostWrite | .parityWrite => (4, 0)
  | .actRead a | .actWrite a | .erase a => of_ a
/-- Does an operation read a page, and of what block? -/
def FlashOp.reads (o : FlashOp) : Bool := match o.kind with | .scan _ | .patrol | .fetch _ _ | .get _ | .actRead _ => true | _ => false
def Die.ops (d : Die) : List FlashOp := d.queue ++ d.running.toList
/-- Reads issued to a block and not completed. -/
def Die.readsOn (d : Die) (block : Nat) : Nat := (d.ops.filter fun o => o.reads && o.block == block).length
/-- Is a copy's read still of use: its page is still where it was when the read was queued, or it is lost and is being reconstructed (R275)? Others are not
made. -/
def Cel.fresh (c : Cel) (die : Nat) (op : FlashOp) : Bool :=
  match op.kind with
  | .actRead a => (match c.act? a with
      | some x => x.kind == .rebuild || x.kind == .merge || x.kind == .replica || KMap.get? c.map op.page == some (physOf (blockKey die op.block) op.place)
      | none => false)
  | _ => true
/-- May an operation start? An erase waits until the block holds nothing valid and every read issued to it has completed (R293); a host write waits while it
would take one of the last four free TLC blocks (R274). -/
def Cel.mayRun (v : Variant) (c : Cel) (die : Nat) (op : FlashOp) : Bool :=
  match op.kind with
  | .erase _ => let b := c.block v die op.block; decide (b.valid = 0) && decide ((c.die die).readsOn op.block = 0)
  | .hostWrite | .parityWrite => (c.hostBlock v die).isSome
  | _ => true
/-- The position of the operation a die starts next (R294, R295). -/
def Cel.pickOp (v : Variant) (c : Cel) (die : Nat) : Option Nat :=
  let d := c.die die
  let l := (enum d.queue).filter fun x => c.mayRun v die x.2
  let cl := fun (x : Nat × FlashOp) => c.opClass v x.2
  let best := fun (l : List (Nat × FlashOp)) => (l.foldl (fun best x => match best with
    | none => some x
    | some y => if (cl x).1 < (cl y).1 || ((cl x).1 == (cl y).1 && decide ((cl x).2 < (cl y).2)) then some x else some y) none).map Prod.fst
  let l1 := l.filter fun x => (cl x).1 ≤ 1
  let l3 := l.filter fun x => (cl x).1 == 3
  let l5 := l.filter fun x => (cl x).1 == 5
  if !l3.isEmpty && decide (7 ≤ d.since3) then best (if l1.isEmpty then l3 else l1)
  else if !l5.isEmpty && decide (62 ≤ d.since5) then best l5
  else best l
/-- Reads for copies that are of no use any more leave a die's queue. -/
def Cel.prune (c : Cel) (die : Nat) : Cel := c.onDie die fun d => { d with queue := d.queue.filter (c.fresh die) }
/-- An idle die starts its next operation. -/
def Cel.start (v : Variant) (c : Cel) (die : Nat) : Cel :=
  let c := c.prune die
  let d := c.die die
  if d.running.isSome || d.failed then c
  else match c.pickOp v die with
    | none => c
    | some i =>
      match d.queue[i]? with
      | none => c
      | some op =>
        let k := (c.opClass v op).1
        let has := fun (n : Nat) => d.queue.any fun o => (c.opClass v o).1 == n
        c.onDie die fun d =>
          { d with running := some op, queue := d.queue.take i ++ d.queue.drop (i + 1),
                   since3 := if k = 1 || k = 3 || !has 3 then 0 else d.since3 + 1, since5 := if k = 5 || !has 5 then 0 else d.since5 + 1 }
/-- A flash operation is queued on a die, which starts it when idle. -/
def Cel.queueOp (v : Variant) (c : Cel) (die : Nat) (op : FlashOp) : Cel := (c.onDie die fun d => { d with queue := d.queue ++ [op] }).start v die
/-- Reads of a page for a purpose: of its own place, or of the other pages of its row. The answer says that there is nothing to read from a die. -/
def Cel.queueReads (v : Variant) (c : Cel) (key : Nat) (k : OpKind) : Cel :=
  (c.readPlaces key).foldl (fun c p => c.queueOp v p.1 { kind := k, page := key, block := p.2.1, place := p.2.2 }) c
def State.queueRead (s : State) (key : Nat) (k : OpKind) : State := s.onCel fun c => c.queueReads s.ident.variant key k
/-- Is a read for a purpose, of a page, still queued or running? -/
def Cel.reading (c : Cel) (key : Nat) (k : OpKind) : Bool := c.dies.any fun d => d.2.ops.any fun o => o.kind == k && o.page == key
def Cel.busy (c : Cel) (k : OpKind) : Bool := c.dies.any fun d => d.2.ops.any fun o => o.kind == k
/-- Operations that `f` names leave every queue; one that runs runs on. -/
def Cel.unqueue (c : Cel) (f : FlashOp → Bool) : Cel := { c with dies := KMap.mapAll c.dies fun _ d => { d with queue := d.queue.filter fun o => !f o } }
/-- Page reads queued on a controller; a lost one counts as having more than any other (R144, R287). -/
def State.queuedReads (s : State) (ctrl : Nat) : Nat :=
  if (s.cel.lostCtrl[ctrl]?).getD false then 2 ^ 40
  else sumNat (s.cel.dies.map fun d => if d.1 / 64 = ctrl then (d.2.queue.filter FlashOp.reads).length else 0)

/-! ## Writes and trims (R273, R274, R285, R286) -/

/-- The die a write of a page goes to: of the four of its channel, the first good one whose buffer has room, else the first with a TLC page, else the first.
None where the page lies on a lost die, channel or controller: it is written through its row's parity alone; a parity page moves to another die. -/
def Cel.target (v : Variant) (c : Cel) (key : Nat) : Option Nat :=
  let onLost := match KMap.get? c.map key with | some ph => ph != 0xFFFFFFFF && c.dieLost (ph / 2048 / 65536) | none => false
  if c.laneLost key || (onLost && !isParity key) then none
  else
    let l := ((List.range 4).map (dieNo (keyCtrl key) (keyChan key))).filter fun d => !(c.die d).failed
    match l.find? fun d => (c.openBlock v d true).isSome with
    | some d => some d
    | none => match l.find? fun d => (c.openBlock v d false).isSome with
      | some d => some d
      | none => l.head?
/-- A row's parity page is written for the oldest of the row's writes that waits for it: that write is acknowledged. `ph`: where the page went; none where
its place is lost, and nothing was written. -/
def Cel.parityDone (c : Cel) (r : Nat) (ph : Option Nat) : Cel :=
  match c.pend.find? fun w => w.programmed && keyRow w.key == r with
  | none => c
  | some w =>
    let c := { c with pend := c.pend.filter fun x => x.no ≠ w.no }
    match ph with
    | some p => { c with parity := KMap.setD c.parity r 0 (KMap.getD c.parity r 0 ^^^ w.data), map := KMap.set c.map (parityKey r) p }
    | none => c
/-- A row's parity page is to be written (R285). -/
def Cel.parityStart (v : Variant) (c : Cel) (r : Nat) : Cel :=
  match c.target v (parityKey r) with
  | some d => c.queueOp v d { kind := .parityWrite, page := parityKey r, block := 0, place := 0 }
  | none => c.parityDone r none
/-- The oldest unprogrammed write of a page is made, at `ph` in the map: its row's parity follows. -/
def Cel.landed (v : Variant) (c : Cel) (key ph : Nat) : Cel :=
  match c.pend.find? fun w => w.key == key && !w.programmed with
  | none => c
  | some w =>
    let old := KMap.getD c.data key 0
    Cel.parityStart v { c with
      data := KMap.setD c.data key 0 w.data, map := KMap.set c.map key ph,
      pend := c.pend.map fun x => if x.no = w.no then { x with programmed := true, data := old ^^^ w.data } else x } (keyRow key)
/-- A write joins the pages under write; a page new to the map counts as used. The answer's last number is the write's. -/
def Cel.enter (c : Cel) (key : Nat) (p : PageData) (act : Option W32) : Cel :=
  let c := if KMap.has c.map key then c else { c with map := KMap.set c.map key 0xFFFFFFFF, used := modAt c.used (keyCtrl key) (· + 1) }
  { c with pend := c.pend ++ [{ no := c.nextWrite, key := key, data := p, act := act, programmed := false }], nextWrite := c.nextWrite + 1 }
/-- A host write finds its die (R274), or is made through its row's parity alone (R286). -/
def Cel.placeWrite (v : Variant) (c : Cel) (key : Nat) : Cel :=
  match c.target v key with
  | some d => c.queueOp v d { kind := .hostWrite, page := key, block := 0, place := 0 }
  | none =>
    let c := match KMap.get? c.map key with | some ph => c.invalidate ph | none => c
    c.landed v key 0xFFFFFFFF
/-- A host write of a data page begins; it is acknowledged once its page and its row's parity are programmed (R273). -/
def Cel.write (v : Variant) (c : Cel) (ctrl d : Nat) (p : PageData) : Cel := (c.enter (pageKey ctrl d) p none).placeWrite v (pageKey ctrl d)
/-- A trim of a data page (R285): what was being written of it is given up. -/
def Cel.trim (v : Variant) (c : Cel) (ctrl d : Nat) : Cel :=
  let key := pageKey ctrl d
  match KMap.get? c.map key with
  | none => c
  | some ph =>
    let old := KMap.getD c.data key 0
    let c := (c.invalidate ph).unqueue fun o => o.page == key && (match o.kind with | .hostWrite => true | .actWrite a => (match c.act? a with | some x => x.kind == .merge || x.kind == .replica | none => false) | _ => false)
    Cel.parityStart v { c with
      map := KMap.erase c.map key, data := KMap.erase c.data key, used := modAt c.used ctrl (· - 1),
      pend := (c.pend.filter fun w => w.key != key || w.programmed) ++ [{ no := c.nextWrite, key := key, data := old, act := none, programmed := true }],
      nextWrite := c.nextWrite + 1 } (keyRow key)
def Cel.trimRun (v : Variant) (c : Cel) (ctrl d : Nat) : Nat → Cel
  | 0 => c
  | n + 1 => Cel.trimRun v (c.trim v ctrl d) ctrl (d + 1) n
def Cel.writeRun (v : Variant) (c : Cel) (ctrl d : Nat) : List Bytes → Cel
  | [] => c
  | b :: l => Cel.writeRun v (c.write v ctrl d (pageOf b)) ctrl (d + 1) l
/-- Is one of these writes still to be acknowledged? -/
def Cel.unacked (c : Cel) (l : List Nat) : Bool := c.pend.any fun w => l.contains w.no
/-- The XOR of a row's data pages on flash. -/
def Cel.rowXor (c : Cel) (r : Nat) : PageData :=
  (List.range 8).foldl (fun x o => if o = parityController r then x else x ^^^ KMap.getD c.data (pageKey o (pageInRow r o)) 0) 0
/-- The mount (R273): the parity of every stripe still named as under update is recomputed, and its page written again. -/
def Cel.mount (v : Variant) (c : Cel) : Cel :=
  c.open_.foldl (fun c r =>
    Cel.parityStart v { c with
      pend := c.pend ++ [{ no := c.nextWrite, key := parityKey r, data := KMap.getD c.parity r 0 ^^^ c.rowXor r, act := none, programmed := true }],
      nextWrite := c.nextWrite + 1 } r) { c with open_ := [] }

end Sys2Proof.Machine
end

