-- ==== Sys2Proof/Machine/CellarMaint.lean ====
section
/-! DEFINITION. Cellar maintenance (R275 to R293): losses, retired blocks, claims, relocations, erases, and the end of a flash operation. -/

namespace Sys2Proof.Machine

/-! ## Losses (R282, R283, R286 to R288) -/

def opAid (o : FlashOp) : Option W32 := match o.kind with | .actRead a | .actWrite a | .erase a => some a | _ => none
/-- Does an activity belong to an index? -/
def Activity.ofIndex (a : Activity) : Bool := a.kind == .merge || a.kind == .replica
/-- An activity's claims and its queued operations go. -/
def Cel.release (c : Cel) (aid : W32) : Cel :=
  { (c.unqueue fun o => opAid o == some aid) with
    blocks := KMap.mapAll c.blocks fun _ b => if b.claim = some aid then { b with claim := none } else b }
/-- An activity ends or is dropped: its claims and its operations go. -/
def Cel.dropAct (c : Cel) (aid : W32) : Cel := { c.release aid with acts := c.acts.filter fun a => a.aid ≠ aid }
/-- An activity whose queue of operations is given up is queued again under a new number, its age kept (R291); what runs of it ends unseen. -/
def Cel.requeue (c : Cel) (a : Activity) : Cel :=
  let c := c.dropAct a.aid
  c.nextAct { a with claimed := false, source := if a.kind = .refresh then a.source else none, dests := [], copies := [], phase := 0, ext := none, took := [], full := false, bad := [] }
/-- Pages an extent of an activity that is given up has taken. -/
def Cel.freeExt (v : Variant) (dim : Nat) (c : Cel) (a : Activity) : Cel :=
  match a.ext with
  | some e => c.trimRun v e.ctrl e.page (extentPages dim e.count)
  | none => c
def State.dimOf (s : State) (i : Nat) : Nat := match s.index? i with | some ix => ix.dim | none => 0
/-- A merge or replica is begun anew, or given up: the pages of its new extent are trimmed. -/
def State.redoIndexAct (s : State) (a : Activity) : State := s.onCel fun c => (c.freeExt s.ident.variant (s.dimOf a.index) a).requeue a
def State.endIndexAct (s : State) (a : Activity) : State := s.onCel fun c => (c.freeExt s.ident.variant (s.dimOf a.index) a).dropAct a.aid
/-- An operation queued on a die that is out of reach goes on elsewhere: a host's read by reconstruction (R169, R286), a write on another die, or through parity
alone. A page that was itself being reconstructed has a second loss, and is not read. -/
def Cel.redirect (v : Variant) (die : Nat) (c : Cel) (op : FlashOp) : Cel :=
  match op.kind with
  | .scan _ | .fetch _ _ | .get _ => if KMap.get? c.map op.page = some (physOf (blockKey die op.block) op.place) then c.queueReads v op.page op.kind else c
  | .hostWrite => if c.pending op.page then c.placeWrite v op.page else c
  | .parityWrite => c.parityStart v (keyRow op.page)
  | _ => c
/-- A die has gone out of reach: its operations go on elsewhere; its own activities are dropped, and those of indexes that use it begin anew. -/
def State.clearDie (s : State) (die : Nat) : State :=
  let ops := (s.cel.die die).ops
  let s := s.onCel fun c => c.onDie die fun d => { d with queue := [], running := none }
  let s := s.onCel fun c => (c.acts.filter fun a => a.die == die && !a.ofIndex).foldl (fun c a => c.dropAct a.aid) c
  let s := s.each (s.cel.acts.filter fun a => a.ofIndex && (a.dests.any fun b => b / 65536 == die || ops.any fun o => opAid o == some a.aid)) fun s a => s.redoIndexAct a
  s.onCel fun c => ops.foldl (Cel.redirect s.ident.variant die) c
/-- A die fails (R283): recorded, and its rebuild onto its channel queued. -/
def State.failDie (s : State) (die : Nat) : State :=
  if (s.cel.die die).failed then s
  else
    let s := (s.cellarEvent 1 (die / 64) (die / 4 % 16) (die % 4) 0xFFFFFFFF 0xFFFFFFFF).onCel fun c => c.onDie die fun d => { d with failed := true, rebuilt := false }
    (s.clearDie die).onCel fun c => c.nextAct { actOf .rebuild die with urgent := true }
/-- A controller is lost (R287) and its domain turns off (R383). -/
def State.loseCtrl (s : State) (ctrl : Nat) : State :=
  if (s.cel.lostCtrl[ctrl]?).getD false then s
  else
    let s := ((s.cellarEvent 4 ctrl 0xFF 0xFF 0xFFFFFFFF 0xFFFFFFFF).setDom (49 + ctrl) .off).onCel fun c => { c with lostCtrl := setAt c.lostCtrl ctrl true }
    s.each (List.range 64) fun s i => s.clearDie (64 * ctrl + i)
/-- A channel is lost (Table 11.4); the sixteenth of a controller loses the controller (Table 11.7). -/
def State.loseChannel (s : State) (ctrl chan : Nat) : State :=
  if KMap.has s.cel.lostChan (16 * ctrl + chan) then s
  else
    let s := (s.cellarEvent 3 ctrl chan 0xFF 0xFFFFFFFF 0xFFFFFFFF).onCel fun c => { c with lostChan := KMap.set c.lostChan (16 * ctrl + chan) true }
    let s := s.each (List.range 4) fun s i => s.clearDie (dieNo ctrl chan i)
    if 16 ≤ (s.cel.lostChan.filter fun x => x.1 / 16 == ctrl).length then s.loseCtrl ctrl else s
/-- A block is retired (R282): recorded, its valid pages refreshed urgently; a plane with too few good blocks fails its die (R283). -/
def State.retireBlock (s : State) (die block : Nat) : State :=
  if (s.cel.block s.ident.variant die block).retired then s
  else
    let s := (s.cellarEvent 0 (die / 64) (die / 4 % 16) (die % 4) block 0xFFFFFFFF).onCel fun c =>
      let b := c.block s.ident.variant die block
      let c := { c with blocks := KMap.set c.blocks (blockKey die block) { b with retired := true, closed := true } }
      let c := c.onDie die fun d => { d with lost := modAt d.lost (block % 4) (· + 1) }
      if b.valid = 0 then c else c.queueRefresh die block true
    if (s.cel.die die).lost.any fun n => decide (Config.goodPerPlane s.ident.variant - n < Config.goodMin s.ident.variant) then s.failDie die else s
/-- A page is unreadable (R288): recorded and counted. -/
def State.pageBad (s : State) (die block page : Nat) : State :=
  (s.cellarEvent 5 (die / 64) (die / 4 % 16) (die % 4) block page).onCel fun c => { c with uncorr := satAdd 32 c.uncorr 1 }
/-- A lost page whose row has a second loss is unreadable: the same, at the place the map has for it. -/
def State.noPage (s : State) (key : Nat) : State :=
  match KMap.get? s.cel.map key with
  | some ph => if ph = 0xFFFFFFFF then (s.cellarEvent 5 (keyCtrl key) (keyChan key) 0xFF 0xFFFFFFFF (key % 2 ^ 32)).onCel fun c => { c with uncorr := satAdd 32 c.uncorr 1 }
    else s.pageBad (ph / 2048 / 65536) (ph / 2048 % 65536) (key % 2 ^ 32)
  | none => s
/-- What a decode left (R280 to R282): the block's worst page, a refresh, a retired block; step 4 has read the other pages of the row (R279, Table 11.3). -/
def State.decoded (s : State) (die block page step errors : Nat) : State :=
  let v := s.ident.variant
  let s := s.onCel fun c =>
    let c := (c.countRead v die block).onBlock die block fun b => { b with worst := match b.worst with | some (p, e) => if e < errors || p = page then some (page, errors) else b.worst | none => some (page, errors) }
    let c := if step < 4 then c
      else match (c.block v die block).pages[page]? with
        | some (some k) => ((rowMates k).filterMap c.placeOf).foldl (fun c x => c.countRead v x.1 x.2.1) c
        | _ => c
    if 2 ≤ step || c.refreshAt errors then c.queueRefresh die block (c.urgentAt errors) else c
  if 4 ≤ step then s.retireBlock die block else s

/-! ## Claims (R289 to R291) -/

/-- Room left in a block. -/
def Cel.roomIn (v : Variant) (c : Cel) (key : Nat) : Nat :=
  let b := c.block v (key / 65536) (key % 65536)
  if b.open_ then blockPages b.oneBit - b.pages.length else 0
def Cel.room (v : Variant) (c : Cel) (l : List Nat) : Nat := sumNat (l.map (c.roomIn v))
/-- The blocks `need` relocated pages of a die go to: an open TLC block that no wear move claims, and free ones where it is too small; as many as there are.
Keys in ascending order. -/
def Cel.relocBlocks (v : Variant) (c : Cel) (die : Nat) (avoid : Option Nat) (need : Nat) : List Nat :=
  let wear := fun (b : Block) => c.acts.any fun a => a.kind == .wear && b.claim == some a.aid
  let one := ((c.blocksOf die).find? fun x => !x.2.oneBit && x.2.open_ && !x.2.pages.isEmpty && some x.1 != avoid && !wear x.2).map fun x => blockKey die x.1
  let have_ := c.room v one.toList
  sortBy (fun x y => decide (x < y)) (one.toList ++ if have_ < need then (c.freeBlocks v die false (ceilDiv (need - have_) 1536)).map (blockKey die) else [])
/-- Data and parity pages whose map entry lies on a die (`none`: any block). -/
def Cel.pagesOn (c : Cel) (die : Nat) (block : Option Nat) : List Nat :=
  (c.map.filter fun x => x.2 != 0xFFFFFFFF && x.2 / 2048 / 65536 == die && (match block with | some b => x.2 / 2048 % 65536 == b | none => true)).map Prod.fst
/-- The dies a rebuild's copies go to: the other three of the channel, where they are in reach. -/
def Cel.mates (c : Cel) (die : Nat) : List Nat := ((List.range 4).map fun i => 4 * (die / 4) + i).filter fun d => d != die && !c.dieLost d
/-- Pages a rebuild can reconstruct: those whose row has no second loss (R283, R288). -/
def Cel.rebuildable (c : Cel) (die : Nat) : List Nat := (c.pagesOn die none).filter c.readable
/-- An activity that has no source and destinations yet, or whose destinations have filled while it waited, chooses them; none where it has nothing to work on
now, or no block to go to. A merge and a replica choose by their index. -/
def Cel.choose (v : Variant) (c : Cel) (a : Activity) : Option Activity :=
  match a.kind with
  | .merge | .replica => none
  | .rebuild =>
    let ds := c.mates a.die
    let n := ceilDiv (c.rebuildable a.die).length (max 1 ds.length)
    some (if a.dests.isEmpty then { a with dests := ds.flatMap fun d => c.relocBlocks v d none n } else a)
  | .wear =>
    match c.wearPick v a.die with
    | (some b, some d) => if a.dests.isEmpty then some { a with source := some b, dests := [blockKey a.die d] } else some a
    | _ => none
  | _ =>
    let src := match a.kind, a.source with
      | .refresh, b => b
      | _, some b => if (c.block v a.die b).pages.isEmpty then none else some b
      | k, none => if k = .gc then c.gcPick v a.die else c.foldPick a.die
    match src with
    | none => none
    | some b =>
      let need := (c.block v a.die b).valid
      let keep := a.source == some b && !a.dests.isEmpty && decide (need ≤ c.room v a.dests)
      let l := if keep then a.dests else c.relocBlocks v a.die (some b) need
      if c.room v l < need then none else some { a with source := some b, dests := l }
/-- The blocks an activity claims, in ascending order. -/
def Activity.wants (a : Activity) : List Nat := sortBy (fun x y => decide (x < y)) ((a.source.toList.map fun b => blockKey a.die b) ++ a.dests)
def Cel.blockAt (v : Variant) (c : Cel) (k : Nat) : Block := c.block v (k / 65536) (k % 65536)
/-- Claims are taken in order until one is held by another activity; a refresh aborts a wear move in its way (R289, R291). The answer: all are held. -/
def Cel.claim (v : Variant) (c : Cel) (a : Activity) : List Nat → Cel × Bool
  | [] => (c, true)
  | k :: l =>
    let take := fun (c : Cel) => let b := c.blockAt v k
      { c with blocks := KMap.set c.blocks k { b with claim := some a.aid } }
    match (c.blockAt v k).claim with
    | none => Cel.claim v (take c) a l
    | some o =>
      if o = a.aid then Cel.claim v c a l
      else match c.act? o with
        | none => Cel.claim v (take c) a l
        | some x => if a.kind = .refresh && x.kind = .wear then Cel.claim v (take (c.requeue x)) a l else (c, false)
/-- An activity with its choice made takes its claims; claims on blocks it has chosen no more are released first. -/
def Cel.takeClaims (v : Variant) (c : Cel) (a : Activity) : Cel :=
  let c := { c with acts := c.acts.map (fun (x : Activity) => if x.aid == a.aid then a else x),
                    blocks := KMap.mapAll c.blocks fun k b => if b.claim = some a.aid && !a.wants.contains k then { b with claim := none } else b }
  let (c, all) := c.claim v a a.wants
  c.onAct a.aid fun x => { x with claimed := all }

/-! ## Relocations (R290, R292, R293) -/

/-- Activities that occupy a die: with an operation queued or running there. -/
def Cel.occupants (c : Cel) (die : Nat) : List W32 := dedup ((c.die die).ops.filterMap opAid)
def Cel.channelOccupants (c : Cel) (die : Nat) : List W32 := dedup ((List.range 4).flatMap fun i => c.occupants (4 * (die / 4) + i))
/-- Operations an activity still has. -/
def Cel.opsOf (c : Cel) (aid : W32) : Nat := sumNat (c.dies.map fun d => (d.2.ops.filter fun o => opAid o == some aid).length)
/-- May an activity occupy these dies: no other on any of them, and fewer than two others on each of their channels (R290)? -/
def Cel.mayOccupy (c : Cel) (aid : W32) (dies : List Nat) : Bool :=
  dies.all fun d => ((c.occupants d).all fun x => x == aid) && decide (((c.channelOccupants d).filter fun x => x ≠ aid).length < 2)
/-- The pages an activity still has to copy: its source's valid pages; of a failed die, those that can be reconstructed, as far as there is room (R283). -/
def Cel.toCopy (v : Variant) (c : Cel) (a : Activity) : List Nat :=
  match a.kind with
  | .merge | .replica => []
  | .rebuild => (c.rebuildable a.die).take (c.room v a.dests)
  | .wear => (c.pagesOn a.die a.source).filter fun k => !(a.copies.any fun x => x.1 == k)
  | _ => match a.source with
    | some b => c.pagesOn a.die (some b)
    | none => []
/-- The dies the reads of pages, and the copies of an activity, need. -/
def Cel.needs (c : Cel) (a : Activity) (keys : List Nat) : List Nat :=
  dedup ((keys.flatMap fun k => (c.readPlaces k).map fun p => p.1) ++ a.dests.map fun b => b / 65536)
/-- The reads of pages are issued for an activity. -/
def Cel.readFor (v : Variant) (c : Cel) (aid : W32) (keys : List Nat) : Cel := keys.foldl (fun c k => c.queueReads v k (.actRead aid)) c
/-- A block is erased (R293). -/
def Cel.eraseBlock (v : Variant) (c : Cel) (die block : Nat) : Cel :=
  let b := c.block v die block
  let c := { c with blocks := KMap.set c.blocks (blockKey die block) { b with pages := [], closed := false, erases := b.erases + 1, reads := 0, worst := none } }
  ((c.onDie die fun d => { d with erases := d.erases + 1 }).ages fun a => a.kind == .wear && a.die == die).check v die false
/-- The block an activity's next page of a die is programmed into: the first of its destinations with room, else another free one. -/
def Cel.destOn (v : Variant) (c : Cel) (a : Activity) (die : Nat) : Option Nat :=
  match a.dests.find? fun k => decide (k / 65536 = die) && decide (0 < c.roomIn v k) && decide ((c.blockAt v k).claim = some a.aid) with
  | some k => some (k % 65536)
  | none => c.freeBlock v die false
/-- A page is programmed for an activity (R292): a copy changes the map entry only while it still names the place it was read from; a wear move's entries wait
for its end; a page of a new extent is a page write like any other. -/
def Cel.copyIn (v : Variant) (c : Cel) (a : Activity) (die : Nat) (op : FlashOp) : Cel :=
  match c.destOn v a die with
  | none => c
  | some b =>
    let blk := c.block v die b
    let c := { c with blocks := KMap.set c.blocks (blockKey die b) { blk with claim := some a.aid } }
    let ph := c.nextPhys v die b
    if a.ofIndex then
      if c.pending op.page then (c.program v die b op.page).landed v op.page ph else c.programPage v die b none
    else
      let src := physOf (blockKey a.die op.block) op.place
      if KMap.get? c.map op.page != some src then c.programPage v die b none
      else if a.kind = .wear then (c.programPage v die b none).onAct a.aid fun x => { x with copies := x.copies ++ [(op.page, src, ph)] }
      else c.program v die b op.page
/-- A wear move's map entries change at its end, each while it still names the source. -/
def Cel.commitWear (c : Cel) (a : Activity) : Cel :=
  a.copies.foldl (fun c x =>
    if KMap.get? c.map x.1 = some x.2.1 then
      let c := c.invalidate x.2.1
      { c with map := KMap.set c.map x.1 x.2.2, blocks := KMap.mod c.blocks (x.2.2 / 2048) fun b => { b with pages := setAt b.pages (x.2.2 % 2048) (some x.1) } }
    else c) c
/-- An activity whose copies are all made: a rebuild is complete once no page is mapped to the die; a fold, a collection or a wear move erases its
source; a refresh leaves its source, closed, to garbage collection (R281). -/
def State.actDone (s : State) (aid : W32) : State :=
  match s.cel.act? aid with
  | none => s
  | some a =>
    if !a.claimed || a.ofIndex || s.cel.opsOf aid ≠ 0 then s
    else
      let v := s.ident.variant
      let c := if a.kind = .wear then s.cel.commitWear a else s.cel
      match a.kind with
      | .merge | .replica => s
      | .rebuild =>
        let s := s.onCel fun c => c.dropAct aid
        if (s.cel.pagesOn a.die none).isEmpty then
          (s.onCel fun c => c.onDie a.die fun d => { d with rebuilt := true }).cellarEvent 2 (a.die / 64) (a.die / 4 % 16) (a.die % 4) 0xFFFFFFFF 0xFFFFFFFF
        else s
      | .refresh => s.onCel fun _ =>
          let dv := c.die a.die
          match a.source with
          | some b => (c.onBlock a.die b fun x => if x.closed || x.pages.isEmpty then x else { x with closed := true, closedAt := dv.erases, closedNo := dv.programs }).dropAct aid
          | none => c.dropAct aid
      | _ =>
        match a.source with
        | some b => if (c.block v a.die b).valid = 0 && !(c.block v a.die b).pages.isEmpty && !(c.block v a.die b).retired
            then s.onCel fun _ => c.queueOp v a.die { kind := .erase aid, page := 0, block := b, place := 0 }
            else s.onCel fun _ => (c.dropAct aid).check v a.die (a.kind == .gc)
        | none => s.onCel fun _ => c.dropAct aid

/-- A flash activity takes its claims and, once it may occupy its dies, issues its reads (R289, R290). -/
def State.claimAct (s : State) (aid : W32) : State :=
  let v := s.ident.variant
  match s.cel.act? aid with
  | none => s
  | some a =>
    if a.ofIndex then s
    else
      let s := if a.claimed then s
        else match s.cel.choose v a with
          | none => s
          | some a => s.onCel fun c => c.takeClaims v a
      match s.cel.act? aid with
      | none => s
      | some a =>
        let l := s.cel.toCopy v a
        if a.claimed && s.cel.opsOf aid == 0 && s.cel.mayOccupy aid (s.cel.needs a l) then ((s.onCel fun c => c.readFor v aid l).actDone aid) else s

/-- The next page of a die's patrol (R280): the next written block in ascending number, wrapping; its worst page, else its last. -/
def Cel.patrolNext (c : Cel) (die : Nat) : Option (Nat × Nat) :=
  let l := (c.blocksOf die).filter fun x => !x.2.pages.isEmpty
  let at_ := (c.die die).patrolBlock
  let b := match l.find? fun x => decide (at_ ≤ x.1) with | some x => some x | none => l.head?
  b.map fun x => (x.1, match x.2.worst with | some (p, _) => p | none => x.2.pages.length - 1)

/-- Does a result belong to an operation? -/
def opFits (k : OpKind) (r : FlashResult) : Bool :=
  match k, r with
  | .scan _, .read st _ | .patrol, .read st _ | .fetch _ _, .read st _ | .get _, .read st _ | .actRead _, .read st _ => decide (1 ≤ st.val)
  | .actWrite _, .program _ | .hostWrite, .program _ | .parityWrite, .program _ => true
  | .erase _, .erase _ => true
  | _, _ => false
/-- The data page a read was for, as a record of the black box has it: of a patrol, the one that lies there. -/
def State.recPage (s : State) (die : Nat) (op : FlashOp) : Nat :=
  match op.kind with
  | .patrol => (match (s.cel.block s.ident.variant die op.block).pages[op.place]? with | some (some k) => k % 2 ^ 32 | _ => 0xFFFFFFFF)
  | _ => op.page % 2 ^ 32
/-- A block a program failed in is retired (R282); the page goes to another block of the die. -/
def State.programFails (s : State) (die : Nat) (block : Option Nat) (op : FlashOp) : State :=
  let v := s.ident.variant
  let s := match block with | some b => s.retireBlock die b | none => s
  s.onCel fun c => if (c.die die).failed then Cel.redirect v die c op else c.queueOp v die op
/-- The write of a copy is queued once its page is in: on the activity's die, or for a rebuild on the first of the channel's dies with room left. -/
def Cel.copyOut (v : Variant) (c : Cel) (a : Activity) (op : FlashOp) : Cel :=
  let w : FlashOp := if a.kind = .rebuild then (match KMap.get? c.map op.page with
      | some ph => { kind := .actWrite a.aid, page := op.page, block := ph / 2048 % 65536, place := ph % 2048 }
      | none => { op with kind := .actWrite a.aid })
    else { op with kind := .actWrite a.aid }
  if a.kind = .rebuild then
    let left := fun d => c.room v (a.dests.filter fun b => b / 65536 = d) - ((c.die d).ops.filter fun o => o.kind == .actWrite a.aid).length
    match (c.mates a.die).find? fun d => decide (0 < left d) with
    | some d => c.queueOp v d w
    | none => c
  else c.queueOp v a.die w
/-- The end of the operation that ran on a die, but for what it was read for: the activity it belongs to goes on, and the die starts the next. -/
def State.opEnds (s : State) (die : Nat) (op : FlashOp) (r : FlashResult) : State :=
  let v := s.ident.variant
  let s := s.onCel fun c => c.onDie die fun d => { d with running := none }
  let s : State := match r with
    | .read st e =>
      let pg := s.recPage die op
      let s := s.decoded die op.block op.place st.val e.toNat
      if st.val = 5 then (s.pageBad die op.block pg).onCel fun c => if op.kind = .patrol then c else c.unqueue fun o => o.kind == op.kind && o.page == op.page else s
    | _ => s
  let s : State := match op.kind, r with
    | .actRead aid, .read st _ =>
      match s.cel.act? aid with
      | none => s
      | some a =>
        if a.ofIndex then (if st.val = 5 then s.onCel fun c => c.onAct aid fun x => { x with bad := x.bad ++ [op.page] } else s)
        else if st.val = 5 || s.cel.reading op.page (.actRead aid) then s
        else s.onCel fun c => c.copyOut v a op
    | .actWrite aid, .program okp =>
      match s.cel.act? aid with
      | some a => if okp then s.onCel fun c => c.copyIn v a die op else s.programFails die (s.cel.destOn v a die) op
      | none => s
    | .hostWrite, .program okp =>
      match s.cel.hostBlock v die with
      | some b =>
        if !okp then s.programFails die (some b) op
        else s.onCel fun c => if c.pending op.page then (let ph := c.nextPhys v die b; (c.program v die b op.page).landed v op.page ph) else c.programPage v die b none
      | none => s.onCel fun c => c.queueOp v die op
    | .parityWrite, .program okp =>
      match s.cel.hostBlock v die with
      | some b =>
        if !okp then s.programFails die (some b) op
        else s.onCel fun c => let ph := c.nextPhys v die b; (c.program v die b op.page).parityDone (keyRow op.page) (some ph)
      | none => s.onCel fun c => c.queueOp v die op
    | .erase aid, .erase okp =>
      match s.cel.act? aid with
      | some a =>
        if okp then s.onCel fun c => ((c.eraseBlock v die op.block).dropAct aid).check v die (a.kind == .gc)
        else (s.retireBlock die op.block).onCel fun c => (c.dropAct aid).check v die (a.kind == .gc)
      | none => s
    | _, _ => s
  let s := s.onCel fun c => c.prune die
  let s := match opAid op with | some aid => s.actDone aid | none => s
  s.onCel fun c => c.start v die

end Sys2Proof.Machine
end

