-- ==== Sys2Proof/Machine/Domains.lean ====
section
/-! DEFINITION. Power domains in service: waking, sleeping and turning off (R383 to R387, R390, R439). -/

namespace Sys2Proof.Machine

/-- Domain of a core (Table 16.1). -/
def coreDom (c : Nat) : Nat := 7 + c
def isCoreDom (d : Nat) : Bool := 7 ≤ d && d ≤ 40
/-- Bytes of core SRAM a core has, and where it starts (Table 5.3). -/
def coreSram : Nat := 12 * 2 ^ 20
def coreBase (c : Nat) : Nat := c * 2 ^ 24
/-- A wake request (R385, R387): a core that is off turns on in the present window while fewer than 2 have, else it waits for the next. -/
def State.wakeDom (s : State) (d : Nat) : State :=
  match s.dom d with
  | .on | .changing => s
  | .sleep => s.setDom d .changing
  | .off =>
    if !isCoreDom d then s.setDom d .changing
    else if s.pwr.onWait.contains d then s
    else if s.pwr.onWindow < 2 then (s.setDom d .changing).onPwr fun w => { w with onWindow := w.onWindow + 1 }
    else s.onPwr fun w => { w with onWait := w.onWait ++ [d] }
/-- Every core of a partition is woken (R385). -/
def State.wakeCores (s : State) (p : Nat) : State := s.each (s.part p).cores fun s c => s.wakeDom (coreDom c)
/-- A core turns off: it keeps nothing of its own, its SRAM reads as zero at the next wake (16, states). Its test and fault state stays with the
control complex. -/
def Core.cleared (k : Core) : Core :=
  { Core.reset with state := k.state, fenced := k.fenced, lat := k.lat, droops := k.droops, residue := k.residue, bankErr := k.bankErr, dogs := k.dogs }
def State.offCore (s : State) (c : Nat) : State :=
  let s := (s.setDom (coreDom c) .off).onPwr fun w => { w with onWait := w.onWait.filter (· ≠ coreDom c), rampWait := w.rampWait.filter (· ≠ c) }
  (s.onCore c Core.cleared).onMem fun m => { m with bytes := Mem.zero m.bytes (coreBase c) coreSram }
/-- May a launch start on the core: its domain is on and its PLL locked (R385, R390)? -/
def State.coreReady (s : State) (c : Nat) : Bool := s.dom (coreDom c) == .on && (s.core c).pllLocked

end Sys2Proof.Machine
end

