-- ==== Sys2Proof/Machine/Retrieval.lean ====
section
/-! DEFINITION. Retrieval (06): scores, ranking, probe order, planning, scanning, merging of candidates, the mudroom and the passage store. -/

namespace Sys2Proof.Machine

/-! ## Pure functions -/

/-- score of R137. -/
def scoreAcc (l2 : Bool) : Nat → List W32 → List W32 → List W32 → List W32
  | i, acc, a :: q, b :: x =>
    let l := i % 8
    let acc := modAt acc l fun v => if l2 then (let d := fsub b a; ffma d d v) else ffma a b v
    scoreAcc l2 (i + 1) acc q x
  | _, acc, _, _ => acc
def scoreOf (q x : List W32) (metric : Nat) : W32 :=
  let acc := scoreAcc (metric == 1) 0 (List.replicate 8 0) q x
  let f := fun (w : Nat) (a : List W32) => List.zipWith fadd (a.take w) ((a.drop w).take w)
  let r := ((f 1 (f 2 (f 4 acc)))[0]?).getD 0
  if metric = 1 then fneg r else r

/-- R138. -/
def candBefore (a b : Cand) : Bool :=
  let byId := decide (a.id.toNat < b.id.toNat) || (a.id == b.id && decide (b.version.toNat < a.version.toNat))
  if isNan32 a.score then isNan32 b.score && byId
  else if isNan32 b.score then true
  else if flt b.score a.score then true
  else if flt a.score b.score then false
  else byId

/-- Insert into the best `k` under R138 (R145). -/
def candInsert (k : Nat) (l : List Cand) (c : Cand) : List Cand := (insertBy candBefore c l).take k

/-- Projections p_b of a query (R139). -/
def projections (ix : Index) (q : List W32) : List W32 := ix.proj.map fun row => scoreOf row q 0
def homeBits : Nat → List W32 → Nat
  | _, [] => 0
  | b, p :: l => (if fge p 0 then 2 ^ b else 0) + homeBits (b + 1) l

/-- A cost of R139: how many infinite margins it holds, and the exact sum of the finite ones. -/
abbrev Cost := Int × Dy
def Cost.lt (a b : Cost) : Bool := decide (a.1 < b.1) || (decide (a.1 = b.1) && a.2.lt b.2)
def Cost.add (a b : Cost) : Cost := (a.1 + b.1, Dy.add a.2 b.2)
def Cost.neg (a : Cost) : Cost := (-a.1, Dy.neg a.2)
def Cost.zero : Cost := (0, Dy.zero)
/-- The margin of a projection: one that FP32 overflow made infinite, or not a number, costs more than any finite sum. -/
def marginOf (x : W32) : Cost := if finite32 x then (0, (toNum (fabs x)).dy) else (1, Dy.zero)
/-- One heap entry of `probe_order`: cost, position mask, positions (last first). -/
abbrev ProbeEnt := Cost × Nat × List Nat
def probeLt (a b : ProbeEnt) : Bool := a.1.lt b.1 || (!b.1.lt a.1 && decide (a.2.1 < b.2.1))
/-- The loop of `probe_order`: at most `fuel` further buckets. -/
def probeLoop (h home : Nat) (order : List Nat) (m : List Cost) : Nat → List ProbeEnt → List Nat
  | 0, _ => []
  | fuel + 1, heap =>
    match heap with
    | [] => []
    | (cost, mask, pos) :: rest =>
      let bkt := home ^^^ sumNat (pos.map fun i => 2 ^ (order[i]?).getD 0)
      let j := (pos.head?).getD 0
      let g := fun i => (m[i]?).getD Cost.zero
      let rest := if j + 1 < h then
        insertBy probeLt ((cost.add (g (j + 1))), mask ||| 2 ^ (j + 1), (j + 1) :: pos)
          (insertBy probeLt (((cost.add (g j).neg).add (g (j + 1))), mask ^^^ 2 ^ j ^^^ 2 ^ (j + 1), (j + 1) :: pos.drop 1) rest)
        else rest
      bkt :: probeLoop h home order m fuel rest
/-- probe_order of R139: the first `count` buckets. -/
def probeOrder (p : List W32) (count : Nat) : List Nat :=
  let h := p.length
  let mar := p.map marginOf
  let order := sortBy (fun a b : Nat => let x := (mar[a]?).getD Cost.zero; let y := (mar[b]?).getD Cost.zero; x.lt y || (!y.lt x && decide (a < b))) (List.range h)
  let m := order.map fun b => (mar[b]?).getD Cost.zero
  let home := homeBits 0 p
  home :: probeLoop h home order m (count - 1) [((m[0]?).getD Cost.zero, 1, [0])]

/-- The home bucket and, under R140, the spill bucket of a vector. -/
def homeSpill (ix : Index) (v : List W32) : Nat × Option Nat :=
  let p := projections ix v
  let ord := probeOrder p 2
  let home := homeBits 0 p
  let spill := if flt 0 ix.spillTau && p.any (fun x => flt (fabs x) ix.spillTau) then ord[1]? else none
  (home, spill)

def passes (f : List FilterTerm) (tag : W64) : Bool := f.isEmpty || f.any fun t => tag &&& t.mask == t.value
/-- live_tombstone(x, s). -/
def liveTomb (ix : Index) (x : W64) (s : W64) : Nat := maxNat ((ix.tombs.filter fun t => t.id == x && decide (t.n.toNat ≤ s.toNat)).map fun t => t.n.toNat)
/-- One list folded into `best`: (list number, candidate) by passage ID. -/
def mergeInto (ix : Index) (s : W64) (n : Nat) (best : List (Nat × Cand)) : List Cand → List (Nat × Cand)
  | [] => best
  | c :: l =>
    if c.version.toNat + 1 ≤ liveTomb ix c.id s then mergeInto ix s n best l
    else match best.find? fun b => b.2.id == c.id with
      | none => mergeInto ix s n (best ++ [(n, c)]) l
      | some b =>
        if decide (b.2.version.toNat < c.version.toNat) then mergeInto ix s n (best.map fun x => if x.2.id == c.id then (n, c) else x) l
        else mergeInto ix s n best l
def mergeAll (ix : Index) (s : W64) : Nat → List (Nat × Cand) → List (Nat × List Cand) → List (Nat × Cand)
  | _, best, [] => best
  | n, best, l :: ls => mergeAll ix s (n + 1) (mergeInto ix s n best l.2) ls
/-- What merge_lists of R154 leaves, before the cut, with what is left of each list, and whether R155's margin overran: a list returned with k + d entries had
more than d dropped or collapsed. A list is the length it was returned with and its entries. -/
def mergeLists (ix : Index) (lists : List (Nat × List Cand)) (s : W64) (k d : Nat) (f : List FilterTerm) : List Cand × List (Nat × List Cand) × Bool :=
  let best := mergeAll ix s 0 [] lists
  let left := (enum lists).map fun l => (l.2.1, (best.filter fun b => b.1 == l.1).map Prod.snd)
  (sortBy candBefore ((best.map Prod.snd).filter fun c => passes f c.tag), left, left.any fun l => l.1 == k + d && decide (d < l.1 - l.2.length))

/-! ## Records, extents and the store -/

/-- A record (Table 6.2). -/
structure Rec where
  id : W64
  tag : W64
  version : W64
  vec : List W32
  deriving DecidableEq, Repr
def Rec.bytes (r : Rec) : Bytes := leBytes 8 r.id.toNat ++ leBytes 8 r.tag.toNat ++ leBytes 8 r.version.toNat ++ wordsBytes r.vec
def recOf (dim : Nat) (b : Bytes) : Rec :=
  { id := BitVec.ofNat 64 (fld b 0 8), tag := BitVec.ofNat 64 (fld b 8 8), version := BitVec.ofNat 64 (fld b 16 8), vec := words32 (slice b 24 (4 * dim)) dim }
/-- The records of an extent, read from its pages. -/
def State.extentRecs (s : State) (dim : Nat) (e : Extent) : List Rec :=
  let b := s.cel.readRun e.ctrl e.page (extentPages dim e.count)
  (List.range e.count).map fun i => recOf dim (slice b (i * recordLen dim) (recordLen dim))
/-- The records whose first byte lies in page `i` of an extent (R144), with the last page each reaches. -/
def State.recsOnPage (s : State) (dim : Nat) (e : Extent) (i : Nat) : List (Rec × Nat) :=
  let len := recordLen dim
  let b := s.cel.readRun e.ctrl e.page (extentPages dim e.count)
  ((List.range e.count).filter fun r => decide (r * len / 16384 = i)).map fun r => (recOf dim (slice b (r * len) len), (r * len + len - 1) / 16384)
/-- An extent is written on a controller (R141, R271): the state and where it lies; `none` where no controller has room. -/
def State.writeExtent (s : State) (bucket dim : Nat) (l : List Rec) (skip : Option Nat) : State × Option Extent :=
  let n := extentPages dim l.length
  match s.cel.pickCtrl s.ident.variant skip with
  | none => (s, none)
  | some c =>
    let d := s.cel.newRun c bucket n
    if Config.dataPages s.ident.variant < d + n then (s, none)
    else
      let pg := (pieces 16384 (l.flatMap Rec.bytes))
      (s.onCel fun x => x.writeRun s.ident.variant c d pg, some { ctrl := c, page := d, count := l.length })
def State.freeExtent (s : State) (dim : Nat) (e : Extent) : State := s.onCel fun x => x.trimRun s.ident.variant e.ctrl e.page (extentPages dim e.count)

def Index.bucket (ix : Index) (b : Nat) : Bucket := KMap.getD ix.dir b Bucket.empty
def Index.setBucket (ix : Index) (b : Nat) (v : Bucket) : Index := { ix with dir := KMap.setD ix.dir b Bucket.empty v }
/-- Mudroom entries of a bucket's list. -/
def Index.mudOf (ix : Index) (b : Nat) : List Mud := ix.mud.filter fun m => m.bucket == b
/-- Latest version of a passage in the store, deleted or not. -/
def Index.latest (ix : Index) (id : W64) : Option StoreEntry :=
  ix.store.foldl (fun acc e => if e.id == id then (match acc with | some a => if a.version.toNat < e.version.toNat then some e else acc | none => some e) else acc) none
/-- The latest version visible at a snapshot (R166). -/
def Index.latestAt (ix : Index) (id : W64) (s : W64) : Option StoreEntry :=
  ix.store.foldl (fun acc e => if e.id == id && decide (e.version.toNat ≤ s.toNat) then
    (match acc with | some a => if a.version.toNat < e.version.toNat then some e else acc | none => some e) else acc) none
def Index.exact (ix : Index) (id version : W64) : Option StoreEntry := ix.store.find? fun e => e.id == id && e.version == version

/-- The buckets an insert of a vector occupies: home, and spill under R140. -/
def Index.places (ix : Index) (v : List W32) : List Nat := let (h, p) := homeSpill ix v; h :: p.toList
/-- The buckets of the inserts admitted and not yet published, one per mudroom entry they take. -/
def Index.waitMud (ix : Index) : List Nat := ix.waiting.flatMap fun m => if m.insert then ix.places m.vec else []
/-- Mudroom entries an index holds, those of admitted inserts among them. -/
def Index.mudHeld (ix : Index) : Nat := ix.mud.length + ix.waitMud.length
/-- Module-wide counts (R135, R151, R142, R164). -/
def State.mudUsed (s : State) : Nat := sumNat (s.ret.indexes.map fun x => x.2.mudHeld)
def State.tombUsed (s : State) : Nat := sumNat (s.ret.indexes.map fun x => x.2.tombs.length)
def State.oldGens (s : State) : Nat := sumNat (s.ret.indexes.map fun x => (x.2.dir.filter fun b => b.2.old.isSome).length)
def State.replicas (s : State) : Nat := sumNat (s.ret.indexes.map fun x => (x.2.dir.filter fun b => b.2.hot.isSome).length)
/-- Three quarters of the module's mudroom entries or tombstones are in use (R159); the cellar's classes and ages see it so. -/
def State.crowded (s : State) : Bool := decide (3 * 8388608 ≤ 4 * s.mudUsed) || decide (3 * 16777216 ≤ 4 * s.tombUsed)
def State.markCrowded (s : State) : State := s.onCel fun c => { c with crowded := s.crowded }
def State.nextAct (s : State) (a : Activity) : State := s.onCel fun c => c.nextAct a
/-- A bucket becomes due for merge (R159): a merge activity is queued once. -/
def State.makeDue (s : State) (i b : Nat) : State :=
  match s.index? i with
  | none => s
  | some ix =>
    if (ix.bucket b).due then s
    else (s.onIndex i fun x => x.setBucket b { x.bucket b with due := true, dueAt := x.seq }).nextAct
      { actOf .merge 0 with index := i, bucket := b }
/-- Is a bucket due by its list or its tombstones (R159)? An entry that a merge has folded is in the list until its generation retires (R162). -/
def Index.dueNow (ix : Index) (b : Nat) : Bool :=
  decide (ix.mergeAt ≤ (ix.mudOf b).length) || decide (16 ≤ (ix.tombs.filter fun t => t.buckets.contains b).length)

/-! ## The passage store's pages (R165, R166, Table 6.5) -/

/-- The home page of an ID. -/
def Index.homePage (ix : Index) (id : W64) : Nat := (id.toNat * 0x9E3779B97F4A7C15 % 2 ^ 64) / 2 ^ (64 - ix.storeBits)
/-- An entry as its page holds it. -/
def StoreEntry.bytes (e : StoreEntry) : Bytes :=
  payload [(8, e.id.toNat), (8, e.version.toNat), (4, e.home), (4, e.spill.getD 0xFFFFFFFF), (2, e.text.length), (2, boolNat e.deleted), (4, 0)] ++ e.text
/-- The entry an admitted insert will make. -/
def Index.entryOf (ix : Index) (m : Mutation) : StoreEntry :=
  let (home, spill) := homeSpill ix m.vec
  { id := m.id, version := m.seq, home := home, spill := spill, deleted := false, text := m.text }
/-- Entries of a home page: those of the store, then those of admitted inserts. -/
def Index.entriesAt (ix : Index) (home : Nat) : List StoreEntry :=
  (ix.store ++ (ix.waiting.filter fun m => m.insert && m.placed).map ix.entryOf).filter fun e => ix.homePage e.id == home
/-- Bytes of a store page before its chain pointer. -/
def storeRoom : Nat := 16376
/-- A chain's pages as they are written: each holds its part of the entries and, in its last 8 bytes, the next page of the chain (the form of the pointer is the
model's: controller × 2^32 + data page, all ones for none). -/
def chainBytes : List Nat → List Bytes → List Bytes
  | _ :: ks, b :: bs => (padTo storeRoom b ++ leBytes 8 (match ks with | n :: _ => n | [] => 2 ^ 64 - 1)) :: chainBytes ks bs
  | _, _ => []
/-- The first unmapped data page of a controller. -/
def Cel.newPage (v : Variant) (c : Cel) : Option Nat :=
  (c.pickCtrl v none).bind fun i => if Config.dataPages v ≤ (c.used[i]?).getD 0 then none
    else ((List.range (c.map.length + 1)).find? fun d => !KMap.has c.map (pageKey i d)).map fun d => pageKey i d
/-- `n` further pages begin to be written, empty; none where the cellar has no room. -/
def Cel.newPages (v : Variant) : Nat → Cel → List Nat → Option (Cel × List Nat)
  | 0, c, l => some (c, l)
  | n + 1, c, l => match c.newPage v with
    | none => none
    | some k => Cel.newPages v n { c with map := KMap.set c.map k 0xFFFFFFFF, used := modAt c.used (k / 2 ^ 32) (· + 1) } (l ++ [k])
/-- The pages of one home page's chain follow its entries: pages that changed are written, pages no longer needed are trimmed. None where the cellar has no
room for it. -/
def State.syncHome (s : State) (i home : Nat) : Option State :=
  match s.index? i with
  | none => some s
  | some ix =>
    let v := s.ident.variant
    let old := KMap.getD ix.pages home []
    let body := pieces storeRoom ((ix.entriesAt home).flatMap StoreEntry.bytes)
    match Cel.newPages v (body.length - old.length) s.cel (old.take body.length) with
    | none => none
    | some (c, ks) =>
      let c := (old.drop body.length).foldl (fun c k => c.trim v (k / 2 ^ 32) (k % 2 ^ 32)) c
      let c := (ks.zip (chainBytes ks body)).foldl (fun c x =>
        if KMap.has s.cel.map x.1 && c.read x.1 == pageOf x.2 then c else c.write v (x.1 / 2 ^ 32) (x.1 % 2 ^ 32) (pageOf x.2)) c
      some ((s.onCel fun _ => c).onIndex i fun x => { x with pages := if ks.isEmpty then KMap.erase x.pages home else KMap.set x.pages home ks })
/-- The same for several home pages, one after the other; a page that finds no room stays as it was. -/
def State.syncHomes (s : State) (i : Nat) (homes : List Nat) : State := s.each homes fun s h => (s.syncHome i h).getD s
/-- The numbers of the writes from one number on. -/
def writesFrom (a b : Nat) : List Nat := (List.range (b - a)).map (a + ·)
/-- The pages a fetch of an entry reads: the home page, and the chain until the entry's last byte. -/
def Index.fetchPages (ix : Index) (id version : W64) : List Nat :=
  let home := ix.homePage id
  let upTo := (ix.entriesAt home).foldl (fun (acc : Nat × Option Nat) e =>
    match acc.2 with
    | some _ => acc
    | none => let n := acc.1 + 32 + e.text.length; if e.id == id && e.version == version then (n, some n) else (n, none)) (0, none)
  match upTo.2 with
  | some n => (KMap.getD ix.pages home []).take (ceilDiv n storeRoom)
  | none => []

/-! ## Plans and scans -/

/-- The generation a snapshot reads (R143): GEN, extent, replica. -/
def chooseGen (b : Bucket) (s : W64) : Nat × Option Extent × Option Extent :=
  match b.old with
  | some (e, g, m, _) => if s.toNat < m.toNat then (g, e, none) else (b.gen, b.ext, b.hot)
  | none => (b.gen, b.ext, b.hot)
/-- The plan of one probed bucket (R143, R144). -/
def State.planBucket (s : State) (ix : Index) (snap : W64) (b : Nat) : PlanEntry :=
  let (g, e, h) := chooseGen (ix.bucket b) snap
  let e := match e, h with
    | some p, some r => if s.queuedReads r.ctrl < s.queuedReads p.ctrl then some r else some p
    | e, _ => e
  { bucket := b, gen := g, ext := if g = 0 then none else e }
/-- The mudroom scanner's list (R147, R153). -/
def mudList (ix : Index) (plan : List PlanEntry) (j : Job) : List Cand :=
  (ix.mud.filter fun m => decide (m.version.toNat ≤ j.snap.toNat) && plan.any fun p => p.bucket == m.bucket && (m.foldGen == 0 || decide (p.gen < m.foldGen.toNat)))
    |>.foldl (fun l m => candInsert (j.k + j.d) l { id := m.id, version := m.version, tag := m.tag, score := scoreOf j.query m.vec ix.metric, member := 0 }) []
/-- The page reads of a plan: controller and data page. -/
def planReads (ix : Index) (plan : List PlanEntry) : List (Nat × Nat) :=
  plan.flatMap fun p => match p.ext with
    | some e => (List.range (extentPages ix.dim e.count)).map fun i => (e.ctrl, e.page + i)
    | none => []
def State.onJob (s : State) (adm : W64) (f : Job → Job) : State := s.onRet fun r => { r with jobs := r.jobs.map fun j => if j.adm == adm then f j else j }
def State.job? (s : State) (adm : W64) : Option Job := s.ret.jobs.find? fun j => j.adm == adm
/-- The buckets a round probes (R139, R157). -/
def roundBuckets (ix : Index) (j : Job) (r : Nat) : List Nat :=
  let cap := min (2 ^ ix.hashBits) 4096
  let hi := min cap (j.p * 2 ^ r)
  let lo := if r = 0 then 0 else min cap (j.p * 2 ^ (r - 1))
  (probeOrder (projections ix j.query) hi).drop lo
/-- Searches of the last 65,536 of its index that probed a bucket. -/
def Index.heatOf (ix : Index) (b : Nat) : Nat := (ix.probes.filter fun p => p.2.contains b).length
/-- A bucket that becomes hot queues a replica of its current generation (R164); `cfg` is `RET_HOT_CFG` as the search found it, and EN must stand now (R170). -/
def State.heat (s : State) (i : Nat) (cfg : W32) (b : Nat) : State :=
  match s.index? i with
  | none => s
  | some ix =>
    let k := ix.bucket b
    if !bit cfg.toNat 16 || !bit s.ret.hotCfg.toNat 16 || k.hot.isSome || k.ext.isNone || ix.heatOf b ≤ max 1 (bits cfg.toNat 15 0)
      || (s.cel.acts.any fun a => a.kind == .replica && a.index == i && a.bucket == b) then s
    else s.nextAct { actOf .replica 0 with index := i, bucket := b }
/-- Extents given up are trimmed once no planned scan reads them (R164). -/
def State.sweepLeaving (s : State) : State :=
  let inUse := fun (e : Extent) => s.ret.jobs.any fun j => j.own.isNone && j.plan.any fun p => p.ext == some e
  let gone := s.ret.leaving.filter fun x => !inUse x.2
  (s.each gone fun s x => s.freeExtent x.1 x.2).onRet fun r => { r with leaving := r.leaving.filter fun x => inUse x.2 }
/-- A round starts: its plan, its mudroom list, its queued controllers. -/
def State.planRound (s : State) (j : Job) (r : Nat) : State :=
  match s.index? j.index with
  | none => s
  | some ix =>
    let bs := roundBuckets ix j r
    let plan := bs.map fun b => s.planBucket ix j.snap b
    let s := s.onJob j.adm fun x =>
      { x with round := r, plan := plan, queued := dedup ((planReads ix plan).map Prod.fst), holds := [], reads := planReads ix plan,
               lists := [(128, mudList ix plan x)] }
    let s := if r = 0 then s.onIndex j.index fun x => { x with probes := ((j.adm, bs) :: x.probes).take 65536, searches := x.searches + 1 }
      else s.onIndex j.index fun x => { x with probes := x.probes.map fun p => if p.1 == j.adm then (p.1, p.2 ++ bs) else p }
    (s.each bs fun s b => s.heat j.index j.hot b).sweepLeaving

/-- The merge of a round's lists (R154 to R158): the job's own survivors, or the next round. -/
def State.mergeRound (s : State) (adm : W64) : State :=
  match s.job? adm with
  | none => s
  | some j =>
    if !j.queued.isEmpty || !j.reads.isEmpty || j.own.isSome then s
    else match s.index? j.index with
      | none => s
      | some ix =>
        let now := (sortBy (fun a b : Nat × List Cand => decide (a.1 < b.1)) j.lists).map fun l => (l.2.length, l.2)
        let (kept, left, overN) := mergeLists ix (j.earlier ++ now) j.snap j.k j.d j.filter
        let cap := min (2 ^ ix.hashBits) 4096
        let s := if overN && !j.overrun then ((s.onIndex j.index fun x => { x with overruns := satAdd 32 x.overruns 1 }).onJob adm fun x => { x with overrun := true }).each j.slot.toList
            fun s n => s.onReq n fun x => { x with overran := true }
          else s
        if kept.length < j.k && j.round < j.w && j.p * 2 ^ j.round < cap then
          (s.onJob adm fun x => { x with earlier := left }).planRound { j with earlier := left } (j.round + 1)
        else s.onJob adm fun x => { x with own := some (kept.take j.k), rounds := max x.rounds j.round }
/-- A round with no page to read merges at once; each further round may be of that kind again (at most five rounds). -/
def State.settleJob (s : State) (adm : W64) : State :=
  let f := fun (s : State) => s.mergeRound adm
  f (f (f (f (f s))))

/-- A list's result across members (R346): equal IDs collapse to the first ranked. -/
def mergeMembers (own others : List Cand) (k : Nat) : List Cand :=
  ((sortBy candBefore (own ++ others)).foldl (fun acc c => if acc.any fun a => a.id == c.id then acc else acc ++ [c]) []).take k

/-- The page reads of a plan on a controller are issued. -/
def State.issueScan (s : State) (adm : W64) (ctrl : Nat) : State :=
  match s.job? adm with
  | none => s
  | some j => s.each (j.reads.filter fun x => x.1 == ctrl) fun s x => s.queueRead (pageKey x.1 x.2) (.scan adm)
/-- A context of a controller is given to the lowest waiting admission number (R146). -/
def State.dispatch (s : State) (ctrl : Nat) : State :=
  if 64 ≤ (s.ret.ctx[ctrl]?).getD 0 then s
  else match sortBy (fun a b : Job => decide (a.adm.toNat < b.adm.toNat)) (s.ret.jobs.filter fun j => j.queued.contains ctrl) with
    | [] => s
    | j :: _ =>
      let s := s.onRet fun r => { r with ctx := modAt r.ctx ctrl (· + 1) }
      let s := s.onJob j.adm fun x => { x with queued := x.queued.filter (· ≠ ctrl), holds := x.holds ++ [ctrl] }
      let rs := j.reads.filter fun x => x.1 == ctrl
      let (s, waits) := if j.remote.isSome then (s, false) else s.regulate j.part 2 (4 * rs.length) false (.scan j.adm ctrl) j.slot.toList
      if waits then s else s.issueScan j.adm ctrl

/-- The scan unit that scores a channel's records: the channel's own, or in a search in which it failed, the next one of the controller (R169). -/
def Job.unitOf (j : Job) (ctrl chan : Nat) : Nat :=
  (((List.range 16).map fun i => 16 * ctrl + (chan + i) % 16).find? fun u => !j.failed.contains u).getD (16 * ctrl + chan)
/-- A page of a plan is scored by its scan unit (R144, R145), or skipped as unreadable (R288). -/
def State.scorePage (s : State) (adm : W64) (ctrl page : Nat) (readable : Bool) : State :=
  match s.job? adm with
  | none => s
  | some j =>
    if !(j.holds.contains ctrl && j.reads.contains (ctrl, page)) || (s.part j.part).waitsFor (.scan adm ctrl)
      || s.cel.reading (pageKey ctrl page) (.scan adm) then s
    else match s.index? j.index with
      | none => s
      | some ix =>
        let readable := readable && s.cel.pageReadable ctrl page
        let recs := if !readable then [] else
          j.plan.flatMap fun p => match p.ext with
            | some e => if e.ctrl == ctrl && decide (e.page ≤ page) && decide (page < e.page + extentPages ix.dim e.count) then ((s.recsOnPage ix.dim e (page - e.page)).filter fun r => (List.range (r.2 - (page - e.page))).all fun i => s.cel.pageReadable ctrl (page + 1 + i)).map Prod.fst
                else []
            | none => []
        let unit := j.unitOf ctrl (page % 16)
        let old := match j.lists.find? fun l => l.1 == unit with | some l => l.2 | none => []
        let l := recs.foldl (fun l r => candInsert (j.k + j.d) l { id := r.id, version := r.version, tag := r.tag, score := scoreOf j.query r.vec ix.metric, member := 0 }) old
        let reads := j.reads.filter (· ≠ (ctrl, page))
        let done := !(reads.any fun x => x.1 == ctrl)
        let s := s.onJob adm fun x =>
          { x with lists := (x.lists.filter fun y => y.1 ≠ unit) ++ [(unit, l)], reads := reads, unreadable := x.unreadable || !readable,
                   holds := if done then x.holds.filter (· ≠ ctrl) else x.holds }
        let s := if done then s.onRet fun r => { r with ctx := modAt r.ctx ctrl (· - 1) } else s
        s.settleJob adm

/-- Contexts of dropped searches go free once the page they were scoring is done (R168). -/
def State.sweepLeft (s : State) : State :=
  let on := fun (x : LeftCtx) => s.cel.dies.any fun d => d.1 / 64 == x.ctrl && (match d.2.running with | some o => o.kind == .scan x.adm | none => false)
  let gone := s.ret.left.filter fun x => !on x
  if gone.isEmpty then s
  else s.onRet fun r => { r with left := r.left.filter on, ctx := gone.foldl (fun c x => modAt c x.ctrl (· - 1)) r.ctx }
/-- A job ends or is dropped (R168): its queued plan and reads go, and each context with its snapshot once the page it scores is done. -/
def State.dropJob (s : State) (adm : W64) : State :=
  match s.job? adm with
  | none => s
  | some j =>
    let s := (s.onPart j.part fun x => { x with transfers := x.transfers.filter fun t => match t.2.key with | .scan a _ => a ≠ adm | _ => true }).onRet fun r =>
      { r with jobs := r.jobs.filter fun x => x.adm ≠ adm, left := r.left ++ j.holds.map fun c => { adm := adm, ctrl := c, index := j.index, snap := j.snap } }
    ((s.onCel fun c => c.unqueue fun o => o.kind == .scan adm).sweepLeft).sweepLeaving
def State.dropJobsOf (s : State) (slot : Nat) : State :=
  s.each (s.ret.jobs.filter fun j => j.slot == some slot) fun s j => s.dropJob j.adm

/-- Reachable other members of an index's shard set (R346, R356). -/
def State.shardMembers (s : State) (i : Nat) (ix : Index) : List W16 :=
  let g := (KMap.getD s.fab.groupsNow i 0).toNat
  if !bit g 16 then []
  else dedup ((s.fab.heard.filter fun a => a.index.val == i && a.group.toNat == g % 4096 && a.dim.toNat == ix.dim && a.metric.toNat == ix.metric
      && KMap.has s.fab.routes a.member.toNat).map fun a => a.member)

/-- Snapshots below which a generation must stay readable: live requests and jobs (R162). -/
def State.snapshots (s : State) (i : Nat) : List Nat :=
  (s.sch.slots.filterMap fun x => let r := x.2; if !r.closed && r.index == i && (r.kind == .ask || r.kind == .search || r.kind == .rerank)
      && decide (r.phase = 0) then some r.snap.toNat else none)
  ++ (s.ret.jobs.filterMap fun j => if j.index == i then some j.snap.toNat else none)
  ++ (s.ret.left.filterMap fun x => if x.index == i then some x.snap.toNat else none)
  ++ (s.ret.memberHolds.filterMap fun h => if h.2.2.1 == i then some h.2.2.2.toNat else none)

end Sys2Proof.Machine
end

