-- ==== Sys2Proof/Machine/TableOps.lean ====
section
/-! DEFINITION. Sparse tables (07): rows and their indirection entries, gathers, hot rows, the reclaim list, row writes. -/

namespace Sys2Proof.Machine

/-! ## Rows (R173 to R176) -/

/-- Does this module own the shard? A table of one shard is wholly local. -/
def State.ownsShard (s : State) (t : Table) (sh : Nat) : Bool := t.owners.length ≤ 1 || (s.fab.valid && (t.owners[sh]?).getD 0 == s.fab.addr)
def Table.shardLen (t : Table) : Nat := ceilDiv t.rows (max 1 t.owners.length)
def Table.shardOf (t : Table) (row : Nat) : Nat := row / max 1 t.shardLen
/-- The stored rows a logical index names: (table, row), one or two; `none` where the index is missing (R174). -/
def State.idxRows (s : State) (tid i : Nat) : Option (List (Nat × Nat)) :=
  match s.table? tid with
  | none => none
  | some t =>
    match t.mode with
    | 0 => if i < t.rows then some [(tid, i)] else none
    | 1 =>
      let h := ((i ^^^ t.seed.toNat) * 0xD6E8FEB86659FD93) % 2 ^ 64
      some [(tid, (h >>> 32) % max 1 t.rows)]
    | _ =>
      let ra := match s.table? t.subA with | some a => max 1 a.rows | none => 1
      let rb := match s.table? t.subB with | some b => max 1 b.rows | none => 1
      some [(t.subA, i % ra), (t.subB, (i / ra) % rb)]

def entValid (e : Nat) : Bool := bit e 63
def entPant (e : Nat) : Bool := bit e 62
def entPslot (e : Nat) : Nat := bits e 55 32
def entAslot (e : Nat) : Nat := bits e 31 0
def entry (valid pant : Bool) (ps as : Nat) : W64 := BitVec.ofNat 64 (boolNat valid * 2 ^ 63 + boolNat pant * 2 ^ 62 + ps * 2 ^ 32 + as)
def Table.entryOf (t : Table) (row : Nat) : Nat := (KMap.getD t.entries row 0).toNat
/-- Key of an attic slot: the row's shard, and the slot within it (Table 7.2). -/
def Table.aKey (t : Table) (row a : Nat) : Nat := t.shardOf row * 2 ^ 32 + a
/-- The row an entry names, in element codes, decoded to FP32 (R64, R173). -/
def Table.readRow (t : Table) (row e : Nat) : List W32 :=
  if !entValid e then List.replicate t.width 0
  else (if entPant e then KMap.getD t.pantry (entPslot e) (List.replicate t.width 0) else KMap.getD t.attic (t.aKey row (entAslot e)) (List.replicate t.width 0)).map fun c => elem32 t.fmt 0 c.toNat
/-- A value converted to the table's format, overflow saturating (R42, R185). -/
def Table.toCode (t : Table) (x : W32) : W32 := BitVec.ofNat 32 (encodeElem t.fmt true (toNum x))

/-- The value of a logical index in a gather. -/
inductive RowVal where
  | missing | unreachable | row (v : List W32)
  deriving DecidableEq, Repr

/-- The key of a stored row in a gather's rows from other modules. -/
def farKey (tid row : Nat) : W64 := BitVec.ofNat 64 (tid * 2 ^ 32 + row)
/-- One stored row as the gather sees it (R179): its kept entry, a row that arrived, or unreachable. -/
def State.storedRow (s : State) (g : Gather) (x : Nat × Nat) : RowVal :=
  match s.table? x.1 with
  | none => .missing
  | some t =>
    match g.kept.find? fun k => k.1 == x with
    | some k => if t.lost.contains x.2 && !entPant k.2.toNat then .unreachable else .row (t.readRow x.2 k.2.toNat)
    | none => match g.far.find? fun f => f.1 == farKey x.1 x.2 with
      | some f => .row f.2
      | none => .unreachable
/-- `fetch` of R178 with the combination of R175. -/
def State.gatherRow (s : State) (g : Gather) (i : Nat) : RowVal :=
  match s.idxRows g.table i with
  | none => .missing
  | some [x] => s.storedRow g x
  | some [a, b] =>
    match s.storedRow g a, s.storedRow g b, s.table? g.table with
    | .row u, .row v, some t => .row (match t.combine with | 0 => List.zipWith fmul u v | 1 => List.zipWith fadd u v | _ => u ++ v)
    | _, _, _ => .unreachable
  | some _ => .missing
/-- Row width of a gather's result. -/
def State.gatherWidth (s : State) (tid : Nat) : Nat :=
  match s.table? tid with
  | some t => if t.mode = 2 then
      let w := fun x => match s.table? x with | some y => y.width | none => 0
      if t.combine = 2 then w t.subA + w t.subB else w t.subA
    else t.width
  | none => 0

/-- One bag (R178): occurrences by ascending index, then position; the sum and the contributing count. -/
def poolBag (val : W64 → RowVal) (weighted : Bool) (width : Nat) (bag : List Occ) : List W32 × Nat :=
  (sortBy (fun a b : Occ => decide (a.index.toNat < b.index.toNat)) bag).foldl (fun acc o =>
    match val o.index with
    | .row x => (List.zipWith (fun a e => ffma (if weighted then o.weight else one32) e a) acc.1 x, acc.2 + 1)
    | _ => acc) (List.replicate width 0, 0)
def meanOf (x : List W32 × Nat) : List W32 := if x.2 = 0 then x.1 else x.1.map fun v => fdiv v (ofNat32 x.2)
/-- Occurrences of a kind over a batch. -/
def countOcc (val : W64 → RowVal) (p : RowVal → Bool) (bags : List (List Occ)) : Nat := sumNat (bags.map fun b => (b.filter fun o => p (val o.index)).length)

/-! ## Reclaim (R186) and hot rows (R181, R182) -/

/-- Gathers that read a table, composed ones over it among them. -/
def State.gathersOn (s : State) (tid : Nat) : List Gather := s.tbl.gathers.filter fun g => g.stamps.any fun x => x.1 == tid
/-- Rows of a shard, and its slots: rows and spares (R171, R176). -/
def Table.shardRows (t : Table) (sh : Nat) : Nat := min t.rows ((sh + 1) * t.shardLen) - min t.rows (sh * t.shardLen)
def Table.shardSlots (t : Table) (sh : Nat) : Nat := t.shardRows sh + max 1024 (t.shardRows sh / 64)
/-- The lowest slot neither named nor in the reclaim list (which one is taken is the model's choice). -/
def firstSlot (used : List Nat) (cap : Nat) : Option Nat := (List.range (used.length + 1)).find? fun i => decide (i < cap) && !used.contains i
def Table.freeAttic (t : Table) (sh : Nat) : Option Nat :=
  firstSlot ((t.entries.filterMap fun e => if entValid e.2.toNat && t.shardOf e.1 == sh then some (entAslot e.2.toNat) else none)
    ++ (t.reclaim.filterMap fun r => if !r.1 && r.2.1 / 2 ^ 32 == sh then some (r.2.1 % 2 ^ 32) else none)) (t.shardSlots sh)
/-- The same for the pantry; `held` are the slots of rows formed and not yet swapped. -/
def Table.freePantry (t : Table) (held : List Nat) : Option Nat :=
  firstSlot (held ++ (t.entries.filterMap fun e => if entPant e.2.toNat then some (entPslot e.2.toNat) else none) ++ (t.reclaim.filterMap fun r => if r.1 then some r.2.1 else none)) t.pantryRows
def Table.countOf (t : Table) (row : Nat) : Nat := match t.cands.find? fun c => c.1 == row with | some c => c.2 | none => 0
/-- One read of a row in a slice (R181). -/
def Table.countRead (t : Table) (row : Nat) : Table :=
  if t.cands.any fun c => c.1 == row then { t with cands := t.cands.map fun c => if c.1 = row then (c.1, c.2 + 1) else c }
  else if t.cands.length < 4096 then { t with cands := t.cands ++ [(row, 1)] }
  else
    match t.cands.foldl (fun (b : Option (Nat × Nat)) c => match b with
        | none => some c
        | some x => if c.2 < x.2 || (c.2 == x.2 && decide (x.1 < c.1)) then some c else some x) none with
    | some v => { t with cands := (t.cands.filter fun c => c.1 ≠ v.1) ++ [(row, v.2 + 1)] }
    | none => t
def thresh (cfg : W32) : Nat := max 1 (bits cfg.toNat 15 0)
/-- The cached row with the smallest count, the higher row number among equals (R182). -/
def Table.coldest (t : Table) : Option Nat :=
  (t.entries.foldl (fun (b : Option (Nat × Nat)) e =>
    if !entPant e.2.toNat then b else
    let c := t.countOf e.1
    match b with
    | none => some (e.1, c)
    | some x => if c < x.2 || (c == x.2 && decide (x.1 < e.1)) then some (e.1, c) else some x) none).map Prod.fst
/-- Pantry slots of a table's rows that are formed and not yet swapped. -/
def State.formedPant (s : State) (tid : Nat) : List Nat := s.tbl.writes.filterMap fun w => if w.table = tid then w.formed.bind fun f => f.2.2.1 else none
/-- A row of this module's shard is copied into a pantry slot, and its entry names the copy (R181). -/
def Table.cacheRow (t : Table) (row p : Nat) : Table :=
  let a := entAslot (t.entryOf row)
  { t with pantry := KMap.set t.pantry p (KMap.getD t.attic (t.aKey row a) (List.replicate t.width 0)), entries := KMap.set t.entries row (entry true true p a),
           hotWait := t.hotWait.filter (· ≠ row) }
/-- A cached row leaves its pantry slot, which is reclaimed (R182, R186); a replica goes altogether. -/
def State.evictRow (s : State) (tid row : Nat) : State :=
  s.onTable tid fun t =>
    let e := t.entryOf row
    { t with entries := if s.ownsShard t (t.shardOf row) then KMap.set t.entries row (entry true false 0 (entAslot e)) else KMap.erase t.entries row,
             reclaim := t.reclaim ++ [(true, entPslot e, t.gathers)] }
/-- Hot rows that wait take pantry slots that have come free. -/
def State.fillHot (s : State) (tid : Nat) : Nat → State
  | 0 => s
  | n + 1 =>
    match s.table? tid with
    | none => s
    | some t => match t.hotWait, t.freePantry (s.formedPant tid) with
      | row :: _, some p =>
        let e := t.entryOf row
        let ok := bit s.tbl.hotCfg.toNat 16 && entValid e && !entPant e && s.ownsShard t (t.shardOf row)
        State.fillHot (s.onTable tid fun t => if ok then t.cacheRow row p else { t with hotWait := t.hotWait.drop 1 }) tid n
      | _, _ => s
/-- Slots that no running gather admitted at or below their stamp can reach are freed (R186). -/
def State.reclaimTable (s : State) (tid : Nat) : State :=
  let run := (s.gathersOn tid).flatMap fun g => (g.stamps.filter fun x => x.1 == tid).map Prod.snd
  let s := s.onTable tid fun t => { t with reclaim := t.reclaim.filter fun r => run.any fun n => decide (n ≤ r.2.2) }
  s.fillHot tid (match s.table? tid with | some t => t.hotWait.length | none => 0)
def State.reclaimAll (s : State) : State := s.each (KMap.keys s.tbl.tables) State.reclaimTable
/-- A hot row is copied into the pantry, of a full one in the place of the coldest (R181, R182); a row of another module asks its owner for a replica (R183). -/
def State.makeHot (s : State) (tid row : Nat) : State :=
  match s.table? tid with
  | none => s
  | some t =>
    let e := t.entryOf row
    if !bit s.tbl.hotCfg.toNat 16 || t.pantryRows = 0 || entPant e || t.hotWait.contains row || t.countOf row < thresh s.tbl.hotCfg then s
    else if !s.ownsShard t (t.shardOf row) then
      if t.ownerPools then s else s.send ((t.owners[t.shardOf row]?).getD 0) 4 (.replicaAsk tid row)
    else if !entValid e then s
    else
      let s := match t.freePantry (s.formedPant tid), t.coldest with
        | none, some v => s.evictRow tid v
        | _, _ => s
      (s.onTable tid fun t => { t with hotWait := t.hotWait ++ [row] }).reclaimTable tid

/-! ## Gathers -/

/-- The distinct indices of a batch, ascending. -/
def uniqIdx (bags : List (List Occ)) : List Nat :=
  dedup (sortBy (fun a b : Nat => decide (a < b)) (bags.flatMap fun b => b.map fun o => o.index.toNat))
/-- Bytes of a row slot (Table 7.1). -/
def Table.slotBytes (t : Table) : Nat := ceilDiv (t.width * (fmtBits t.fmt / 8)) 64 * 64
/-- A gather's row reads are charged to a regulator of its partition (R178, R131): attic rows, or pantry copies in HBM. -/
def State.chargeRows (s : State) (g : Gather) (res : Nat) : State :=
  let rows := g.kept.filter fun k => entValid k.2.toNat && (entPant k.2.toNat == (res == 0))
  let n := sumNat (rows.map fun k => match s.table? k.1.1 with | some t => t.slotBytes | none => 0)
  if n = 0 then s else (s.regulate g.part res (ceilDiv n 4096) false (.gather g.gid) (g.slot.toList.map Prod.fst)).1
/-- The tables a gather reads: its own, and the sub-tables of a composed one. -/
def State.tablesOf (s : State) (tid : Nat) : List Nat := match s.table? tid with | some t => if t.mode = 2 then dedup [tid, t.subA, t.subB] else [tid] | none => []
/-- The distinct physical rows of a batch: (table, row). -/
def State.rowsOf (s : State) (tid : Nat) (bags : List (List Occ)) : List (Nat × Nat) := dedup ((uniqIdx bags).flatMap fun i => (s.idxRows tid i).getD [])
/-- Entry-table bytes the running gathers of a partition take of its working share (R178). -/
def State.entryUse (s : State) (p : Nat) : Nat := sumNat (s.tbl.gathers.map fun g => if g.part = p then 8 * g.rows else 0)
/-- Do the entry tables of further gathers, of so many rows, fit? -/
def State.entriesFit (s : State) (p rows : Nat) : Bool := decide (s.entryUse p + 8 * rows ≤ (s.part p).work * Config.granule)
/-- A gather is admitted (R178, R179, R191): every local row's entry is read once, and remote shards are asked. The reads are taken at
admission, one of the moments R178 allows. The owners of an owner-pools table pool their parts; for a composed table every owner is asked for its rows. -/
def State.startGather (s : State) (g : Gather) : State :=
  let gid := s.tbl.nextGid
  let rows := s.rowsOf g.table g.bags
  let loc := fun (x : Nat × Nat) => match s.table? x.1 with | some t => s.ownsShard t (t.shardOf x.2) || entPant (t.entryOf x.2) | none => true
  let kept := (rows.filter loc).map fun x => (x, match s.table? x.1 with | some t => KMap.getD t.entries x.2 0 | none => 0)
  let far := rows.filter fun x => !loc x
  let asks := dedup (far.map fun x => (x.1, match s.table? x.1 with | some t => t.shardOf x.2 | none => 0))
  let owner := fun (a : Nat × Nat) => match s.table? a.1 with | some t => (t.owners[a.2]?).getD 0 | none => 0
  let up := asks.filter fun a => KMap.has s.fab.routes (owner a).toNat
  let ts := s.tablesOf g.table
  let s := s.each ts fun s t => s.onTable t fun t => { t with gathers := t.gathers + 1 }
  let g := { g with gid := gid, kept := kept, rows := rows.length, stamps := ts.map fun t => (t, match s.table? t with | some x => x.gathers | none => 0),
                    shards := up.map fun a => a.1 * 64 + a.2, lostShards := (asks.filter fun a => !(up.contains a)).map fun a => a.1 * 64 + a.2 }
  let s := s.onTbl fun b => { b with gathers := b.gathers ++ [g], nextGid := b.nextGid + 1 }
  let s := (s.chargeRows g 0).chargeRows g 1
  s.each up fun s a =>
    match s.table? a.1 with
    | some t =>
      let pools := t.ownerPools && a.1 == g.table
      let mine := (far.filter fun x => x.1 == a.1 && t.shardOf x.2 == a.2).map Prod.snd
      let bags := if pools then g.bags.map fun b => b.filter fun o => ((s.idxRows g.table o.index.toNat).getD []).any fun x => t.shardOf x.2 == a.2 else []
      s.send (owner a) 4 (.gatherReq gid a.1 t.ownerPools g.pool (if pools then [] else mine.map fun r => BitVec.ofNat 64 r) bags)
    | none => s

/-- The batch's result (R178, R191): per bag the vector and the count, and the missing and unreachable occurrences. -/
def State.gatherResult (s : State) (g : Gather) : List (List W32) × List Nat × Nat × Nat :=
  let w := s.gatherWidth g.table
  let val := fun (i : W64) => s.gatherRow g i.toNat
  let pools := match s.table? g.table with | some t => t.ownerPools && t.mode ≠ 2 && decide (1 < t.owners.length) | none => false
  let parts : List (List W32 × Nat) :=
    if pools then
      match s.table? g.table with
      | none => []
      | some t =>
        (enum g.bags).map fun b =>
          (List.range t.owners.length).foldl (fun acc sh =>
            let mine := b.2.filter fun o => ((s.idxRows g.table o.index.toNat).getD []).any fun x => t.shardOf x.2 == sh
            if mine.isEmpty then acc
            else
              let p := if s.ownsShard t sh then some (poolBag val (g.pool == 2) w mine)
                else match g.sums.find? fun x => x.1 == g.table * 64 + sh with
                  | some x => match x.2[b.1]? with | some q => some (q.1, q.2.toNat) | none => none
                  | none => none
              match p with | some p => (List.zipWith fadd acc.1 p.1, acc.2 + p.2) | none => acc) (List.replicate w 0, 0)
    else g.bags.map fun b => poolBag val (g.pool == 2) w b
  let lostOcc := if pools then
      match s.table? g.table with
      | some t => sumNat (g.bags.map fun b => (b.filter fun o => ((s.idxRows g.table o.index.toNat).getD []).any fun x => g.lostShards.contains (g.table * 64 + t.shardOf x.2)).length)
      | none => 0
    else countOcc val (fun v => v == .unreachable) g.bags
  let missing := countOcc val (fun v => v == .missing) g.bags
  (parts.map fun p => if g.pool = 1 then meanOf p else p.1, parts.map Prod.snd, missing, lostOcc)

/-- Rows read in a slice are counted (R181). -/
def State.countRows (s : State) (rows : List (Nat × Nat)) : State := s.each rows fun s x => s.onTable x.1 fun t => t.countRead x.2
/-- The row reads of a gather's slices are counted (R181), those of rows that were read: local rows, and rows that came from their owners (R183). Rows that
become hot are cached. -/
def State.countGather (s : State) (g : Gather) : State :=
  let was := fun (x : Nat × Nat) => match s.storedRow g x with | .row _ => true | _ => false
  let sl := pieces 65536 (uniqIdx g.bags)
  let s := s.each sl fun s l => s.countRows ((dedup (l.flatMap fun i => (s.idxRows g.table i).getD [])).filter was)
  let s := s.each (s.tablesOf g.table) fun s t => s.onTable t fun t => { t with slices := t.slices + sl.length }
  s.each ((s.rowsOf g.table g.bags).filter was) fun s x => s.makeHot x.1 x.2

/-- A completion with the DEGRADED flag set or as GLB_STATUS has it (R180). -/
def State.finishDeg (s : State) (h : Hdr) (deg : Bool) (r0 r1 : Nat) : State :=
  s.completeFor h
    { tag := h.tag, status := stOk, detail := 0, info := infoByte false false false (deg || s.degraded), r0 := BitVec.ofNat 32 r0, r1 := BitVec.ofNat 32 r1, r2 := 0, r3 := 0 }

/-! ## Row writes (R185 to R189) -/

/-- A row write forms its new row: spare slot, pantry slot, element codes; `held` are the pantry slots of rows formed and not yet swapped. -/
def Table.formRow (t : Table) (held : List Nat) (e : WriteEntry) : Option (Nat × Option Nat × List W32) :=
  let old := t.readRow e.row.toNat (t.entryOf e.row.toNat)
  let vals := if e.mode = 0 then e.values else List.zipWith fadd old e.values
  let pant := entPant (t.entryOf e.row.toNat)
  match t.freeAttic (t.shardOf e.row.toNat) with
  | none => none
  | some a => if pant then (match t.freePantry held with | some p => some (a, some p, vals.map t.toCode) | none => none) else some (a, none, vals.map t.toCode)
/-- The swap of R185 steps 3 and 4. -/
def State.swapRow (s : State) (tid row a : Nat) (p : Option Nat) (codes : List W32) : State :=
  (s.onTable tid fun t =>
    let old := t.entryOf row
    let st := t.gathers
    { t with
      attic := KMap.set t.attic (t.aKey row a) codes,
      pantry := match p with | some q => KMap.set t.pantry q codes | none => t.pantry,
      entries := KMap.set t.entries row (entry true p.isSome (p.getD 0) a), lost := t.lost.filter (· ≠ row),
      reclaim := t.reclaim ++ (if entValid old then [(false, t.aKey row (entAslot old), st)] else []) ++ (if entPant old then [(true, entPslot old, st)] else []) }).reclaimTable tid

end Sys2Proof.Machine
end

