-- ==== Sys2Proof/Machine/Text.lean ====
section
/-! DEFINITION. Selection order (R78, R79, R81), the text engine (R247 to R251), grammars (R254 to R257), sampling (R259 to R261) and stop
handling (R263 to R265): pure functions over their inputs. -/

namespace Sys2Proof.Machine

/-! ## Selection -/

/-- An entry of a selection: value and index. -/
structure Ent where
  value : W32
  index : Nat
  deriving DecidableEq, Repr

/-- R78: does `a` rank before `b`? -/
def rankBefore (largest : Bool) (a b : Ent) : Bool :=
  if isNan32 a.value then isNan32 b.value && decide (a.index < b.index)
  else if isNan32 b.value then true
  else if (if largest then flt b.value a.value else flt a.value b.value) then true
  else if (if largest then flt a.value b.value else flt b.value a.value) then false
  else decide (a.index < b.index)

/-- Insert into a list of at most `k` entries kept in rank order. -/
def selInsert (largest : Bool) (k : Nat) (l : List Ent) (e : Ent) : List Ent := (insertBy (rankBefore largest) e l).take k
/-- The first `k` of a row under R78, an entry's NaN returned as 0x7FC0_0000 (R80). -/
def selTop (largest : Bool) (k : Nat) (l : List Ent) : List Ent :=
  (l.foldl (selInsert largest k) []).map fun e => if isNan32 e.value then { e with value := nan32 } else e
/-- topk over a row with its validity mask, index base 0 (R79, R82). -/
def topk (l : List W32) (mask : List Bool) (k : Nat) : List Ent :=
  selTop true k (((enum l).zip mask).filterMap fun x => if x.2 then some ⟨x.1.2, x.1.1⟩ else none)
/-- R81: the first `k` of two lists in rank order, equals from the first list first. -/
def selMergeList (largest : Bool) (k : Nat) (a b : List Ent) : List Ent := (sortBy (rankBefore largest) (a ++ b)).take k

/-! ## Vocabularies -/

def sm3Check (b : Bytes) (off : Nat) : Nat := leNat ((digestBytes (sm3 (b.take off ++ List.replicate 4 0 ++ b.drop (off + 4)))).take 4)

/-- Verification of a vocabulary table (R247, Tables 10.2 to 10.4). -/
def parseVocab (b : Bytes) : Option Vocab :=
  let size := fld b 8 4
  let nm := fld b 16 4
  let eos := fld b 20 4
  let bos := fld b 24 4
  let len := fld b 28 4
  let bm := fld b 32 4
  let tOff := fld b 36 4
  let mo := fld b 40 4
  let bo := fld b 44 4
  if !(fld b 0 4 == 0x56435946 && fld b 4 2 == 1 && decide (fld b 6 1 ≤ 1) && fld b 7 1 == 0 && decide (257 ≤ size) && decide (size ≤ 262144)
      && decide (nm ≤ 262144) && decide (len ≤ 16777216) && b.length == len && allZero (slice b 48 16)
      && decide (64 ≤ len) && decide (bm + 1024 ≤ len) && decide (tOff + 8 * size ≤ len) && decide (mo + 12 * nm ≤ len) && decide (bo ≤ len)) then none
  else
    let chkw := fld b 12 4
    if chkw = 0 || chkw ≠ sm3Check b 12 then none else
    let ents := (List.range size).map fun i => (b.drop (tOff + 8 * i)).take 8
    let toks := ents.map fun e => ((b.drop (bo + fld e 0 4)).take (fld e 4 1), bit (fld e 5 1) 0)
    let bytesOf := fun i => match toks[i]? with | some t => t.1 | none => []
    let ctl := fun i => match toks[i]? with | some t => t.2 | none => false
    let entsOk := ents.all fun e =>
      decide (bo + fld e 0 4 + fld e 4 1 ≤ len) && decide (fld e 5 1 ≤ 1) && fld e 6 2 == 0 && (fld e 4 1 == 0) == bit (fld e 5 1) 0
    let bmap := (List.range 256).map fun i => fld b (bm + 4 * i) 4
    let mrg := (List.range nm).map fun i => let e := (b.drop (mo + 12 * i)).take 12; (fld e 0 4, fld e 4 4, fld e 8 4)
    let bmOk := (enum bmap).all fun x => decide (x.2 < size) && bytesOf x.2 == [BitVec.ofNat 8 x.1]
    let mrgOk := mrg.all fun m => decide (m.1 < size) && decide (m.2.1 < size) && decide (m.2.2 < size) && !ctl m.1 && !ctl m.2.1 && !ctl m.2.2
      && bytesOf m.2.2 == bytesOf m.1 ++ bytesOf m.2.1
    let pairs := mrg.map fun m => (m.1, m.2.1)
    if entsOk && bmOk && mrgOk && (dedup pairs).length == pairs.length && decide (eos < size) && ctl eos
        && (bos == 0xFFFFFFFF || (decide (bos < size) && ctl bos)) then
      some { check := BitVec.ofNat 32 chkw, size := size, split := fld b 6 1, eos := eos, bos := bos, byteMap := bmap, toks := toks, merges := mrg,
             len := len }
    else none

/-- `pieces` of R249: `start` is the piece under way, `prev` the byte before. -/
def textPieces (split : Nat) : List Byte → List Byte → List Bytes
  | [], [] => []
  | [], cur => [cur]
  | b :: bs, cur =>
    match cur.getLast? with
    | none => textPieces split bs [b]
    | some p =>
      let cut := split == 1 && ((b == 0x20 && p != 0x20) || b == 0x0A || p == 0x0A)
      if cut || cur.length == 256 then cur :: textPieces split bs [b] else textPieces split bs (cur ++ [b])

/-- Rank of a pair: the first merge rule that names it. -/
def mergeRank (v : Vocab) (a b : Nat) : Option (Nat × Nat) :=
  match indexOf (fun m => m.1 == a && m.2.1 == b) v.merges with
  | some r => match v.merges[r]? with | some m => some (r, m.2.2) | none => none
  | none => none

/-- The leftmost pair of lowest rank: rank, position, result. -/
def bestPair (v : Vocab) : Nat → List Nat → Option (Nat × Nat × Nat)
  | j, a :: b :: l =>
    let rest := bestPair v (j + 1) (b :: l)
    match mergeRank v a b with
    | none => rest
    | some (r, x) => match rest with
      | some (r', _, _) => if r' < r then rest else some (r, j, x)
      | none => some (r, j, x)
  | _, _ => none

/-- `bpe` of R249; each round shortens the list, so its length bounds the rounds. -/
def bpe (v : Vocab) : Nat → List Nat → List Nat
  | 0, t => t
  | n + 1, t => match bestPair v 0 t with
    | none => t
    | some (_, j, x) => bpe v n (t.take j ++ x :: t.drop (j + 2))

/-- R249. -/
def tokenise (v : Vocab) (b : Bytes) : List W32 :=
  ((textPieces v.split b []).flatMap fun p => bpe v p.length (p.map fun x => v.byteMap.getD x.toNat 0)).map fun t => BitVec.ofNat 32 t
/-- The bytes of one token; a control token has none (R250). -/
def tokBytes (v : Vocab) (t : W32) : Bytes := match v.toks[t.toNat]? with | some (b, _) => b | none => []
/-- R250. -/
def detokenise (v : Vocab) (l : List W32) : Bytes := l.flatMap (tokBytes v)

/-- Is a byte a UTF-8 continuation byte? -/
def isCont (b : Byte) : Bool := b &&& 0xC0 == 0x80
/-- L of R251. -/
def cutLen (b : Bytes) : Nat → Nat
  | 0 => 0
  | n + 1 => match b[n + 1]? with
    | some x => if isCont x then cutLen b n else n + 1
    | none => n + 1
/-- R251: the kept bytes, and whether the input was cut. -/
def cutText (limit : Nat) (b : Bytes) : Bytes × Bool := if b.length ≤ limit then (b, false) else (b.take (cutLen b limit), true)

/-! ## Grammars -/

/-- Verification of a grammar table (R254, Tables 10.6 to 10.8). -/
def parseGrammar (b : Bytes) : Option Grammar :=
  let vs := fld b 12 4
  let ns := fld b 16 2
  let nc := fld b 18 2
  let nt := fld b 20 4
  let st := fld b 24 2
  let len := fld b 28 4
  let co := fld b 32 4
  let so := fld b 36 4
  let tOff := fld b 40 4
  if !(fld b 0 4 == 0x52475946 && fld b 4 2 == 1 && fld b 6 2 == 0 && decide (1 ≤ ns) && decide (ns ≤ 65535) && decide (1 ≤ nc) && decide (nc ≤ 4096)
      && decide (1 ≤ nt) && decide (nt ≤ 1048576) && fld b 26 2 == 0 && decide (len ≤ 10485760) && b.length == len && decide (64 ≤ len)
      && allZero (slice b 44 20) && decide (co + 2 * vs ≤ len) && decide (so + 8 * ns ≤ len) && decide (tOff + 8 * nt ≤ len) && decide (st < ns)) then none
  else
    let cls := (List.range vs).map fun i => fld b (co + 2 * i) 2
    let se := (List.range ns).map fun i => (b.drop (so + 8 * i)).take 8
    let te := (List.range nt).map fun i => (b.drop (tOff + 8 * i)).take 8
    let tr := te.map fun e => (fld e 0 2, fld e 2 2, fld e 4 2)
    let states := se.map fun e => (fld e 0 4, fld e 4 2, bit (fld e 6 1) 0)
    let rising := fun (l : List Nat) => (l.zip (l.drop 1)).all fun p => decide (p.1 < p.2)
    let ok := cls.all (fun c => decide (c < nc) || c == 0xFFFF)
      && se.all (fun e => decide (fld e 6 1 ≤ 1) && fld e 7 1 == 0 && decide (fld e 4 2 ≤ 4096) && decide (fld e 0 4 + fld e 4 2 ≤ nt))
      && te.all (fun e => fld e 6 2 == 0)
      && states.all (fun s => let l := ((tr.drop s.1).take s.2.1).map (fun t => t.1); rising l && l.all fun c => decide (c < nc))
      && tr.all (fun t => (t.2.1 == 0xFFFF || decide (t.2.1 < ns)) && (t.2.2 == 0xFFFF || decide (t.2.2 < ns)))
    if ok then
      some { vocabCheck := BitVec.ofNat 32 (fld b 8 4), vocabSize := vs, start := st, classes := cls, states := states, trans := tr, len := len }
    else none

/-- g.transition(q, cls): NEXT and PUSH. -/
def gTransition (g : Grammar) (q x : Nat) : Option (Nat × Nat) :=
  let c := g.classes.getD x 0xFFFF
  match g.states[q]? with
  | none => none
  | some (first, count, _) =>
    if c = 0xFFFF then none
    else match ((g.trans.drop first).take count).find? (fun t => t.1 == c) with
      | some t => some t.2
      | none => none
def gAccept (g : Grammar) (q : Nat) : Bool := match g.states[q]? with | some (_, _, a) => a | none => false
/-- `allowed` of R256; the stack's top is the head of the list. -/
def gAllowed (g : Grammar) (q : Nat) (k : List W16) (eos x : Nat) : Bool :=
  if x = eos then gAccept g q && k.isEmpty
  else match gTransition g q x with
    | none => false
    | some (nx, push) =>
      let depth := k.length + (if push ≠ 0xFFFF then 1 else 0)
      decide (depth ≤ 64) && !(nx == 0xFFFF && depth == 0)
/-- `advance` of R256. -/
def gAdvance (g : Grammar) (q : Nat) (k : List W16) (x : Nat) : Nat × List W16 :=
  match gTransition g q x with
  | none => (q, k)
  | some (nx, push) =>
    let k := if push ≠ 0xFFFF then BitVec.ofNat 16 push :: k else k
    if nx = 0xFFFF then (match k with | t :: k' => (t.toNat, k') | [] => (q, [])) else (nx, k)
/-- The mask of a state (R257). -/
def gMask (g : Grammar) (v : Vocab) (q : Nat) (k : List W16) : List Bool := (List.range v.size).map fun x => gAllowed g q k v.eos x

/-! ## Sampling -/

/-- Parameters of Table 10.9. -/
structure Sampling where
  temp : W32
  topK : Nat
  topP : W32
  minP : W32
  rep  : W32
  pres : W32
  window : Nat
  seed : Nat
  deriving DecidableEq, Repr

/-- The sampling block of Table 13.4, a parameter not given taking its value of Table 10.9 (R320). -/
def sampling (b : Bytes) : Sampling :=
  let g := fld b 0 2
  let f := fun (i off : Nat) (d : W32) => if bit g i then BitVec.ofNat 32 (fld b off 4) else d
  { temp := f 0 4 one32, topK := if bit g 1 then fld b 2 1 else 0, topP := f 2 8 one32, minP := f 3 12 0, rep := f 4 16 one32, pres := f 5 20 0,
    window := if bit g 6 then fld b 24 2 else 256, seed := if bit g 7 then fld b 32 8 else 0 }

def between (lo x hi : W32) : Bool := fge x lo && fge hi x
/-- The range checks of Table 10.9 (R258): offset in the block and whether it holds. -/
def samplingChecks (b : Bytes) : List (Nat × Bool) :=
  let p := sampling b
  [(0, decide (fld b 0 2 ≤ 255)), (2, decide (p.topK ≤ 64)), (3, fld b 3 1 == 0),
   (4, feq p.temp 0 || between 0x3B800000 p.temp 0x43800000), (8, flt 0 p.topP && fge one32 p.topP), (12, fge p.minP 0 && flt p.minP one32),
   (16, between one32 p.rep 0x41800000), (20, between 0 p.pres 0x42800000), (24, decide (p.window ≤ 4096)), (26, allZero (slice b 26 6))]

/-- u for token n (R261). -/
def uniform (seed n : Nat) : W32 :=
  match philox 10 (seed % 2 ^ 32) (seed / 2 ^ 32) [n % 2 ^ 32, n / 2 ^ 32, 0, 0] with
  | c0 :: _ => ofNum (.fin false ((c0 >>> 9) * 2 + 1) (-24))
  | [] => 0

/-- One penalty step of R259 for token `i`. -/
def penalise (p : Sampling) (l : List W32) (i : Nat) : List W32 :=
  modAt l i fun x =>
    let y := if feq p.rep one32 then x else if flt 0 x then fdiv x p.rep else fmul x p.rep
    if feq p.pres 0 then y else fsub y p.pres

/-- The first prefix sum that passes a test: its position counted from 1, or the length. -/
def prefixUntil (test : W32 → Bool) : Nat → W32 → List W32 → Option Nat
  | _, _, [] => none
  | j, acc, p :: l => let a := fadd acc p; if test a then some j else prefixUntil test (j + 1) a l

/-- `choose` of R259: the token, and whether R260's anomaly arose. -/
def choose (logits : List W32) (mask : List Bool) (window : List Nat) (p : Sampling) (n : Nat) : Nat × Bool :=
  let l0 := (logits.zip mask).map fun x => if x.2 then x.1 else negInf32
  let l := (sortBy (fun a b : Nat => decide (a < b)) (dedup window)).foldl (penalise p) l0
  let first := fun (r : List W32) => match topk r mask 1 with | e :: _ => e.index | [] => 0
  if feq p.temp 0 then (first l, false)
  else
    let z := l.map fun x => fmul (fdiv x p.temp) 0x3FB8AA3B
    let (m, s) := rowStats 0x10 z
    if m = negInf32 || isNan32 m || isNan32 s || isInf32 m then (first z, true)
    else
      let c := topk z mask (if p.topK = 0 then 64 else p.topK)
      let pr := c.map fun e => fdiv (fexp2 (fsub e.value m)) s
      let thr := fmul p.minP (pr.getD 0 0)
      let kept := 1 + ((pr.drop 1).takeWhile fun x => fge x thr).length
      let kept := match prefixUntil (fun a => fge a p.topP) 1 0 (pr.take kept) with | some j => j | none => kept
      let total := (pr.take kept).foldl fadd 0
      let target := fmul (uniform p.seed n) total
      let j := match prefixUntil (fun a => flt target a) 1 0 (pr.take kept) with | some j => j | none => kept
      ((match (c.drop (j - 1)).head? with | some e => e.index | none => 0), false)

/-! ## Stop handling -/

/-- The stop block of Table 13.5. -/
def stopStrings (b : Bytes) : List Bytes := (List.range (fld b 4 1)).map fun j => slice b (80 + 64 * j) (fld b (8 + j) 1)
def stopTokens (b : Bytes) : List Nat := (List.range (fld b 5 1)).map fun j => fld b (16 + 4 * j) 4
def stopMax (b : Bytes) : Nat := fld b 0 4
def stopInclude (b : Bytes) : Bool := bit (fld b 6 1) 0
/-- The range checks of Table 13.5, less those that need VOCAB_SIZE. -/
def stopChecks (b : Bytes) : List (Nat × Bool) :=
  [(0, decide (1 ≤ fld b 0 4) && decide (fld b 0 4 ≤ 32768)), (4, decide (fld b 4 1 ≤ 8)), (5, decide (fld b 5 1 ≤ 16)), (6, decide (fld b 6 1 ≤ 1)),
   (7, fld b 7 1 == 0)]
  ++ ((List.range 8).map fun j => (8 + j, if j < fld b 4 1 then decide (1 ≤ fld b (8 + j) 1) && decide (fld b (8 + j) 1 ≤ 64) else fld b (8 + j) 1 == 0))
  ++ ((List.range 16).map fun j => (16 + 4 * j, decide (j < fld b 5 1) || fld b (16 + 4 * j) 4 == 0))
  ++ ((List.range 8).map fun j => (80 + 64 * j, allZero ((slice b (80 + 64 * j) 64).drop (if j < fld b 4 1 then fld b (8 + j) 1 else 0))))

/-- `feed` of R265: buffer, released bytes, and whether a stop string was completed. -/
def feedBytes (stops : List Bytes) (incl : Bool) : Bytes → Bytes → Bytes × Option Bytes
  | buf, [] => (buf, none)
  | buf, b :: bs =>
    let buf := buf ++ [b]
    let hits := stops.filter fun s => decide (s.length ≤ buf.length) && buf.drop (buf.length - s.length) == s
    if hits.isEmpty then feedBytes stops incl buf bs
    else
      let n := maxNat (hits.map List.length)
      ([], some (buf.take (if incl then buf.length else buf.length - n)))
/-- The bytes a buffer must hold back. -/
def keepLen (stops : List Bytes) (buf : Bytes) : Nat → Nat
  | 0 => 0
  | j + 1 => if stops.any (fun s => decide (j + 1 < s.length) && buf.drop (buf.length - (j + 1)) == s.take (j + 1)) then j + 1 else keepLen stops buf j
/-- `feed`: the new buffer, the bytes released, whether DONE_STOP_STRING arose. -/
def feed (stops : List Bytes) (incl : Bool) (buf tok : Bytes) : Bytes × Bytes × Bool :=
  match feedBytes stops incl buf tok with
  | (_, some out) => ([], out, true)
  | (buf, none) =>
    let k := keepLen stops buf (min 63 buf.length)
    (buf.drop (buf.length - k), buf.take (buf.length - k), false)

/-! ## Prompt templates (R202, R203) and packing (R205) -/

/-- The segments of a template: type, tokens?, body. -/
def parseSegs (b : Bytes) : Nat → Nat → Option (List (Nat × Bool × Bytes))
  | 0, off => if off = b.length then some [] else none
  | n + 1, off =>
    let ty := fld b off 1
    let fl := fld b (off + 1) 1
    let len := fld b (off + 2) 2
    let room := (len + 3) / 4 * 4
    let lit := ty == 1 || ty == 4
    if off + 4 + room ≤ b.length && decide (1 ≤ ty) && decide (ty ≤ 5) && decide (fl ≤ 1) && decide (len ≤ 4096) && (lit || (fl == 0 && len == 0))
        && (fl == 0 || len % 4 == 0) && allZero (slice b (off + 4 + len) (room - len)) then
      (parseSegs b n (off + 4 + room)).map fun l => (ty, bit fl 0, slice b (off + 4) len) :: l
    else none
/-- R202: the segments, tokenised in the vocabulary (R203), and PREFIX. -/
def parseTemplate (v : Vocab) (b : Bytes) : Option (List TSeg × Bool) :=
  let n := fld b 0 1
  if !(decide (1 ≤ n) && decide (n ≤ 32) && decide (fld b 1 1 ≤ 1) && fld b 2 2 == 0 && fld b 4 4 == b.length && decide (b.length ≤ 16384)) then none
  else match parseSegs b n 8 with
    | none => none
    | some l =>
      let cnt := fun t => (l.filter fun s => s.1 == t).length
      let seps := (l.zip ((0, false, []) :: l)).all fun p => p.1.1 != 4 || p.2.1 == 3
      let toksOk := l.all fun s => !s.2.1 || (words32 s.2.2 (s.2.2.length / 4)).all fun t => decide (t.toNat < v.size)
      if cnt 2 == 1 && cnt 3 == 1 && decide (cnt 5 ≤ 1) && seps && toksOk then
        some (l.map fun s => ⟨s.1, if s.2.1 then words32 s.2.2 (s.2.2.length / 4) else tokenise v s.2.2⟩, bit (fld b 1 1) 0)
      else none
/-- The tokens of the literal segments before the first other segment: the shared prefix (R203). -/
def tPrefix (l : List TSeg) : List W32 := (l.takeWhile fun s => s.type == 1).flatMap fun s => s.tokens
def segTokens (l : List TSeg) (t : Nat) : List W32 := (l.filter fun s => s.type == t).flatMap fun s => s.tokens
def hasSeg (l : List TSeg) (t : Nat) : Bool := l.any fun s => s.type == t

/-- A cut after j tokens falls on a character boundary (08, Packing). -/
def boundaryAfter (v : Vocab) (text : Bytes) (toks : List W32) (j : Nat) : Bool :=
  j == toks.length || (match text[(detokenise v (toks.take j)).length]? with | some b => !isCont b | none => true)
/-- `allowed` of R205. -/
def cutAllowed (v : Vocab) (text : Bytes) (toks : List W32) : Nat → Nat
  | 0 => 0
  | j + 1 => if boundaryAfter v text toks (j + 1) then j + 1 else cutAllowed v text toks j

/-- One passage's outcome: 0 whole, 1 cut, 2 skipped, and its tokens. -/
def packAll (v : Vocab) (sep pCap minTok : Nat) : Nat → Nat → List (Bytes × List W32) → List (Nat × Nat)
  | _, _, [] => []
  | room, packed, (text, toks) :: l =>
    let gap := if packed > 0 then sep else 0
    let n := toks.length
    let want := if pCap = 0 then n else min pCap n
    let take := if gap < room then cutAllowed v text toks (min want (room - gap)) else 0
    if take = 0 || (take < n && take < minTok) then (2, 0) :: packAll v sep pCap minTok room packed l
    else ((if take < n then 1 else 0), take) :: packAll v sep pCap minTok (room - gap - take) (packed + 1) l

end Sys2Proof.Machine
end

