-- ==== Sys2Proof/Machine/Requests.lean ====
section
/-! DEFINITION. Requests: text records, ending and cancelling, release, and the stages of an ask from 5 to 9 (R20 to R29, R192 to R209,
R241 to R243, R263 to R267). A function here marks a request as ended; `flushEnded` writes the completions. -/

namespace Sys2Proof.Machine

/-! ## The tenant's objects -/

def State.reqVocab (s : State) (r : Req) : Vocab :=
  match s.tenant? r.tenant with
  | some t => (s.vocab? t.vocab).getD byteVocab
  | none => byteVocab
def State.tenantVocab (s : State) (t : W16) : Vocab :=
  match s.tenant? t with
  | some t => (s.vocab? t.vocab).getD byteVocab
  | none => byteVocab
def State.reqGrammar (s : State) (r : Req) : Option Grammar := match r.grammar with | some g => KMap.get? s.sch.grammars g | none => none
/-- The sampling and stop blocks of an ask or generate (Tables 13.6 and 13.7). -/
def Req.sampBytes (r : Req) : Bytes := slice r.params (if r.kind = .ask then 160 else 32) 40
def Req.stopBytes (r : Req) : Bytes := slice r.params (if r.kind = .ask then 200 else 72) 592
def Req.total (r : Req) : Nat := r.prompt.length + r.emitted.length
def Req.generates (r : Req) : Bool := r.kind == .ask || r.kind == .generate
def Req.running (r : Req) : Bool := !r.closed && r.fin.isNone

/-! ## Replay records (R360) -/

/-- Both copies of a request's replay record are written (R360): UPDATE rises, and the writes are charged to the partition's attic regulator, on which they never
wait (R132). The spec gives no size: two headers at the least, both records at the most. -/
def State.writeRecord (s : State) (slot : Nat) : State :=
  match s.req? slot with
  | none => s
  | some r =>
    if !r.generates then s
    else
      let s := s.onReq slot fun x => { x with update := x.update + 1 }
      match (s.part r.part.val).regs[1]? with
      | some q => if q.en then let (n, s) := s.fresh; s.spendExempt r.part.val 1 (2 + n % 79) else s
      | none => s

/-! ## Mirroring (R350) -/

def mirrorDesc (r : Req) (modelId : W64) : MirrorDesc :=
  { part := r.part, tenant := r.tenant, modelId := modelId, tag := r.tag, isAsk := r.kind == .ask, grammarEn := r.grammar.isSome,
    grammar := BitVec.ofNat 6 (r.grammar.getD 0), seed := BitVec.ofNat 64 (sampling r.sampBytes).seed, sampling := r.sampBytes, stop := r.stopBytes,
    prompt := r.prompt, tokens := r.emitted, bytes := BitVec.ofNat 32 r.visible }
def State.modelIdOf (s : State) (t : W16) : W64 := match s.tenant? t with | some t => t.model.modelId | none => 0
/-- The mirror open, once the prompt tokens are final. -/
def State.mirrorOpen (s : State) (slot : Nat) : State :=
  match s.req? slot with
  | some r =>
    if s.fab.buddy ≠ 0 && !s.fab.buddyDown && r.generates && !r.raw && !r.mirrored && r.running then
      (s.send s.fab.buddy 6 (.mirrorOpen slot (mirrorDesc r (s.modelIdOf r.tenant)))).onReq slot fun x => { x with mirrored := true, mirrorBad := false }
    else s
  | none => s
def State.mirrorTokens (s : State) (slot : Nat) (toks : List W32) : State :=
  match s.req? slot with
  | some r => if r.mirrored && !r.mirrorBad then s.send s.fab.buddy 6 (.mirrorUpdate slot toks (BitVec.ofNat 32 r.visible)) else s
  | none => s
def State.mirrorClose (s : State) (slot : Nat) : State :=
  match s.req? slot with
  | some r => if r.mirrored then (s.send s.fab.buddy 6 (.mirrorClose slot)).onReq slot fun x => { x with mirrored := false } else s
  | none => s

/-! ## Text -/

/-- Bytes go to the porch as records of 48 bytes, the last with the remainder (R266); a full overflow store ends the request (R311). -/
def State.issueText (s : State) (slot : Nat) (b : Bytes) : State :=
  match s.req? slot with
  | none => s
  | some r =>
    if b.isEmpty || !r.running then s
    else
      let recs := (enum (pieces 48 b)).map fun x =>
        { handle := BitVec.ofNat 32 (handleOf slot r.gen), tag := r.tag, byteOff := BitVec.ofNat 32 (r.issued + 48 * x.1),
          flags := BitVec.ofNat 8 (2 * boolNat r.migrated + 4 * boolNat r.replayed), text := x.2, slot := slot : TextRec }
      let s := s.onReq slot fun x => { x with issued := x.issued + b.length }
      match s.issueRecords (qpKey r.fn r.qp) recs with
      | (s, false) => s
      | (s, true) => s.onReq slot fun x => { x with fin := some (stCancelled, 0x0102), cancelled := true, buf := [] }

/-! ## Ending -/

/-- INFO and result words of a request's completion (Table 13.2, R317, R322, Table 13.8). -/
def State.reqCompl (s : State) (slot : Nat) (r : Req) (st detail : W16) : Compl :=
  let err := decide (0x100 ≤ st.toNat)
  let g := if r.grammar.isSome then r.gState.toNat + r.gStack.length * 2 ^ 16 + 2 ^ 23 else 0
  let w := fun (i : Nat) => if err then 0 else if r.generates then
      (([BitVec.ofNat 32 r.emitted.length, BitVec.ofNat 32 r.prompt.length, BitVec.ofNat 32 (g + (if r.kind = .ask then r.rounds * 2 ^ 24 else 0))][i]?).getD 0)
    else (r.res[i]?).getD 0
  { tag := r.tag, status := st, detail := detail, info := infoByte r.replayed r.migrated r.throttled (r.degraded || s.degraded),
    r0 := BitVec.ofNat 32 (handleOf slot r.gen), r1 := w 0, r2 := w 1, r3 := w 2 }
/-- Is the completion of an ended request already waiting in a queue pair? -/
def State.isHeld (s : State) (slot : Nat) : Bool := s.porch.qps.any fun q => q.2.held.any fun e => e.1 == slot
/-- Microseconds of the control complex (QWAIT_US of Table 9.10): a free value. -/
def State.chargeWait (s : State) (slot : Nat) : State :=
  match s.req? slot with
  | some r =>
    if r.placed then s
    else
      let (n, s) := s.fresh
      (s.charge r.part.val r.tenant fun a => { a with qwaitUs := satAdd 64 a.qwaitUs n }).onReq slot fun x => { x with placed := true }
  | none => s
/-- Hold releases to the members of a fanned-out request (R348). -/
def State.releaseMembers (s : State) (slot : Nat) : State :=
  match s.req? slot with
  | some r => (s.each r.members fun s m => s.send m.1 5 (.holdRelease r.adm)).onReq slot fun x => { x with members := [], waitMembers := [] }
  | none => s
/-- Reads of a request's stage 6 that are queued or wait on a regulator are given up. -/
def State.dropFetches (s : State) (slot : Nat) : State :=
  let s := s.onCel fun c => c.unqueue fun o => match o.kind with | .fetch n _ => n == slot | _ => false
  match s.req? slot with
  | some r => s.onPart r.part.val fun x => { x with transfers := x.transfers.filter fun t => t.2.key != .fetch slot }
  | none => s
/-- The completion of one ended request is written (R225 action 2, R28), its mirror closed after it (R350). -/
def State.flushOne (s : State) (slot : Nat) : State :=
  match s.req? slot with
  | some r =>
    match r.fin with
    | some (st, d) =>
      if r.closed || s.isHeld slot then s
      else
        let s := s.chargeWait slot
        let s := s.completeAfter (qpKey r.fn r.qp) slot (s.reqCompl slot r st d)
        (((s.dropJobsOf slot).dropFetches slot).releaseMembers slot).mirrorClose slot
    | none => s
  | none => s
/-- Completions of every ended request of every partition. -/
def State.flushEnded (s : State) : State := s.each s.sch.slots fun s x => s.flushOne x.1
/-- A request ends with a status. -/
def State.endReq (s : State) (slot : Nat) (st : W16) (detail : W16) : State :=
  s.onReq slot fun r => if r.fin.isSome || r.closed then r else { r with fin := some (st, detail) }
/-- DETAIL of an ask or generate: the first OK code that arose (R26). -/
def State.endGen (s : State) (slot : Nat) (st : W16) : State := s.onReq slot fun r => if r.fin.isSome || r.closed then r else { r with fin := some (st, r.okCode) }
/-- An OK code arises (R26). -/
def State.okCode (s : State) (slot : Nat) (c : W16) : State := s.onReq slot fun r => { r with okCode := if r.okCode = 0 then c else r.okCode }
/-- A request ends as a cancel would, without a completion (R305, R311, R313): its mirror is closed first (R314). -/
def State.killReq (s : State) (slot : Nat) : State :=
  match s.req? slot with
  | some r => if r.closed then s else
    ((((s.mirrorClose slot).dropJobsOf slot).dropFetches slot).releaseMembers slot).onReq slot fun x =>
      { x with cancelled := true, closed := true, state := .ended, buf := [], fin := some (stCancelled, x.okCode) }
  | none => s
def State.killWhere (s : State) (p : Nat → Req → Bool) : State := s.each (s.sch.slots.filter fun x => p x.1 x.2) fun s x => s.killReq x.1

/-! ## KV frames (R119 to R129) -/

/-- 4 KiB units of a frame: 64 × KV_BYTES. -/
def frameUnits (m : Model) : Nat := max 1 (ceilDiv (64 * m.kvBytes) 4096)
/-- First gap of `n` units below `cap`, over frames in key order. -/
def firstGap (cap n : Nat) : Nat → KMap Frame → Option Nat
  | at_, [] => if at_ + n ≤ cap then some at_ else none
  | at_, (k, f) :: l => if at_ + n ≤ k then (if at_ + n ≤ cap then some at_ else none) else firstGap cap n (max at_ (k + f.units)) l
/-- First gap of `n` units within ranges of a tier's units. -/
def gapIn (units : List (Nat × Nat)) (n : Nat) (frames : KMap Frame) : Option Nat :=
  units.findSome? fun r => firstGap r.2 n r.1 (frames.filter fun f => decide (r.1 ≤ f.1) && decide (f.1 < r.2))
def frameEntry (loc : Nat) (shared clean : Bool) (fill lease frame : Nat) : W64 :=
  BitVec.ofNat 64 (2 ^ 63 + loc * 2 ^ 61 + boolNat shared * 2 ^ 60 + boolNat clean * 2 ^ 59 + fill * 2 ^ 52 + lease * 2 ^ 48 + frame)
def KvPage.loc (p : KvPage) : Nat := bits p.entry.toNat 62 61
def KvPage.frame (p : KvPage) : Nat := bits p.entry.toNat 39 0
def KvPage.lease (p : KvPage) : Nat := bits p.entry.toNat 51 48
def KvPage.shared (p : KvPage) : Bool := bit p.entry.toNat 60
def KvPage.clean (p : KvPage) : Bool := bit p.entry.toNat 59
def KvPage.fill (p : KvPage) : Nat := bits p.entry.toNat 58 52
def KvPage.move (p : KvPage) (loc lease frame : Nat) (clean : Bool) : KvPage := { p with entry := frameEntry loc p.shared clean p.fill lease frame }
/-- A page whose eviction is abandoned stays in HBM (R126). -/
def KvPage.home (p : KvPage) : KvPage := if p.loc = 3 then p.move 0 0 p.frame p.clean else p
def KvPage.inHbm (p : KvPage) : Bool := !p.lost && (p.loc == 0 || p.loc == 3)
def KvPage.isOut (p : KvPage) : Bool := !p.lost && (p.loc == 1 || p.loc == 2)
/-- Key of a frame on a lease in the spill map; a frame of the attic has its unit there. -/
def leaseFrame (w n : Nat) : Nat := (w + 1) * 2 ^ 40 + n
def KvPage.spillKey (p : KvPage) : Nat := if p.loc = 1 then p.frame else leaseFrame p.lease p.frame
/-- Location, lease and FRAME of a frame of the spill map, and its device address. -/
def spillLoc (k : Nat) : Nat × Nat × Nat := if k < 2 ^ 40 then (1, 0, k) else (2, k / 2 ^ 40 - 1, k % 2 ^ 40)
def spillAddr (k : Nat) : Nat := if k < 2 ^ 40 then attAt k else leaseAt (k / 2 ^ 40 - 1) (k % 2 ^ 40)
/-- Device address of a page's first byte (Table 5.3). -/
def KvPage.addr (p : KvPage) : Nat := if p.lost then noAddr else if p.loc = 1 || p.loc = 2 then spillAddr p.spillKey else hbmAt p.frame
def Frame.empty : Frame := { units := 1, refs := 0, last := 0, copy := none, split := none }
def Frame.fresh (units : Nat) (step : W64) : Frame := { units := units, refs := 1, last := step, copy := none, split := none }
def Part.frame (p : Part) (k : Nat) : Frame := KMap.getD p.frames k Frame.empty
/-- The identical copy of an HBM frame is given up. -/
def Part.dropCopy (p : Part) (k : Nat) : Part :=
  match (p.frame k).copy with
  | some c => { p with spill := KMap.erase p.spill c, frames := KMap.mod p.frames k fun f => { f with copy := none } }
  | none => p
/-- One reference less on an HBM frame, or on one of the spill; freed at zero. -/
def Part.unref (p : Part) (k : Nat) : Part :=
  if (p.frame k).refs ≤ 1 then { (p.dropCopy k) with frames := KMap.erase (p.dropCopy k).frames k }
  else { p with frames := KMap.mod p.frames k fun f => { f with refs := f.refs - 1 } }
def Part.unrefSpill (p : Part) (k : Nat) : Part :=
  if (KMap.getD p.spill k Frame.empty).refs ≤ 1 then { p with spill := KMap.erase p.spill k }
  else { p with spill := KMap.mod p.spill k fun f => { f with refs := f.refs - 1 } }
/-- A page's storage is given up, wherever it is. -/
def Part.freePage (p : Part) (g : KvPage) : Part := if g.lost then p else if g.isOut then p.unrefSpill g.spillKey else p.unref g.frame
/-- Is a frame, a page, on a lease under withdrawal (R129, R345)? -/
def Fab.drains (f : Fab) (k : Nat) : Bool := decide (2 ^ 40 ≤ k) && (match KMap.get? f.windows (k / 2 ^ 40 - 1) with | some w => w.draining | none => false)
def Fab.draining (f : Fab) (g : KvPage) : Bool := !g.lost && g.loc == 2 && f.drains g.spillKey
/-- The tenant model whose KV a request holds. -/
def State.kvModel (s : State) (r : Req) : Option Model := match s.tenant? r.tenant with | some t => some t.model | none => none
/-- The units of a partition's KV pool. -/
def State.poolUnits (s : State) (p : Nat) : List (Nat × Nat) := regionUnits s.mem.hbm (.kvPool p)
/-- A function of every page of a partition's requests. -/
def State.onPages (s : State) (p : Nat) (f : KvPage → KvPage) : State := s.each (s.slotsOf p) fun s n => s.onReq n fun x => { x with pages := x.pages.map f }
/-- SHARED of every page follows its frame's reference count (Table 5.6). -/
def Part.markPage (pt : Part) (g : KvPage) : KvPage :=
  if g.lost then g
  else
    let f := if g.isOut then KMap.getD pt.spill g.spillKey Frame.empty else pt.frame g.frame
    { g with entry := frameEntry g.loc (decide (1 < f.refs)) g.clean g.fill g.lease g.frame }
def State.markShared (s : State) (p : Nat) : State := s.onPages p (s.part p).markPage
/-- Evictions of these frames are abandoned: the pages stay in HBM, for every sharer (R126). -/
def State.unevict (s : State) (p : Nat) (frames : List Nat) : State := s.onPages p fun g => if !g.lost && g.loc = 3 && frames.contains g.frame then g.home else g
/-- Missing pages of a request for its first `n` positions: layer group and number. -/
def missingPages (m : Model) (r : Req) (n : Nat) : List (Nat × Nat) :=
  (List.range m.layerGroups).flatMap fun g => ((List.range (ceilDiv n 64)).filter fun i => !(r.pages.any fun p => p.group == g && p.no == i)).map fun i => (g, i)
/-- Frames for the missing pages, all or none (R119). -/
def allocFrames (u : Nat) (units : List (Nat × Nat)) (step : W64) (pt : Part) : List (Nat × Nat) → Option (Part × List KvPage)
  | [] => some (pt, [])
  | (g, i) :: l =>
    match gapIn units u pt.frames with
    | none => none
    | some k =>
      match allocFrames u units step { pt with frames := KMap.set pt.frames k (Frame.fresh u step) } l with
      | none => none
      | some (pt, ps) => some (pt, { group := g, no := i, entry := frameEntry 0 false false 0 0 k, lost := false } :: ps)
/-- Private copies of the pages a step will write from position `lo` and that are shared as the step starts (R121): the new pages, and the byte ranges to
copy. The old frame's count falls by 1 for each copy; a frame left at 0 is freed at the step's boundary. -/
def copyOnWrite (u bytes : Nat) (units : List (Nat × Nat)) (lo : Nat) (pt : Part) : List KvPage → Option (Part × List KvPage × List (Nat × Nat × Nat))
  | [] => some (pt, [], [])
  | p :: l =>
    if lo < 64 * (p.no + 1) && p.inHbm && (decide (1 < (pt.frame p.frame).refs) || (pt.frame p.frame).split == some pt.nextStep) then
      match gapIn units u pt.frames with
      | none => none
      | some k =>
        let old := KMap.mod pt.frames p.frame fun f => { f with refs := f.refs - 1, split := some pt.nextStep }
        (copyOnWrite u bytes units lo { pt with frames := KMap.set old k (Frame.fresh u pt.nextStep) } l).map fun x =>
          (x.1, p.move 0 0 k false :: x.2.1, (hbmAt p.frame, hbmAt k, bytes) :: x.2.2)
    else (copyOnWrite u bytes units lo pt l).map fun x => (x.1, p :: x.2.1, x.2.2)
/-- Are all pages of a request in HBM (R126: LOC 3 counts, its eviction is abandoned when the page is needed)? -/
def Req.inHbm (r : Req) : Bool := r.pages.all KvPage.inHbm
/-- The request gets what a step over positions [lo, hi) writes: new frames and private copies; `none` where the pool lacks frames. -/
def State.readyPages (s : State) (slot lo hi : Nat) : Option State :=
  match s.req? slot with
  | none => none
  | some r =>
    match s.kvModel r with
    | none => none
    | some m =>
      let p := r.part.val
      let pt := s.part p
      let units := s.poolUnits p
      let u := frameUnits m
      let wr := fun (g : KvPage) => decide (lo < 64 * (g.no + 1))
      if !r.inHbm then none
      else match allocFrames u units pt.nextStep pt (missingPages m r hi) with
        | none => none
        | some (pt, new) =>
          match copyOnWrite u (64 * m.kvBytes) units lo pt (r.pages.map KvPage.home ++ new) with
          | none => none
          | some (pt, pages, runs) =>
            let pt := (pages.filter wr).foldl (fun pt g => pt.dropCopy g.frame) pt
            let pages := pages.map fun g => if wr g then { g with entry := frameEntry 0 g.shared false (max (min 64 (hi - 64 * g.no)) g.fill) 0 g.frame } else g
            let pt := { pt with
              pagerOps := pt.pagerOps.filter fun o => o.fetch || o.slot ≠ slot,
              frames := pages.foldl (fun fs g => KMap.mod fs g.frame fun f => { f with last := pt.nextStep }) pt.frames }
            let s := (s.onPart p fun _ => pt).onMem fun y => { y with bytes := copyRuns y.bytes runs }
            let s := s.unevict p ((r.pages.filter fun g => g.loc == 3).map KvPage.frame)
            some ((s.onReq slot fun x => { x with pages := pages }).markShared p)
/-- A registered prefix is mapped into a new sequence from a live sequence of the same tenant whose tokens match exactly (R120); where a reference count
would pass 65,535 it gets private copies. -/
def State.mapPrefix (s : State) (slot : Nat) : State :=
  match s.req? slot with
  | none => s
  | some r =>
    match s.tenant? r.tenant with
    | none => s
    | some t =>
      let pre := tPrefix t.segs
      let p := r.part.val
      let n := min pre.length (r.prompt.length - 1)
      if r.raw || !(t.prefixOn && decide (0 < n) && r.prompt.take pre.length == pre) || !r.pages.isEmpty then s
      else match s.sch.slots.find? fun x => x.1 ≠ slot && x.2.part == r.part && x.2.tenant == r.tenant && decide (n ≤ x.2.committed)
          && x.2.prompt.take pre.length == pre && x.2.inHbm && x.2.pages.any (fun g => g.no == 0) with
        | none => s
        | some (_, d) =>
          let ps := d.pages.filter fun g => decide (64 * g.no < n)
          let pt := s.part p
          if ps.any fun g => 65535 ≤ (pt.frame g.frame).refs then
            match allocFrames (frameUnits t.model) (s.poolUnits p) pt.nextStep pt (ps.map fun g => (g.group, g.no)) with
            | none => s
            | some (pt, new) =>
              let s := (s.onPart p fun _ => pt).onMem fun y =>
                { y with bytes := copyRuns y.bytes ((ps.zip new).map fun g => (hbmAt g.1.frame, hbmAt g.2.frame, 64 * t.model.kvBytes)) }
              s.onReq slot fun x =>
                { x with pages := (ps.zip new).map fun g => { g.2 with entry := frameEntry 0 false false g.1.fill 0 g.2.frame }, committed := n, prefilled := n }
          else
            let s := (s.onPart p fun pt => { pt with frames := ps.foldl (fun fs g => KMap.mod fs g.frame fun f => { f with refs := f.refs + 1 }) pt.frames }).unevict p
              (ps.map KvPage.frame)
            (s.onReq slot fun x => { x with pages := ps.map KvPage.home, committed := n, prefilled := n }).markShared p

/-! ## Release (R225 action 3) -/

/-- The slot, KV pages and replay record of a completed request are freed; pages of a transfer in flight wait for it (R129). -/
def State.releaseReq (s : State) (slot : Nat) : State :=
  match s.req? slot with
  | none => s
  | some r =>
    let p := r.part.val
    let busy := (s.part p).pagerOps.any fun o => o.slot == slot && o.orphan.isEmpty
    let s := if busy then s.onPart p fun x => { x with pagerOps := x.pagerOps.map fun o => if o.slot = slot && o.orphan.isEmpty then { o with orphan := r.pages } else o }
      else s.onPart p fun x => r.pages.foldl Part.freePage x
    -- a gather in flight completes and is discarded (R209)
    let s := s.onTbl fun b => { b with gathers := b.gathers.map fun g => match g.slot with | some (n, _) => if n = slot then { g with slot := none } else g | none => g }
    (s.onSch fun c => { c with slots := KMap.erase c.slots slot }).markShared p
/-- Slots a boundary may free: completed before it began. -/
def State.toFree (s : State) (p : Nat) : List Nat := (s.sch.slots.filter fun x => x.2.part.val == p && x.2.closed).map Prod.fst

/-! ## Stages 5 to 9 -/

/-- Stage 8's fixed counts (R205): literal and separator-free text, instruction. -/
def State.packReq (s : State) (slot : Nat) : State :=
  match s.req? slot with
  | none => s
  | some r =>
    match s.tenant? r.tenant with
    | none => s
    | some t =>
      let v := s.reqVocab r
      let b := r.params
      let budget := fld b 16 4
      let minTok := if fld b 22 2 = 0 then 32 else fld b 22 2
      let lit := (segTokens t.segs 1).length
      let instr := if hasSeg t.segs 5 then tokenise v r.instr else []
      let q := tokenise v r.query
      if budget < lit + instr.length then s.endReq slot stParam 16
      else
        let n := if budget < lit + instr.length + q.length then cutAllowed v r.query q (budget - lit - instr.length) else q.length
        let qCut := decide (n < q.length)
        let sep := segTokens t.segs 4
        let ps := r.final.filterMap fun i => (r.passages[i]?).map fun p => (i, p)
        let outs := packAll v sep.length (fld b 20 2) minTok (budget - lit - instr.length - n) 0 (ps.map fun x => (x.2.text, x.2.tTok))
        let parts := ((ps.zip outs).filter fun x => x.2.1 ≠ 2).map fun x => x.1.2.tTok.take x.2.2
        let slotToks := match parts with | [] => [] | p :: l => p ++ l.flatMap fun x => sep ++ x
        let prompt := t.segs.flatMap fun g => match g.type with
          | 1 => g.tokens | 2 => q.take n | 3 => slotToks | 5 => instr | _ => []
        let fixed := lit + instr.length + n
        let cnt := fun k => (outs.filter fun o => o.1 == k).length
        let rrOff := r.reranker == 0
        let flags := boolNat qCut + 2 * boolNat rrOff + 4 * boolNat (!rrOff && r.head ≠ 0) + 8 * boolNat r.headDegraded
        let scored := (r.passages.filter fun p => p.logit.isSome).length
        let header := payload [(4, prompt.length), (4, fixed), (1, outs.length), (1, cnt 0 + cnt 1), (1, cnt 1), (1, cnt 2), (2, flags), (2, scored), (4, budget)] ++ List.replicate 44 0
        let entries := (ps.zip outs).flatMap fun x =>
          payload [(8, x.1.2.cand.id.toNat), (8, x.1.2.cand.version.toNat), (4, x.1.2.score.toNat), (2, x.2.2), (2, x.1.2.tTok.length),
                   (2, (detokenise v (x.1.2.tTok.take x.2.2)).length), (1, x.2.1), (1, x.1.1), (4, 0)]
        let report := header ++ entries
        -- a rebuild packs the recorded order into the same prompt, and goes on (R208)
        if r.rebuild then s.onReq slot fun x => { x with prompt := prompt, stage := 9 }
        else
        let s := if qCut then s.okCode slot stTruncated else s
        let s := if fld b 48 8 ≠ 0 && r.report.isEmpty then s.hostWrite (fld b 48 8) report else s
        let s := s.onReq slot fun x => { x with prompt := prompt, report := if x.report.isEmpty then report else x.report, phase := 3, state := .prefill, stage := 9 }
        ((s.writeRecord slot).mapPrefix slot).mirrorOpen slot

/-- Scores under R197, selection under R199 to R201; the ask goes on to stage 8, the rerank ends. -/
def State.selectFinal (s : State) (slot : Nat) (off : Bool) (nFinal : Nat) : State :=
  match s.req? slot with
  | none => s
  | some r =>
    let live := (enum r.passages).filter fun x => !x.2.dropped
    let sel := if off then (live.take nFinal).map Prod.fst else (selTop true nFinal (live.map fun x => ⟨x.2.score, x.1⟩)).map fun e => e.index
    let short := decide (live.length < nFinal)
    let s := (s.onReq slot fun x => { x with final := sel, phase := if x.kind = .ask then 2 else x.phase, stage := 8 }).writeRecord slot
    let s := if short then s.okCode slot stShort else s
    if r.kind = .ask then s.packReq slot
    else
      -- rerank: OUT holds one entry per item in item order; the status under R323
      let out := (enum r.passages).flatMap fun x =>
        payload [(4, x.2.score.toNat), (1, match indexOf (fun i => i == x.1) sel with | some j => j | none => 0xFF), (3, 0)]
      let s := s.hostWrite (fld r.params 32 8) out
      let s := s.onReq slot fun x => { x with res := [BitVec.ofNat 32 sel.length, 0, 0] }
      let cut := r.okCode == stTruncated
      s.endReq slot (if short then stShort else if cut then stTruncated else stOk) (if short && cut then stTruncated else 0)

/-- The weights of R197. -/
def Req.weights (r : Req) : W32 × W32 :=
  let (fl, o) := if r.kind = .ask then (bit (fld r.params 6 2) 1, 28) else (bit (fld r.params 5 1) 1, 8)
  if fl then (BitVec.ofNat 32 (fld r.params o 4), BitVec.ofNat 32 (fld r.params (o + 4) 4)) else (one32, one32)
def Req.nFinal (r : Req) : Nat := if r.kind = .ask then fld r.params 9 1 else fld r.params 4 1
/-- Stage 7 ends when every candidate has its logit and, with a head bound, its head output. -/
def State.stage7Done (s : State) (slot : Nat) : State :=
  match s.req? slot with
  | none => s
  | some r =>
    let live := r.passages.filter fun p => !p.dropped
    if r.stage ≠ 7 || !(live.all fun p => p.logit.isSome && (r.head == 0 || p.head.isSome)) then s
    else
      let (wc, wh) := r.weights
      let score := fun (p : Passage) => match p.logit with
        | none => p.score
        | some l => match p.head with | some h => ffma wh h (fmul wc l) | none => fmul wc l
      (s.onReq slot fun x => { x with passages := x.passages.map fun p => { p with score := score p } }).selectFinal slot false r.nFinal

/-- Stage 7 begins: pair items wait for steps, and the head's gathers start (R192 to R201). With no reranker the retrieval order stands (R200). -/
def State.startStage7 (s : State) (slot : Nat) : State :=
  match s.req? slot with
  | none => s
  | some r =>
    let live := (enum r.passages).filter fun x => !x.2.dropped
    if live.isEmpty then (if r.kind = .ask then (s.okCode slot stShort).onReq slot (fun x => { x with stage := 8, final := [] }) |>.packReq slot else s.selectFinal slot true r.nFinal)
    else if r.reranker = 0 then s.selectFinal slot true r.nFinal
    else
      let s := s.onReq slot fun x => { x with stage := 7, waitAge := 0 }
      if r.head = 0 then s
      else match s.index? r.index with
        | none => s
        | some ix =>
          let gathers := (enum ix.featureSlots).map fun fs =>
            let (i, table, source, pool) := (fs.1, fs.2.1, fs.2.2.1, fs.2.2.2)
            let bags : List (List Occ) := if source = 0 then live.map fun x => if r.kind = .rerank && x.2.cand.id == 0xFFFFFFFFFFFFFFFF then [] else [⟨x.2.cand.id, one32⟩]
              else if r.kind = .ask then
                [((List.range (fld r.params 14 2)).map fun j => (fld r.params (792 + 16 * j) 1, (⟨BitVec.ofNat 64 (fld r.params (800 + 16 * j) 8), BitVec.ofNat 32 (fld r.params (796 + 16 * j) 4)⟩ : Occ)))
                  |>.filterMap fun x => if x.1 = i then some x.2 else none]
              else [[]]
            ({ gid := 0, table := table, pool := pool, bags := bags, cmd := none, slot := some (slot, i), part := r.part.val,
               kept := [], rows := 0, stamps := [], shards := [], far := [], sums := [], lostShards := [] } : Gather)
          -- a gather whose entry table does not fit completes with ERR_NO_RESOURCE (R178)
          if s.entriesFit r.part.val (sumNat (gathers.map fun g => (s.rowsOf g.table g.bags).length)) then s.each gathers State.startGather else s.endReq slot stNoResource 0
/-- Is every feature slot's gather done? -/
def State.featsReady (s : State) (r : Req) : Bool :=
  match s.index? r.index with
  | some ix => r.head == 0 || (List.range ix.featureSlots.length).all fun i => r.feats.any fun f => f.1 == i
  | none => true

/-- Stage 6 ends when every passage is fetched or dropped. -/
def State.stage6Done (s : State) (slot : Nat) : State :=
  match s.req? slot with
  | none => s
  | some r =>
    if r.stage ≠ 6 || !(r.passages.all fun p => p.fetched || p.dropped) then s
    else if r.phase ≥ 2 && r.kind = .ask then s.packReq slot
    else s.startStage7 slot
/-- A passage's text arrives: tokenised in the reranker's and the tenant's vocabularies (stage 6). -/
def State.passageText (s : State) (slot i : Nat) (text : Bytes) : State :=
  match s.req? slot with
  | none => s
  | some r =>
    let rv := s.tenantVocab r.reranker
    let tv := s.reqVocab r
    s.onReq slot fun x => { x with passages := modAt x.passages i fun p =>
      { p with fetched := true, text := text, rTok := if r.reranker = 0 then [] else tokenise rv text, tTok := if r.kind = .ask then tokenise tv text else [] } }
def State.passageDrop (s : State) (slot i : Nat) : State :=
  s.onReq slot fun x => { x with degraded := true, passages := modAt x.passages i fun p => { p with dropped := true } }
/-- The store pages the fetches of a request's own passages read (R166): passage, pages. -/
def State.fetchesOf (s : State) (r : Req) : List (Nat × List Nat) :=
  match s.index? r.index with
  | none => []
  | some ix => ((enum r.passages).filter fun p => !p.2.fetched && !p.2.dropped && p.2.cand.member == 0).map fun p => (p.1, ix.fetchPages p.2.cand.id p.2.cand.version)
/-- The page reads of a request's stage 6 are issued (R294). -/
def State.issueFetch (s : State) (slot : Nat) : State :=
  match s.req? slot with
  | none => s
  | some r => s.each (s.fetchesOf r) fun s x => s.each x.2 fun s k => s.queueRead k (.fetch slot x.1)
/-- Stage 6 begins: fetches from members go out as messages (R348); reads of the own store's pages go to the cellar, on the partition's regulator (R131). -/
def State.startStage6 (s : State) (slot : Nat) : State :=
  match s.req? slot with
  | none => s
  | some r =>
    let s := s.onReq slot fun x => { x with stage := 6 }
    let s := s.each (r.passages.filter fun p => !p.fetched && !p.dropped && p.cand.member ≠ 0) fun s p =>
      s.send p.cand.member 5 (.textFetch r.index p.cand.id p.cand.version)
    let s := s.dropFetches slot
    let n := sumNat ((s.fetchesOf r).map fun x => x.2.length)
    let (s, waits) := if n = 0 then (s, false) else s.regulate r.part.val 2 (4 * n) false (.fetch slot) [slot]
    let s := if waits then s else s.issueFetch slot
    s.stage6Done slot

def passageOf (c : Cand) : Passage :=
  { cand := c, fetched := false, dropped := false, text := [], rTok := [], tTok := [], logit := none, head := none, score := c.score }
/-- Stage 5's result reaches its request (R25, R26, R154 to R158, R347): `short` is the code it ended with. -/
def State.afterRetrieval (s : State) (slot : Nat) (cands : List Cand) (rounds : Nat) (short : W16) (degr : Bool) : State :=
  match s.req? slot with
  | none => s
  | some r =>
    let s := s.onReq slot fun x => { x with rounds := rounds, degraded := x.degraded || degr }
    match r.kind with
    | .ask =>
      let s := if short ≠ 0 then s.okCode slot short else s
      let s := (s.onReq slot fun x => { x with passages := cands.map passageOf, phase := 1, stage := 5 }).writeRecord slot
      if cands.isEmpty then (s.onReq slot fun x => { x with stage := 8 }).packReq slot else s.startStage6 slot
    | _ =>
      let ents := cands.flatMap fun c => payload [(8, c.id.toNat), (8, c.version.toNat), (4, c.score.toNat), (4, 0)]
      let s := s.hostWrite (fld r.params 24 8) (padTo (24 * fld r.params 1 1) ents)
      let s := s.onReq slot fun x => { x with res := [BitVec.ofNat 32 cands.length, BitVec.ofNat 32 rounds, BitVec.ofNat 32 r.snap.toNat] }
      let cut := r.okCode == stTruncated
      s.endReq slot (if short ≠ 0 then short else if cut then stTruncated else stOk) (if short ≠ 0 && cut then stTruncated else 0)

/-- A job whose own part is done and whose members have answered gives its result (R158, R346, R347). -/
def State.jobResult (s : State) (adm : W64) : State :=
  match s.job? adm with
  | none => s
  | some j =>
    match j.own with
    | none => s
    | some own =>
      if !j.members.isEmpty then s
      else
        let list := mergeMembers own j.others j.k
        let short := if list.length < j.k then (if j.filter.isEmpty then stShort else stFilterShort) else 0
        let s := s.dropJob adm
        match j.remote with
        | some m => s.reply m 5 (.shardResult own j.rounds j.snap)
        | none => match j.slot with
          | some slot => s.afterRetrieval slot list j.rounds short j.unreadable
          | none => s
/-- Stages 3 to 5 of a request begin with its query vector (R136, R139, R146, R346): a vector that is not finite finds nothing. -/
def State.startJob (s : State) (slot : Nat) (q : List W32) : State :=
  match s.req? slot with
  | none => s
  | some r =>
    let s := s.onReq slot fun x => { x with vec := q, stage := 3 }
    let s := if r.vec.isEmpty then s.charge r.part.val r.tenant fun a => { a with searches := satAdd 64 a.searches 1 } else s
    if !(q.all finite32) then s.afterRetrieval slot [] 0 stShort false
    else match s.index? r.index with
      | none => s.afterRetrieval slot [] 0 stShort false
      | some ix =>
        let b := r.params
        let (k, p, w, nt, fo) := if r.kind = .ask then (fld b 8 1, fld b 10 2, fld b 12 1, fld b 13 1, 96) else (fld b 1 1, fld b 2 2, fld b 4 1, fld b 5 1, 40)
        let p := if p = 0 then ix.pDef else p
        let filt := (List.range nt).map fun t => (⟨BitVec.ofNat 64 (fld b (fo + 16 * t) 8), BitVec.ofNat 64 (fld b (fo + 16 * t + 8) 8)⟩ : FilterTerm)
        let mem := (s.shardMembers r.index ix).take 256
        let j : Job := { adm := r.adm, slot := some slot, remote := none, index := r.index, snap := r.snap, query := q, k := k, d := ix.dMargin, p := p, w := w,
                         filter := filt, round := 0, plan := [], queued := [], holds := [], reads := [], lists := [], earlier := [], overrun := r.overran,
                         unreadable := decide ((s.shardMembers r.index ix).length > 256), part := r.part.val, tenant := r.tenant, own := none, members := mem, others := [],
                         rounds := 0, cancelled := false, failed := [], hot := r.hot }
        let s := s.onRet fun x => { x with jobs := x.jobs ++ [j] }
        let s := s.each mem fun s m => s.send m 5 (.shardSearch r.adm r.index q k p w filt)
        let s := s.onReq slot fun x => { x with waitMembers := mem }
        ((s.planRound j 0).settleJob r.adm).jobResult r.adm

/-! ## Repeating a stage (R29, R208, R367) -/

/-- The encoder items that a request has in the running step are withdrawn: their launches end at the boundary, and their results are discarded. -/
def State.dropItems (s : State) (slot : Nat) : State :=
  match s.req? slot with
  | none => s
  | some r => s.onPart r.part.val fun x => { x with run := x.run.map fun y =>
      { y with items := y.items.filter fun i => !(i.slot == slot && (i.kind == .embed || i.kind == .pairs || i.kind == .heads)) } }
/-- A stage is repeated: stages 2 to 5 at the recorded snapshot and admission number, or stages 6 and 7, with the gathers, from the passages. -/
def State.repeatFront (s : State) (slot : Nat) : State :=
  match s.req? slot with
  | none => s
  | some r =>
    if !r.running || 8 < r.stage then s
    else
      let s := (s.onReq slot fun x => { x with replayed := true }).dropItems slot
      if 3 ≤ r.stage && r.stage ≤ 5 && r.phase = 0 then
        let s := s.dropJobsOf slot
        if r.kind == .search && r.qTok.isEmpty then s.startJob slot r.vec else s.onReq slot fun x => { x with stage := 2 }
      else if 6 ≤ r.stage && r.stage ≤ 7 && r.phase ≤ 1 then
        let s := s.onTbl fun b => { b with gathers := b.gathers.map fun g => match g.slot with | some (n, _) => if n = slot then { g with slot := none } else g | none => g }
        let s := s.onReq slot fun x =>
          { x with feats := [], headDegraded := false,
                   passages := x.passages.map fun p => if r.kind == .rerank && p.cand.id == 0xFFFFFFFFFFFFFFFF then { p with logit := none, head := none } else passageOf p.cand }
        s.startStage6 slot
      else s
/-- A generating request is rebuilt (R364, R208): STATE 6, its rebuild item waits; an ask first refetches the passages of its final order and packs them again. -/
def State.rebuildReq (s : State) (slot : Nat) : State :=
  match s.req? slot with
  | none => s
  | some r =>
    if !r.running then s
    else
      let s := s.onReq slot fun x => { x with state := .rebuilding, rebuild := true, replayed := true }
      if r.kind = .ask && !r.migrated then (s.onReq slot fun x => { x with passages := (enum x.passages).map fun p => if x.final.contains p.1 then { p.2 with fetched := false, dropped := false } else p.2 }).startStage6 slot
      else s

/-! ## Sampling one token (R225 action 1, R259 to R267) -/

/-- The distinct IDs of the penalty window (R259). -/
def Req.window (r : Req) (n : Nat) : List Nat := (((r.prompt ++ r.emitted).reverse.take n).map fun t => t.toNat)
/-- Everything released at the end of a request is written; then it ends. -/
def State.finishText (s : State) (slot : Nat) (out : Bytes) (st : W16) : State := ((s.issueText slot out).onReq slot fun x => { x with buf := [] }).endGen slot st
/-- The token is recorded (R27, R262, R360) and the end conditions of Table 10.10 are tested in order. -/
def State.takeToken (s : State) (slot : Nat) (x : Nat) : State :=
  match s.req? slot with
  | none => s
  | some r =>
    let v := s.reqVocab r
    let tok : W32 := BitVec.ofNat 32 x
    let g := s.reqGrammar r
    let adv := match g with | some g => if x = v.eos then (r.gState.toNat, r.gStack) else gAdvance g r.gState.toNat r.gStack x | none => (0, [])
    let s := (s.onReq slot fun y => { y with emitted := y.emitted ++ [tok], phase := 4, state := .decode, gState := BitVec.ofNat 16 adv.1, gStack := adv.2,
                                             maskReady := false }).writeRecord slot
    let s := s.charge r.part.val r.tenant fun a => { a with tokensOut := satAdd 64 a.tokensOut 1 }
    let s := s.onReq slot fun y => { y with step := (s.part r.part.val).nextStep - 1 }
    let stops := r.stopBytes
    let fin : State :=
      if x = v.eos then s.finishText slot r.buf stEos
      else if (stopTokens stops).contains x then s.finishText slot r.buf stStopToken
      else
        match feed (stopStrings stops) (stopInclude stops) r.buf (tokBytes v tok) with
        | (_, out, true) => s.finishText slot out stStopString
        | (buf, out, false) =>
          let dead := match g with
            | some gr =>
              if gAccept gr adv.1 && adv.2.isEmpty && (match gr.states[adv.1]? with | some (_, n, _) => n == 0 | none => true) then some stGrammarEnd else none
            | none => none
          let len := decide (stopMax stops ≤ r.emitted.length + 1)
            || (match s.tenant? r.tenant with | some t => decide (t.model.maxContext ≤ r.total + 1) | none => false)
          match dead with
          | some st => s.finishText slot (out ++ buf) st
          | none =>
            if len then s.finishText slot (out ++ buf) stLength
            else match g with
              | some gr => if (gMask gr v adv.1 adv.2).any id then (s.onReq slot fun y => { y with buf := buf }).issueText slot out else s.finishText slot (out ++ buf) stGrammarDead
              | none => (s.onReq slot fun y => { y with buf := buf }).issueText slot out
    fin.mirrorTokens slot [tok]
/-- A token is sampled for a request from its logits. -/
def State.sampleReq (s : State) (slot : Nat) (logits : List W32) : State :=
  match s.req? slot with
  | none => s
  | some r =>
    if !r.running then s
    else
      let v := s.reqVocab r
      let mask := match s.reqGrammar r with | some g => gMask g v r.gState.toNat r.gStack | none => logits.map fun _ => true
      if r.emitted.isEmpty && r.grammar.isSome && !(mask.any id) then s.endGen slot stGrammarDead
      else
        let p := sampling r.sampBytes
        let (x, anom) := choose logits mask (r.window p.window) p r.emitted.length
        let s := if anom then s.onSch fun c => { c with sampleAnom := satAdd 32 c.sampleAnom 1 } else s
        s.takeToken slot x

/-- A request's stream re-derived from its recorded tokens (R267, R366): buffer, released bytes, grammar state. -/
def rederive (v : Vocab) (g : Option Grammar) (stops : Bytes) : Bytes → Bytes → Nat → List W16 → List W32 → Bytes × Bytes × Nat × List W16
  | buf, out, q, k, [] => (buf, out, q, k)
  | buf, out, q, k, t :: l =>
    let (q', k') := match g with | some g => gAdvance g q k t.toNat | none => (q, k)
    let (b, o, _) := feed (stopStrings stops) (stopInclude stops) buf (tokBytes v t)
    rederive v g stops b (out ++ o) q' k' l

end Sys2Proof.Machine
end

