-- ==== Sys2Proof/Machine/Steps.lean ====
section
/-! DEFINITION. Steps (09): the estimate and the composition of R234, launches and the landing (R113 to R115), the pager (R124 to R129), the
boundary of R225, standing partitions (R439), raw packets (R229), core-count changes (R213), evacuation at boundaries (R353). -/

namespace Sys2Proof.Machine

/-! ## Settings -/

def schedCap (w : W32) : Nat := max 1 (bits w.toNat 30 19)
def schedAge (w : W32) : Nat := max 1 (bits w.toNat 18 11)
def schedFloor (w : W32) : Bool := bit w.toNat 31
def schedMaxDecode (w : W32) : Nat := max 1 (bits w.toNat 8 0)
/-- Prefill chunk sizes tried (CHUNK of Table 9.5). -/
def schedChunks (w : W32) : List Nat := match bits w.toNat 10 9 with | 1 => [256] | 2 => [512] | _ => [512, 256]
def pagerAge (w : W32) : Nat := max 1 (bits w.toNat 15 8)
def pagerHigh (w : W32) : Nat := bits w.toNat 23 16
def pagerLow (w : W32) : Nat := let h := pagerHigh w; let l := bits w.toNat 31 24; if l < h then l else h - 1
def pagerLook (w : W32) : Nat := let n := bits w.toNat 2 0; if n = 0 then 1 else min n 4

/-! ## Weights and the landing (R113 to R118) -/

/-- The base a delta tenant stands on. -/
def State.baseOf (s : State) (t : Tenant) : Option Base := if t.model.kind = 3 then KMap.get? s.sch.bases t.model.baseId.toNat else none
/-- Weight sources of a tenant in a partition: key, its model, and whether it is read from HBM without streaming. -/
def State.sources (s : State) (p tid : Nat) (t : Tenant) : List (Nat × Model × Bool) :=
  let pl := (t.place[p]?).getD 0
  let own := (tid, t.model, pl == 2 || pl == 4)
  match s.baseOf t with
  | some b => [(2 ^ 64 + t.model.baseId.toNat, b.model, b.shared), own]
  | none => [own]
/-- Distinct weight sources of a list of tenants, in order. -/
def State.sourcesOf (s : State) (p : Nat) (ts : List W16) : List (Nat × Model × Bool) :=
  ts.foldl (fun acc t => match s.tenant? t with
    | some x => (s.sources p t.toNat x).foldl (fun acc y => if acc.any fun z => z.1 == y.1 then acc else acc ++ [y]) acc
    | none => acc) []
def State.tenantsIn (s : State) (p : Nat) : List W16 := (s.sch.tenants.filter fun t => bit t.2.mask.toNat p).map fun t => BitVec.ofNat 16 t.1
/-- W of a partition as its landing and tenants now are (R113). -/
def State.landW (s : State) (p : Nat) : Nat :=
  let src := s.sourcesOf p (s.tenantsIn p)
  let pinned := sumNat ((src.filter fun x => x.2.2 && x.1 < 2 ^ 64).map fun x => x.2.1.decoded)
  let str := src.filter fun x => !x.2.2
  let slot := maxNat (str.map fun x => x.2.1.layerBytes)
  if str.isEmpty then 0 else if slot = 0 then 64 else min 64 (((s.part p).landing * Config.granule - pinned) / slot)

/-- W is recomputed: at a load or an unload, and at the boundary after a `part.set` (R113, R214). -/
def State.setW (s : State) (p : Nat) : State := s.onPart p fun x => { x with w := s.landW p }

/-! ## The estimate (R234) -/

/-- The tenant whose model an item runs. -/
def itemTenant (k : ItemKind) (r : Req) : W16 := match k with | .embed => r.embedder | .pairs => r.reranker | .heads => r.head | _ => r.tenant
def classQ (c : Nat) : Nat := if c = 4 then 2 else if c = 8 then 4 else 16
def regShare (r : Option Regulator) : Nat := match r with | some r => if r.en then max 1 r.share.toNat else 1024 | none => 1024
/-- est_cycles of R234. -/
def State.estCycles (s : State) (p : Nat) (items : List Item) : Nat :=
  let pt := s.part p
  let rs := items.filterMap fun i => (s.req? i.slot).map fun r => (i, r, itemTenant i.kind r)
  let model := fun (t : W16) => (s.tenant? t).map fun x => x.model
  let mac := sumNat (rs.map fun x => match model x.2.2 with | some m => x.1.tokens * m.params * classQ m.passClass | none => 0)
  let src := s.sourcesOf p (rs.map fun x => x.2.2)
  let hbmW := sumNat (src.map fun x => x.2.1.decoded)
  let att := sumNat (src.map fun x => if x.2.2 then 0 else x.2.1.stored)
  let kv := sumNat (rs.map fun x => match model x.2.2 with
    | some m => (match x.1.kind with
        | .decode => x.2.1.total * m.kvBytes * m.layerGroups
        | .prefill | .rebuild | .repair => (x.1.pos + x.1.tokens) * m.kvBytes * m.layerGroups
        | _ => 0)
    | none => 0)
  max (max (mac / (max 1 pt.cores.length * 262144)) ((hbmW + kv) * 1024 / (6141 * regShare pt.regs[0]?))) (att * 1024 / (1025 * regShare pt.regs[1]?)) + 8192

/-! ## Waiting work -/

structure Work where
  slot : Nat
  rebuild : Bool
  urgent : Bool
  started : Bool
  age : Nat
  sizes : List Item
  deriving DecidableEq, Repr

/-- The query cap of the pairs (R195). -/
def State.qCap (s : State) (r : Req) : Nat :=
  let c := if r.kind = .ask then fld r.params 24 2 else fld r.params 6 2
  if c ≠ 0 then c else match s.tenant? r.reranker with | some t => t.qCapDef | none => 0
/-- The pair of one passage (R195): LEAD, the query up to its cap, JOIN, as much of the passage as leaves at most 512 tokens, TAIL. -/
def State.pairOf (s : State) (r : Req) (p : Passage) : List W32 :=
  let (a, b, c) := match s.tenant? r.reranker with | some t => (t.lead, t.join, t.tail) | none => ([], [], [])
  let q := r.rTok.take (s.qCap r)
  a ++ q ++ b ++ p.rTok.take (512 - (a.length + q.length + b.length + c.length)) ++ c
/-- Its tokens against the step limits (Table 9.3). -/
def State.pairTokens (s : State) (r : Req) (p : Passage) : Nat := (s.pairOf r p).length
def chunkItems (k : ItemKind) (slot pos rem : Nat) (cs : List Nat) : List Item :=
  dedup (cs.map fun c => { kind := k, slot := slot, seqs := 1, tokens := min c rem, pos := pos })
/-- Groups of whole pairs or candidates, largest first (R223). -/
def groupItems (k : ItemKind) (slot pos : Nat) (toks : List Nat) : List Item :=
  ((List.range toks.length).reverse).map fun i => { kind := k, slot := slot, seqs := i + 1, tokens := sumNat (toks.take (i + 1)), pos := pos }
/-- The first page of a request whose content is lost (R128, R365). -/
def Req.lostPage (r : Req) : Option Nat := (r.pages.find? fun g => g.lost).map fun g => g.no
/-- The waiting item of a request, in every size it may take. -/
def State.itemsOf (s : State) (slot : Nat) (r : Req) (cfg : W32) : List Item :=
  if !r.running then []
  else match r.lostPage with
    | some n => if 64 * n < r.committed then [{ kind := .repair, slot := slot, seqs := 1, tokens := min 64 (r.committed - 64 * n), pos := 64 * n }]
                else [{ kind := .repair, slot := slot, seqs := 1, tokens := 0, pos := 64 * n }]
    | none =>
      if r.rebuild then
        if r.kind = .ask && r.stage ≠ 9 then []  -- its passages are being fetched again (R208)
        else (if r.committed < r.total then chunkItems .rebuild slot r.committed (r.total - r.committed) (schedChunks cfg)
         else [{ kind := .rebuild, slot := slot, seqs := 1, tokens := 1, pos := r.total - 1 }])
      else match r.state with
        | .prefill => if r.raw then [] else chunkItems .prefill slot r.committed (r.prompt.length - r.committed) (schedChunks cfg)
        | .front =>
          if r.stage = 2 then [{ kind := .embed, slot := slot, seqs := 1, tokens := r.qTok.length, pos := 0 }]
          else if r.stage = 7 then
            let pend := (enum r.passages).filter fun x => !x.2.dropped && x.2.logit.isNone
            match pend with
            | x :: _ => groupItems .pairs slot x.1 (pend.map fun x => s.pairTokens r x.2)
            | [] =>
              let hp := (enum r.passages).filter fun x => !x.2.dropped && x.2.head.isNone
              match hp with
              | x :: _ => if r.head ≠ 0 && s.featsReady r then groupItems .heads slot x.1 (hp.map fun _ => 0) else []
              | [] => []
          else []
        | _ => []
def State.workOf (s : State) (p : Nat) : List Work :=
  let cfg := (s.part p).sched
  (s.slotsOf p).filterMap fun n => match s.req? n with
    | some r =>
      let it := s.itemsOf n r cfg
      if it.isEmpty then none
      else some { slot := n, rebuild := r.rebuild || r.lostPage.isSome, urgent := r.rebuild || r.lostPage.isSome || decide (schedAge cfg ≤ r.waitAge),
                  started := r.lastStep ≠ 0xFFFFFFFFFFFFFFFF, age := r.waitAge, sizes := it }
    | none => none
/-- The order of the waiting list in `compose`. -/
def workLt (a b : Work) : Bool :=
  let key := fun (w : Work) => [boolNat (!w.rebuild), boolNat (!w.urgent), boolNat (!w.started), 65535 - w.age, w.slot]
  let rec lt : List Nat → List Nat → Bool
    | x :: l, y :: m => decide (x < y) || (x == y && lt l m)
    | _, _ => false
  lt (key a) (key b)
/-- Sequences that decode, or wait for pages. -/
def State.decoders (s : State) (p : Nat) : List (Nat × Req) :=
  s.sch.slots.filter fun x => x.2.part.val == p && x.2.running && (x.2.state == .decode || x.2.state == .pageWait) && !x.2.rebuild && x.2.lostPage.isNone
/-- Decoding sequences in the order of `compose`: oldest LAST_STEP first, then the lower slot. -/
def State.decodeOrder (s : State) (p : Nat) : List (Nat × Req) :=
  sortBy (fun a b : Nat × Req => decide (a.2.lastStep.toNat < b.2.lastStep.toNat) || (a.2.lastStep == b.2.lastStep && decide (a.1 < b.1))) (s.decoders p)
/-- Is the page-wait age of a sequence with pages outside HBM at AGE_LIMIT: a fetch of class 1 (R124)? -/
def Part.urgentPage (pt : Part) (r : Req) : Bool := r.running && r.pages.any KvPage.isOut && decide (pagerAge pt.pager ≤ r.pageAge)
def State.urgentFetch (s : State) (p : Nat) : Bool := s.sch.slots.any fun x => x.2.part.val == p && (s.part p).urgentPage x.2
/-- R233. -/
def State.mayStart (s : State) (p : Nat) : Bool :=
  let pt := s.part p
  let dec := (s.sch.slots.filter fun x => x.2.part.val == p && x.2.running &&
    (x.2.state == .decode || x.2.state == .pageWait || (x.2.state == .prefill && x.2.lastStep ≠ 0xFFFFFFFFFFFFFFFF))).length
  decide (dec < schedMaxDecode pt.sched) && !s.urgentFetch p && !pt.withheld

/-! ## The pager (R124 to R129) -/

/-- The entries of a raw step packet: offset, handle, TOKENS. -/
def rawEntries (pb : Bytes) : List (Nat × Nat × Nat) := (List.range (fld pb 0 2)).map fun i => (8 + 8 * i, fld pb (8 + 8 * i) 4, fld pb (12 + 8 * i) 2)
/-- Sequences that the scheduler has chosen for the step `k` places ahead (1: the next): rebuilds and started work, then the decode order, or the packets
that wait. -/
def State.stepSeqs (s : State) (p k : Nat) : List Nat :=
  let pt := s.part p
  let first := if k = 1 then ((s.workOf p).filter fun w => w.started || w.rebuild).map fun w => w.slot else []
  first ++ if pt.raw then (match pt.packets[k - 1]? with | some c => (rawEntries c.pb).filterMap fun e => s.named e.2.1 | none => [])
    else (((s.decodeOrder p).drop (schedMaxDecode pt.sched * (k - 1))).take (schedMaxDecode pt.sched)).map Prod.fst
/-- Sequences of the next LOOKAHEAD steps. -/
def State.upcoming (s : State) (p : Nat) : List Nat := (List.range (pagerLook (s.part p).pager)).flatMap fun k => s.stepSeqs p (k + 1)
def State.runningSlots (s : State) (p : Nat) : List Nat := match (s.part p).run with | some r => r.items.map fun i => i.slot | none => []
def State.poolFree (s : State) (p : Nat) : Nat := (s.part p).kvPool * 512 - sumNat ((s.part p).frames.map fun f => f.2.units)
/-- Units of a partition's KV spill. -/
def State.spillUnits (s : State) (p : Nat) : List (Nat × Nat) := regionUnits s.mem.att (.kvSpill p)
/-- A free frame of the attic spill, by its key in the spill map. -/
def State.atticSpot (s : State) (p units : Nat) : Option Nat := gapIn (s.spillUnits p) units ((s.part p).spill.filter fun f => f.1 < 2 ^ 40)
/-- Where an evicted frame goes: the spill, else a lease (05, The pager). -/
def State.spillSpot (s : State) (p units : Nat) : Option Nat :=
  match s.atticSpot p units with
  | some k => some k
  | none =>
    (List.range 16).findSome? fun w => match KMap.get? s.fab.windows w with
      | some x =>
        if x.draining then none
        else
          let used := (sortBy (fun a b : Nat × Frame => decide (a.1 < b.1))
            (s.sch.parts.flatMap fun q => (q.2.spill.filter fun f => f.1 / 2 ^ 40 == w + 1).map fun f => (f.1 % 2 ^ 40, f.2)))
          (firstGap (x.gib * 262144) units 0 used).map fun k => leaseFrame w k
      | none => none
/-- The smallest frame of a partition's generating tenants. -/
def State.minFrame (s : State) (p : Nat) : Nat :=
  match (s.tenantsIn p).filterMap fun t => (s.tenant? t).bind fun x => if x.model.kind = 1 || x.model.kind = 3 then some (frameUnits x.model) else none with
  | [] => 1
  | u :: l => l.foldl min u
def Part.poolLow (pt : Part) (free : Nat) : Bool := decide (free * 256 < pagerLow pt.pager * (pt.kvPool * 512))
/-- R127: the spill has no free frame, and no lease has one. A partition that was given no spill at all has none to fill: there the rule holds while the
pager has an eviction to make (DEDUCED, assumption 135). -/
def State.spillFull (s : State) (p : Nat) : Bool :=
  (s.spillSpot p (s.minFrame p)).isNone && (decide ((s.part p).kvSpill ≠ 0) || (s.part p).poolLow (s.poolFree p))
/-- HBM pages that the eviction of a request moves: all of them but those whose frame a sequence of `keep` shares (R125). -/
def State.movable (s : State) (keep : List Nat) (r : Req) : List KvPage :=
  r.pages.filter fun g => !g.lost && g.loc == 0
    && !(keep.any fun n => match s.req? n with | some o => o.part == r.part && o.pages.any fun q => q.inHbm && q.frame == g.frame | none => false)
/-- The eviction order of R125 over a partition's sequences, without those of `keep`: oldest last use, then the higher slot. -/
def State.evictable (s : State) (p : Nat) (keep : List Nat) : Option Nat :=
  let c := s.sch.slots.filter fun x => x.2.part.val == p && x.2.running && !(keep.contains x.1) && !(s.movable keep x.2).isEmpty
  (c.foldl (fun (b : Option (Nat × Nat)) x =>
    let a := maxNat ((s.movable keep x.2).map fun g => ((s.part p).frame g.frame).last.toNat)
    match b with
    | none => some (x.1, a)
    | some y => if a < y.2 || (a == y.2 && decide (y.1 < x.1)) then some (x.1, a) else some y) none).map Prod.fst
/-- A pager transfer starts. -/
def State.pagerStart (s : State) (p : Nat) (fetch toAttic : Bool) (slot cls : Nat) : State :=
  s.onPart p fun x => { x with pagerOps := x.pagerOps ++ [{ fetch := fetch, toAttic := toAttic, slot := slot, cls := cls, orphan := [] }] }
/-- An eviction starts: the sequence's pages move (LOC 3, for every sharer) until the copy is complete (R125, R126). -/
def State.startEvict (s : State) (p : Nat) (keep : List Nat) (slot cls : Nat) : State :=
  match s.req? slot with
  | none => s
  | some r =>
    let fr := dedup ((s.movable keep r).map KvPage.frame)
    (s.onPages p fun g => if !g.lost && g.loc = 0 && fr.contains g.frame then g.move 3 0 g.frame g.clean else g).pagerStart p false false slot cls
/-- Units of the frames that a sequence has outside HBM, those of a draining lease alone where `onlyDrain`. -/
def State.outUnits (s : State) (p : Nat) (r : Req) (onlyDrain : Bool) : Nat :=
  let ks := dedup ((r.pages.filter fun g => g.isOut && (!onlyDrain || s.fab.draining g)).map KvPage.spillKey)
  sumNat (ks.map fun k => (KMap.getD (s.part p).spill k Frame.empty).units)
/-- The pager's next work, in the class order of R124. One transfer runs at a time. Pages of a lease under withdrawal come home after the fetches of
classes 1 and 2, into HBM or else the attic (R129). -/
def State.pagerPick (s : State) (p : Nat) : State :=
  let pt := s.part p
  let free := s.poolFree p
  let s := s.onPart p fun x => { x with withheld := s.spillFull p, evicting := pt.poolLow free || (x.evicting && decide (free * 256 < pagerHigh pt.pager * (pt.kvPool * 512))) }
  if !pt.pagerOps.isEmpty then s
  else
    let out := sortBy (fun a b : Nat × Req => decide (b.2.pageAge < a.2.pageAge) || (a.2.pageAge == b.2.pageAge && decide (a.1 < b.1)))
      (s.sch.slots.filter fun x => x.2.part.val == p && x.2.running && x.2.pages.any KvPage.isOut)
    let next := s.stepSeqs p 1
    let keep := s.upcoming p ++ s.runningSlots p
    let fits := fun (x : Nat × Req) => decide (s.outUnits p x.2 false ≤ free)
    let evict := fun (cls : Nat) => if (s.spillSpot p (s.minFrame p)).isNone then none else (s.evictable p keep).map fun v => s.startEvict p keep v cls
    let soon := (out.filter fun x => pt.urgentPage x.2) ++ out.filter fun x => !pt.urgentPage x.2 && next.contains x.1
    let drain := match out.find? fun x => x.2.pages.any s.fab.draining with
      | some x => if fits x then some (s.pagerStart p true false x.1 2) else if (s.atticSpot p (s.minFrame p)).isSome then some (s.pagerStart p false true x.1 2) else none
      | none => none
    let room := match soon.head? with
      | some x => if fits x then some (s.pagerStart p true false x.1 (if pt.urgentPage x.2 then 1 else 2)) else evict 3
      | none => none
    let ahead := if soon.isEmpty then (out.find? fun x => keep.contains x.1 && fits x).map fun x => s.pagerStart p true false x.1 5 else none
    (room.orElse fun _ => drain.orElse fun _ => (if (s.part p).evicting then evict 4 else none).orElse fun _ => ahead).getD s
/-- Units that a transfer moves: a clean page is evicted without a copy (R126). -/
def State.pagerUnits (s : State) (p : Nat) (o : PagerOp) (r : Req) : Nat :=
  if o.fetch || o.toAttic then s.outUnits p r o.toAttic
  else sumNat ((dedup ((r.pages.filter fun g => !g.lost && g.loc == 3).map KvPage.frame)).map fun k =>
    if ((s.part p).frame k).copy.isSome then 0 else ((s.part p).frame k).units)
/-- The pager's next transfer waits on the attic's regulator, or on Tirtar's where a lease holds a page; a fetch of urgency class 1 never waits, nor one that
waits and then becomes urgent (R131, R132). -/
def State.pagerNext (s : State) (p : Nat) : State :=
  match (s.part p).pagerOps with
  | o :: rest =>
    let s := s.pagerPick p
    if o.fetch && o.cls ≠ 1 && (match s.req? o.slot with | some r => (s.part p).urgentPage r | none => false) then
      let wait := (s.part p).transfers.filter fun t => t.2.key == .pager
      let s := s.onPart p fun x => { x with pagerOps := { o with cls := 1 } :: rest, transfers := x.transfers.filter fun t => t.2.key != .pager }
      s.each wait fun s t => s.spend p t.1 t.2.units
    else s
  | [] =>
    let s := s.pagerPick p
    match (s.part p).pagerOps with
    | [] => s
    | o :: _ =>
      match s.req? o.slot with
      | none => s
      | some r =>
        let s := s.onPart p fun x => { x with transfers := x.transfers.filter fun t => t.2.key != .pager }
        (s.regulate p (if r.pages.any fun g => !g.lost && g.loc == 2 then 3 else 1) (s.pagerUnits p o r) (o.fetch && o.cls == 1) .pager [o.slot]).1
/-- A frame comes into HBM for every sharer; what it came from stays as its identical copy, but on a lease under withdrawal (R126, R129). -/
def State.fetchFrame (s : State) (p k : Nat) : State :=
  let f := KMap.getD (s.part p).spill k Frame.empty
  match gapIn (s.poolUnits p) f.units (s.part p).frames with
  | none => s
  | some h =>
    let stays := !s.fab.drains k
    let s := s.onPart p fun x =>
      { x with frames := KMap.set x.frames h { f with last := x.nextStep, copy := if stays then some k else none, split := none },
               spill := if stays then x.spill else KMap.erase x.spill k }
    let s := s.onMem fun y => { y with bytes := copyRuns y.bytes [(spillAddr k, hbmAt h, 4096 * f.units)] }
    s.onPages p fun g => if g.isOut && g.spillKey = k then g.move 0 0 h stays else g
/-- Pages of a spill frame now lie in another. -/
def State.respill (s : State) (p k : Nat) (hit : KvPage → Bool) : State :=
  s.onPages p fun g => if hit g then g.move (spillLoc k).1 (spillLoc k).2.1 (spillLoc k).2.2 true else g
/-- A frame leaves HBM for every sharer: to its identical copy, or copied to the spill or a lease (R126). -/
def State.evictFrame (s : State) (p k : Nat) : State :=
  let f := (s.part p).frame k
  let hit := fun (g : KvPage) => !g.lost && g.loc == 3 && g.frame == k
  match f.copy with
  | some c => (s.onPart p fun x => { x with frames := KMap.erase x.frames k, spill := KMap.mod x.spill c fun y => { y with refs := f.refs } }).respill p c hit
  | none => match s.spillSpot p f.units with
    | some c =>
      let s := s.onPart p fun x => { x with frames := KMap.erase x.frames k, spill := KMap.set x.spill c { f with copy := none, split := none } }
      (s.onMem fun y => { y with bytes := copyRuns y.bytes [(hbmAt k, spillAddr c, 4096 * f.units)] }).respill p c hit
    | none => s.unevict p [k]
/-- A frame of a lease moves to the attic spill (R129). -/
def State.unlease (s : State) (p k : Nat) : State :=
  let f := KMap.getD (s.part p).spill k Frame.empty
  match s.atticSpot p f.units with
  | some c =>
    let s := s.onPart p fun x => { x with spill := KMap.set (KMap.erase x.spill k) c f }
    (s.onMem fun y => { y with bytes := copyRuns y.bytes [(spillAddr k, spillAddr c, 4096 * f.units)] }).respill p c fun g => g.isOut && g.spillKey == k
  | none => s
/-- STATE 4 follows where the pages lie: a decoding sequence with a page outside HBM waits, and one whose pages are home goes on. -/
def pageState (r : Req) : Req :=
  { r with state := if r.state = .decode && r.pages.any KvPage.isOut then .pageWait
                    else if r.state = .pageWait && r.pages.all fun g => !g.lost && g.loc == 0 then .decode else r.state }
/-- A transfer completes (R124 to R126, R129). -/
def State.pagerDone (s : State) (p : Nat) : State :=
  match (s.part p).pagerOps with
  | [] => s
  | o :: rest =>
    let s := s.onPart p fun x => { x with pagerOps := rest, dead := x.dead ++ o.orphan }
    match s.req? o.slot with
    | none => s.unevict p (o.orphan.map KvPage.frame)
    | some r =>
      if !o.orphan.isEmpty then s.unevict p (o.orphan.map KvPage.frame)
      else
        let s := if o.fetch then s.each (dedup ((r.pages.filter KvPage.isOut).map KvPage.spillKey)) fun s k => s.fetchFrame p k
          else if o.toAttic then s.each (dedup ((r.pages.filter s.fab.draining).map KvPage.spillKey)) fun s k => s.unlease p k
          else s.each (dedup ((r.pages.filter fun g => !g.lost && g.loc == 3).map KvPage.frame)) fun s k => s.evictFrame p k
        (s.each (s.slotsOf p) fun s n => s.onReq n pageState).markShared p
/-- R128: another sequence's private HBM pages are dropped, and its references to shared ones. -/
def State.dropVictim (s : State) (p : Nat) (keep : List Nat) : Option State :=
  match s.evictable p keep with
  | none => none
  | some v => match s.req? v with
    | none => none
    | some r =>
      let gone := r.pages.filter KvPage.inHbm
      let s := s.unevict p (gone.map KvPage.frame)
      let s := s.onPart p fun x => { gone.foldl (fun pt g => pt.unref g.frame) x with pagerOps := x.pagerOps.filter fun o => o.fetch || o.toAttic || o.slot ≠ v }
      let s := s.onReq v fun x => { x with state := .pageWait, pages := x.pages.map fun g => if g.inHbm then { g with lost := true } else g }
      some ((s.charge p r.tenant fun a => { a with displaced := satAdd 64 a.displaced 1 }).markShared p)
/-- Victims are dropped one after another until a decode has its pages; the answer says whether it has. -/
def State.forceReady (s : State) (p : Nat) (keep : List Nat) (slot : Nat) (r : Req) : Nat → State × Bool
  | 0 => (s, false)
  | n + 1 =>
    match s.readyPages slot (r.total - 1) r.total with
    | some s => (s, true)
    | none => match s.dropVictim p keep with
      | some s => State.forceReady s p keep slot r n
      | none => (s, false)
/-- Can the pool hold a sequence's pages at all (R128)? -/
def State.poolHolds (s : State) (p : Nat) (r : Req) : Bool :=
  match s.kvModel r with
  | some m => decide ((r.pages.length + (missingPages m r r.total).length) * frameUnits m ≤ (s.part p).kvPool * 512)
  | none => false
/-- A decode gets its pages: as they are, or under R128 where the pool has no free frame and R127 holds. The answer says whether it has them; the request ends
with ERR_NO_RESOURCE where no victim is left and the pool cannot hold its pages at all. -/
def State.readyDecode (s : State) (p : Nat) (keep : List Nat) (slot : Nat) (r : Req) : State × Bool :=
  match s.readyPages slot (r.total - 1) r.total with
  | some s => (s, true)
  | none =>
    if r.inHbm && s.spillFull p then
      match s.forceReady p (slot :: keep) slot r (s.sch.slots.length + 1) with
      | (s, true) => (s, true)
      | (s, false) => (if s.poolHolds p r then s else s.endReq slot stNoResource 0, false)
    else (s, false)

/-! ## Composition (R233 to R237) -/

/-- The decode items in decode order, at most `n`. -/
def State.pickDecode (s : State) (p : Nat) : Nat → List Item → List (Nat × Req) → State × List Item
  | _, acc, [] => (s, acc)
  | 0, acc, _ => (s, acc)
  | n + 1, acc, (slot, _) :: l =>
    match s.req? slot with
    | none => State.pickDecode s p (n + 1) acc l
    | some r =>
      if !r.running || r.lostPage.isSome then State.pickDecode s p (n + 1) acc l
      else match s.readyDecode p (acc.map fun i => i.slot) slot r with
        | (s, true) =>
          State.pickDecode (s.onReq slot fun x => { x with state := .decode }) p n (acc ++ [{ kind := .decode, slot := slot, seqs := 1, tokens := 1, pos := r.total - 1 }]) l
        | (s, false) => State.pickDecode (s.onReq slot fun x => { x with state := if x.running then .pageWait else x.state }) p (n + 1) acc l
/-- An item gets its pages; an item without KV needs none. -/
def State.readyItem (s : State) (it : Item) : Option State :=
  match it.kind with
  | .embed | .pairs | .heads => some s
  | .repair =>
    match s.req? it.slot with
    | none => none
    | some r =>
      let no := it.pos / 64
      let lost := r.pages.filter fun g => g.lost && g.no == no
      let s' := s.onReq it.slot fun x => { x with pages := x.pages.filter fun g => !(g.lost && g.no == no) }
      match s'.kvModel r with
      | none => none
      | some m =>
        let pt := s'.part r.part.val
        match allocFrames (frameUnits m) (s'.poolUnits r.part.val) pt.nextStep pt (lost.map fun g => (g.group, g.no)) with
        | none => none
        | some (pt, new) =>
          let new := new.map fun g => { g with entry := frameEntry 0 false false (min 64 (r.committed - it.pos)) 0 g.frame }
          let s' := (s'.onPart r.part.val fun _ => pt).onReq it.slot fun x => { x with pages := x.pages ++ new }
          -- a shared frame is repaired once for all its sharers (R365)
          some ((s'.each (s'.slotsOf r.part.val) fun s n =>
            if n = it.slot then s
            else match s.req? n with
              | none => s
              | some o =>
                let hit := fun (g : KvPage) => g.lost && g.no == no && lost.any fun q => q.group == g.group && q.frame == g.frame && bit q.entry.toNat 60
                if !(o.pages.any hit) then s
                else
                  let fr := fun (g : KvPage) => match new.find? fun q => q.group == g.group with | some q => q.frame | none => g.frame
                  let s := s.onPart r.part.val fun pt => { pt with frames := (o.pages.filter hit).foldl (fun fs g => KMap.mod fs (fr g) fun f => { f with refs := f.refs + 1 }) pt.frames }
                  s.onReq n fun x => { x with pages := x.pages.map fun g => if hit g then { g with lost := false, entry := frameEntry 0 true false g.fill 0 (fr g) } else g }).markShared r.part.val)
  | _ => s.readyPages it.slot it.pos (it.pos + it.tokens)
/-- The first size of a work item that fits (`compose`, inner loop). -/
def State.placeWork (s : State) (p : Nat) (cfg : W32) (step : List Item) (overN : Bool) (w : Work) : List Item → Option (State × List Item × Bool)
  | [] => none
  | it :: l =>
    let seqs := sumNat (step.map fun i => i.seqs)
    let toks := sumNat (step.map fun i => i.tokens)
    if 512 < seqs + it.seqs || 8192 < toks + it.tokens then State.placeWork s p cfg step overN w l
    else
      let e := s.estCycles p (step ++ [it])
      let cap := schedCap cfg * 4096
      if e ≤ cap || (w.urgent && !overN && !schedFloor cfg) || step.isEmpty then
        match s.readyItem it with
        | some s => some (s, step ++ [it], overN || decide (cap < e))
        | none => none
      else State.placeWork s p cfg step overN w l
def State.placeAll (s : State) (p : Nat) (cfg : W32) (step : List Item) (overN : Bool) : List Work → State × List Item
  | [] => (s, step)
  | w :: ws =>
    if !w.started && !w.rebuild && !s.mayStart p then State.placeAll s p cfg step overN ws
    else match s.placeWork p cfg step overN w w.sizes with
      | some (s, step, overN) => State.placeAll s p cfg step overN ws
      | none => State.placeAll s p cfg step overN ws
/-- `compose` of R234. -/
def State.compose (s : State) (p : Nat) : State × List Item :=
  let cfg := (s.part p).sched
  let (s, step) := s.pickDecode p (schedMaxDecode cfg) [] (s.decodeOrder p)
  s.placeAll p cfg step false (sortBy workLt (s.workOf p))
/-- FLOOR_OK (R237). -/
def State.floorOk (s : State) (p : Nat) (items : List Item) : Bool :=
  let pt := s.part p
  let dec := items.filter fun i => i.kind == .decode
  let cap := schedCap pt.sched
  let e0 := s.estCycles p dec
  let gens := (s.tenantsIn p).filterMap fun t => match s.tenant? t with | some x => if x.model.kind = 1 || x.model.kind = 3 then some (t, x) else none | none => none
  -- the estimate with one 256-token chunk of a tenant at position 0
  let rs := dec.filterMap fun i => s.req? i.slot
  let est := fun (t : W16 × Tenant) =>
    let mac := 256 * t.2.model.params * classQ t.2.model.passClass + sumNat (rs.map fun r => match s.tenant? r.tenant with | some x => x.model.params * classQ x.model.passClass | none => 0)
    let src := s.sourcesOf p (rs.map (fun r => r.tenant) ++ [t.1])
    let kv := sumNat (rs.map fun r => match s.tenant? r.tenant with | some x => r.total * x.model.kvBytes * x.model.layerGroups | none => 0) + 256 * t.2.model.kvBytes * t.2.model.layerGroups
    let hbm := sumNat (src.map fun x => x.2.1.decoded) + kv
    let att := sumNat (src.map fun x => if x.2.2 then 0 else x.2.1.stored)
    max (max (mac / (max 1 pt.cores.length * 262144)) (hbm * 1024 / (6141 * regShare pt.regs[0]?))) (att * 1024 / (1025 * regShare pt.regs[1]?)) + 8192
  decide (maxNat (e0 :: gens.map est) ≤ cap * 4096) && decide (cap ≤ 0x069)

/-! ## Launches and the streamer (R114, R115, R218) -/

/-- Launch kind of an item (04, launch kinds). -/
def itemLaunch : ItemKind → Nat
  | .embed => 1
  | .pairs => 2
  | .heads => 3
  | .decode => 5
  | _ => 4
/-- Does a step end with logits for the item? -/
def State.itemFinal (s : State) (it : Item) : Bool :=
  match it.kind with
  | .decode => true
  | .prefill | .rebuild => (match s.req? it.slot with | some r => decide (r.total ≤ it.pos + it.tokens) | none => false)
  | _ => false
/-- A launch kind runs where the image's LAUNCH section lists it (a delta's, or its base's) and the program needs no more cores than the partition holds. -/
def State.kindRuns (s : State) (p : Nat) (t : Tenant) (k : Nat) : Bool :=
  let ok := fun (m : Model) => m.launch.any fun l => l.1 == k && m.progs.any fun g => g.id == l.2 && decide (g.cores ≤ (s.part p).cores.length)
  ok t.model || (match s.baseOf t with | some b => ok b.model | none => false)
def State.itemRuns (s : State) (p : Nat) (it : Item) : Bool :=
  match s.req? it.slot with
  | none => false
  | some r => match s.tenant? (itemTenant it.kind r) with
    | none => false
    | some t => s.kindRuns p t (itemLaunch it.kind) && (!s.itemFinal it || s.kindRuns p t 6)
/-- Launches of a kind over a model (R218): prefill and decode one per layer group, an encoder's kinds one per streaming layer. -/
def launchCount (kind : Nat) (m : Model) : Nat := max 1 (if kind = 4 || kind = 5 then m.layerGroups else m.layers)
/-- The launch group of an item (R218): kind, model, launches, and the tenant: 0 where delta tenants share the launches of their base, else a full tenant's own. -/
def State.launchKey (s : State) (it : Item) : Nat × W64 × Nat × Nat :=
  match s.req? it.slot with
  | none => (0, 0, 1, 0)
  | some r =>
    match s.tenant? (itemTenant it.kind r) with
    | none => (0, 0, 1, 0)
    | some t => match s.baseOf t with
      | some b => (itemLaunch it.kind, BitVec.ofNat 64 t.model.baseId.toNat, launchCount (itemLaunch it.kind) b.model, 0)
      | none => (itemLaunch it.kind, t.model.modelId, launchCount (itemLaunch it.kind) t.model, (itemTenant it.kind r).toNat + 1)
/-- The launches of a step (R218): those of one model stand beside each other and the models' launches go on layer by layer, so that a landed layer is soon free
again (assumption 136; R219: their order changes no result). -/
def State.launchesOf (s : State) (items : List Item) : List Launch :=
  let keys := dedup (items.map s.launchKey)
  let keys := (dedup (keys.map fun k => k.2.1)).flatMap fun m => keys.filter fun k => k.2.1 == m
  let body := (List.range (maxNat (keys.map fun k => k.2.2.1))).flatMap fun l => (keys.filter fun k => decide (l < k.2.2.1)).map fun k =>
    ({ kind := k.1, model := k.2.1, layer := l, slots := (items.filter fun i => s.launchKey i == k).map fun i => i.slot, started := false } : Launch)
  let fin := items.filter s.itemFinal
  let key := fun (i : Item) => (s.launchKey i).2
  body ++ (dedup (fin.map key)).map fun k => { kind := 6, model := k.1, layer := k.2.1, slots := (fin.filter fun i => key i == k).map fun i => i.slot, started := false }
/-- The tenants whose models a launch runs. -/
def State.launchTenants (s : State) (l : Launch) : List W16 :=
  dedup (l.slots.filterMap fun n => (s.req? n).map fun r => match l.kind with | 1 => r.embedder | 2 => r.reranker | 3 => r.head | _ => r.tenant)
/-- The streaming layers of a model that the launch numbered `l.layer` reads: that layer, or those that fall into that layer group; a logits head
reads none (assumption 136). -/
def launchLayers (l : Launch) (m : Model) : List Nat :=
  (List.range (max 1 m.layers)).filter fun i =>
    if l.kind = 4 || l.kind = 5 then i * launchCount l.kind m / max 1 m.layers == l.layer else l.kind ≠ 6 && i == l.layer
/-- Streamed layers a launch reads. -/
def State.launchNeeds (s : State) (p : Nat) (l : Launch) : List (W64 × Nat) :=
  ((s.sourcesOf p (s.launchTenants l)).filter fun x => !x.2.2).flatMap fun x => (launchLayers l x.2.1).map fun i => (x.2.1.modelId, i)
/-- The prefetch distance, as placed, of the tenants of a launch that stream a model (R114, R118). -/
def State.needDist (s : State) (p : Nat) (l : Launch) (model : W64) : Nat :=
  maxNat ((s.launchTenants l).filterMap fun t => (s.tenant? t).bind fun x =>
    if (s.sources p t.toNat x).any fun y => y.2.1.modelId == model then some ((x.dist[p]?).getD 1) else none)
def Part.hasLayer (pt : Part) (n : W64 × Nat) : Bool := pt.land.any fun l => l.model == n.1 && l.layer == n.2 && l.landed
/-- May a launch start? Its layers are wholly in the landing (R115), or as many as the landing has slots for (assumption 136). -/
def State.launchMay (s : State) (p : Nat) (l : Launch) : Bool :=
  (s.launchNeeds p l).all (s.part p).hasLayer || (decide ((s.part p).w ≤ (s.part p).land.length) && (s.part p).land.all fun x => x.landed)
/-- The streamer starts layers into free slots in the order of the step plan, each up to its tenant's d places ahead of the running layer (R114). -/
def State.streamFill (s : State) (p : Nat) : State :=
  match (s.part p).run with
  | none => s.onPart p fun x => { x with land := [], transfers := x.transfers.filter fun t => match t.2.key with | .layer _ _ => false | _ => true }
  | some run =>
    let w := (s.part p).w
    let plan := dedup (run.launches.flatMap fun l => s.launchNeeds p l)
    let ahead := dedup ((enum run.launches).flatMap fun x => (s.launchNeeds p x.2).filter fun n => decide (x.1 ≤ min (w - 1) (s.needDist p x.2 n.1)))
    let was := (s.part p).land
    let s := s.onPart p fun x =>
      let land := x.land.filter fun l => plan.contains (l.model, l.layer)
      { x with land := ahead.foldl (fun ls n => if ls.any (fun l => l.model == n.1 && l.layer == n.2) || w ≤ ls.length then ls
                                               else ls ++ [{ model := n.1, layer := n.2, landed := false, retried := false }]) land }
    -- a layer that starts to stream reads its stored frames from the attic (R131)
    s.each ((s.part p).land.filter fun l => !was.any fun o => o.model == l.model && o.layer == l.layer) fun s l =>
      let ls := run.launches.filter fun x => (s.launchNeeds p x).contains (l.model, l.layer)
      let stored := match (s.sourcesOf p (s.tenantsIn p)).find? fun x => x.2.1.modelId == l.model with | some x => x.2.1.stored / max 1 x.2.1.layers | none => 0
      (s.regulate p 1 (ceilDiv stored 4096) false (.layer l.model l.layer) (dedup (ls.flatMap fun x => x.slots))).1

/-- A step starts (R224, R225 action 7). -/
def State.startStep (s : State) (p : Nat) (items : List Item) (packet : Option (Cmd × Nat × Nat)) : State :=
  -- a launch whose kind or cores the image does not give fails with ERR_NOT_FOUND (04, launch kinds)
  let bad := items.filter fun it => !s.itemRuns p it
  let s := s.each bad fun s it => s.endReq it.slot stNotFound 0
  let none_ := items.isEmpty
  let items := items.filter fun it => !(bad.contains it)
  -- a step whose every item so failed does not run; its packet's entries name no request any more
  if !none_ && items.isEmpty then (match packet with | some (c, n, k) => s.ok c.h 0 0 ((n + k) * 65536) 0 | none => s)
  else
  let n := (s.part p).nextStep
  let est := s.estCycles p items
  let run : StepRun := { number := n, items := items, launches := s.launchesOf items, outs := [], est := est, cycles := 0, packet := packet, empty := items.isEmpty }
  let s := s.onPart p fun x => { x with nextStep := x.nextStep + 1, run := some run }
  let s := if items.isEmpty then s else (s.wakeCores p).wakeDom 5
  let s := s.each items fun s it => (s.chargeWait it.slot).onReq it.slot fun r => { r with lastStep := n }
  s.streamFill p

/-! ## Raw packets (R227 to R231) -/

/-- R229 item 2: the offset of the first entry that breaks a rule. -/
def State.rawBad (s : State) (p : Nat) (es : List (Nat × Nat × Nat)) : Option Nat :=
  let bad := es.find? fun e => match s.named e.2.1 with
    | none => false
    | some n => match s.req? n with
      | none => false
      | some r =>
        r.part.val ≠ p || r.kind ≠ .generate || (es.any fun f => f.1 < e.1 && f.2.1 == e.2.1)
          || (if e.2.2 = 0 then decide (r.committed < r.prompt.length && r.emitted.isEmpty) else decide (r.prompt.length - r.committed < e.2.2) || !r.emitted.isEmpty)
  match bad with
  | some e => some e.1
  | none => if 8192 < sumNat (es.map fun e => max 1 e.2.2) then some 8 else none
def State.rawItems (s : State) (es : List (Nat × Nat × Nat)) : List Item :=
  es.filterMap fun e => match s.named e.2.1 with
    | none => none
    | some n => (s.req? n).map fun r => if e.2.2 = 0 then { kind := .decode, slot := n, seqs := 1, tokens := 1, pos := r.total - 1 }
                                        else { kind := .prefill, slot := n, seqs := 1, tokens := e.2.2, pos := r.committed }
/-- Every item of a packet gets its pages, or none does; the answer carries what R128 did. -/
def State.readyAll (s : State) (p : Nat) (keep : List Nat) : List Item → State × Bool
  | [] => (s, true)
  | it :: l =>
    match (match it.kind, s.req? it.slot with
      | .decode, some r => s.readyDecode p keep it.slot r
      | _, _ => match s.readyItem it with | some s => (s, true) | none => (s, false)) with
    | (s, true) => State.readyAll s p keep l
    | (s, false) => (s, false)
/-- Does a prefill entry need a KV frame (R229 item 3)? -/
def State.rawNeeds (s : State) (es : List (Nat × Nat × Nat)) : Bool :=
  es.any fun e => e.2.2 ≠ 0 && (match (s.named e.2.1).bind s.req? with
    | some r => (match s.kvModel r with | some m => !(missingPages m r (r.committed + e.2.2)).isEmpty | none => false)
    | none => false)
/-- What is left of a packet that was in an abandoned step, after the rebuild steps did part of its work (Table 15.6). -/
def State.restItems (s : State) (l : List Item) : List Item :=
  l.filterMap fun it => match s.req? it.slot with
    | none => none
    | some r =>
      let left := r.prompt.length - r.committed
      match it.kind with
      | .prefill => if left = 0 then none else some { it with tokens := min left it.tokens }
      | _ => some it
/-- The next packet that runs; packets that do not run complete without a step number (R229). -/
def State.nextPacket (s : State) (p : Nat) : Nat → State
  | 0 => s
  | fuel + 1 =>
    match (s.part p).packets with
    | [] => s
    | c :: rest =>
      -- an entry of a request that has ended is skipped, be its completion written or not
      let es := (rawEntries c.pb).filter fun e => match (s.named e.2.1).bind s.req? with | some r => r.fin.isNone | none => false
      let skipped := fld c.pb 0 2 - es.length
      let pop := fun (s : State) => s.onPart p fun x => { x with packets := rest, again := false }
      let again := (s.part p).again
      match (if again then none else s.rawBad p es) with
      | some off => State.nextPacket ((pop s).err c.h (stParam, BitVec.ofNat 16 off)) p fuel
      | none =>
        if s.rawNeeds es && s.spillFull p then State.nextPacket ((pop s).err c.h (stNoResource, 0)) p fuel
        else if es.isEmpty then State.nextPacket ((pop s).ok c.h 0 0 (skipped * 65536) 0) p fuel
        else
          let items := if again then s.restItems (s.rawItems es) else s.rawItems es
          let n := (s.part p).lastStep.toNat
          if items.isEmpty then State.nextPacket ((pop s).ok c.h (n % 2 ^ 32) (n / 2 ^ 32) (es.length + skipped * 65536) (s.part p).cyc.toNat) p fuel
          else match s.readyAll p (items.map fun i => i.slot) items with
          | (s, true) => (pop s).startStep p items (some (c, es.length, skipped))
          | (s', false) => if es.any fun e => (match (s'.named e.2.1).bind s'.req? with | some r => r.fin.isSome | none => false) then State.nextPacket s' p fuel else s'

/-! ## Core counts (R210 to R214) -/

/-- In-service cores of no partition, ascending (R212). -/
def State.freeCores (s : State) : List Nat := s.inService.filter fun c => !(s.sch.parts.any fun p => p.2.cores.contains c)
def State.applyCores (s : State) (p : Nat) : State :=
  match (s.part p).target with
  | none => s
  | some (n, h) =>
    let pt := s.part p
    let have_ := pt.cores.length
    let s :=
      if n < have_ then
        let s := s.each (pt.cores.drop n) fun s c => s.offCore c
        (s.onPart p fun x => { x with cores := x.cores.take n }).hbmSize (.save p) (8 * n)
      else
        -- a core is gained with the 16 MiB of its save area (R109)
        let new := (s.freeCores.take (n - have_)).take ((Config.hbmGran - s.mem.hbmUsed) / 8)
        ((s.onPart p fun x => { x with cores := x.cores ++ new }).hbmSize (.save p) (8 * (have_ + new.length))).each new fun s c => s.wakeDom (coreDom c)
    if (s.part p).cores.length = n then (s.onPart p fun x => { x with target := none }).ok h 0 0 0 0 else s
/-- Writes that wait for the boundary take effect (R225 action 4). -/
def regOf (w : W32) (old : Regulator) : Regulator :=
  { en := w.getLsbD 31, borrow := w.getLsbD 30, share := BitVec.ofNat 11 (bits w.toNat 29 19), depth := BitVec.ofNat 16 (bits w.toNat 18 3),
    tokens := min old.tokens (bits w.toNat 18 3 : Nat) }
def Part.applySettings (x : Part) : Part :=
  { x with
    sched := x.schedNew.getD x.sched, schedNew := none, pager := x.pagerNew.getD x.pager, pagerNew := none,
    regs := match x.regsNew with | some ws => List.zipWith regOf ws x.regs | none => x.regs, regsNew := none }

/-! ## The boundary (R225) -/

/-- Tokens of an item processed for the first time, or in a rebuild (Table 9.10). -/
def State.chargeTokens (s : State) (p : Nat) (r : Req) (it : Item) : State :=
  s.charge p r.tenant fun a => match it.kind with
    | .rebuild | .repair => { a with rebuild := satAdd 64 a.rebuild it.tokens }
    | .decode => a
    | _ => { a with tokensIn := satAdd 64 a.tokensIn it.tokens }
/-- Results of pairs or heads go to the pending candidates in order. -/
def fillPending (f : Passage → Option W32) (g : Passage → W32 → Passage) : List Passage → List W32 → List Passage
  | [], _ => []
  | ps, [] => ps
  | p :: ps, v :: vs => if !p.dropped && (f p).isNone then g p v :: fillPending f g ps vs else p :: fillPending f g ps (v :: vs)
/-- One item's result at the boundary (R225 action 1). -/
def State.applyItem (s : State) (p : Nat) (outs : List LaunchOut) (it : Item) : State :=
  match s.req? it.slot with
  | none => s
  | some r =>
    let out := outs.find? fun o => o.slot.val == it.slot
    let s := s.chargeTokens p r it
    if !r.running then s
    else match it.kind with
      | .embed =>
        -- OUT_DIM elements, whatever the launch gave (R443): one that it did not give is a free value
        let n := match s.tenant? r.embedder with | some t => t.model.outDim | none => 0
        let given := match out with | some o => o.vector | none => []
        let (x, s) := if given.length < n then s.fresh else (0, s)
        let v := (List.range n).map fun i => (given[i]?).getD (BitVec.ofNat 32 (x / 2 ^ (32 * i)))
        let s := s.onReq it.slot fun x => { x with stage := 3 }
        if r.kind = .embed then
          let v := v.map fun x => if isNan32 x then nan32 else x
          let bad := v.any fun x => !finite32 x
          let s := s.hostWrite (fld r.params 24 8) (wordsBytes v)
          let s := s.onReq it.slot fun x => { x with res := [BitVec.ofNat 32 v.length, 0, 0] }
          let cut := r.okCode == stTruncated
          s.endReq it.slot (if bad then stShort else if cut then stTruncated else stOk) (if bad && cut then stTruncated else 0)
        else s.startJob it.slot v
      | .pairs =>
        let v := match out with | some o => o.pairs | none => []
        (s.onReq it.slot fun x => { x with passages := fillPending (fun q => q.logit) (fun q w => { q with logit := some w }) x.passages (v.take it.seqs) }).stage7Done it.slot
      | .heads =>
        let v := match out with | some o => o.heads | none => []
        (s.onReq it.slot fun x => { x with passages := fillPending (fun q => q.head) (fun q w => { q with head := some w }) x.passages (v.take it.seqs) }).stage7Done it.slot
      | .repair => s
      | .decode | .prefill | .rebuild =>
        let c := max r.committed (it.pos + it.tokens)
        let s := s.onReq it.slot fun x => { x with committed := c, prefilled := min c x.prompt.length }
        if c < r.total then s
        else
          let s := s.onReq it.slot fun x => { x with rebuild := false, state := if x.state = .rebuilding then .decode else x.state }
          s.sampleReq it.slot (match out with | some o => o.logits | none => [])
/-- Is every mask that action 1 applies complete (R257)? -/
def State.masksReady (s : State) (run : StepRun) : Bool :=
  run.items.all fun it => match s.req? it.slot with
    | some r => !(r.running && r.grammar.isSome && (it.kind == .decode || ((it.kind == .prefill || it.kind == .rebuild) && decide (r.total ≤ it.pos + it.tokens)))) || r.maskReady
    | none => true

/-! ## Evacuation (R349, R353) -/

/-- A request that may move to the buddy: its mirror is open and was not refused (R349). -/
def Req.migratable (r : Req) : Bool := r.running && r.generates && !r.raw && r.mirrored && !r.mirrorBad
/-- At its boundary a migratable request moves: output stops, the migration message goes, and it is released without a completion. -/
def State.evacPart (s : State) (p : Nat) : State :=
  match s.sch.evac with
  | none => s
  | some _ =>
    s.each (s.sch.slots.filter fun x => x.2.part.val == p && x.2.migratable) fun s x =>
      let r := x.2
      let s := s.send s.fab.buddy 7 (.migration x.1 (mirrorDesc r (s.modelIdOf r.tenant)))
      let s := s.onQp (qpKey r.fn r.qp) fun q => { q with inFlight := q.inFlight - 1 }
      let s := s.onReq x.1 fun y => { y with closed := true, state := .ended, mirrored := false, fin := some (stOk, 0), buf := [] }
      let s := s.onSvc fun v => { v with moved := v.moved + 1 }
      s.onSch fun c => { c with evac := c.evac.map fun e => (e.1, e.2.1 + 1, e.2.2) }
/-- The evacuate completes once every migratable request has moved (R326, R427): RESULT1 counts the live requests that were not migratable. -/
def State.evacEnd (s : State) : State :=
  match s.sch.evac with
  | none => s
  | some (h, n, m) =>
    if s.sch.slots.any fun x => x.2.migratable || (x.2.running && x.2.generates && !x.2.raw && x.2.state == .front) then s
    else
      match h with
      | some h => ((s.onSch fun c => { c with evac := none }).serviceAction 2 0 n).ok h n (m - n) 0 0
      | none => s

/-! ## Standing partitions and steps -/

/-- Actions 3 and 4 (R225, R439). -/
def State.releaseAndApply (s : State) (p : Nat) (free : List Nat) : State :=
  let s := s.each free fun s n => s.releaseReq n
  let s := s.onPart p fun x => { (x.dead.foldl Part.freePage x) with dead := [] }
  -- frames whose last reference went with a private copy (R121)
  let s := (s.onPart p fun x => ((x.frames.filter fun f => f.2.refs == 0).foldl (fun y f => y.unref f.1) x)).markShared p
  ((s.onPart p Part.applySettings).setW p).applyCores p
/-- Actions 6 and 7: the next step, an empty step (R226), or none (R439). At a boundary the device composes whatever there is; a partition that stands
composes when work arrives, so FLOOR_OK (R237) changes only then. -/
def State.nextStepOf (s : State) (p : Nat) (atBoundary : Bool) : State :=
  let pt := s.part p
  if pt.run.isSome || pt.cores.isEmpty || s.pwr.inputLost then s
  else
    let s := s.pagerNext p
    let (s, items) := if pt.raw then s.placeAll p pt.sched [] false (sortBy workLt (s.workOf p)) else s.compose p
    let waits := if pt.raw then !(s.workOf p).isEmpty else !(s.workOf p).isEmpty || !(s.decoders p).isEmpty
    let s := if pt.raw || !(atBoundary || waits || !items.isEmpty) then s else s.onPart p fun x => { x with floorOk := s.floorOk p items }
    if !items.isEmpty then s.startStep p items none
    else
      if waits then s.startStep p [] none
      else if pt.raw then s.nextPacket p (pt.packets.length + 1)
      else s
/-- Ages advance (R225 action 5, R235, R124). -/
def State.advanceAges (s : State) (p : Nat) (items : List Item) : State :=
  let placed := items.map fun i => i.slot
  let work := (s.workOf p).map fun w => w.slot
  let dec := s.decoders p
  let chosen := s.stepSeqs p 1
  let s := s.each placed fun s n => s.onReq n fun x => { x with waitAge := 0 }
  let s := s.each work fun s n => match s.req? n with
    | some r =>
      if placed.contains n then s
      else (s.onReq n fun x => { x with waitAge := min 65535 (x.waitAge + 1) }).charge p r.tenant fun a => { a with qwaitSteps := satAdd 64 a.qwaitSteps 1 }
    | none => s
  -- page-wait ages (R124): the scheduler has chosen the sequence, and a page of it is not in HBM
  let s := s.each (s.slotsOf p) fun s n => s.onReq n fun r =>
    if r.inHbm then { r with pageAge := 0 } else if chosen.contains n then { r with pageAge := min 65535 (r.pageAge + 1) } else r
  s.each dec fun s x =>
    if x.2.state = .pageWait && !x.2.inHbm then s.charge p x.2.tenant fun a => { a with pageWait := satAdd 64 a.pageWait 1 }
    else
      if !placed.contains x.1 && x.2.lastStep ≠ 0xFFFFFFFFFFFFFFFF && x.2.state == .decode && !x.2.emitted.isEmpty && !items.isEmpty then
        s.charge p x.2.tenant fun a => { a with displaced := satAdd 64 a.displaced 1 }
      else s
/-- The entries of a partition's slots are updated at its boundary (R222). -/
def State.publishPart (s : State) (p : Nat) (slots : List Nat) : State :=
  let urg := ((s.workOf p).filter fun w => w.urgent).map fun w => w.slot
  s.each (dedup (slots ++ s.slotsOf p)) fun s n => s.publishEntry n (urg.contains n)
/-- The boundary of a step. -/
def State.boundary (s : State) (p : Nat) (run : StepRun) : State :=
  let before := s.toFree p
  let units := fun (n : Nat) => min 0xFFFF (ceilDiv n 4096)
  let cyc : W32 := BitVec.ofNat 32 (units run.cycles * 65536 + units run.est)
  let s := s.onPart p fun x => { x with run := none, lastStep := run.number, cyc := cyc }
  let s := s.each run.items fun s it => s.applyItem p run.outs it
  let s := s.flushEnded
  let s := match run.packet with
    | some (c, n, k) => s.ok c.h (run.number.toNat % 2 ^ 32) (run.number.toNat / 2 ^ 32) (n + k * 65536) (units run.est + units run.cycles * 65536)
    | none => s
  let s := s.evacPart p
  let s := s.releaseAndApply p before
  let s := s.advanceAges p run.items
  (((s.nextStepOf p true).flushEnded).publishPart p before).evacEnd
/-- The boundary runs once the last launch has ended and every mask it applies is complete. -/
def State.tryBoundary (s : State) (p : Nat) : State :=
  match (s.part p).run with
  | some run => if run.launches.isEmpty && !run.empty && s.masksReady run then s.boundary p run else s
  | none => s
/-- A partition that stands at a boundary does what work there is (R439). -/
def State.settlePart (s : State) (p : Nat) : State :=
  if (s.part p).run.isSome then s
  else ((((s.evacPart p).releaseAndApply p (s.toFree p)).nextStepOf p false).flushEnded).publishPart p (s.toFree p)
/-- Every standing partition, twice: a core that leaves one partition joins another that stands (R213). -/
def State.settle (s : State) : State :=
  let ps := KMap.keys s.sch.parts
  let go := fun (s : State) => s.each ps State.settlePart
  ((go (go s.flushEnded))).evacEnd

end Sys2Proof.Machine
end

