-- ==== Sys2Proof/Machine/Operands.lean ====
section
/-! DEFINITION. What a fetched command is checked for before its own rules (R298 to R301, R315 to R317), the objects it waits for (R319), and
how its row admits it (R307). -/

namespace Sys2Proof

/-- Was the command fetched from a VF? -/
def Hdr.isVf (h : Hdr) : Bool := h.fn.val ≠ 0
/-- The partition header byte 3 names. -/
def Hdr.partNo (h : Hdr) : Nat := h.part.toNat % 16
def Hdr.ownPart (h : Hdr) : Bool := !h.isVf || h.partNo == h.fn.val - 1
def Hdr.indirect (h : Hdr) : Bool := h.flags.getLsbD 0
/-- REPLY, RESYNC and ERROR of a message header (Table 14.3). -/
def MsgHdr.isReply (m : MsgHdr) : Bool := m.flags.getLsbD 0
def MsgHdr.isResync (m : MsgHdr) : Bool := m.flags.getLsbD 1
def MsgHdr.isError (m : MsgHdr) : Bool := m.flags.getLsbD 2

end Sys2Proof

namespace Sys2Proof.Machine

/-- Opcodes of Table 13.3. -/
def opcodes : List Nat :=
  [0x0101, 0x0201, 0x0202, 0x0203, 0x0204, 0x0301, 0x0302, 0x0303, 0x0304, 0x0305, 0x0306, 0x0307, 0x0401, 0x0402, 0x0403, 0x0404, 0x0405, 0x0406,
   0x0407, 0x0501, 0x0502, 0x0503, 0x0504, 0x0601, 0x0602, 0x0603, 0x0604, 0x0701, 0x0702, 0x0703, 0x0801, 0x0802, 0x0803, 0x0804, 0x0901, 0x0902,
   0x0903, 0x0A01, 0x0A02, 0x0A03, 0x0B01, 0x0B02, 0x0B03, 0x0B04]
/-- Commands a VF may issue (Table 12.2). -/
def vfMay (op : Nat) : Bool :=
  op / 256 = 0x03 || op = 0x0405 || op = 0x0407 || op = 0x0503 || op = 0x0504 || op = 0x0603 || op = 0x0604 || op = 0x0702 || op = 0x0B03 || op = 0x0B04
/-- Does the opcode name the partition of header byte 3 (Table 13.3)? For the others the PF's byte 3 is ignored. -/
def namesPart (op : Nat) : Bool := op / 256 = 0x03 || op = 0x0503 || op = 0x0603 || op = 0x0604 || op / 256 = 0x07 || op = 0x0B04
/-- The first non-zero byte at or after an offset. -/
def firstNonzero (pb : Bytes) (off : Nat) : Option Nat := (indexOf (fun b => b != 0) (pb.drop off)).map (· + off)

/-- Items 2 to 4 of R316 that no opcode's own layout is needed for: BUSY, AUTH (`own` adds R325's), the header and PARAM_LEN. -/
def gate (s : State) (op : Nat) (h : Hdr) (len : Nat) (own : Bool) : List (Option Fail) :=
  [chk (s.service || op / 256 = 0x0A || (op / 256 = 0x0B && (op != 0x0B04 || !s.boot.recovery))) stBusy 0,
   chk (!h.isVf || vfMay op) stAuth 0,
   chk own stAuth 0,
   chk (h.flags.toNat < 4 && (h.part.toNat < 16 || (!h.isVf && !namesPart op)) && h.rsv == 0 && h.ownPart) stParam 0xFFF0,
   chk (h.paramLen.toNat == len && (h.indirect || decide (h.paramLen.toNat ≤ 48)) && (!h.indirect || decide (1 ≤ h.paramLen.toNat))) stParam 0xFFF1]
/-- Inline bytes beyond PARAM_LEN are reserved (Table 12.12): the first that is not 0, by its offset. -/
def padding (pb : Bytes) (len : Nat) : List (Option Fail) := [(firstNonzero pb len).map fun o => (stParam, BitVec.ofNat 16 o)]
/-- Parameter fields in order: (offset, holds). -/
def fields (l : List (Nat × Bool)) : List (Option Fail) := l.map fun x => pchk x.1 x.2
/-- Reserved bytes are 0. -/
def rsvd (pb : Bytes) (off n : Nat) : Nat × Bool := (off, allZero (slice pb off n))
/-- A DLREF field's own rules. -/
def dlField (pb : Bytes) (off : Nat) (need : Bool) : List (Nat × Bool) :=
  [(off, decide (dlCount pb off ≤ 65536) && (!need || dlCount pb off ≠ 0)), (off + 12, fld pb (off + 12) 4 == 0)]
def outField (pb : Bytes) (off : Nat) : Nat × Bool := (off + 12, fld pb (off + 12) 4 == 0)
/-- The partition of header byte 3 has cores (R211) and is in the mode asked for (R227): 0 any, 1 managed, 2 raw. -/
def partOk (s : State) (h : Hdr) (mode : Nat) : Option Fail :=
  let p := s.part h.partNo
  chk (!p.cores.isEmpty && (mode == 0 || p.raw == (mode == 2))) stState 0

/-- The checks of a command in the order of R316, then its effect; the first failure is its completion. -/
def runCmd (s : State) (h : Hdr) (checks : List (Option Fail)) (act : State → State) : State :=
  match firstFail checks with
  | some f => s.err h f
  | none => act s

/-- The same for a command that names a partition: its admission wakes the partition's sleeping cores (R385), and the text engine where `text` holds. -/
def runIn (s : State) (h : Hdr) (text : Bool) (checks : List (Option Fail)) (act : State → State) : State :=
  runCmd s h checks fun s => act ((s.wakeCores h.partNo).iff text fun s => s.wakeDom 5)
/-- No request is served while a removal is under way or complete (R431). -/
def serveOk (s : State) : Option Fail := chk (s.svc.removal == 0) stState 0

/-! ## Waiting (R319) -/

/-- The index a command names, and the table. -/
def indexNamed (op : Nat) (pb : Bytes) : Option Nat :=
  if op = 0x0301 || (op = 0x0305 && bit (fld pb 5 1) 0) then some (fld pb 2 1) else if op = 0x0304 || op / 256 = 0x04 then some (fld pb 0 1) else none
def tableNamed (op : Nat) (pb : Bytes) : List Nat :=
  if op = 0x0501 && fld pb 1 1 == 2 then [fld pb 0 1, fld pb 12 1, fld pb 13 1] else if op / 256 = 0x05 then [fld pb 0 1]
  else if op = 0x0401 then (List.range (fld pb 28 1)).map fun i => fld pb (48 + 3 * i) 1 else []
/-- A command that waits will change an object which a later command names: a partition, an index, a table. The later one waits behind it (R306, R319). -/
def Cmd.blocks (c : Cmd) (op : Nat) (h : Hdr) (pb : Bytes) : Bool :=
  ((c.op == 0x0701 || c.op == 0x0703) && namesPart op && c.h.partNo == h.partNo)
    || (c.op == 0x0401 && indexNamed op pb == some (fld c.pb 0 1))
    || (c.op == 0x0501 && (tableNamed op pb).contains (fld c.pb 0 1))
    || (c.op == 0x0804 && op == 0x0804)
/-- A command waits for a change of an object it names: a part.set of its partition, the removal of its table, or (a destroy) the index's unpublished mutations and unfinished loads;
and for an earlier command that waits to make one. -/
def State.mustWait (s : State) (op : Nat) (h : Hdr) (pb : Bytes) : Bool :=
  (namesPart op && (s.part h.partNo).target.isSome && h.ownPart)
    || (op / 256 = 0x05 && (match s.table? (fld pb 0 1) with | some t => t.destroy.isSome | none => false))
    || (op = 0x0501 && fld pb 1 1 == 2 && [fld pb 12 1, fld pb 13 1].any fun x => match s.table? x with | some t => t.destroy.isSome | none => false)
    || (op = 0x0804 && s.sch.evac.isSome)
    || (op = 0x0401 && bit (fld pb 3 1) 2 && (match s.index? (fld pb 0 1) with | some x => !x.waiting.isEmpty || !x.loads.isEmpty | none => false))
    || (op = 0x0401 && (List.range (fld pb 28 1)).any fun i => match s.table? (fld pb (48 + 3 * i) 1) with | some t => t.destroy.isSome | none => false)
    || s.porch.waiting.any fun c => c.blocks op h pb
/-- May the porch fetch a further command of the queue pair (R302 to R305, R307)? -/
def Qp.cqRoom (q : Qp) : Bool := decide (q.cqTail - q.cqHead + q.inFlight + 1 < q.runCq)
def Qp.mayFetch (q : Qp) : Bool := q.active && q.en && !q.stopped && q.cqRoom
/-- A row's command as the porch has fetched it: it reserves its CQ entry, then waits or is admitted by `f`. -/
def State.fetched (s : State) (op : Nat) (h : Hdr) (pb : Bytes) (f : Hdr → State → State) : State :=
  let k := qpKey h.fn h.qp
  if !(s.qp k).mayFetch || s.departed || (h.flags.getLsbD 1 && (s.qp k).inFlight != 0) then s
  else
    let s := s.onQp k fun q => { q with inFlight := q.inFlight + 1 }
    let h := { h with run := (s.qp k).runs }
    if s.mustWait op h pb then s.onPorch fun p => { p with waiting := p.waiting ++ [{ op := BitVec.ofNat 16 op, h := h, pb := pb }] }
    else f h s

end Sys2Proof.Machine
end

