-- ==== Sys2Proof/Machine/Images.lean ====
section
/-! DEFINITION. Images: packed-block frames (R110, R111), verification of model images (R83 to R103, R418, R443), firmware images (R410, R411),
and the system area's copies (R368). -/

namespace Sys2Proof.Machine

/-! ## Packed-block frames -/

/-- First code of each length of a canonical prefix code, with the symbols of that length: lengths 1 to 15 (RFC 1951 section 3.2.2). -/
def canonTable (lens : List Nat) : Nat → Nat → Nat → List (Nat × List Nat)
  | 0, _, _ => []
  | fuel + 1, len, code =>
    let syms := ((enum lens).filter fun x => x.2 == len).map Prod.fst
    (code, syms) :: canonTable lens fuel (len + 1) ((code + syms.length) * 2)
/-- Do the lengths form a complete code, or a single symbol of length 1? -/
def codeComplete (lens : List Nat) : Bool :=
  sumNat (lens.map fun l => if l = 0 then 0 else 2 ^ (15 - l)) == 2 ^ 15 || lens.filter (· ≠ 0) == [1]
/-- One symbol from the bits at `pos`: the symbol and the position after it. -/
def symAt (bitsAt : Nat → Bool) (stop : Nat) : List (Nat × List Nat) → Nat → Nat → Option (Nat × Nat)
  | [], _, _ => none
  | (first, syms) :: l, pos, code =>
    if stop ≤ pos then none
    else
      let code := 2 * code + boolNat (bitsAt pos)
      match if first ≤ code then syms[code - first]? else none with
      | some x => some (x, pos + 1)
      | none => symAt bitsAt stop l (pos + 1) code
/-- `n` symbols. -/
def symbols (bitsAt : Nat → Bool) (stop : Nat) (tbl : List (Nat × List Nat)) : Nat → Nat → Option (List Nat)
  | 0, _ => some []
  | n + 1, pos =>
    match symAt bitsAt stop tbl pos 0 with
    | none => none
    | some (x, pos) => (symbols bitsAt stop tbl n pos).map fun l => x :: l
/-- Symbols packed in emission order from bit 0 (R40, R111 item 4). -/
def packSyms (w : Nat) (l : List Nat) : Nat := l.foldr (fun x acc => acc * 2 ^ w + x) 0
/-- A frame's decoded bytes, where the frame obeys Table 5.5 and R111. -/
def frameDecode (f : Bytes) : Option Bytes :=
  let raw := bits (fld f 0 2) 13 0 + 1
  let mode := fld f 2 1
  let sb := fld f 3 1
  let pl := fld f 4 2
  if !(f.length == 4096 && decide (fld f 0 2 < 16384) && fld f 6 2 == 0 && fld f 12 4 == 0) then none
  else if mode = 0 then
    if sb = 0 && raw ≤ 4080 && pl = raw && allZero (f.drop (16 + pl)) then some (slice f 16 raw) else none
  else if mode = 1 && (sb = 4 || sb = 6 || sb = 8) then
    let tl := 2 ^ sb / 2
    let lens := (List.range (2 ^ sb)).map fun i => bits (fld f (16 + i / 2) 1) (4 * (i % 2) + 3) (4 * (i % 2))
    if !(decide (16 + tl + pl ≤ 4096) && allZero (f.drop (16 + tl + pl)) && codeComplete lens && (sb ≠ 6 || raw % 24 = 0)) then none
    else
      let payloadBits := leNat (slice f (16 + tl) pl)
      (symbols (bit payloadBits) (8 * pl) (canonTable lens 15 1 0) (raw * 8 / sb) 0).map fun l => leBytes raw (packSyms sb l)
  else none
/-- Does a decoded frame match its CHECK (R112)? -/
def frameCheck (f out : Bytes) : Bool := (crc32c out).toNat == fld f 8 4
/-- Consecutive frames, each decoded. -/
def framesDecode : List Bytes → Option (List Bytes)
  | [] => some []
  | f :: l => match frameDecode f, framesDecode l with
    | some a, some b => some (a :: b)
    | _, _ => none
/-- Does a decoded frame straddle the place `split` of its tensor's data, the frames following one another from `pos` (R110)? -/
def straddles (split : Nat) : Nat → List Bytes → Bool
  | _, [] => false
  | pos, f :: l => (decide (pos < split) && decide (split < pos + f.length)) || straddles split (pos + f.length) l

/-! ## Instruction words (R83, R13) -/

def Wd.at_ (w : Insn) (hi lo : Nat) : Nat := bits w.toNat hi lo
/-- Pass class of two formats (R45): 4, 8 or 16. -/
def passClass (a b : Nat) : Nat :=
  if a = 1 || a = 2 || b = 1 || b = 2 then 16 else if (a = 9 || a = 11) && (b = 9 || b = 11) then 4 else 8
def engFmt (c : Nat) : Bool := 1 ≤ c && c ≤ 11
/-- Every code of an instruction is one its map defines, and its reserved fields are 0. A format field its operation ignores is not checked (assumption 142). -/
def insnOk (w : Insn) : Bool :=
  let f := Wd.at_ w
  let op := f 123 120
  match f 127 124 with
  | 1 => decide (op ≤ 2) && f 16 0 == 0
  | 2 => op == 0 && engFmt (f 115 112) && f 43 0 == 0 && f 119 116 != 0
  | 3 => decide (op ≤ 3) && (if op = 0 then decide (f 119 112 ≤ 0x0C) else decide (0x10 ≤ f 119 112) && decide (f 119 112 ≤ 0x12)) && fmtValid (f 111 108)
      && (op == 1 || op == 3 || fmtValid (f 107 104)) && (!bit w.toNat 43 || (decide (f 55 44 < 128) && f 111 108 == 0)) && f 16 0 == 0
  | 4 => decide (op ≤ 7) && fmtValid (f 119 116) && (decide (5 ≤ op) || fmtValid (f 115 112)) && fmtValid (f 111 108) && f 29 28 != 3 && f 9 0 == 0
  | 5 => decide (op ≤ 1) && (op == 1 || decide (f 119 116 ≤ 5))
  | 6 => decide (op ≤ 3) && f 57 0 == 0
  | 7 => decide (op ≤ 10) && decide (f 107 105 ≤ 4) && f 104 96 == 0 && f 31 0 == 0 && (op != 2 || decide (f 95 64 < 64))
      && ((op != 6 && op != 7) || (decide (1 ≤ f 63 32) && decide (f 63 32 ≤ 4096)))
  | 8 => op == 0 && f 23 0 == 0
  | _ => false
/-- Loop bodies of a program: first and last instruction (R94). -/
def loopBodies (l : List Insn) : List (Nat × Nat) :=
  ((enum l).filter fun x => Wd.at_ x.2 127 124 == 7 && (Wd.at_ x.2 123 120 == 6 || Wd.at_ x.2 123 120 == 7)).map fun x => (x.1 + 1, x.1 + Wd.at_ x.2 63 32)
def innermost (bs : List (Nat × Nat)) (i : Nat) : Option (Nat × Nat) :=
  (bs.filter fun b => decide (b.1 ≤ i) && decide (i ≤ b.2)).getLast?
/-- A signed 32-bit immediate. -/
def imm32 (n : Nat) : Int := if n < 2 ^ 31 then n else (n : Int) - 2 ^ 32
/-- The rules of R94 over a program. -/
def loopsOk (l : List Insn) : Bool :=
  let bs := loopBodies l
  decide (l.length ≤ 16384)
    && bs.all (fun b => decide (b.2 < l.length)
        && bs.all (fun o => !(decide (o.1 ≤ b.1 - 1) && decide (b.1 - 1 ≤ o.2)) || decide (b.2 ≤ o.2))
        && decide ((bs.filter fun o => decide (o.1 ≤ b.1 - 1) && decide (b.1 - 1 ≤ o.2)).length < 4))
    && (enum l).all fun x =>
        if Wd.at_ x.2 127 124 = 7 && Wd.at_ x.2 123 120 = 8 then
          let t := (x.1 : Int) + 1 + imm32 (Wd.at_ x.2 95 64)
          decide (0 ≤ t) && decide (t < l.length) && innermost bs t.toNat == innermost bs x.1
        else true
/-- The checks of R87 on a tile-group record. -/
def tileGroupOk (emask afmt : Nat) (rec : Bytes) : Bool :=
  let es := (List.range 4).filter fun e => bit emask e
  let cls := es.map fun e => passClass afmt (bits (fld rec (16 * e + 8) 1) 3 0)
  !es.isEmpty && es.all (fun e => engFmt (bits (fld rec (16 * e + 8) 1) 3 0)) && cls.all fun c => some c == cls.head?

/-! ## Model images (R100 to R103, R443) -/

/-- Sections of an image: type, offset, length. -/
def sections (img : Bytes) : List (Nat × Nat × Nat) :=
  (List.range (fld img 10 2)).map fun i => let o := fld img 24 8 + 32 * i; (fld img o 2, fld img (o + 8) 8, fld img (o + 16) 8)
def imgPart? (img : Bytes) (t : Nat) : Bytes :=
  match (sections img).find? fun x => x.1 == t with
  | some x => slice img x.2.1 x.2.2
  | none => []
/-- The header's own rules. -/
def headerOk (img : Bytes) : Bool :=
  let k := fld img 8 1
  fld img 0 4 == 0x494D5946 && fld img 4 2 == 1 && fld img 6 2 == 256 && decide (1 ≤ k) && decide (k ≤ 6) && decide (fld img 9 1 ≤ 1)
    && decide (1 ≤ fld img 10 2) && decide (fld img 10 2 ≤ 64) && fld img 12 4 == 0 && fld img 16 8 == img.length && decide (256 ≤ img.length)
    && (k == 3 || fld img 144 8 == 0) && decide (1 ≤ fld img 156 4) && decide (fld img 156 4 ≤ 262144) && decide (1 ≤ fld img 160 4)
    && decide (fld img 160 4 ≤ 32768) && fld img 166 2 == 0 && decide (fld img 172 4 ≤ 4096) && (k == 4) == (fld img 172 4 != 0)
    && allZero (slice img 176 80) && (bit (fld img 9 1) 0 || allZero (slice img 64 64))
/-- The section table's rules (R100, R102): it follows the header, and sections overlap neither the two nor one another. -/
def sectionsOk (img : Bytes) : Bool :=
  let o := fld img 24 8
  let n := fld img 10 2
  let ss := sections img
  decide (256 ≤ o) && decide (o + 32 * n ≤ img.length)
    && ss.all (fun x => x.2.2 == 0 || (decide (256 ≤ x.2.1) && (decide (x.2.1 + x.2.2 ≤ o) || decide (o + 32 * n ≤ x.2.1))))
    && (List.range n).all (fun i =>
        let e := o + 32 * i
        decide (fld img (e + 2) 1 ≤ 1) && allZero (slice img (e + 3) 5) && allZero (slice img (e + 24) 8) && fld img (e + 8) 8 % 4096 == 0
          && (!bit (fld img (e + 2) 1) 0 || (decide (1 ≤ fld img e 2) && decide (fld img e 2 ≤ 8))))
    && ss.all (fun x => decide (x.2.1 + x.2.2 ≤ img.length))
    && (enum ss).all fun x => (enum ss).all fun y => x.1 == y.1 || decide (x.2.2.1 + x.2.2.2 ≤ y.2.2.1) || decide (y.2.2.1 + y.2.2.2 ≤ x.2.2.1)
        || x.2.2.2 == 0 || y.2.2.2 == 0
def imageDigest (img : Bytes) : BitVec 256 := sm3 (img.take 32 ++ List.replicate 104 0 ++ img.drop 136)

/-- The core programs of a PROGRAMS section (Table 4.17). -/
def parseProgs : Nat → Bytes → Option (List Prog)
  | 0, b => if b.isEmpty then some [] else none
  | fuel + 1, b =>
    if b.isEmpty then some []
    else
      let n := fld b 4 4
      if !(decide (1 ≤ n) && decide (n ≤ 16384) && decide (64 + 16 * n ≤ b.length) && decide (fld b 8 1 ≤ 1) && decide (1 ≤ fld b 9 1)
          && decide (fld b 9 1 ≤ 32) && allZero (slice b 20 44)) then none
      else
        let ins := (pieces 16 (slice b 64 (16 * n))).map fun x => BitVec.ofNat 128 (leNat x)
        (parseProgs fuel (b.drop (64 + 16 * n))).map fun l =>
          ({ id := fld b 0 4, lat := fld b 8 1, cores := fld b 9 1, segBase := fld b 10 2, constOff := fld b 12 4, constLen := fld b 16 4, insns := ins } : Prog) :: l
/-- A SEGMENTS entry: the spec names its fields in order and gives no offsets; bytes 0 space, 1 peer position, 4–7 extent, 8–11 tensor bound
(0: a buffer). -/
def parseSegsI (b : Bytes) : List (Nat × Nat × Nat × Nat) := (pieces 16 b).map fun x => (fld x 0 1, fld x 1 1, fld x 4 4, fld x 8 4)
/-- LAUNCH entries: 64 bytes, 0–3 launch kind, 4–7 PROG_ID, then the core count and the sources of words 16–63 (no offsets given either). -/
def parseLaunch (b : Bytes) : List (Nat × Nat) := (pieces 64 b).map fun x => (fld x 0 4, fld x 4 4)
def progOk (consts : Bytes) (nSegs : Nat) (p : Prog) : Bool :=
  p.insns.all insnOk && loopsOk p.insns && decide (p.segBase + 16 ≤ nSegs) && decide (p.constOff + p.constLen ≤ consts.length) && decide (p.constLen ≤ 0xC00000)
    && p.insns.all fun w => Wd.at_ w 127 124 != 2 || decide (p.constLen < 64 * Wd.at_ w 78 61 + 128)
        || tileGroupOk (Wd.at_ w 119 116) (Wd.at_ w 115 112) (slice consts (p.constOff + 64 * Wd.at_ w 78 61) 128)

/-- A tensor's data, as stored and decoded (Table 4.18, R103, R110, R111); `none` where a rule is broken. -/
def tensorOf (weights : Bytes) (layouts : List Bytes) (e : Bytes) : Option (Nat × Bytes × Bytes) :=
  let rank := fld e 5 1
  let dk := fld e 6 1
  let dim := fun i => fld e (8 + 4 * i) 4
  let off := fld e 32 8
  let len := fld e 40 8
  let st := slice weights off len
  let ok := fmtValid (fld e 4 1) && decide (1 ≤ rank) && decide (rank ≤ 4) && decide (dk ≤ 3) && fld e 7 1 == 0 && allZero (slice e 57 7)
    && (List.range 4).all (fun i => decide (1 ≤ dim i) && (decide (i < rank) || dim i == 1)) && decide (fld e 24 4 < layouts.length)
    && decide (fld e 56 1 ≤ 1) && decide (off + len ≤ weights.length)
    && (dk == 0 || dk == 3 || decide (min (dim 0) (dim 1) ≤ 256)) && (dk != 3 || fld e 4 1 == 9)
  if !ok then none
  else if fld e 56 1 = 0 then (if len = fld e 48 8 then some (fld e 0 4, st, st) else none)
  else if len % 4096 ≠ 0 then none
  else match framesDecode (pieces 4096 st) with
    | some fs =>
      let lay := (layouts[fld e 24 4]?).getD []
      if fs.flatten.length = fld e 48 8 && !(fld lay 12 4 != 0 && straddles (fld lay 24 4) 0 fs) then some (fld e 0 4, st, fs.flatten) else none
    | none => none
def tensorsOf (weights : Bytes) (layouts : List Bytes) : List Bytes → Option (List (Nat × Bytes × Bytes))
  | [] => some []
  | e :: l => match tensorOf weights layouts e, tensorsOf weights layouts l with
    | some t, some ts => some (t :: ts)
    | _, _ => none
def layoutOk (e : Bytes) : Bool :=
  (fld e 0 2 == 128 || fld e 0 2 == 256) && fld e 2 2 == 128 && decide (fld e 4 1 ≤ 1) && allZero (slice e 5 3) && allZero (slice e 28 4)
def fmtClass (c : Nat) : Nat := if c = 1 || c = 2 || c = 0 then 16 else if c = 9 || c = 11 then 4 else 8

/-- The contents of an image past its header and signature: the model, where every rule holds. -/
def parseImage (img : Bytes) : Option Model :=
  let consts := imgPart? img 5
  let segs := imgPart? img 7
  let tt := pieces 64 (imgPart? img 2)
  let lay := pieces 32 (imgPart? img 3)
  let tiers := pieces 8 (imgPart? img 4)
  let launch := parseLaunch (imgPart? img 8)
  match parseProgs (img.length / 64) (imgPart? img 1), tensorsOf (imgPart? img 6) lay tt with
  | some progs, some ts =>
    let ok := sectionsOk img && (imgPart? img 2).length % 64 == 0 && (imgPart? img 3).length % 32 == 0 && segs.length % 16 == 0
      && (imgPart? img 8).length % 64 == 0 && lay.all layoutOk
      && progs.all (progOk consts (segs.length / 16)) && (dedup (progs.map fun p => p.id)).length == progs.length
      && (dedup (ts.map Prod.fst)).length == ts.length && (parseSegsI segs).all (fun x => decide (x.1 ≤ 7) && decide (x.2.1 ≤ 31))
      && (tiers.isEmpty || (imgPart? img 4).length == 8 * ts.length) && tiers.all (fun x => decide (fld x 0 1 ≤ 5) && allZero (slice x 4 4))
      && launch.all fun l => decide (1 ≤ l.1) && decide (l.1 ≤ 6) && progs.any fun p => p.id == l.2
    if !ok then none
    else
      let pos := tiers.map fun x => fld x 1 2
      let sizes := (dedup pos).map fun p => sumNat (((pos.zip ts).filter fun x => x.1 == p).map fun x => x.2.2.2.length)
      let hints := tiers.map fun x => fld x 0 1
      let total := sumNat (ts.map fun t => t.2.2.length)
      let dims := tt.map fun e => (List.range 4).foldl (fun a i => a * fld e (8 + 4 * i) 4) 1
      let afmts := progs.flatMap fun p => (p.insns.filter fun w => Wd.at_ w 127 124 == 2).map fun w => fmtClass (Wd.at_ w 115 112)
      let wfmts := (tt.filter fun e => decide (2 ≤ fld e 5 1)).map fun e => fmtClass (fld e 4 1)
      some { imageLen := img.length, modelId := BitVec.ofNat 64 (fld img 136 8), kind := fld img 8 1, baseId := BitVec.ofNat 64 (fld img 144 8),
             vocabCheck := BitVec.ofNat 32 (fld img 152 4), vocabSize := fld img 156 4, maxContext := fld img 160 4, layerGroups := fld img 164 2,
             kvBytes := fld img 168 4, outDim := fld img 172 4, params := sumNat dims, passClass := max 4 (maxNat (afmts ++ wfmts)),
             stored := sumNat (ts.map fun t => t.2.1.length), decoded := total, layers := max 1 sizes.length,
             layerBytes := if sizes.isEmpty then total else maxNat sizes,
             hint := if hints.contains 2 then 2 else if hints.contains 3 then 3 else hints.headD 1,
             distance := max 1 (maxNat (tiers.map fun x => fld x 3 1)), progs := progs, segs := parseSegsI segs, consts := consts, tensors := ts,
             launch := launch }
  | _, _ => none

/-- The public key of a key slot: x ‖ y (Table 17.12). -/
def slotKey (s : State) (k : Nat) : Bytes := (List.range 16).flatMap fun w => leBytes 4 (KMap.getD s.boot.keys (16 * k + w) 0).toNat
def bits512 (b : Bytes) : BitVec 512 := BitVec.ofNat 512 (beNat b)
/-- Signature check of R418. -/
def State.imageSigned (s : State) (img : Bytes) : Bool :=
  if bit (fld img 9 1) 0 then
    (List.range 16).any fun k => bit s.boot.imgPolicy.toNat k && (digestBytes (sm3 (slotKey s k))).take 8 == slice img 128 8
      && Config.sm2Verify (bits512 (slotKey s k)) (BitVec.ofNat 256 (beNat (slice img 32 32))) (bits512 (slice img 64 64))
  else !bit s.boot.imgPolicy.toNat 16
/-- Verification of a whole image (R100, R418): a status and DETAIL, or the model. -/
def State.verifyImage (s : State) (img : Bytes) : Fail ⊕ Model :=
  if !headerOk img then .inl (stParam, 0xFFF2)
  else if digestBytes (imageDigest img) != slice img 32 32 then .inl (stAuth, 0)
  else if !s.imageSigned img then .inl (stAuth, 0)
  else match parseImage img with
    | some m => .inr m
    | none => .inl (stParam, 0xFFF2)

/-! ## The system area (R368) -/

/-- Is there room for an image copy of `n` bytes? -/
def State.sysRoom (s : State) (n : Nat) : Bool := decide (s.cel.sysUsed + Config.sysShared.val + n ≤ Config.systemBytes s.ident.variant)
def State.sysAdd (s : State) (n : Nat) : State := s.onCel fun c => { c with sysUsed := c.sysUsed + n }
def State.sysSub (s : State) (n : Nat) : State := s.onCel fun c => { c with sysUsed := c.sysUsed - n }

/-! ## Firmware images (R410, R411) -/

def fwDigest (img : Bytes) : BitVec 256 := sm3 (img.take 32 ++ List.replicate 96 0 ++ img.drop 128)
/-- Verification of a firmware image under R411 against a fused SVN. -/
def fwVerify (fused : Nat) (img : Bytes) : Fail ⊕ FwImage :=
  let ok := fld img 0 4 == 0x57465946 && fld img 4 2 == 1 && fld img 6 2 == 256 && allZero (slice img 13 3) && fld img 16 8 == img.length
    && decide (256 ≤ img.length) && decide (img.length ≤ 67108864) && allZero (slice img 24 8) && allZero (slice img 136 120) && decide (fld img 12 1 ≤ 64)
    && decide (1 ≤ fld img 132 4) && decide (fld img 132 4 ≤ 4096) && decide (fld img 128 4 + fld img 132 4 ≤ img.length)
  if !ok then .inl (stParam, 0xFFF2)
  else
    let d := fwDigest img
    let good := digestBytes d == slice img 32 32 && (match Config.certKey (slice img (fld img 128 4) (fld img 132 4)) with
      | some k => Config.sm2Verify k d (bits512 (slice img 64 64))
      | none => false) && decide (fused ≤ fld img 12 1)
    if good then .inr { version := BitVec.ofNat 32 (fld img 8 4), svn := fld img 12 1, digest := d, bytes := img } else .inl (stAuth, 0)
/-- R411 again, of an image the device verified when it took it (at manufacture or by fw.stage): its bytes are what they were, so only the fused SVN
may have risen past it. -/
def FwImage.passes (fused : Nat) (x : FwImage) : Bool := decide (fused ≤ x.svn)

end Sys2Proof.Machine
end

