-- ==== Sys2Proof/Machine/Flags.lean ====
section
/-! DEFINITION. The status fields and registers: what each register of Table 12.5, 14.6, 15.14, 17.8 and the CLK window reads (R17, R300),
the request table's entries (Table 9.2), and the information words the commands report. -/

namespace Sys2Proof.Machine

/-- A word from (value, lowest bit) fields. -/
def packWord (l : List (Nat × Nat)) : Nat := sumNat (l.map fun x => x.1 * 2 ^ x.2)

/-! ## GLB -/

/-- `GLB_IDENT` (Table 12.6). -/
def glbIdent (s : State) (vf : Bool) : Nat :=
  packWord [(0x4800, 16), (s.ident.stepping.toNat, 8), (boolNat vf, 4), ((Config.variantCode s.ident.variant).toNat, 0)]
/-- `GLB_STATUS` (Table 12.7). -/
def glbStatus (s : State) : Nat := packWord [(boolNat s.degraded, 2), (boolNat s.boot.recovery, 1), (boolNat s.service, 0)]
/-- `GLB_SERVICE` (Table 18.9). -/
def glbService (s : State) : Nat :=
  packWord [(boolNat s.svc.locate, 5), (boolNat s.svc.latchOpen, 4), (boolNat s.svc.button, 3), (boolNat s.svc.surprise, 2), (s.svc.removal.toNat, 0)]
/-- A queue-pair register at an offset of Table 12.8; the size fields read the latched values while EN is 1. -/
def qpReg (q : Qp) (off : Nat) : Nat :=
  match off with
  | 0x00 => q.sqb.toNat % 2 ^ 32
  | 0x04 => q.sqb.toNat / 2 ^ 32
  | 0x08 => q.cqb.toNat % 2 ^ 32
  | 0x0C => q.cqb.toNat / 2 ^ 32
  | 0x10 => q.orb.toNat % 2 ^ 32
  | 0x14 => q.orb.toNat / 2 ^ 32
  | 0x18 => packWord [(boolNat q.en, 31), (q.orLog2.toNat, 10), (q.cqLog2.toNat, 5), (q.sqLog2.toNat, 0)]
  | 0x1C => packWord [(q.orVec.toNat, 16), (q.cqVec.toNat, 8), (q.orCoal.toNat, 4), (q.cqCoal.toNat, 0)]
  | 0x20 => packWord [(boolNat q.active, 7), (boolNat q.orSpill, 4), (boolNat q.badCfg, 3), (boolNat q.badDb, 2), (boolNat q.badDma, 1), (boolNat q.stopped, 0)]
  | _ => 0

/-! ## PWR and CLK -/

/-- Effective core clock in MHz (R391, R393): 75 MHz a step below 1,200. -/
def coreMhz (w : Pwr) : Nat := 1200 - 75 * w.steps
/-- State code of a domain (Table 16.2). -/
def domCode : DomState → Nat
  | .off => 0
  | .sleep => 1
  | .on => 2
  | .changing => 3
def pwrDomSt (s : State) (n : Nat) : Nat := packWord ((List.range 16).map fun j => (if 16 * n + j < 57 then domCode (s.dom (16 * n + j)) else 0, 2 * j))
/-- `PWR_CAP_STAT` (Table 16.7). -/
def pwrCapStat (s : State) : Nat :=
  let w := s.pwr
  packWord [(boolNat w.thermHold, 18), (boolNat w.pwrHold, 17), (boolNat (!w.tripN), 16), (w.floor, 12), (w.therm, 8), (w.cap, 4), (w.steps, 0)]
def clkLockLo (s : State) : Nat := packWord ((List.range 32).map fun n => (boolNat (s.core n).pllLocked, n))
/-- `CLK_PLL_LOCK_HI` (Table 16.11): a PLL outside the cores is locked while its domain is on. -/
def clkLockHi (s : State) : Nat :=
  let on := fun d => boolNat (s.dom d == .on)
  packWord [(max (on 2) (on 3), 11), (on 4, 10), (on 6, 9), (on 5, 8), (boolNat (s.core 33).pllLocked, 1), (boolNat (s.core 32).pllLocked, 0)]

/-! ## SCH -/

/-- The partition a core belongs to (Table 2.6). -/
def State.partOf (s : State) (c : Nat) : Option Nat := (s.sch.parts.find? fun p => p.2.cores.contains c).map Prod.fst
/-- `SCH_CORE_STATEnn` (Table 2.6). -/
def schCoreState (s : State) (c : Nat) : Nat :=
  let k := s.core c
  let p := s.partOf c
  packWord [(boolNat p.isSome, 12), (p.getD 0, 8), (k.fenced.toNat, 4), (boolNat k.lat, 3), (k.state.toNat, 0)]
/-- `SCH_PART_CFGnn` (Table 9.1). -/
def schPartCfg (s : State) (p : Nat) : Nat := let x := s.part p; packWord [(x.quota, 7), (boolNat x.raw, 6), (x.cores.length, 0)]
/-- Is work of a request left to wait while an item of it runs: more prompt, more pairs, more heads than the item takes? -/
def State.leftOver (s : State) (it : Item) : Bool :=
  match s.req? it.slot with
  | none => false
  | some r => match it.kind with
    | .prefill => decide (it.pos + it.tokens < r.prompt.length)
    | .rebuild => decide (it.pos + it.tokens < r.total)
    | .pairs => decide (it.seqs < (r.passages.filter fun x => !x.dropped && x.logit.isNone).length)
    | .heads => decide (it.seqs < (r.passages.filter fun x => !x.dropped && x.head.isNone).length)
    | _ => false
/-- Requests with a waiting item: one not in the step that runs, or with work left beside its item of that step (DEDUCED, log). -/
def State.waitingWork (s : State) (p : Nat) : List Work :=
  let items := match (s.part p).run with | some r => r.items | none => []
  (s.workOf p).filter fun w => match items.find? fun i => i.slot == w.slot with | some it => s.leftOver it | none => true
/-- `SCH_PART_STATnn` (Table 9.6). -/
def schPartStat (s : State) (p : Nat) : Nat :=
  let x := s.part p
  let urg := (s.waitingWork p).any (fun w => w.urgent) || s.urgentFetch p
  let dec := (s.sch.slots.filter fun r => r.2.part.val == p && (r.2.state == .decode || r.2.state == .pageWait)).length
  packWord [(boolNat x.floorOk, 31), (boolNat urg, 30), (dec, 14), ((s.waitingWork p).length, 0)]
/-- An entry of `SCH_REQ_TABLE` as it reads (R222): as it was last updated; generation 0 before the slot was ever allocated. -/
def reqEntry (s : State) (slot : Nat) : Bytes := KMap.getD s.sch.entries slot (leBytes 4 slot ++ List.replicate 28 0)

/-! ## MEM -/

/-- `MEM_HBM_FREE` and `MEM_ATT_FREE` (Table 5.2). -/
def memHbmFree (s : State) : Nat := Config.hbmGran - s.mem.hbmUsed
def memAttFree (s : State) : Nat := Config.attGran - s.mem.attUsed - s.mem.attRetired
/-- A regulator register (Table 5.8). -/
def regWord (r : Regulator) : Nat := packWord [(boolNat r.en, 31), (boolNat r.borrow, 30), (r.share.toNat, 19), (r.depth.toNat, 3)]

/-! ## CEL, FAB, RAS, SEC, BBX -/

/-- `CEL_CTRL_STATEn` (Table 11.7). A rebuild runs once it has its claims; the sixteenth lost channel of a controller shows as 0 under STATE 2. -/
def celCtrlState (s : State) (n : Nat) : Nat :=
  let c := s.cel
  let failed := (c.dies.filter fun d => d.1 / 64 == n && d.2.failed).length
  let chans := (c.lostChan.filter fun x => x.1 / 16 == n).length
  let lost := (c.lostCtrl[n]?).getD false || decide (16 ≤ chans)
  let act := fun (k : ActKind) (u : Bool) => c.acts.any fun a => a.kind == k && a.die / 64 == n && (!u || c.urgent s.ident.variant a)
  packWord [(failed, 16), (chans % 16, 12), (boolNat (act .gc true), 11), (boolNat (act .fold true), 10), (boolNat (c.acts.any fun a => a.kind == .rebuild && a.claimed && a.die / 64 == n), 9),
            (boolNat (cellarLoss c), 8), (if lost then 2 else if failed > 0 || chans > 0 then 1 else 0, 0)]
/-- `FAB_PORT_STATEn` (Table 14.9). -/
def fabPortState (s : State) (n : Nat) : Nat :=
  let p := s.port n
  packWord [(p.peer.toNat, 16), (p.retrains.toNat, 8), (boolNat p.authFail, 4), (boolNat p.half, 3), (boolNat p.spared, 2), (boolNat p.auth, 1), (boolNat p.up, 0)]
/-- `FAB_MIRROR` (Table 14.8). -/
def fabMirror (s : State) : Nat := packWord [(s.fab.mirrors.length, 16), ((s.sch.slots.filter fun x => x.2.mirrored && !x.2.mirrorBad).length, 0)]
/-- Spare cores healthy and assigned to no partition (Table 15.8). -/
def spareCores (s : State) : Nat := ((List.range 34).filter fun c => !s.cores.isEmpty && (s.core c).state == 0 && (s.partOf c).isNone).length
/-- `RAS_SPARES` (Table 15.8): a phase that failed used a spare while one was left. -/
def rasSpares (s : State) : Nat :=
  packWord [(s.ras.hbmSpent.toNat, 20), (boolNat (s.ras.hbmRebuild != 0), 19), (min 2 (countBits 18 fun i => s.pwr.failed.getLsbD i), 16),
            (boolNat s.fab.spareB.isSome, 15), (boolNat s.fab.spareA.isSome, 14), (min 2 (spareCores s), 0)]
def rasAttRemap (s : State) (n : Nat) : Nat := packWord [(KMap.getD s.ras.retired n 0, 18), (KMap.getD s.ras.lines n 0, 0)]
/-- `SEC_BOOT` (Table 17.9). -/
def secBoot (s : State) : Nat := packWord [(boolNat s.boot.hold, 31), (s.boot.skipped.toNat, 21), (s.boot.alt.toNat, 11), (s.boot.step, 0)]
/-- `SEC_SVN` (Table 17.10). -/
def secSvn (s : State) : Nat :=
  packWord [(s.boot.svnRunning, 16), (match s.boot.staged with | some i => i.svn | none => 0, 8), (s.boot.svnFused, 0)]
/-- `BBX_SEALED` (Table 15.16). -/
def bbxSealed (s : State) : Nat := packWord [(s.bbx.lost.toNat, 16), (s.bbx.sealedN, 0)]

/-! ## The windows -/

/-- Register i of a numbered register at `base` with `n` instances. -/
def inst (off base n : Nat) : Option Nat := if base ≤ off && off < base + 4 * n then some ((off - base) / 4) else none
/-- First match of a list of (base, instances, value). -/
def lookupReg (off : Nat) : List (Nat × Nat × (Nat → Nat)) → Option Nat
  | [] => none
  | (b, n, f) :: l => match inst off b n with | some i => some (f i) | none => lookupReg off l
def glbRegs (s : State) (fn off : Nat) : Option Nat :=
  if 0x10000 ≤ off && off < 0x10000 + 64 * 0x40 then some (qpReg (s.qp (64 * fn + (off - 0x10000) / 0x40)) ((off - 0x10000) % 0x40))
  else if off = 0x000C && fn ≠ 0 then none
  else lookupReg off [(0, 1, fun _ => glbIdent s (fn ≠ 0)), (4, 1, fun _ => 1), (8, 1, fun _ => glbStatus s), (0xC, 1, fun _ => glbService s)]
def pwrRegs (s : State) (off : Nat) : Option Nat :=
  lookupReg off [(0, 1, fun _ => s.pwr.droopCfg.toNat), (0x100, 34, fun i => (s.core i).droops.toNat), (0x200, 4, fun i => pwrDomSt s i),
    (0x300, 1, fun _ => s.pwr.capCfg.toNat), (0x304, 1, fun _ => pwrCapStat s), (0x308, 1, fun _ => s.pwr.thermCfg.toNat), (0x30C, 1, fun _ => s.pwr.failed.toNat)]
def clkRegs (s : State) (off : Nat) : Option Nat := lookupReg off [(0, 1, fun _ => clkLockLo s), (4, 1, fun _ => clkLockHi s), (8, 1, fun _ => coreMhz s.pwr)]
def schRegs (s : State) (off : Nat) : Option Nat :=
  lookupReg off [(0, 34, fun i => schCoreState s i), (0x100, 16, fun i => schPartCfg s i), (0x140, 16, fun i => ((s.part i).schedNew.getD (s.part i).sched).toNat),
    (0x180, 16, fun i => schPartStat s i), (0x1C0, 16, fun i => (s.part i).lastStep.toNat % 2 ^ 32), (0x200, 16, fun i => (s.part i).stepHiLatch.toNat),
    (0x240, 16, fun i => (s.part i).cyc.toNat)]
def memRegs (s : State) (off : Nat) : Option Nat :=
  let reg := fun (k i : Nat) => match (s.part i).regs[k]? with | some r => regWord r | none => 0
  lookupReg off [(0, 1, fun _ => Config.hbmGran), (4, 1, fun _ => memHbmFree s), (8, 1, fun _ => Config.attGran), (0xC, 1, fun _ => memAttFree s),
    (0x100, 16, fun i => ((s.part i).pagerNew.getD (s.part i).pager).toNat), (0x140, 16, reg 0), (0x180, 16, reg 1), (0x1C0, 16, reg 2), (0x200, 16, reg 3),
    (0x240, 16, fun i => (s.part i).slow.toNat), (0x280, 16, fun i => (s.part i).stallObs.toNat), (0x2C0, 16, fun i => (s.part i).stallInt.toNat)]
def retRegs (s : State) (off : Nat) : Option Nat :=
  let ix := fun (f : Index → Nat) (i : Nat) => match s.index? i with | some x => f x | none => 0
  lookupReg off [(0, 64, ix fun x => x.seq.toNat % 2 ^ 32), (0x100, 64, ix fun x => x.seqHiLatch.toNat), (0x200, 64, ix fun x => x.overruns.toNat),
    (0x300, 1, fun _ => s.mudUsed), (0x304, 1, fun _ => s.tombUsed), (0x308, 1, fun _ => s.ret.hotCfg.toNat)]
def tblRegs (s : State) (off : Nat) : Option Nat := lookupReg off [(0, 1, fun _ => s.tbl.hotCfg.toNat), (4, 1, fun _ => s.tbl.reclaimWait.toNat)]
def txtRegs (s : State) (off : Nat) : Option Nat :=
  let bitsOf := fun (ks : List Nat) => sumNat (ks.map fun k => 2 ^ k)
  lookupReg off [(0, 1, fun _ => 1 + bitsOf (KMap.keys s.sch.vocabs)), (4, 1, fun _ => bitsOf ((KMap.keys s.sch.grammars).filter (· < 32))),
    (8, 1, fun _ => bitsOf (((KMap.keys s.sch.grammars).filter (32 ≤ ·)).map (· - 32))), (0xC, 1, fun _ => s.sch.sampleAnom.toNat)]
def celRegs (s : State) (off : Nat) : Option Nat :=
  lookupReg off [(0, 1, fun _ => Config.dataPages s.ident.variant), (4, 1, fun _ => s.cel.gcCfg.toNat), (8, 1, fun _ => s.cel.maintCfg.toNat),
    (0xC, 1, fun _ => s.cel.uncorr.toNat), (0x20, 8, fun i => celCtrlState s i)]
def fabRegs (s : State) (off : Nat) : Option Nat :=
  lookupReg off [(0, 1, fun _ => packWord [(boolNat s.fab.valid, 16), (s.fab.addr.toNat, 0)]), (4, 1, fun _ => fabMirror s),
    (0x100, 8, fun i => fabPortState s i), (0x200, 64, fun i => (KMap.getD s.fab.groups i 0).toNat)]
def rasRegs (s : State) (off : Nat) : Option Nat :=
  lookupReg off [(0, 136, fun i => (KMap.getD s.ras.fac i 0).toNat), (0x400, 136, fun i => (KMap.getD s.ras.fld i 0).toNat),
    (0x800, 1, fun _ => rasSpares s), (0x840, 16, fun i => rasAttRemap s i)]
def secRegs (s : State) (off : Nat) : Option Nat :=
  lookupReg off [(0, 1, fun _ => secBoot s), (4, 1, fun _ => secSvn s), (8, 1, fun _ => s.boot.imgPolicy.toNat),
    (0x1000, 256, fun i => (KMap.getD s.boot.keys i 0).toNat)]
def bbxRegs (s : State) (off : Nat) : Option Nat :=
  lookupReg off [(0, 1, fun _ => s.bbx.nextSeq.toNat % 2 ^ 32), (4, 1, fun _ => s.bbx.seqHiLatch.toNat), (8, 1, fun _ => bbxSealed s),
    (0x10, 1, fun _ => s.bbx.timeLo.toNat), (0x14, 1, fun _ => s.bbx.timeHi.toNat)]
/-- What a 32-bit access at a byte offset of BAR0 reads, through a function (Table 12.4); `none` in reserved space. -/
def State.regAt (s : State) (fn off : Nat) : Option Nat :=
  let w := off % 0x100000
  if off % 4 ≠ 0 then none
  else if fn ≠ 0 then (if off < 0x100000 then glbRegs s fn off else none)
  else if 0x1000000 ≤ off && off < 0x1040000 then some (fld (reqEntry s ((off - 0x1000000) / 32)) ((off - 0x1000000) % 32) 4)
  else match off / 0x100000 with
    | 0x0 => glbRegs s 0 w
    | 0x1 => pwrRegs s w
    | 0x2 => clkRegs s w
    | 0x3 => schRegs s w
    | 0x4 => memRegs s w
    | 0x5 => retRegs s w
    | 0x6 => tblRegs s w
    | 0x7 => txtRegs s w
    | 0x8 => celRegs s w
    | 0x9 => fabRegs s w
    | 0xA => rasRegs s w
    | 0xB => secRegs s w
    | 0xC => bbxRegs s w
    | _ => none
/-- A read of `n` bytes (R300): aligned 32-bit reads, and aligned 64-bit reads of the request table in one action (R222). Any other, and one of reserved space,
reads 0xFFFF_FFFF. -/
def State.regRead (s : State) (fn off n : Nat) : Nat :=
  if n = 4 then (s.regAt fn off).getD 0xFFFFFFFF
  else if n = 8 && off % 8 = 0 && fn = 0 && 0x1000000 ≤ off && off < 0x1040000 then fld (reqEntry s ((off - 0x1000000) / 32)) ((off - 0x1000000) % 32) 8
  else 0xFFFFFFFF

end Sys2Proof.Machine
end

