-- ==== Sys2Proof/Machine/AdminCmds.lean ====
section
/-! DEFINITION. Administration and tenants (0x01xx, 0x02xx): identify, tenant.load and unload, base.load and unload, tenant.info (R100 to R118,
R192, R202, R203, R216 to R218, R368, R418, R440, R443, R444). -/

namespace Sys2Proof.Machine

def w16At (pb : Bytes) (off : Nat) : W16 := BitVec.ofNat 16 (fld pb off 2)
def dlBytes (s : State) (pb : Bytes) (off : Nat) : Bytes := (s.dlref pb off).getD []
def dlReads (s : State) (pb : Bytes) (off : Nat) : Option Fail := chk (s.dlref pb off).isSome stParam 0xFFF2

/-! ## identify -/

/-- identify's record (Table 13.11). -/
def identifyRec (s : State) : Bytes :=
  leBytes 4 (glbIdent s false) ++ leBytes 4 (match s.boot.running with | some i => i.version.toNat | none => 0) ++ leBytes 8 s.ident.serial.toNat
    ++ leBytes 2 (if s.fab.valid then s.fab.addr.toNat else 0) ++ leBytes 2 s.inService.length ++ leBytes 2 s.sch.tenants.length ++ leBytes 2 s.liveAll
    ++ leBytes 4 (memHbmFree s) ++ leBytes 4 (memAttFree s) ++ leBytes 4 (glbStatus s) ++ List.replicate 28 0
/-- Checks of identify, in the order of R316. -/
def identifyChecks (s : State) (h : Hdr) (pb : Bytes) : List (Option Fail) :=
  gate s 0x0101 h 16 true ++ fields [outField pb 0] ++ padding pb 16
/-- identify (0x0101). -/
def State.admitIdentify (s : State) (h : Hdr) (pb : Bytes) : State :=
  runCmd s h (identifyChecks s h pb) fun s => s.output h pb 0 (identifyRec s) 0 0 0

/-! ## Placement (R113, R116, R118) -/

/-- Granules of the tenant-image share in use (R216). -/
def State.imageUse (s : State) (p : Nat) : Nat :=
  sumNat (s.sch.tenants.map fun t => if bit t.2.mask.toNat p then ceilDiv t.2.model.stored Config.granule else 0)
/-- The hinted distances of a partition's streamed tenants. -/
def State.streamedDist (s : State) (p : Nat) : List Nat :=
  s.sch.tenants.filterMap fun t => let pl := (t.2.place[p]?).getD 0; if pl = 1 || pl = 3 then some t.2.model.distance else none
/-- Does something stream through a partition's landing? -/
def State.streams (s : State) (p : Nat) : Bool := (s.sourcesOf p (s.tenantsIn p)).any fun x => !x.2.2
/-- Landing space the pinned tenants take. -/
def State.pinnedBytes (s : State) (p : Nat) : Nat :=
  sumNat (((s.sourcesOf p (s.tenantsIn p)).filter fun x => x.2.2 && x.1 < 2 ^ 64).map fun x => x.2.1.decoded)
/-- W at least 2 wherever something streams (R113), and the pinned tenants within the landing. -/
def State.landOk (s : State) (p : Nat) : Bool :=
  (!(s.streams p) || decide (2 ≤ s.landW p)) && decide (s.pinnedBytes p ≤ (s.part p).landing * Config.granule)
/-- Every streamed tenant has W ≥ d + 1 for its hinted distance (R118). -/
def State.distOk (s : State) (p : Nat) : Bool := (s.streamedDist p).all fun d => decide (d + 1 ≤ s.landW p)
def placeAt (t : Tenant) (p code d : Nat) : Tenant := { t with place := setAt t.place p code, dist := setAt t.dist p d }
/-- The placement of a tenant in one partition: as its hints ask, else streamed, else with a lower distance; `none` where it does not fit (R118). -/
def State.placeIn (s : State) (tid p : Nat) (t : Tenant) : Option Tenant :=
  let shared := match s.baseOf t with | some b => b.shared | none => false
  let sh := if shared then 2 else 0
  let try_ := fun (t : Tenant) => s.onSch fun c => { c with tenants := KMap.set c.tenants tid t }
  let pin := placeAt t p (2 + sh) 0
  let str := placeAt t p (1 + sh) t.model.distance
  let a := try_ pin
  if t.model.hint = 2 && a.landOk p && a.distOk p then some pin
  else
    let b := try_ str
    if b.landOk p && b.distOk p then some str
    else if b.landOk p then some (placeAt t p (1 + sh) (max 1 (min t.model.distance (b.landW p - 1))))
    else none
/-- The placement in every partition of a list. -/
def State.placeAllIn (s : State) (tid : Nat) : List Nat → Tenant → Option Tenant
  | [], t => some t
  | p :: l, t => match s.placeIn tid p t with | some t => State.placeAllIn s tid l t | none => none
def maskList (m : Nat) : List Nat := (List.range 16).filter fun p => bit m p

/-! ## tenant.load, base.load -/

def loadFields (pb : Bytes) : List (Nat × Bool) :=
  [(0, fld pb 0 2 != 0), (2, decide (fld pb 2 1 ≤ 15)), rsvd pb 3 1, (4, fld pb 4 2 != 0), (6, decide (fld pb 6 2 ≤ 256))]
  ++ dlField pb 8 true ++ dlField pb 24 false
  ++ [(40, decide (fld pb 40 1 ≤ 8)), (41, decide (fld pb 41 1 ≤ 8)), (42, decide (fld pb 42 1 ≤ 8)), rsvd pb 43 1]
  ++ [(44, 40), (76, 41), (108, 42)].flatMap fun b => (List.range 8).map fun i => (b.1 + 4 * i, decide (i < fld pb b.2 1) || fld pb (b.1 + 4 * i) 4 == 0)
/-- R444: every LEAD, JOIN and TAIL ID below the vocabulary's size. -/
def pairTokChecks (pb : Bytes) (size : Nat) : List (Option Fail) :=
  [(44, 40), (76, 41), (108, 42)].flatMap fun b => (List.range (fld pb b.2 1)).map fun i => pchk (b.1 + 4 * i) (decide (fld pb (b.1 + 4 * i) 4 < size))
def idList (pb : Bytes) (off n : Nat) : List W32 := (List.range n).map fun i => BitVec.ofNat 32 (fld pb (off + 4 * i) 4)
/-- The field rules of Table 13.9 that depend on the image's KIND. -/
def kindFields (pb : Bytes) (kind : Nat) : List (Option Fail) :=
  let gen := kind == 1 || kind == 3
  [pchk 6 (if kind = 5 then decide (1 ≤ fld pb 6 2) else fld pb 6 2 == 0), pchk 24 (gen != (dlCount pb 24 == 0)),
   pchk 40 (kind == 5 || fld pb 40 1 == 0), pchk 41 (kind == 5 || fld pb 41 1 == 0), pchk 42 (kind == 5 || fld pb 42 1 == 0)]
/-- Checks of tenantLoad, in the order of R316. -/
def tenantLoadChecks (s : State) (h : Hdr) (pb : Bytes) : List (Option Fail) :=
  let tid := fld pb 0 2
  let v := s.vocab? (fld pb 2 1)
  let size := match v with | some v => v.size | none => 0
  gate s 0x0201 h 140 true ++ fields (loadFields pb) ++ padding pb 140 ++ [dlReads s pb 8, dlReads s pb 24]
    ++ [chk (!KMap.has s.sch.tenants tid) stState 0, chk v.isSome stNotFound 0] ++ pairTokChecks pb size
    ++ [chk (decide (s.sch.tenants.length < 8192)) stNoResource 0]
/-- What a verified image of tenant.load must still fit: its kind, the fields that hang on it, its vocabulary and its base (R316 item 7). -/
def lateLoadChecks (s : State) (pb : Bytes) (m : Model) (v : Vocab) : List (Option Fail) :=
  [chk (m.kind != 2) stParam 0xFFF2] ++ kindFields pb m.kind
    ++ [chk (m.vocabCheck == v.check) stParam 0xFFF2, chk (m.kind != 3 || KMap.has s.sch.bases m.baseId.toNat) stNotFound 0]
/-- The template's segments and whether a prefix is kept; a kind without a template has none. -/
def templateOf (s : State) (pb : Bytes) (m : Model) (v : Vocab) : Option (List TSeg × Bool) :=
  if m.kind = 1 || m.kind = 3 then parseTemplate v (dlBytes s pb 24) else some ([], false)
/-- The tenant a tenant.load makes, before it is placed. -/
def tenantOf (pb : Bytes) (m : Model) (x : List TSeg × Bool) : Tenant :=
  { model := m, vocab := fld pb 2 1, mask := BitVec.ofNat 16 (fld pb 4 2), qCapDef := fld pb 6 2,
    lead := idList pb 44 (fld pb 40 1), join := idList pb 76 (fld pb 41 1), tail := idList pb 108 (fld pb 42 1), segs := x.1,
    prefixOn := x.2, place := List.replicate 16 0, dist := List.replicate 16 0, acct := Acct.zero }
/-- Image shares of every partition of the mask, and the system share, hold the image. -/
def State.imageFits (s : State) (pb : Bytes) (m : Model) (len : Nat) : Bool :=
  (maskList (fld pb 4 2)).all (fun p => decide (s.imageUse p + ceilDiv m.stored Config.granule ≤ (s.part p).images)) && s.sysRoom len
/-- tenant.load (0x0201). -/
def State.admitTenantLoad (s : State) (h : Hdr) (pb : Bytes) : State :=
  runCmd s h (tenantLoadChecks s h pb) fun s =>
    let img := dlBytes s pb 8
    match s.verifyImage img, s.vocab? (fld pb 2 1) with
    | .inl f, _ => s.err h f
    | .inr _, none => s.err h (stNotFound, 0)
    | .inr m, some v =>
      match firstFail (lateLoadChecks s pb m v), templateOf s pb m v with
      | some f, _ => s.err h f
      | none, none => s.err h (stParam, 0xFFF2)
      | none, some x =>
        if !(s.imageFits pb m img.length) then s.err h (stNoResource, 0)
        else match s.placeAllIn (fld pb 0 2) (maskList (fld pb 4 2)) (tenantOf pb m x) with
          | none => s.err h (stNoResource, 0)
          | some t =>
            let s := (s.onSch fun c => { c with tenants := KMap.set c.tenants (fld pb 0 2) t }).sysAdd img.length
            let s := s.each (maskList (fld pb 4 2)) fun s p => if (s.part p).run.isSome then (s.setW p).streamFill p else s.setW p
            s.ok h (m.modelId.toNat % 2 ^ 32) (m.modelId.toNat / 2 ^ 32) 0 0
/-- Checks of baseLoad, in the order of R316. -/
def baseLoadChecks (s : State) (h : Hdr) (pb : Bytes) : List (Option Fail) :=
  gate s 0x0203 h 16 true ++ fields (dlField pb 0 true) ++ padding pb 16 ++ [dlReads s pb 0]
/-- base.load (0x0203): once per module, in the attic, and in HBM where its hints ask and the granules are free (R117, R118). -/
def State.admitBaseLoad (s : State) (h : Hdr) (pb : Bytes) : State :=
  runCmd s h (baseLoadChecks s h pb) fun s =>
    let img := dlBytes s pb 0
    match s.verifyImage img with
    | .inl f => s.err h f
    | .inr m =>
      let gran := ceilDiv m.stored Config.granule
      let hb := ceilDiv m.decoded Config.granule
      match firstFail [chk (m.kind == 2) stParam 0xFFF2, chk (!KMap.has s.sch.bases m.modelId.toNat) stState 0,
          chk (decide (s.sch.bases.length < 64)) stNoResource 0, chk (decide (gran ≤ memAttFree s)) stNoResource 0, chk (s.sysRoom img.length) stNoResource 0] with
      | some f => s.err h f
      | none =>
        let sh := (m.hint == 2 || m.hint == 3) && decide (hb ≤ memHbmFree s)
        let s := s.onSch fun c => { c with bases := KMap.set c.bases m.modelId.toNat { model := m, shared := sh } }
        let s := (s.attSize (.baseImage m.modelId.toNat) gran).hbmSize (.base m.modelId.toNat) (if sh then hb else 0)
        (s.sysAdd img.length).ok h (m.modelId.toNat % 2 ^ 32) (m.modelId.toNat / 2 ^ 32) 0 0

/-! ## tenant.unload -/

/-- Requests bound to a tenant in any role (R21), until their slot is freed. -/
def Req.bindsTenant (r : Req) (t : W16) : Bool := t ≠ 0 && (r.tenant == t || r.embedder == t || r.reranker == t || r.head == t)
def State.boundTo (s : State) (t : W16) : List Req := (s.sch.slots.filter fun x => !x.2.closed && x.2.bindsTenant t).map Prod.snd
/-- Checks of tenantUnload, in the order of R316. -/
def tenantUnloadChecks (s : State) (h : Hdr) (pb : Bytes) : List (Option Fail) :=
  let base := bit (fld pb 2 1) 0
  let tid := fld pb 0 2
  let mid := fld pb 8 8
  gate s 0x0202 h 16 true ++ fields [(0, (tid == 0) == base), (2, decide (fld pb 2 1 ≤ 1)), rsvd pb 3 5] ++ padding pb 16
    ++ (if base then [chk (KMap.has s.sch.bases mid) stNotFound 0, chk (!(s.sch.tenants.any fun t => t.2.model.kind == 3 && t.2.model.baseId.toNat == mid)) stBusy 0]
        else [chk (KMap.has s.sch.tenants tid) stNotFound 0, chk (s.boundTo (BitVec.ofNat 16 tid)).isEmpty stBusy 0])
/-- tenant.unload (0x0202), without and with BASE. -/
def State.admitTenantUnload (s : State) (h : Hdr) (pb : Bytes) : State :=
  let base := bit (fld pb 2 1) 0
  let tid := fld pb 0 2
  let mid := fld pb 8 8
  runCmd s h (tenantUnloadChecks s h pb) fun s =>
    if base then
      match KMap.get? s.sch.bases mid with
      | none => s.err h (stNotFound, 0)
      | some b =>
        let s := (s.attSize (.baseImage mid) 0).hbmSize (.base mid) 0
        ((s.onSch fun c => { c with bases := KMap.erase c.bases mid }).sysSub b.model.imageLen).ok h 0 0 0 0
    else
      match KMap.get? s.sch.tenants tid with
      | none => s.err h (stNotFound, 0)
      | some t =>
        let s := (s.onSch fun c => { c with tenants := KMap.erase c.tenants tid }).each (maskList t.mask.toNat) State.setW
        (s.sysSub t.model.imageLen).ok h 0 0 0 0

/-! ## tenant.info -/

/-- d of R114: the distance placed, at most W − 1 as W is now (R113). -/
def State.distNow (s : State) (p : Nat) (t : Tenant) : Nat := min ((t.dist[p]?).getD 0) ((s.part p).w - 1)
/-- tenant.info's record (Table 13.11). -/
def tenantRec (s : State) (tid : W16) (t : Tenant) : Bytes :=
  leBytes 8 t.model.modelId.toNat ++ leBytes 1 t.model.kind ++ leBytes 1 t.vocab ++ leBytes 2 t.mask.toNat ++ leBytes 4 (s.boundTo tid).length
    ++ leBytes 8 t.model.stored ++ leBytes 8 t.model.decoded ++ (List.range 16).flatMap (fun p => leBytes 1 ((t.place[p]?).getD 0))
    ++ (List.range 16).flatMap fun p => leBytes 1 (s.distNow p t)
/-- Checks of tenantInfo, in the order of R316. -/
def tenantInfoChecks (s : State) (h : Hdr) (pb : Bytes) : List (Option Fail) :=
  let tid := w16At pb 0
  gate s 0x0204 h 24 true ++ fields [(0, tid != 0), rsvd pb 2 6, outField pb 8] ++ padding pb 24 ++ [chk (s.tenant? tid).isSome stNotFound 0]
/-- tenant.info (0x0204). -/
def State.admitTenantInfo (s : State) (h : Hdr) (pb : Bytes) : State :=
  let tid := w16At pb 0
  runCmd s h (tenantInfoChecks s h pb) fun s =>
    match s.tenant? tid with
    | some t => s.output h pb 8 (tenantRec s tid t) 0 0 0
    | none => s.err h (stNotFound, 0)

end Sys2Proof.Machine
end

