-- ==== Sys2Proof/Machine/RequestCmds.lean ====
section
/-! DEFINITION. The request commands: ask, generate, embed, search, rerank, cancel, step (0x03xx; R20 to R31, R136, R192 to R209, R220 to R241, R253,
R255, R258, R320 to R324, R440). -/

namespace Sys2Proof.Machine

/-! ## Shared checks -/

/-- A tenant registered in a partition. -/
def State.registered (s : State) (t : W16) (p : Nat) : Bool := match s.tenant? t with | some x => bit x.mask.toNat p | none => false
def State.kindOf (s : State) (t : W16) : Nat := match s.tenant? t with | some x => x.model.kind | none => 0
def w16 (pb : Bytes) (off : Nat) : W16 := BitVec.ofNat 16 (fld pb off 2)
def f32 (pb : Bytes) (off : Nat) : W32 := BitVec.ofNat 32 (fld pb off 4)
/-- The text of a DLREF; a list that cannot be read is data that broke its rule (R317). -/
def dlData (s : State) (pb : Bytes) (off : Nat) : Bytes := (s.dlref pb off).getD []
def dlChk (s : State) (pb : Bytes) (off : Nat) : Option Fail := chk ((s.dlref pb off).isSome) stParam 0xFFF2
/-- Stop tokens below VOCAB_SIZE (R253, R316 item 7). -/
def stopTokChecks (stops : Bytes) (base size : Nat) : List (Option Fail) :=
  (enum (stopTokens stops)).map fun x => pchk (base + 16 + 4 * x.1) (decide (x.2 < size))
def samplingAt (pb : Bytes) (off : Nat) : List (Nat × Bool) := (samplingChecks (slice pb off 40)).map fun x => (off + x.1, x.2)
def stopAt (pb : Bytes) (off : Nat) : List (Nat × Bool) := (stopChecks (slice pb off 592)).map fun x => (off + x.1, x.2)
/-- Filter terms from N_TERMS onward are 0 (Table 13.6). -/
def filterChecks (pb : Bytes) (off n : Nat) : List (Nat × Bool) := 
  (List.range 4).flatMap fun t => [(off + 16 * t, decide (t < n) || fld pb (off + 16 * t) 8 == 0), (off + 16 * t + 8, decide (t < n) || fld pb (off + 16 * t + 8) 8 == 0)]
/-- A slot: the lowest free one, within the table and the quota (R220). -/
def State.freeSlot (s : State) (p : Nat) : Option Nat :=
  if (s.part p).quota ≤ (s.slotsOf p).length then none
  else match KMap.firstFree s.sch.slots 0 (s.sch.slots.length + 1) with
    | some n => if n < 8192 then some n else none
    | none => none
/-- The next generation of a slot (R10). -/
def nextGen (g : BitVec 19) : BitVec 19 := if g.toNat = 524287 then 1 else g + 1

/-- A new request with everything its kind has not set at its start value (Table 9.2, Table 15.3). -/
def newReq (s : State) (h : Hdr) (kind : ReqKind) (gen : BitVec 19) (pb : Bytes) : Req :=
  { gen := gen, kind := kind, state := .front, stage := 2, fn := h.fn, qp := h.qp, tag := h.tag, part := ⟨h.partNo, Nat.mod_lt _ (by decide)⟩, raw := (s.part h.partNo).raw, params := pb,
    tenant := 0, index := 64, embedder := 0, reranker := 0, head := 0, grammar := none, snap := 0, adm := 0, query := [], instr := [],
    qTok := [], rTok := [], vec := [], passages := [], final := [], rounds := 0, hot := s.ret.hotCfg, overran := false, report := [], feats := [], headDegraded := false, res := [], prompt := [], prefilled := 0,
    emitted := [], buf := [], issued := 0, visible := 0, gState := 0, gStack := [], maskReady := false, okCode := 0, replayed := false, migrated := false,
    throttled := false, degraded := s.degraded, cancelled := false, fin := none, closed := false, waitAge := 0, pageAge := 0, lastStep := 0xFFFFFFFFFFFFFFFF,
    placed := false, rebuild := false, committed := 0, pages := [], phase := 0, update := 0, copyA := true, copyB := true, step := 0, members := [], waitMembers := [],
    mirrored := false, mirrorBad := false }
/-- A request takes its slot (R10, R22, R220); `f` fills it in; its handle is written where asked (R321). -/
def State.takeSlot (s : State) (h : Hdr) (kind : ReqKind) (pb : Bytes) (handleAddr : Nat) (f : Req → Req) (go : State → Nat → State) : State :=
  match s.freeSlot h.partNo with
  | none => s.err h (stNoResource, 0)
  | some n =>
    let g := nextGen (KMap.getD s.sch.gens n 0)
    let r := f (newReq s h kind g pb)
    let s := s.onSch fun c => { c with slots := KMap.set c.slots n r, gens := KMap.set c.gens n g }
    let s := if handleAddr ≠ 0 then s.hostWrite handleAddr (leBytes 4 (handleOf n g)) else s
    ((go (s.writeRecord n) n).publishEntry n false).settle
/-- The next admission number of a retrieval (R146); every search admitted ages the replicas being made (Table 11.5). -/
def State.nextAdm (s : State) (i : Nat) : W64 × State :=
  (s.ret.nextAdm, (s.onRet fun r => { r with nextAdm := r.nextAdm + 1 }).onCel fun c =>
    { c with acts := (c.acts.map fun a => if a.kind = .replica && a.index = i then { a with age := a.age + 1 } else a).filter fun a => !(a.kind == .replica && decide (262144 ≤ a.age) && !a.claimed) })
/-- An index's published sequence: the snapshot of R23. -/
def State.snapOf (s : State) (i : Nat) : W64 := match s.index? i with | some ix => ix.seq | none => 0

/-! ## ask -/

/-- Parameter checks of Table 13.6 that need no object (R316 item 4). -/
def askFields (pb : Bytes) : List (Nat × Bool) :=
  [(0, w16 pb 0 != 0), (2, decide (fld pb 2 1 < 64)), (3, !bit (fld pb 6 2) 0 || decide (fld pb 3 1 < 64)), (6, decide (fld pb 6 2 ≤ 3)),
   (8, decide (1 ≤ fld pb 8 1) && decide (fld pb 8 1 ≤ 64)), (9, decide (1 ≤ fld pb 9 1) && decide (fld pb 9 1 ≤ 16)), (10, decide (fld pb 10 2 ≤ 256)),
   (12, decide (fld pb 12 1 ≤ 4)), (13, decide (fld pb 13 1 ≤ 4)), (14, decide (fld pb 14 2 ≤ 256)),
   (16, decide (1 ≤ fld pb 16 4) && decide (fld pb 16 4 ≤ 32768)), (20, decide (fld pb 20 2 ≤ 8192)), (22, decide (fld pb 22 2 ≤ 512)),
   (24, decide (fld pb 24 2 ≤ 256)), rsvd pb 26 2, (28, !bit (fld pb 6 2) 1 || finite32 (f32 pb 28)), (32, !bit (fld pb 6 2) 1 || finite32 (f32 pb 32)),
   rsvd pb 36 4, (40, fld pb 40 8 % 4 == 0), (48, fld pb 48 8 % 8 == 0), rsvd pb 56 8]
  ++ dlField pb 64 true ++ dlField pb 80 false ++ filterChecks pb 96 (fld pb 13 1) ++ samplingAt pb 160 ++ stopAt pb 200
  ++ (List.range (fld pb 14 2)).flatMap fun j => [(792 + 16 * j, decide (fld pb (792 + 16 * j) 1 ≤ 7)), rsvd pb (793 + 16 * j) 3, (796 + 16 * j, finite32 (f32 pb (796 + 16 * j)))]
/-- The reranker in use (R193). -/
def askReranker (ix : Index) (pb : Bytes) : W16 := if w16 pb 4 = 0 then ix.reranker else w16 pb 4
/-- The bindings of Table 1.1 exist and are registered in the partition (R20). -/
def State.askFound (s : State) (p : Nat) (pb : Bytes) : Bool :=
  match s.index? (fld pb 2 1) with
  | none => false
  | some ix =>
    let rr := askReranker ix pb
    s.registered (w16 pb 0) p && ix.embedder ≠ 0 && s.registered ix.embedder p && (rr == 0 || (s.registered rr p
      && (ix.head == 0 || (s.registered ix.head p && ix.featureSlots.all fun f => (s.table? f.1).isSome))))
    && (!bit (fld pb 6 2) 0 || KMap.has s.sch.grammars (fld pb 3 1))
/-- Item 7 of R316 for an ask: KINDs (R440), MAX_CONTEXT (R204), stop tokens (R253), grammar (R255), OUT_DIM, user slots (R194). -/
def State.askObjects (s : State) (pb : Bytes) : List (Option Fail) :=
  match s.index? (fld pb 2 1), s.tenant? (w16 pb 0) with
  | some ix, some t =>
    let rr := askReranker ix pb
    let v := s.tenantVocab (w16 pb 0)
    let g := KMap.get? s.sch.grammars (fld pb 3 1)
    [pchk 0 (t.model.kind == 1 || t.model.kind == 3),
     pchk 2 (s.kindOf ix.embedder == 4 && (rr == 0 || ((w16 pb 4 != 0 || s.kindOf rr == 5) && (ix.head == 0 || s.kindOf ix.head == 6)))
       && (match s.tenant? ix.embedder with | some e => e.model.outDim == ix.dim | none => false)),
     pchk 3 (!bit (fld pb 6 2) 0 || (match g with | some g => g.vocabCheck == v.check && g.vocabSize == v.size | none => true)),
     pchk 4 (rr == 0 || w16 pb 4 == 0 || s.kindOf rr == 5),
     pchk 16 (decide (fld pb 16 4 + fld pb 200 4 ≤ t.model.maxContext))]
    ++ stopTokChecks (slice pb 200 592) 200 v.size
    ++ (List.range (fld pb 14 2)).map fun j => pchk (792 + 16 * j) (match ix.featureSlots[fld pb (792 + 16 * j) 1]? with | some f => f.2.1 == 1 | none => false)
  | _, _ => []
/-- Checks of ask, in the order of R316. -/
def askChecks (s : State) (h : Hdr) (pb : Bytes) : List (Option Fail) :=
  let p := h.partNo
  let ix := s.index? (fld pb 2 1)
  gate s 0x0301 h (792 + 16 * fld pb 14 2) true ++ fields (askFields pb) ++ padding pb (792 + 16 * fld pb 14 2)
    ++ [dlChk s pb 64, dlChk s pb 80, chk (!(dlData s pb 64).isEmpty) stParam 64, serveOk s, partOk s h 1,
        chk (match ix with | some x => !x.loading && !x.unloaded | none => true) stState 0, chk (s.askFound p pb) stNotFound 0] ++ s.askObjects pb
/-- ask (0x0301). -/
def State.admitAsk (s : State) (h : Hdr) (pb : Bytes) : State :=
  let p := h.partNo
  let ix := s.index? (fld pb 2 1)
  runIn s h true (askChecks s h pb) fun s =>
    match ix, s.tenant? (w16 pb 0) with
    | some ix, some t =>
      let (q, qc) := cutText 8192 (dlData s pb 64)
      let (ins, ic) := if hasSeg t.segs 5 then cutText 4096 (dlData s pb 80) else ([], false)
      let rr := askReranker ix pb
      let g := if bit (fld pb 6 2) 0 then some (fld pb 3 1) else none
      let start := match g.bind (KMap.get? s.sch.grammars) with | some g => g.start | none => 0
      if (s.freeSlot p).isNone then s.err h (stNoResource, 0) else
      let (adm, s) := s.nextAdm (fld pb 2 1)
      s.takeSlot h .ask pb (fld pb 40 8) (fun r =>
        { r with tenant := w16 pb 0, index := fld pb 2 1, embedder := ix.embedder, reranker := rr, head := if rr = 0 then 0 else ix.head, grammar := g,
                 gState := BitVec.ofNat 16 start, snap := ix.seq, adm := adm, query := q, instr := ins, qTok := tokenise (s.tenantVocab ix.embedder) q,
                 rTok := if rr = 0 then [] else tokenise (s.tenantVocab rr) q, okCode := if qc || ic then stTruncated else 0 })
        fun s _ => s
    | _, _ => s.err h (stNotFound, 0)

/-! ## generate -/

def genFields (pb : Bytes) : List (Nat × Bool) :=
  [(0, w16 pb 0 != 0), (2, !bit (fld pb 4 2) 0 || decide (fld pb 2 1 < 64)), rsvd pb 3 1, (4, decide (fld pb 4 2 ≤ 3)), rsvd pb 6 2, (8, fld pb 8 8 % 4 == 0)]
  ++ dlField pb 16 true ++ samplingAt pb 32 ++ stopAt pb 72
/-- The prompt tokens of a generate: as given, or of the text after any cut (R253, R251); and whether it was cut. -/
def State.genPrompt (s : State) (pb : Bytes) : List W32 × Bool :=
  let d := dlData s pb 16
  if bit (fld pb 4 2) 1 then (words32 d (d.length / 4), false)
  else let (t, c) := cutText 131072 d; (tokenise (s.tenantVocab (w16 pb 0)) t, c)
/-- Checks of generate, in the order of R316. -/
def generateChecks (s : State) (h : Hdr) (pb : Bytes) : List (Option Fail) :=
  let p := h.partNo
  let d := dlData s pb 16
  let toks := bit (fld pb 4 2) 1
  let (prompt, _) := s.genPrompt pb
  let v := s.tenantVocab (w16 pb 0)
  let g := KMap.get? s.sch.grammars (fld pb 2 1)
  let cons := bit (fld pb 4 2) 0
  gate s 0x0302 h 664 true ++ fields (genFields pb) ++ padding pb 664
    ++ [dlChk s pb 16, chk (if toks then d.length % 4 == 0 && decide (4 ≤ d.length) && decide (d.length ≤ 131072) else !d.isEmpty) stParam 16, serveOk s, partOk s h 0,
        chk (s.registered (w16 pb 0) p && (!cons || g.isSome)) stNotFound 0]
    ++ (match s.tenant? (w16 pb 0) with
        | some t =>
          [pchk 0 (t.model.kind == 1 || t.model.kind == 3),
           pchk 2 (!cons || (match g with | some g => g.vocabCheck == v.check && g.vocabSize == v.size | none => true)),
           chk (!toks || prompt.all fun x => decide (x.toNat < v.size)) stParam 0xFFF2, pchk 72 (decide (prompt.length + fld pb 72 4 ≤ t.model.maxContext))]
          ++ stopTokChecks (slice pb 72 592) 72 v.size
        | none => [])
/-- generate (0x0302). -/
def State.admitGenerate (s : State) (h : Hdr) (pb : Bytes) : State :=
  let (prompt, cut) := s.genPrompt pb
  let g := KMap.get? s.sch.grammars (fld pb 2 1)
  let cons := bit (fld pb 4 2) 0
  runIn s h true (generateChecks s h pb) fun s =>
    let start := if cons then (match g with | some g => g.start | none => 0) else 0
    s.takeSlot h .generate pb (fld pb 8 8) (fun r =>
      { r with tenant := w16 pb 0, grammar := if cons then some (fld pb 2 1) else none, gState := BitVec.ofNat 16 start, prompt := prompt, phase := 3,
               state := .prefill, stage := 9, okCode := if cut then stTruncated else 0 })
      fun s n => (s.mapPrefix n).mirrorOpen n

/-! ## embed, search, rerank -/

/-- Checks of embed, in the order of R316. -/
def embedChecks (s : State) (h : Hdr) (pb : Bytes) : List (Option Fail) :=
  let t := w16 pb 0
  gate s 0x0303 h 40 true ++ fields ([(0, t != 0), rsvd pb 2 6] ++ dlField pb 8 true ++ [outField pb 24]) ++ padding pb 40
    ++ [dlChk s pb 8, serveOk s, partOk s h 1, chk (s.registered t h.partNo) stNotFound 0, pchk 0 (s.kindOf t == 4)]
/-- embed (0x0303). -/
def State.admitEmbed (s : State) (h : Hdr) (pb : Bytes) : State :=
  let t := w16 pb 0
  runIn s h true (embedChecks s h pb) fun s =>
    let need := 4 * (match s.tenant? t with | some x => x.model.outDim | none => 0)
    if fld pb 32 4 < need then s.finish h stParam 24 0 0 0 need
    else
      let (q, c) := cutText 8192 (dlData s pb 8)
      s.takeSlot h .embed pb 0 (fun r => { r with tenant := t, embedder := t, query := q, qTok := tokenise (s.tenantVocab t) q, okCode := if c then stTruncated else 0 }) fun s _ => s

/-- Checks of search, in the order of R316. -/
def searchChecks (s : State) (h : Hdr) (pb : Bytes) : List (Option Fail) :=
  let i := fld pb 0 1
  let ix := s.index? i
  let vec := bit (fld pb 6 2) 0
  let d := dlData s pb 8
  let q := words32 d (d.length / 4)
  let emb := match ix with | some x => x.embedder | none => 0
  gate s 0x0304 h 104 true
    ++ fields ([(0, decide (i < 64)), (1, decide (1 ≤ fld pb 1 1) && decide (fld pb 1 1 ≤ 64)), (2, decide (fld pb 2 2 ≤ 256)), (4, decide (fld pb 4 1 ≤ 4)),
                (5, decide (fld pb 5 1 ≤ 4)), (6, decide (fld pb 6 2 ≤ 1))] ++ dlField pb 8 true ++ [outField pb 24] ++ filterChecks pb 40 (fld pb 5 1)) ++ padding pb 104
    ++ [dlChk s pb 8, serveOk s, partOk s h 0, chk (vec || !(s.part h.partNo).raw) stState 0, chk (match ix with | some x => !x.loading && !x.unloaded | none => true) stState 0,
        chk (ix.isSome && (vec || (emb ≠ 0 && s.registered emb h.partNo))) stNotFound 0, pchk 0 (vec || s.kindOf emb == 4),
        pchk 0 (vec || (match s.tenant? emb, ix with | some e, some x => e.model.outDim == x.dim | _, _ => true)),
        chk (!vec || (match ix with | some x => d.length == 4 * x.dim && q.all finite32 | none => true)) stParam 0xFFF2]
/-- search (0x0304). -/
def State.admitSearch (s : State) (h : Hdr) (pb : Bytes) : State :=
  let i := fld pb 0 1
  let ix := s.index? i
  let vec := bit (fld pb 6 2) 0
  let d := dlData s pb 8
  let q := words32 d (d.length / 4)
  let emb := match ix with | some x => x.embedder | none => 0
  runIn s h (!vec) (searchChecks s h pb) fun s =>
    let need := 24 * fld pb 1 1
    if fld pb 32 4 < need then s.finish h stParam 24 0 0 0 need
    else if (s.freeSlot h.partNo).isNone then s.err h (stNoResource, 0)
    else
      let (adm, s) := s.nextAdm i
      if vec then s.takeSlot h .search pb 0 (fun r => { r with index := i, snap := s.snapOf i, adm := adm, stage := 3 }) fun s n => s.startJob n q
      else
        let (t, c) := cutText 8192 d
        s.takeSlot h .search pb 0 (fun r =>
          { r with index := i, embedder := emb, snap := s.snapOf i, adm := adm, query := t, qTok := tokenise (s.tenantVocab emb) t, okCode := if c then stTruncated else 0 }) fun s _ => s

/-- Items of a rerank: KIND, passage ID, offset of the DLREF. -/
def rerankItems (pb : Bytes) : List (Nat × Nat × Nat) :=
  (List.range (fld pb 3 1)).map fun j => (fld pb (48 + 32 * j) 1, fld pb (56 + 32 * j) 8, 64 + 32 * j)
/-- Fields of a rerank. Of an item with KIND 0 the DLREF is not used, and its reserved bytes are not checked (assumption 143). -/
def rerankFields (pb : Bytes) : List (Nat × Bool) :=
  [(0, w16 pb 0 != 0), (2, !bit (fld pb 5 1) 0 || decide (fld pb 2 1 < 64)), (3, decide (1 ≤ fld pb 3 1) && decide (fld pb 3 1 ≤ 64)),
   (4, decide (1 ≤ fld pb 4 1) && decide (fld pb 4 1 ≤ 16)), (5, decide (fld pb 5 1 ≤ 3)), (6, decide (fld pb 6 2 ≤ 256)),
   (8, !bit (fld pb 5 1) 1 || finite32 (f32 pb 8)), (12, !bit (fld pb 5 1) 1 || finite32 (f32 pb 12))] ++ dlField pb 16 true ++ [outField pb 32]
  ++ (rerankItems pb).flatMap fun x =>
    let o := x.2.2 - 16
    [(o, x.1 == 1 || (x.1 == 0 && bit (fld pb 5 1) 0)), rsvd pb (o + 1) 7, (o + 8, x.1 != 0 || x.2.1 != 0xFFFFFFFFFFFFFFFF)] ++ (if x.1 = 1 then dlField pb (o + 16) true else [])
/-- Checks of rerank, in the order of R316. -/
def rerankChecks (s : State) (h : Hdr) (pb : Bytes) : List (Option Fail) :=
  let t := w16 pb 0
  let en := bit (fld pb 5 1) 0
  let i := fld pb 2 1
  let ix := s.index? i
  let head := match ix with | some x => if en then x.head else 0 | none => 0
  let items := rerankItems pb
  gate s 0x0305 h (48 + 32 * fld pb 3 1) true ++ fields (rerankFields pb) ++ padding pb (48 + 32 * fld pb 3 1)
    ++ dlChk s pb 16 :: ((items.filter fun x => x.1 == 1).map fun x => dlChk s pb x.2.2)
    ++ [serveOk s, partOk s h 1, chk (!en || (match ix with | some x => !x.loading && !x.unloaded | none => true)) stState 0,
        chk (s.registered t h.partNo && (!en || (match ix with
          | some x => (x.head == 0 || (s.registered x.head h.partNo && x.featureSlots.all fun f => (s.table? f.1).isSome))
              && (items.all fun y => y.1 == 1 || (match x.latestAt (BitVec.ofNat 64 y.2.1) x.seq with | some e => !e.deleted | none => false))
          | none => false))) stNotFound 0,
        pchk 0 (s.kindOf t == 5), pchk 2 (head == 0 || s.kindOf head == 6)]
/-- rerank (0x0305): stage 7 alone. -/
def State.admitRerank (s : State) (h : Hdr) (pb : Bytes) : State :=
  let t := w16 pb 0
  let en := bit (fld pb 5 1) 0
  let i := fld pb 2 1
  let ix := s.index? i
  let head := match ix with | some x => if en then x.head else 0 | none => 0
  let items := rerankItems pb
  runIn s h true (rerankChecks s h pb) fun s =>
    let need := 8 * items.length
    if fld pb 40 4 < need then s.finish h stParam 32 0 0 0 need
    else
      let (q, c) := cutText 8192 (dlData s pb 16)
      let texts := items.map fun x => if x.1 = 1 then cutText 8192 (dlData s pb x.2.2) else ([], false)
      let cut := c || texts.any fun x => x.2
      let v := s.tenantVocab t
      let ps := (items.zip texts).map fun x =>
        let e := if x.1.1 = 0 then ix.bind fun y => y.latestAt (BitVec.ofNat 64 x.1.2.1) y.seq else none
        let c : Cand := { id := if x.1.1 = 0 then BitVec.ofNat 64 x.1.2.1 else 0xFFFFFFFFFFFFFFFF, version := match e with | some e => e.version | none => 0, tag := 0, score := 0, member := 0 }
        { passageOf c with fetched := x.1.1 == 1, text := x.2.1, rTok := if x.1.1 = 1 then tokenise v x.2.1 else [] }
      s.takeSlot h .rerank pb 0 (fun r =>
        { r with tenant := t, reranker := t, head := head, index := if en then i else 64, snap := s.snapOf i, query := q, rTok := tokenise v q,
                 okCode := if cut then stTruncated else 0, passages := ps, stage := 6 }) fun s n => s.startStage6 n

/-! ## cancel and step -/

/-- Checks of cancel, in the order of R316. -/
def cancelChecks (s : State) (h : Hdr) (pb : Bytes) : List (Option Fail) :=
  let n := s.named (fld pb 0 4)
  let mine := match n.bind s.req? with | some r => r.part.val == h.partNo | none => false
  gate s 0x0306 h 4 true ++ padding pb 4 ++ [partOk s h 0, chk mine stNotFound 0]
/-- Status and DETAIL of a request a cancel ends; one that a cancel or R311 had ended keeps what it has. -/
def Req.cancelFin (r : Req) : Option (W16 × W16) :=
  match r.fin with
  | some (st, d) => if st = stCancelled then some (st, d) else some (stCancelled, if r.generates then r.okCode else 0)
  | none => some (stCancelled, if r.generates then r.okCode else 0)
/-- The completion of a request that waits for its text records becomes `DONE_CANCELLED`: until it is written the handle names the request (R221, R241). -/
def State.recast (s : State) (n : Nat) (r : Req) : State :=
  match r.fin with
  | some (st, d) => s.onQp (qpKey r.fn r.qp) fun q => { q with held := q.held.map fun e => if e.1 = n ∧ e.2.2.r0 ≠ 0 then (e.1, e.2.1, s.reqCompl n r st d) else e }
  | none => s
/-- cancel (0x0306): the request's completion is written before the cancel's own (R241, R242). -/
def State.admitCancel (s : State) (h : Hdr) (pb : Bytes) : State :=
  let n := s.named (fld pb 0 4)
  runIn s h false (cancelChecks s h pb) fun s =>
    match n with
    | none => s.err h (stNotFound, 0)
    | some n =>
      match s.req? n with
      | none => s.err h (stNotFound, 0)
      | some r =>
        let s := s.onReq n fun x => { x with cancelled := true, buf := [], rebuild := false, fin := x.cancelFin }
        let s := s.dropJobsOf n
        let c : Compl := { tag := h.tag, status := stOk, detail := 0, info := infoByte false false false s.degraded, r0 := 0, r1 := 0, r2 := 0, r3 := 0 }
        let s := if s.isHeld n then s.recast n { r with fin := r.cancelFin } else s.flushOne n
        -- its own completion follows the request's, which may wait for records (R28)
        let s := if s.isHeld n then s.onQp (qpKey r.fn r.qp) fun q => { q with held := q.held ++ [(n, qpKey h.fn h.qp, c)] } else s.completeFor h c
        s.settle

/-- Checks of step, in the order of R316. -/
def stepChecks (s : State) (h : Hdr) (pb : Bytes) : List (Option Fail) :=
  gate s 0x0307 h (8 + 8 * fld pb 0 2) true
    ++ fields ([(0, decide (1 ≤ fld pb 0 2) && decide (fld pb 0 2 ≤ 512)), rsvd pb 2 6]
        ++ (List.range (fld pb 0 2)).flatMap fun i => [(12 + 8 * i, decide (fld pb (12 + 8 * i) 2 ≤ 512)), rsvd pb (14 + 8 * i) 2]) ++ padding pb (8 + 8 * fld pb 0 2) ++ [serveOk s, partOk s h 2]
/-- step (0x0307): the packet queues on its raw partition (R229). -/
def State.admitStep (s : State) (h : Hdr) (pb : Bytes) : State :=
  runIn s h false (stepChecks s h pb) fun s =>
    (s.onPart h.partNo fun x => { x with packets := x.packets ++ [{ op := 0x0307, h := h, pb := pb }] }).settle

end Sys2Proof.Machine
end

