-- ==== Sys2Proof/Machine/IndexCmds.lean ====
section
/-! DEFINITION. The index commands: index.create in its three forms, index.insert, delete, merge, info and load, passage.get (0x04xx; R134 to R136,
R140, R148 to R152, R159, R165, R166, R193, R326, R327, R440, R443), and the publication of a mutation (R148 to R150). -/

namespace Sys2Proof.Machine

/-! ## index.create -/

/-- The slots of a ranking binding: TABLE, SOURCE, POOL (Table 8.1). -/
def slotsAt (pb : Bytes) : List (Nat × Nat × Nat) := (List.range (fld pb 28 1)).map fun i => (fld pb (48 + 3 * i) 1, fld pb (49 + 3 * i) 1, fld pb (50 + 3 * i) 1)
/-- The field rules of Table 13.12 that need no object, for the form the flags ask for (R134, R326). -/
def createFields (pb : Bytes) : List (Nat × Bool) :=
  let fl := fld pb 3 1
  let mk := !bit fl 1 && !bit fl 2
  let up := !bit fl 2
  let n := fld pb 28 1
  [(0, decide (fld pb 0 1 < 64)), (1, !mk || decide (fld pb 1 1 ≤ 2)), (2, !mk || (decide (1 ≤ fld pb 2 1) && decide (fld pb 2 1 ≤ 28))),
   (3, decide (fl < 8) && !(bit fl 1 && bit fl 2)), (4, !mk || (decide (1 ≤ fld pb 4 2) && decide (fld pb 4 2 ≤ 4096))),
   (6, !mk || fld pb 6 2 == 0 || (decide (16 ≤ fld pb 6 2) && decide (fld pb 6 2 ≤ 4096))), (8, !mk || (finite32 (f32 pb 8) && fge (f32 pb 8) 0)),
   (12, !up || decide (fld pb 12 2 ≤ 256)), (14, !up || decide (fld pb 14 1 ≤ 32) || fld pb 14 1 == 0xFF),
   (15, !mk || (decide (8 ≤ fld pb 15 1) && decide (fld pb 15 1 ≤ 32))), (16, !mk || decide (fld pb 16 4 ≤ 8388608)), (20, !up || decide (fld pb 20 2 ≤ 4096)),
   (28, !mk || (if fld pb 26 2 = 0 then n == 0 else decide (1 ≤ n) && decide (n ≤ 8))), (29, !mk || allZero (slice pb 29 3))]
  ++ (if mk then dlField pb 32 true ++ (List.range 8).flatMap fun i =>
        if i < n then [(49 + 3 * i, decide (fld pb (49 + 3 * i) 1 ≤ 1)), (50 + 3 * i, decide (fld pb (50 + 3 * i) 1 ≤ 2))] else [(48 + 3 * i, allZero (slice pb (48 + 3 * i) 3))]
      else [])
/-- Bytes of HBM an index takes from its creation on (R135). -/
def indexBytes (h dim quota : Nat) : Nat := 16 * 2 ^ h + 4 * h * dim + quota * (32 + 4 * dim)
def Index.granules (ix : Index) : Nat := ceilDiv (indexBytes ix.hashBits ix.dim ix.mudQuota) Config.granule
/-- The three values MODIFY changes, with their defaults (Table 13.12). -/
def Index.tune (ix : Index) (pb : Bytes) : Index :=
  { ix with pDef := if fld pb 12 2 = 0 then 32 else fld pb 12 2, dMargin := if fld pb 14 1 = 0xFF then 8 else fld pb 14 1,
            mergeAt := if fld pb 20 2 = 0 then 64 else fld pb 20 2 }
def newIndex (pb : Bytes) (proj : List W32) : Index :=
  { dim := fld pb 4 2, metric := fld pb 1 1, hashBits := fld pb 2 1, cap := if fld pb 6 2 = 0 then 256 else fld pb 6 2, spillTau := f32 pb 8,
    pDef := if fld pb 12 2 = 0 then 32 else fld pb 12 2, dMargin := if fld pb 14 1 = 0xFF then 8 else fld pb 14 1, storeBits := fld pb 15 1,
    mudQuota := fld pb 16 4, mergeAt := if fld pb 20 2 = 0 then 64 else fld pb 20 2, load := bit (fld pb 3 1) 0, loading := bit (fld pb 3 1) 0,
    embedder := w16 pb 22, reranker := w16 pb 24, head := w16 pb 26, featureSlots := slotsAt pb, proj := pieces (fld pb 4 2) proj, seq := 0, given := 0,
    dir := [], mud := [], tombs := [], store := [], pages := [], waiting := [], loads := [], overruns := 0, searches := 0, probes := [], seqHiLatch := 0, unloaded := false }
/-- Live requests and searches bound to an index (R21). -/
def State.boundIndex (s : State) (i : Nat) : Bool := s.sch.slots.any fun x => !x.2.closed && x.2.index == i
/-- Jobs run for other members on the index answer an error and end (R342). -/
def State.endRemoteJobs (s : State) (i : Nat) : State :=
  s.each (s.ret.jobs.filter fun j => j.index == i) fun s j =>
    let s := s.dropJob j.adm
    match j.remote with | some m => s.reply m 5 .shardError | none => s
/-- An index is removed with its directory, mudroom, tombstones, extents and store (R326); its maintenance ends with it. -/
def State.removeIndex (s : State) (i : Nat) : State :=
  match s.index? i with
  | none => s
  | some ix =>
    let s := s.endRemoteJobs i
    let ex := ix.dir.flatMap fun b => b.2.ext.toList ++ b.2.hot.toList ++ (match b.2.old with | some (e, _, _, h) => e.toList ++ h.toList | none => [])
    let s := s.each ex fun s e => s.freeExtent ix.dim e
    let s := s.onCel fun c => (ix.pages.flatMap fun p => p.2).foldl (fun c k => c.trim s.ident.variant (k / 2 ^ 32) (k % 2 ^ 32)) c
    let s := s.each (s.cel.acts.filter fun a => a.ofIndex && a.index == i) fun s a => s.endIndexAct a
    let s := s.hbmSize (.index i) 0
    (s.onRet fun r => { r with indexes := KMap.erase r.indexes i, memberHolds := r.memberHolds.filter fun x => x.2.2.1 ≠ i }).markCrowded
/-- Checks of indexCreate, in the order of R316. -/
def indexCreateChecks (s : State) (h : Hdr) (pb : Bytes) : List (Option Fail) :=
  let i := fld pb 0 1
  let fl := fld pb 3 1
  let mk := !bit fl 1 && !bit fl 2
  let d := dlData s pb 32
  let n := fld pb 2 1 * fld pb 4 2
  let proj := words32 d (d.length / 4)
  let named := [w16 pb 22, w16 pb 24, w16 pb 26]
  let need := ceilDiv (indexBytes (fld pb 2 1) (fld pb 4 2) (fld pb 16 4)) Config.granule
  gate s 0x0401 h 72 true ++ fields (createFields pb) ++ padding pb 72
    ++ (if mk then
          [dlChk s pb 32, chk (d.length == 4 * n && proj.all finite32) stParam 0xFFF2, chk (s.index? i).isNone stState 0,
           chk (named.all (fun t => t == 0 || (s.tenant? t).isSome) && (slotsAt pb).all fun f => (s.table? f.1).isSome) stNotFound 0,
           pchk 22 (w16 pb 22 == 0 || (match s.tenant? (w16 pb 22) with | some t => t.model.kind == 4 && t.model.outDim == fld pb 4 2 | none => true)),
           pchk 24 (w16 pb 24 == 0 || s.kindOf (w16 pb 24) == 5), pchk 26 (w16 pb 26 == 0 || s.kindOf (w16 pb 26) == 6),
           chk (decide (sumNat (s.ret.indexes.map fun x => x.2.mudQuota) + fld pb 16 4 ≤ 8388608) && decide (need ≤ memHbmFree s)) stNoResource 0]
        else [chk (s.index? i).isSome stNotFound 0] ++ if bit fl 2 then [chk (!s.boundIndex i) stBusy 0] else [])
/-- index.create (0x0401): create, MODIFY or DESTROY by the flags. -/
def State.admitIndexCreate (s : State) (h : Hdr) (pb : Bytes) : State :=
  let i := fld pb 0 1
  let fl := fld pb 3 1
  let mk := !bit fl 1 && !bit fl 2
  let d := dlData s pb 32
  let proj := words32 d (d.length / 4)
  let need := ceilDiv (indexBytes (fld pb 2 1) (fld pb 4 2) (fld pb 16 4)) Config.granule
  runCmd s h (indexCreateChecks s h pb) fun s =>
    let s :=
      if mk then (s.onRet fun r => { r with indexes := KMap.set r.indexes i (newIndex pb proj) }).hbmSize (.index i) need
      else if bit fl 1 then s.onIndex i fun x => x.tune pb
      else s.removeIndex i
    s.ok h 0 0 0 0

/-! ## Entries of index.insert and index.load -/

structure InsEnt where
  id : W64
  tag : W64
  vec : List W32
  text : Bytes
  cut : Bool
  deriving DecidableEq, Repr

/-- `n` entries of a list that holds exactly them; `none` where one breaks a rule (R136, R152 and the entry layout of 13). -/
def parseEnts (dim : Nat) : Nat → Bytes → Option (List InsEnt)
  | 0, b => if b.isEmpty then some [] else none
  | n + 1, b =>
    let tl := fld b 16 4
    let len := 24 + 4 * dim + tl
    let all := ceilDiv len 8 * 8
    let vec := words32 (slice b 24 (4 * dim)) dim
    if b.length < all || fld b 0 8 = 2 ^ 64 - 1 || fld b 20 4 ≠ 0 || !(vec.all finite32) || !(allZero (slice b len (all - len))) then none
    else
      let (t, c) := cutText 8192 (slice b (24 + 4 * dim) tl)
      match parseEnts dim n (b.drop all) with
      | none => none
      | some l => some ({ id := BitVec.ofNat 64 (fld b 0 8), tag := BitVec.ofNat 64 (fld b 8 8), vec := vec, text := t, cut := c } :: l)
def firstCut (l : List InsEnt) : Option Nat := indexOf (fun e => e.cut) l
/-- OK_TRUNCATED with the first cut entry (Table 13.1). -/
def cutStatus (l : List InsEnt) : W16 × W16 := match firstCut l with | some i => (stTruncated, BitVec.ofNat 16 i) | none => (stOk, 0)
def entFields (pb : Bytes) (load : Bool) : List (Nat × Bool) :=
  let fin := bit (fld pb 1 1) 0
  [(0, decide (fld pb 0 1 < 64)), (1, decide (fld pb 1 1 ≤ 1)), rsvd pb 2 2,
   (4, decide (fld pb 4 4 ≤ 65536) && (decide (1 ≤ fld pb 4 4) || (load && fin)))] ++ dlField pb 8 (fld pb 4 4 != 0)

/-! ## index.insert, index.delete -/

/-- What the passage store will hold of an ID once every admitted mutation is published: no version, or one that is live or not. -/
def Index.verState (ix : Index) (ms : List Mutation) (id : W64) : Option Bool :=
  ms.foldl (fun st m => if m.id = id then (if m.insert then some true else st.map fun _ => false) else st) ((ix.latest id).map fun e => !e.deleted)
/-- Will a mutation add a tombstone (R149, R150)? -/
def Index.tombs? (ix : Index) (ms : List Mutation) (insert : Bool) (id : W64) : Nat :=
  boolNat (if insert then (ix.verState ms id).isSome else ix.verState ms id == some true)
/-- Tombstones the mutations of a list will add, after those of `ms`. -/
def Index.tombsOf (ix : Index) : List Mutation → List Mutation → Nat
  | _, [] => 0
  | ms, m :: l => ix.tombs? ms m.insert m.id + Index.tombsOf ix (ms ++ [m]) l
/-- Records of a bucket's current generation. -/
def Bucket.records (b : Bucket) : Nat := match b.ext with | some e => e.count | none => 0
def mutOf (seq : W64) (e : InsEnt) : Mutation := { seq := seq, insert := true, id := e.id, tag := e.tag, vec := e.vec, text := e.text, last := none, placed := false, writes := [] }
def delOf (seq : W64) (id : W64) : Mutation := { seq := seq, insert := false, id := id, tag := 0, vec := [], text := [], last := none, placed := true, writes := [] }
/-- R151 over the entries in order: the first that does not fit, and the bucket whose CAP it would pass. `mod` is what the module may still
hold, `tmb` what the tombstone set may still hold, `add` the buckets of the entries before. -/
def Index.insertFit (ix : Index) : Nat → List Mutation → List Nat → Nat → Nat → List InsEnt → Option (Nat × Option Nat)
  | _, _, _, _, _, [] => none
  | n, ms, add, mod, tmb, e :: l =>
    let bs := ix.places e.vec
    let t := ix.tombs? ms true e.id
    let overN := bs.find? fun b => decide (ix.cap < (ix.bucket b).records + (ix.mudOf b).length + (add.filter (· == b)).length + 1)
    if ix.mudQuota < ix.mud.length + add.length + bs.length || mod < bs.length || tmb < t then some (n, none)
    else match overN with
      | some b => some (n, some b)
      | none => Index.insertFit ix (n + 1) (ms ++ [mutOf 0 e]) (add ++ bs) (mod - bs.length) (tmb - t) l
/-- An insert's text finds its place in the passage store: the home page's chain is written anew with it (R148, R166). Where the cellar has no room it is tried
again when its turn to be published comes. -/
def State.placeText (s : State) (i : Nat) (m : Mutation) : State :=
  let mark := fun (s : State) (l : List Nat) => s.onIndex i fun x => { x with waiting := x.waiting.map fun y => if y.seq == m.seq then { y with placed := true, writes := l } else y }
  if m.placed then s
  else match s.index? i with
    | none => s
    | some ix => match (mark s []).syncHome i (ix.homePage m.id) with
      | some t => mark t (writesFrom s.cel.nextWrite t.cel.nextWrite)
      | none => s
/-- Mutations are admitted to an index's queue with consecutive numbers (R148); the last carries the command's completion. -/
def State.queueMuts (s : State) (i : Nat) (h : Hdr) (c : Compl) (l : List Mutation) : State :=
  match s.index? i with
  | none => s
  | some ix =>
    let num := (enum l).map fun x => { x.2 with seq := ix.given + BitVec.ofNat 64 (x.1 + 1), last := if x.1 + 1 = l.length then some (h, c) else none }
    let s := s.onIndex i fun ix => { ix with given := ix.given + BitVec.ofNat 64 l.length, waiting := ix.waiting ++ num }
    s.each num fun s m => s.placeText i m
def tombRoom (s : State) : Nat := 16777216 - s.tombUsed - sumNat (s.ret.indexes.map fun x => x.2.tombsOf [] x.2.waiting)
/-- The completion a mutation command will carry. -/
def mutCompl (s : State) (h : Hdr) (ix : Index) (st : W16 × W16) (n : Nat) : Compl :=
  let first := ix.given.toNat + 1
  { tag := h.tag, status := st.1, detail := st.2, info := infoByte false false false s.degraded, r0 := BitVec.ofNat 32 first,
    r1 := BitVec.ofNat 32 (first / 2 ^ 32), r2 := BitVec.ofNat 32 n, r3 := 0 }
/-- Checks of indexInsert, in the order of R316. -/
def indexInsertChecks (s : State) (h : Hdr) (pb : Bytes) : List (Option Fail) :=
  let i := fld pb 0 1
  let n := fld pb 4 4
  let ix := s.index? i
  let ents := ix.bind fun x => parseEnts x.dim n (dlData s pb 8)
  gate s 0x0402 h 24 true ++ fields (entFields pb false) ++ padding pb 24
    ++ [dlChk s pb 8, chk (match ix with | some x => !x.loading && !x.unloaded | none => true) stState 0, chk ix.isSome stNotFound 0, chk ents.isSome stParam 0xFFF2]
/-- index.insert (0x0402). -/
def State.admitIndexInsert (s : State) (h : Hdr) (pb : Bytes) : State :=
  let i := fld pb 0 1
  let n := fld pb 4 4
  let ix := s.index? i
  let ents := ix.bind fun x => parseEnts x.dim n (dlData s pb 8)
  runCmd s h (indexInsertChecks s h pb) fun s =>
    match ix, ents with
    | some ix, some ents =>
      match ix.insertFit 0 ix.waiting ix.waitMud (8388608 - s.mudUsed) (tombRoom s) ents with
      | some (k, b) =>
        let s := match b with | some b => s.makeDue i b | none => s
        s.err h (stNoResource, BitVec.ofNat 16 k)
      | none => s.queueMuts i h (mutCompl s h ix (cutStatus ents) n) (ents.map (mutOf 0))
    | _, _ => s.err h (stNotFound, 0)
/-- Checks of indexDelete, in the order of R316. -/
def indexDeleteChecks (s : State) (h : Hdr) (pb : Bytes) : List (Option Fail) :=
  let i := fld pb 0 1
  let n := fld pb 4 4
  let d := dlData s pb 8
  let ids := (pieces 8 d).map fun x => BitVec.ofNat 64 (leNat x)
  let ms := ids.map (delOf 0)
  let ix := s.index? i
  gate s 0x0403 h 24 true
    ++ fields ([(0, decide (i < 64)), rsvd pb 1 3, (4, decide (1 ≤ n) && decide (n ≤ 65536))] ++ dlField pb 8 true) ++ padding pb 24
    ++ [dlChk s pb 8, chk (d.length == 8 * n && !(ids.any fun x => x == 0xFFFFFFFFFFFFFFFF)) stParam 0xFFF2,
        chk (match ix with | some x => !x.loading && !x.unloaded | none => true) stState 0, chk ix.isSome stNotFound 0,
        chk (match ix with | some x => decide (x.tombsOf x.waiting ms ≤ tombRoom s) | none => true) stNoResource 0]
/-- index.delete (0x0403). -/
def State.admitIndexDelete (s : State) (h : Hdr) (pb : Bytes) : State :=
  let i := fld pb 0 1
  let n := fld pb 4 4
  let d := dlData s pb 8
  let ids := (pieces 8 d).map fun x => BitVec.ofNat 64 (leNat x)
  let ms := ids.map (delOf 0)
  let ix := s.index? i
  runCmd s h (indexDeleteChecks s h pb) fun s =>
    match ix with
    | some ix => s.queueMuts i h (mutCompl s h ix (stOk, 0) n) ms
    | none => s.err h (stNotFound, 0)

/-- One mutation takes effect (R149, R150). -/
def Index.apply (ix : Index) (m : Mutation) : Index :=
  let old := ix.latest m.id
  let occ := fun (e : StoreEntry) => e.home :: e.spill.toList
  if m.insert then
    let (home, spill) := homeSpill ix m.vec
    let ent := fun (b : Nat) (sp : Bool) => ({ bucket := b, id := m.id, tag := m.tag, version := m.seq, foldGen := 0, spill := sp, vec := m.vec } : Mud)
    { ix with
      mud := ix.mud ++ ent home false :: (spill.toList.map fun b => ent b true),
      store := ix.store ++ [{ id := m.id, version := m.seq, home := home, spill := spill, deleted := false, text := m.text }],
      tombs := ix.tombs ++ match old with | some e => [{ id := m.id, n := m.seq, buckets := occ e }] | none => [],
      seq := m.seq }
  else match old with
    | some e =>
      if e.deleted then { ix with seq := m.seq }
      else { ix with
        store := ix.store.map fun x => if x.id = e.id && x.version = e.version then { x with deleted := true } else x,
        tombs := ix.tombs ++ [{ id := m.id, n := m.seq, buckets := occ e }], seq := m.seq }
    | none => { ix with seq := m.seq }
/-- Buckets a published mutation touches. -/
def Index.touched (ix : Index) (m : Mutation) : List Nat :=
  (if m.insert then ix.places m.vec else []) ++ (match ix.latest m.id with | some e => e.home :: e.spill.toList | none => [])
/-- The index's next mutation is published (R148) once the pages of its text are acknowledged (R273): visible from here on, its buckets tested for a merge (R159),
its command completed with the last entry. A delete marks its passage in the store's page. -/
def State.publish (s : State) (i : Nat) : State :=
  let s := match (s.index? i).bind fun ix => ix.waiting.head? with | some m => s.placeText i m | none => s
  match s.index? i with
  | none => s
  | some ix =>
    match ix.waiting with
    | [] => s
    | m :: rest =>
      if !m.placed || s.cel.unacked m.writes then s
      else
        let s := s.onIndex i fun x => { (x.apply m) with waiting := rest }
        let s := if m.insert then s else s.syncHomes i [ix.homePage m.id]
        let s := (s.onCel fun c => c.ages fun a => a.kind == .merge && a.index == i).each (ix.touched m) fun s b => match s.index? i with
          | some x => if x.dueNow b then s.makeDue i b else s
          | none => s
        let s := s.markCrowded
        match m.last with
        | some (h, c) => s.completeFor h { c with info := c.info ||| infoByte false false false s.degraded }
        | none => s

/-! ## index.merge, index.info, index.load, passage.get -/

/-- Buckets with pending entries or tombstones that are not yet due (R159). -/
def Index.pendingBuckets (ix : Index) : List Nat :=
  (dedup ((ix.mud.filter fun m => m.foldGen == 0).map (fun m => m.bucket) ++ ix.tombs.flatMap fun t => t.buckets)).filter fun b => !(ix.bucket b).due
/-- Checks of indexMerge, in the order of R316. -/
def indexMergeChecks (s : State) (h : Hdr) (pb : Bytes) : List (Option Fail) :=
  let i := fld pb 0 1
  let ix := s.index? i
  gate s 0x0404 h 8 true ++ fields [(0, decide (i < 64)), rsvd pb 1 7] ++ padding pb 8
    ++ [chk (match ix with | some x => !x.loading && !x.unloaded | none => true) stState 0, chk ix.isSome stNotFound 0]
/-- index.merge (0x0404). -/
def State.admitIndexMerge (s : State) (h : Hdr) (pb : Bytes) : State :=
  let i := fld pb 0 1
  let ix := s.index? i
  runCmd s h (indexMergeChecks s h pb) fun s =>
    let bs := match ix with | some x => x.pendingBuckets | none => []
    (s.each bs fun s b => s.makeDue i b).ok h bs.length 0 0 0
/-- index.info's record (Tables 13.11 and 13.12). -/
def indexRec (i : Nat) (ix : Index) : Bytes :=
  payload [(1, i), (1, ix.metric), (1, ix.hashBits), (1, boolNat ix.load), (2, ix.dim), (2, ix.cap), (4, ix.spillTau.toNat), (2, ix.pDef), (1, ix.dMargin),
           (1, ix.storeBits), (4, ix.mudQuota), (2, ix.mergeAt), (2, ix.embedder.toNat), (2, ix.reranker.toNat), (2, ix.head.toNat), (1, ix.featureSlots.length), (3, 0)]
  ++ List.replicate 16 0 ++ padTo 24 (ix.featureSlots.flatMap fun f => payload [(1, f.1), (1, f.2.1), (1, f.2.2)])
  ++ payload [(8, ix.seq.toNat), (4, (ix.dir.filter fun b => b.2.gen ≠ 0).length), (4, (ix.dir.filter fun b => b.2.full).length),
              (8, sumNat (ix.dir.map fun b => b.2.records)), (4, ix.mudHeld), (4, ix.tombs.length), (4, (ix.dir.filter fun b => b.2.old.isSome).length),
              (4, (ix.dir.filter fun b => b.2.hot.isSome).length), (4, ix.overruns.toNat), (1, boolNat ix.loading), (11, 0)]
/-- Checks of indexInfo, in the order of R316. -/
def indexInfoChecks (s : State) (h : Hdr) (pb : Bytes) : List (Option Fail) :=
  let i := fld pb 0 1
  gate s 0x0405 h 24 true ++ fields [(0, decide (i < 64)), rsvd pb 1 7, outField pb 8] ++ padding pb 24 ++ [chk (s.index? i).isSome stNotFound 0]
/-- index.info (0x0405). -/
def State.admitIndexInfo (s : State) (h : Hdr) (pb : Bytes) : State :=
  let i := fld pb 0 1
  runCmd s h (indexInfoChecks s h pb) fun s =>
    match s.index? i with
    | some ix => s.output h pb 8 (indexRec i ix) 0 0 0
    | none => s.err h (stNotFound, 0)

/-- The records of loaded entries join their buckets' extents at generation 1, in new extents (R165); what the buckets were before. `none` where CAP or the free
data pages do not allow it. -/
def State.loadBuckets (s : State) (i : Nat) (ix : Index) (ents : List InsEnt) : Option (State × List (Nat × Bucket)) :=
  (dedup (ents.flatMap fun e => ix.places e.vec)).foldl (fun st b => st.bind fun (s, before) =>
    let new := (ents.filter fun e => (ix.places e.vec).contains b).map fun e => ({ id := e.id, tag := e.tag, version := 1, vec := e.vec } : Rec)
    let bk := ix.bucket b
    let old := match bk.ext with | some e => s.extentRecs ix.dim e | none => []
    if ix.cap < old.length + new.length then none
    else match s.writeExtent b ix.dim (old ++ new) none with
      | (s, some e) => some (s.onIndex i fun x => x.setBucket b { x.bucket b with ext := some e, gen := 1, mergePoint := 1 }, before ++ [(b, bk)])
      | (_, none) => none) (some (s, []))
/-- A load as a whole: its buckets, its passages, and the store's pages for them. -/
def State.loadAll (s : State) (i : Nat) (ix : Index) (ents : List InsEnt) : Option (State × List (Nat × Bucket)) :=
  (s.loadBuckets i ix ents).bind fun (s, before) =>
    let s := s.onIndex i fun x =>
      { x with store := x.store ++ ents.map fun e => let (hm, sp) := homeSpill ix e.vec
                                                     { id := e.id, version := 1, home := hm, spill := sp, deleted := false, text := e.text } }
    ((dedup (ents.map fun e => ix.homePage e.id)).foldl (fun (st : Option State) h => st.bind fun s => s.syncHome i h) (some s)).map fun s => (s, before)
/-- The oldest load of an index completes once its pages are acknowledged: the extents it replaced go, and the final one publishes sequence 1 (R165). -/
def State.loadDone (s : State) (i : Nat) : State :=
  match s.index? i with
  | none => s
  | some ix => match ix.loads with
    | [] => s
    | l :: rest =>
      if s.cel.unacked l.writes then s
      else
        let s := s.each (l.before.filterMap fun b => b.2.ext) fun s e => s.freeExtent ix.dim e
        let s := s.onIndex i fun x => { x with loads := rest }
        let s := if l.final then s.onIndex i fun x => { x with loading := false, seq := 1, given := 1 } else s
        s.completeFor l.h { l.compl with info := l.compl.info ||| infoByte false false false s.degraded }
/-- The same for every load of every index, in order. -/
def State.settleLoads (s : State) : State := s.each s.ret.indexes fun s x => s.each x.2.loads fun s _ => s.loadDone x.1
/-- A load that had not completed leaves nothing (R165): its buckets are what they were, its extents and passages go. -/
def State.undoLoad (s : State) (i : Nat) (l : Load) : State :=
  match s.index? i with
  | none => s
  | some ix =>
    let s := s.each (l.before.filterMap fun b => (ix.bucket b.1).ext) fun s e => s.freeExtent ix.dim e
    s.onIndex i fun x => l.before.foldl (fun x b => x.setBucket b.1 b.2) { x with loads := x.loads.dropLast, store := x.store.filter fun e => !l.ids.contains e.id }
/-- Checks of indexLoad, in the order of R316. -/
def indexLoadChecks (s : State) (h : Hdr) (pb : Bytes) : List (Option Fail) :=
  let i := fld pb 0 1
  let n := fld pb 4 4
  let ix := s.index? i
  let ents := ix.bind fun x => parseEnts x.dim n (dlData s pb 8)
  let ids := match ents with | some l => l.map fun e => e.id | none => []
  gate s 0x0406 h 24 true ++ fields (entFields pb true) ++ padding pb 24
    ++ [dlChk s pb 8, chk (match ix with | some x => x.loading && !(x.loads.any fun l => l.final) | none => true) stState 0, chk ix.isSome stNotFound 0, chk ents.isSome stParam 0xFFF2,
        chk ((dedup ids).length == ids.length && (match ix with | some x => !(ids.any fun d => (x.latest d).isSome) | none => true)) stParam 0xFFF2]
/-- index.load (0x0406). -/
def State.admitIndexLoad (s : State) (h : Hdr) (pb : Bytes) : State :=
  let i := fld pb 0 1
  let n := fld pb 4 4
  let ix := s.index? i
  let ents := ix.bind fun x => parseEnts x.dim n (dlData s pb 8)
  runCmd s h (indexLoadChecks s h pb) fun s =>
    match ix, ents with
    | some ix, some ents =>
      match s.loadAll i ix ents with
      | none => s.err h (stNoResource, BitVec.ofNat 16 (((List.range ents.length).find? fun k => (s.loadAll i ix (ents.take (k + 1))).isNone).getD 0))
      | some (t, before) =>
        let c : Compl := { tag := h.tag, status := (cutStatus ents).1, detail := (cutStatus ents).2, info := infoByte false false false s.degraded,
                           r0 := 0, r1 := 0, r2 := BitVec.ofNat 32 n, r3 := 0 }
        let l : Load := { h := h, compl := c, final := bit (fld pb 1 1) 0, writes := writesFrom s.cel.nextWrite t.cel.nextWrite, before := before, ids := ents.map fun e => e.id }
        (t.onIndex i fun x => { x with loads := x.loads ++ [l] }).settleLoads
    | _, _ => s.err h (stNotFound, 0)
/-- Checks of passageGet, in the order of R316. -/
def passageGetChecks (s : State) (h : Hdr) (pb : Bytes) : List (Option Fail) :=
  let i := fld pb 0 1
  let id := BitVec.ofNat 64 (fld pb 8 8)
  let ix := s.index? i
  let e := ix.bind fun x => x.latestAt id x.seq
  gate s 0x0407 h 32 true ++ fields [(0, decide (i < 64)), rsvd pb 1 7, (8, id != 0xFFFFFFFFFFFFFFFF), outField pb 16] ++ padding pb 32
    ++ [chk (match ix with | some x => !x.loading && !x.unloaded | none => true) stState 0, chk (match e with | some e => !e.deleted | none => false) stNotFound 0]
/-- A passage.get whose page reads are done completes: with the text, or with ERR_DEVICE where a page of it is unreadable (R288). -/
def State.getDone (s : State) (g : Get) : State :=
  if s.cel.busy (.get g.no) then s
  else
    let s := s.onRet fun r => { r with gets := r.gets.filter fun x => x.no ≠ g.no }
    match g.pages.find? fun k => !s.cel.readable k with
    | some k => (s.noPage k).err g.h (stDevice, 0)
    | none => s.output g.h g.pb 16 g.text (g.version.toNat % 2 ^ 32) (g.version.toNat / 2 ^ 32) g.text.length
def State.settleGets (s : State) : State := s.each s.ret.gets fun s g => s.getDone g
/-- passage.get (0x0407; R166): the latest version visible at its admission, read from the store's pages. -/
def State.admitPassageGet (s : State) (h : Hdr) (pb : Bytes) : State :=
  let i := fld pb 0 1
  let id := BitVec.ofNat 64 (fld pb 8 8)
  let ix := s.index? i
  let e := ix.bind fun x => x.latestAt id x.seq
  runCmd s h (passageGetChecks s h pb) fun s =>
    match ix, e with
    | some ix, some e =>
      let ks := ix.fetchPages id e.version
      let g : Get := { no := s.ret.nextGet, h := h, pb := pb, version := e.version, text := e.text, pages := ks }
      let s := s.onRet fun r => { r with nextGet := r.nextGet + 1, gets := r.gets ++ [g] }
      (s.each ks fun s k => s.queueRead k (.get g.no)).getDone g
    | _, _ => s.err h (stNotFound, 0)

end Sys2Proof.Machine
end

