-- ==== Sys2Proof/Machine/TableCmds.lean ====
section
/-! DEFINITION. The table commands: table.create with DESTROY, write, gather, info (0x05xx; R171 to R180, R185 to R189, R316 to R319), the end of a
gather and of a write. -/

namespace Sys2Proof.Machine

/-! ## table.create -/

def tableLen (pb : Bytes) : Nat := 32 + 8 * ceilDiv (fld pb 7 1) 4
/-- Field rules of Table 7.1 that need no object. -/
def tableFields (pb : Bytes) : List (Nat × Bool) :=
  let fl := fld pb 3 1
  let mk := !bit fl 1
  let comp := fld pb 1 1 == 2
  let n := fld pb 7 1
  let own := 32 + 2 * n
  [(1, !mk || decide (fld pb 1 1 ≤ 2)), (2, !mk || [0, 1, 3, 4].contains (fld pb 2 1)), (3, decide (fl < 4)),
   (4, !mk || (decide (1 ≤ fld pb 4 2) && decide (fld pb 4 2 ≤ 1024))), (6, !mk || !comp || decide (fld pb 6 1 ≤ 2)),
   (7, !mk || (decide (1 ≤ n) && decide (n ≤ 64))), (8, !mk || comp || (decide (1 ≤ fld pb 8 4) && decide (fld pb 8 4 ≤ 2147483648)))]
  ++ (if mk then [rsvd pb 14 2, (16, decide (fld pb 16 4 ≤ 16777216)), rsvd pb 20 4]
        ++ (List.range n).map (fun i => (32 + 2 * i, w16 pb (32 + 2 * i) != 0 && w16 pb (32 + 2 * i) != 0xFFFF))
        ++ (List.range (tableLen pb - own)).map fun j => (own + j, fld pb (own + j) 1 == 0) else [])
def tableAt (pb : Bytes) : Table :=
  { mode := fld pb 1 1, fmt := fld pb 2 1, width := fld pb 4 2, rows := if fld pb 1 1 = 2 then 0 else fld pb 8 4, seed := BitVec.ofNat 64 (fld pb 24 8),
    subA := fld pb 12 1, subB := fld pb 13 1, combine := fld pb 6 1, pantryRows := fld pb 16 4, owners := (List.range (fld pb 7 1)).map fun i => w16 pb (32 + 2 * i),
    ownerPools := bit (fld pb 3 1) 0, entries := [], attic := [], pantry := [], reclaim := [], gathers := 0, cands := [], slices := 0, hotWait := [], holders := [], lost := [], destroy := none }
/-- Attic granules of the shards this module owns, and HBM granules of the pantry (R171, R172). -/
def State.tableAttic (s : State) (t : Table) : Nat :=
  if t.mode = 2 then 0
  else ceilDiv (sumNat ((List.range t.owners.length).map fun sh => if s.ownsShard t sh then t.shardSlots sh * t.slotBytes + 8 * t.shardRows sh else 0)) Config.granule
def Table.hbm (t : Table) : Nat := ceilDiv (t.pantryRows * t.slotBytes) Config.granule
/-- Does an index's ranking binding or a composed table name the table? -/
def State.tableNamed (s : State) (tid : Nat) : Bool :=
  (s.ret.indexes.any fun x => x.2.featureSlots.any fun f => f.1 == tid) || s.tbl.tables.any fun t => t.2.mode == 2 && (t.2.subA == tid || t.2.subB == tid)
/-- A table whose removal is asked for goes once its gathers and writes in flight have ended. -/
def State.tryDestroy (s : State) (tid : Nat) : State :=
  match s.table? tid with
  | none => s
  | some t => match t.destroy with
    | none => s
    | some h =>
      if !(s.gathersOn tid).isEmpty || s.tbl.writes.any (fun w => w.table == tid) then s
      else
        let s := (s.attSize (.table tid) 0).hbmSize (.pantry tid) 0
        (s.onTbl fun b => { b with tables := KMap.erase b.tables tid }).ok h 0 0 0 0
/-- Checks of tableCreate, in the order of R316. -/
def tableCreateChecks (s : State) (h : Hdr) (pb : Bytes) : List (Option Fail) :=
  let tid := fld pb 0 1
  let mk := !bit (fld pb 3 1) 1
  let t := tableAt pb
  let sub := fun (x : Nat) => s.table? x
  gate s 0x0501 h (tableLen pb) true ++ fields (tableFields pb) ++ padding pb (tableLen pb)
    ++ (if mk then
          [chk (s.table? tid).isNone stState 0, chk (t.mode ≠ 2 || ((sub t.subA).isSome && (sub t.subB).isSome)) stNotFound 0]
          ++ (match sub t.subA, sub t.subB with
              | some a, some b =>
                [pchk 6 (t.mode ≠ 2 || (if t.combine = 2 then decide (a.width + b.width ≤ 1024) else a.width == b.width)),
                 pchk 12 (t.mode ≠ 2 || a.mode == 0), pchk 13 (t.mode ≠ 2 || b.mode == 0)]
              | _, _ => [])
          ++ [chk (decide (s.tableAttic t ≤ memAttFree s) && decide (t.hbm ≤ memHbmFree s)) stNoResource 0]
        else [chk (s.table? tid).isSome stNotFound 0, chk (!s.tableNamed tid) stBusy 0])
/-- table.create (0x0501), with DESTROY too. -/
def State.admitTableCreate (s : State) (h : Hdr) (pb : Bytes) : State :=
  let tid := fld pb 0 1
  let mk := !bit (fld pb 3 1) 1
  let t := tableAt pb
  runCmd s h (tableCreateChecks s h pb) fun s =>
    if mk then
      (((s.onTbl fun b => { b with tables := KMap.set b.tables tid t }).attSize (.table tid) (s.tableAttic t)).hbmSize (.pantry tid) t.hbm).ok h 0 0 0 0
    else (s.onTable tid fun x => { x with destroy := some h }).tryDestroy tid

/-! ## table.write -/

/-- The entries of a table.write: 8 + 4 × WIDTH bytes each (Table 13.10). -/
def writeEntries (width : Nat) (b : Bytes) : List WriteEntry :=
  (pieces (8 + 4 * width) b).map fun e => { row := BitVec.ofNat 32 (fld e 0 4), mode := BitVec.ofNat 8 (fld e 4 1), values := words32 (slice e 8 (4 * width)) width }
def Table.entryOk (t : Table) (e : WriteEntry) : Bool := decide (e.row.toNat < t.rows) && decide (e.mode.toNat ≤ 1) && e.values.length == t.width && e.values.all finite32
/-- A write whose every entry is applied and acknowledged ends (R187, R188). -/
def State.endWrites (s : State) : State :=
  let done := fun (w : TWrite) => w.entries.isEmpty && w.owners.isEmpty && w.formed.isNone
  let l := s.tbl.writes.filter done
  let s := s.onTbl fun b => { b with writes := b.writes.filter fun w => !done w }
  s.each l fun s w =>
    let s := match w.cmd with
      | some h => (match w.failed with | some i => s.err h (stDevice, BitVec.ofNat 16 i) | none => s.ok h w.count 0 0 0)
      | none => (match w.remote with | some m => s.reply m 4 (.updateAck w.count) | none => s)
    s.tryDestroy w.table
/-- An open write is admitted behind those before it, under the next number. -/
def State.openWrite (s : State) (w : TWrite) : State :=
  (s.onTbl fun b => { b with writes := b.writes ++ [{ w with no := b.nextWrite }], nextWrite := b.nextWrite + 1 }).endWrites
/-- Checks of tableWrite, in the order of R316. -/
def tableWriteChecks (s : State) (h : Hdr) (pb : Bytes) : List (Option Fail) :=
  let tid := fld pb 0 1
  let n := fld pb 4 4
  let d := dlData s pb 8
  let t := s.table? tid
  let es := match t with | some t => writeEntries t.width d | none => []
  gate s 0x0502 h 24 true ++ fields ([rsvd pb 1 3, (4, decide (1 ≤ n) && decide (n ≤ 65536))] ++ dlField pb 8 true) ++ padding pb 24
    ++ [dlChk s pb 8, chk t.isSome stNotFound 0,
        pchk 0 (match t with | some t => t.mode != 2 | none => true),
        chk (match t with
          | some t => d.length == n * (8 + 4 * t.width) && es.all t.entryOk && (pieces (8 + 4 * t.width) d).all fun e => allZero (slice e 5 3)
          | none => true) stParam 0xFFF2]
/-- table.write (0x0502): local entries queue for their shards, the others go to their owners in command order (R188). -/
def State.admitTableWrite (s : State) (h : Hdr) (pb : Bytes) : State :=
  let tid := fld pb 0 1
  let n := fld pb 4 4
  let d := dlData s pb 8
  let t := s.table? tid
  let es := match t with | some t => writeEntries t.width d | none => []
  runCmd s h (tableWriteChecks s h pb) fun s =>
    match t with
    | none => s.err h (stNotFound, 0)
    | some t =>
      let num := enum es
      let loc := num.filter fun x => s.ownsShard t (t.shardOf x.2.row.toNat)
      let far := num.filter fun x => !(s.ownsShard t (t.shardOf x.2.row.toNat))
      let owner := fun (x : Nat × WriteEntry) => (t.owners[t.shardOf x.2.row.toNat]?).getD 0
      let os := (dedup (far.map owner)).map fun o => (o, far.filter fun x => owner x == o)
      let up := os.filter fun o => KMap.has s.fab.routes o.1.toNat
      let lost := (os.filter fun o => !(KMap.has s.fab.routes o.1.toNat)).flatMap fun o => o.2.map Prod.fst
      let s := s.each up fun s o => s.send o.1 4 (.update s.tbl.nextWrite tid (o.2.map Prod.snd))
      s.openWrite { no := 0, table := tid, cmd := some h, remote := none, count := n, entries := loc.map Prod.snd, waited := false, owners := up.map fun o => (o.1, o.2.map Prod.fst),
                    holders := [], formed := none, failed := lost.foldl (fun b i => match b with | some x => some (min x i) | none => some i) none }

/-! ## table.gather, table.info -/

def bagsOf : List Nat → List Occ → List (List Occ)
  | [], _ => []
  | n :: ns, l => l.take n :: bagsOf ns (l.drop n)
/-- Checks of tableGather, in the order of R316. -/
def tableGatherChecks (s : State) (h : Hdr) (pb : Bytes) : List (Option Fail) :=
  let tid := fld pb 0 1
  let nb := fld pb 4 4
  let no := fld pb 8 4
  let db := dlData s pb 16
  let dc := dlData s pb 32
  let counts := (pieces 4 db).map leNat
  let occs := (pieces 16 dc).map fun o => (⟨BitVec.ofNat 64 (fld o 0 8), BitVec.ofNat 32 (fld o 8 4)⟩ : Occ)
  let bags := bagsOf counts occs
  let p := h.partNo
  gate s 0x0503 h 64 true
    ++ fields ([(1, decide (fld pb 1 1 ≤ 2)), rsvd pb 2 2, (4, decide (1 ≤ nb) && decide (nb ≤ 65536)), (8, decide (1 ≤ no) && decide (no ≤ 4194304)), rsvd pb 12 4]
        ++ dlField pb 16 true ++ dlField pb 32 true ++ [outField pb 48]) ++ padding pb 64
    ++ [dlChk s pb 16, dlChk s pb 32,
        chk (db.length == 4 * nb && dc.length == 16 * no && sumNat counts == no && (pieces 16 dc).all (fun o => fld o 12 4 == 0)
          && (fld pb 1 1 != 2 || occs.all fun o => finite32 o.weight)) stParam 0xFFF2,
        partOk s h 0, chk (s.table? tid).isSome stNotFound 0,
        chk (s.entriesFit p (s.rowsOf tid bags).length) stNoResource 0]
/-- table.gather (0x0503). -/
def State.admitTableGather (s : State) (h : Hdr) (pb : Bytes) : State :=
  let tid := fld pb 0 1
  let nb := fld pb 4 4
  let db := dlData s pb 16
  let dc := dlData s pb 32
  let counts := (pieces 4 db).map leNat
  let occs := (pieces 16 dc).map fun o => (⟨BitVec.ofNat 64 (fld o 0 8), BitVec.ofNat 32 (fld o 8 4)⟩ : Occ)
  let bags := bagsOf counts occs
  let p := h.partNo
  runIn s h false (tableGatherChecks s h pb) fun s =>
    let need := nb * (4 * s.gatherWidth tid + 4)
    if fld pb 56 4 < need then s.finish h stParam 48 0 0 0 need
    else s.startGather { gid := 0, table := tid, pool := fld pb 1 1, bags := bags, cmd := some (h, BitVec.ofNat 64 (fld pb 48 8)), slot := none, part := p, kept := [], rows := 0, stamps := [], shards := [], far := [], sums := [], lostShards := [] }
/-- Candidate counts, largest first; equal counts by row (the tie is the model's choice). -/
def Table.topCands (t : Table) : List (Nat × Nat) := (sortBy (fun a b : Nat × Nat => decide (b.2 < a.2) || (a.2 == b.2 && decide (a.1 < b.1))) t.cands).take 4
/-- table.info's record (Table 13.11). -/
def tableRec (s : State) (t : Table) : Bytes :=
  payload [(8, (t.entries.filter fun e => entValid e.2.toNat && s.ownsShard t (t.shardOf e.1)).length), (4, (t.entries.filter fun e => entPant e.2.toNat).length),
           (4, t.holders.length), (4, t.reclaim.length)]
  ++ padTo 32 (t.topCands.flatMap fun c => payload [(4, c.1), (4, c.2)]) ++ List.replicate 12 0
/-- Checks of tableInfo, in the order of R316. -/
def tableInfoChecks (s : State) (h : Hdr) (pb : Bytes) : List (Option Fail) :=
  let tid := fld pb 0 1
  gate s 0x0504 h 24 true ++ fields [rsvd pb 1 7, outField pb 8] ++ padding pb 24 ++ [chk (s.table? tid).isSome stNotFound 0]
/-- table.info (0x0504). -/
def State.admitTableInfo (s : State) (h : Hdr) (pb : Bytes) : State :=
  let tid := fld pb 0 1
  runCmd s h (tableInfoChecks s h pb) fun s =>
    match s.table? tid with
    | some t => s.output h pb 8 (tableRec s t) 0 0 0
    | none => s.err h (stNotFound, 0)

end Sys2Proof.Machine
end

