-- ==== Sys2Proof/Machine/TextCmds.lean ====
section
/-! DEFINITION. The text commands: vocab.load and grammar.load with UNLOAD, tokenize, detokenize (0x06xx; R245 to R254, R268, R438). -/

namespace Sys2Proof.Machine

def granOf (n : Nat) : Nat := ceilDiv n Config.granule
/-- Checks of vocabLoad, in the order of R316. -/
def vocabLoadChecks (s : State) (h : Hdr) (pb : Bytes) : List (Option Fail) :=
  let id := fld pb 0 1
  let un := bit (fld pb 1 1) 0
  let d := dlData s pb 8
  let old := match KMap.get? s.sch.vocabs id with | some v => v.len | none => 0
  let held := granOf old
  gate s 0x0601 h 24 true
    ++ fields ([(0, decide (1 ≤ id) && decide (id ≤ 15)), (1, decide (fld pb 1 1 ≤ 1)), rsvd pb 2 6] ++ dlField pb 8 (!un) ++ [(8, !un || dlCount pb 8 == 0)]) ++ padding pb 24
    ++ [dlChk s pb 8, chk (!(s.sch.tenants.any fun t => t.2.vocab == id)) stBusy 0, chk (un || (decide (granOf d.length ≤ memHbmFree s + held) && (s.sysSub old).sysRoom d.length)) stNoResource 0]
/-- vocab.load (0x0601), with UNLOAD too. UNLOAD of an ID that holds nothing completes with OK (assumption 141). -/
def State.admitVocabLoad (s : State) (h : Hdr) (pb : Bytes) : State :=
  let id := fld pb 0 1
  let un := bit (fld pb 1 1) 0
  let d := dlData s pb 8
  let old := match KMap.get? s.sch.vocabs id with | some v => v.len | none => 0
  runCmd s h (vocabLoadChecks s h pb) fun s =>
    if un then ((s.onSch fun c => { c with vocabs := KMap.erase c.vocabs id }).hbmSize (.vocab id) 0).sysSub old |>.ok h 0 0 0 0
    else match parseVocab d with
      | none => s.err h (stParam, 0xFFF2)
      | some v =>
        ((s.onSch fun c => { c with vocabs := KMap.set c.vocabs id v }).hbmSize (.vocab id) (granOf v.len)).sysSub old |>.sysAdd v.len |>.ok h v.check.toNat 0 0 0
/-- Checks of grammarLoad, in the order of R316. -/
def grammarLoadChecks (s : State) (h : Hdr) (pb : Bytes) : List (Option Fail) :=
  let id := fld pb 0 1
  let un := bit (fld pb 1 1) 0
  let d := dlData s pb 8
  let old := match KMap.get? s.sch.grammars id with | some g => g.len | none => 0
  let held := granOf old
  gate s 0x0602 h 24 true
    ++ fields ([(0, decide (id ≤ 63)), (1, decide (fld pb 1 1 ≤ 1)), rsvd pb 2 6] ++ dlField pb 8 (!un) ++ [(8, !un || dlCount pb 8 == 0)]) ++ padding pb 24
    ++ [dlChk s pb 8, chk (!(s.sch.slots.any fun x => !x.2.closed && x.2.grammar == some id)) stBusy 0,
        chk (un || (decide (granOf d.length ≤ memHbmFree s + held) && (s.sysSub old).sysRoom d.length)) stNoResource 0]
/-- grammar.load (0x0602), with UNLOAD too. UNLOAD of an ID that holds nothing completes with OK (assumption 141). -/
def State.admitGrammarLoad (s : State) (h : Hdr) (pb : Bytes) : State :=
  let id := fld pb 0 1
  let un := bit (fld pb 1 1) 0
  let d := dlData s pb 8
  let old := match KMap.get? s.sch.grammars id with | some g => g.len | none => 0
  runCmd s h (grammarLoadChecks s h pb) fun s =>
    if un then ((s.onSch fun c => { c with grammars := KMap.erase c.grammars id }).hbmSize (.grammar id) 0).sysSub old |>.ok h 0 0 0 0
    else match parseGrammar d with
      | none => s.err h (stParam, 0xFFF2)
      | some g =>
        ((s.onSch fun c => { c with grammars := KMap.set c.grammars id g }).hbmSize (.grammar id) (granOf g.len)).sysSub old |>.sysAdd g.len |>.ok h g.vocabCheck.toNat 0 0 0
/-- Checks of tokenize, in the order of R316. -/
def tokenizeChecks (s : State) (h : Hdr) (pb : Bytes) : List (Option Fail) :=
  let v := s.vocab? (fld pb 0 1)
  gate s 0x0603 h 40 true ++ fields ([(0, decide (fld pb 0 1 ≤ 15)), rsvd pb 1 7] ++ dlField pb 8 true ++ [outField pb 24]) ++ padding pb 40
    ++ [dlChk s pb 8, partOk s h 0, chk v.isSome stNotFound 0]
/-- tokenize (0x0603). -/
def State.admitTokenize (s : State) (h : Hdr) (pb : Bytes) : State :=
  let v := s.vocab? (fld pb 0 1)
  runIn s h true (tokenizeChecks s h pb) fun s =>
    let (t, cut) := cutText 131072 (dlData s pb 8)
    let toks := tokenise (v.getD byteVocab) t
    if fld pb 32 4 < 4 * toks.length then s.finish h stParam 24 0 0 0 (4 * toks.length)
    else (s.hostWrite (fld pb 24 8) (wordsBytes toks)).finish h (if cut then stTruncated else stOk) 0 toks.length 0 0 0
/-- Checks of detokenize, in the order of R316. -/
def detokenizeChecks (s : State) (h : Hdr) (pb : Bytes) : List (Option Fail) :=
  let v := s.vocab? (fld pb 0 1)
  let n := fld pb 4 4
  let d := dlData s pb 8
  let ids := words32 d (d.length / 4)
  gate s 0x0604 h 40 true
    ++ fields ([(0, decide (fld pb 0 1 ≤ 15)), rsvd pb 1 3, (4, decide (1 ≤ n) && decide (n ≤ 32768))] ++ dlField pb 8 true ++ [outField pb 24]) ++ padding pb 40
    ++ [dlChk s pb 8, chk (d.length == 4 * n) stParam 0xFFF2, partOk s h 0, chk v.isSome stNotFound 0,
        chk (match v with | some v => ids.all fun x => decide (x.toNat < v.size) | none => true) stParam 0xFFF2]
/-- detokenize (0x0604). -/
def State.admitDetokenize (s : State) (h : Hdr) (pb : Bytes) : State :=
  let v := s.vocab? (fld pb 0 1)
  let d := dlData s pb 8
  let ids := words32 d (d.length / 4)
  runIn s h true (detokenizeChecks s h pb) fun s =>
    let out := detokenise (v.getD byteVocab) ids
    s.output h pb 24 out out.length 0 0

end Sys2Proof.Machine
end

