-- ==== Sys2Proof/Machine/PartCmds.lean ====
section
/-! DEFINITION. Partitions and accounts: part.set, part.stats, part.regulate (0x07xx), acct.read (0x0B04) (R109, R113, R130, R210 to R214, R244, R325). -/

namespace Sys2Proof.Machine

/-! ## What a partition uses -/

/-- Granules of the landing in use: pinned tenants, and slots that hold or receive a layer. -/
def State.landUse (s : State) (p : Nat) : Nat :=
  let slot := maxNat (((s.sourcesOf p (s.tenantsIn p)).filter fun x => !x.2.2).map fun x => x.2.1.layerBytes)
  ceilDiv (s.pinnedBytes p + (s.part p).land.length * slot) Config.granule
def State.workUse (s : State) (p : Nat) : Nat := ceilDiv (s.entryUse p) Config.granule
def State.kvUse (s : State) (p : Nat) : Nat := ceilDiv (sumNat ((s.part p).frames.map fun f => f.2.units)) 512
/-- Spill frames in the attic; those on a lease are the lender's. -/
def State.spillUse (s : State) (p : Nat) : Nat := ceilDiv (sumNat ((s.part p).spill.map fun f => if f.1 < 2 ^ 40 then f.2.units else 0)) 512
/-- Cores a partition has, or has been given by a part.set that is pending. -/
def Part.coresDue (x : Part) : Nat := match x.target with | some (n, _) => n | none => x.cores.length

/-! ## part.set -/

def partFields (pb : Bytes) : List (Nat × Bool) :=
  [(0, decide (fld pb 0 1 ≤ 32)), (1, decide (fld pb 1 1 ≤ 1)), rsvd pb 2 2, (4, decide (1 ≤ fld pb 4 4) && decide (fld pb 4 4 ≤ 8192)), rsvd pb 28 4]
/-- The partition with the settings of a part.set, less its core count. -/
def Part.settings (x : Part) (pb : Bytes) : Part :=
  { x with raw := fld pb 1 1 == 1, quota := fld pb 4 4, landing := fld pb 8 4, work := fld pb 12 4, kvPool := fld pb 16 4, images := fld pb 20 4, kvSpill := fld pb 24 4 }
/-- Net growth fits what is free (R108, R210). -/
def fits (old new free : Nat) : Bool := decide (new ≤ old + free)
/-- The shares of a partition have their granules (R108, R210): those that shrink first. -/
def State.partShares (s : State) (p : Nat) (y : Part) : State :=
  let l := [((.landing p : Region), y.landing), (.work p, y.work), (.kvPool p, y.kvPool)]
  let m := [((.images p : Region), y.images), (.kvSpill p, y.kvSpill)]
  let less := fun (runs : List GranRun) (l : List (Region × Nat)) => l.filter fun x => x.2 < granOfRegion runs x.1
  let s := (s.each (less s.mem.hbm l) fun s x => s.hbmSize x.1 x.2).each (less s.mem.att m) fun s x => s.attSize x.1 x.2
  (s.each l fun s x => s.hbmSize x.1 x.2).each m fun s x => s.attSize x.1 x.2
/-- Checks of partSet, in the order of R316. -/
def partSetChecks (s : State) (h : Hdr) (pb : Bytes) : List (Option Fail) :=
  let p := h.partNo
  let x := s.part p
  let n := fld pb 0 1
  let others := sumNat (s.sch.parts.map fun q => if q.1 = p then 0 else q.2.coresDue)
  let try_ := s.onPart p fun y => y.settings pb
  let hbm := fun (y : Part) => y.landing + y.work + y.kvPool
  let att := fun (y : Part) => y.images + y.kvSpill
  let y := x.settings pb
  gate s 0x0701 h 32 true ++ fields (partFields pb) ++ padding pb 32
    ++ [chk (decide (s.landUse p ≤ y.landing) && decide (s.workUse p ≤ y.work) && decide (s.kvUse p ≤ y.kvPool) && decide (s.imageUse p ≤ y.images)
          && decide (s.spillUse p ≤ y.kvSpill) && decide ((s.slotsOf p).length ≤ y.quota) && (y.raw == x.raw || (s.liveOf p).isEmpty)) stBusy 0,
        chk (fits (hbm x + 8 * x.cores.length) (hbm y + 8 * n) (memHbmFree s) && fits (att x) (att y) (memAttFree s)
          && decide (others + n ≤ s.inService.length) && try_.landOk p) stNoResource 0]
/-- part.set (0x0701): the shares and settings take effect at once, the core count at boundaries (R213). -/
def State.admitPartSet (s : State) (h : Hdr) (pb : Bytes) : State :=
  let p := h.partNo
  let x := s.part p
  let n := fld pb 0 1
  let y := x.settings pb
  runIn s h false (partSetChecks s h pb) fun s =>
    ((s.partShares p y).onPart p fun z => { (z.settings pb) with target := some (n, h) }).settle

/-! ## part.stats, part.regulate -/

/-- part.stats' record (Table 13.11). -/
def partRec (s : State) (p : Nat) : Bytes :=
  let x := s.part p
  payload [(4, schPartCfg s p), (4, (x.schedNew.getD x.sched).toNat), (4, schPartStat s p), (4, x.slow.toNat), (8, x.lastStep.toNat), (4, x.cyc.toNat), (4, (s.liveOf p).length),
           (4, s.landUse p), (4, s.workUse p), (4, s.kvUse p), (4, s.imageUse p), (4, s.spillUse p), (4, x.w), (8, 0)]
/-- Checks of partStats, in the order of R316. -/
def partStatsChecks (s : State) (h : Hdr) (pb : Bytes) : List (Option Fail) :=
  gate s 0x0702 h 16 h.ownPart ++ fields [outField pb 0] ++ padding pb 16
/-- part.stats (0x0702). -/
def State.admitPartStats (s : State) (h : Hdr) (pb : Bytes) : State :=
  runIn s h false (partStatsChecks s h pb) fun s => s.output h pb 0 (partRec s h.partNo) 0 0 0
/-- A regulator word obeys R130. -/
def regWordOk (w : Nat) : Bool := decide (1 ≤ bits w 29 19) && decide (bits w 29 19 ≤ 1024) && bits w 18 3 != 0 && bits w 2 0 == 0
/-- SHARE a partition counts with on resource `k`: of its latest accepted part.regulate, 0 where not enabled. -/
def Part.shareDue (x : Part) (k : Nat) : Nat :=
  match x.regsNew.bind fun ws => ws[k]? with
  | some w => if bit w.toNat 31 then bits w.toNat 29 19 else 0
  | none => match x.regs[k]? with | some r => if r.en then r.share.toNat else 0 | none => 0
/-- Checks of partRegulate, in the order of R316. -/
def partRegulateChecks (s : State) (h : Hdr) (pb : Bytes) : List (Option Fail) :=
  let p := h.partNo
  let ws := (List.range 4).map fun k => fld pb (4 * k) 4
  let sum := fun (k w : Nat) => (if bit w 31 then bits w 29 19 else 0) + sumNat (s.sch.parts.map fun q => if q.1 = p then 0 else q.2.shareDue k)
  gate s 0x0703 h 16 true ++ (enum ws).map (fun x => pchk (4 * x.1) (regWordOk x.2)) ++ padding pb 16
    ++ (enum ws).map fun x => pchk (4 * x.1) (!bit x.2 31 || decide (sum x.1 x.2 ≤ 1024))
/-- part.regulate (0x0703). -/
def State.admitPartRegulate (s : State) (h : Hdr) (pb : Bytes) : State :=
  let p := h.partNo
  let ws := (List.range 4).map fun k => fld pb (4 * k) 4
  runIn s h false (partRegulateChecks s h pb) fun s =>
    ((s.onPart p fun x => { x with regsNew := some (ws.map (BitVec.ofNat 32)) }).settle).ok h 0 0 0 0

/-! ## acct.read -/

/-- The 128 bytes of an accounting record (Table 9.10). -/
def Acct.bytes (a : Acct) : Bytes :=
  ([a.qwaitSteps, a.qwaitUs, a.pageWait, a.preempt, a.displaced, a.tokensIn, a.tokensOut, a.rebuild, a.searches, a.cellar, a.throttle, a.requests].flatMap
    fun w => leBytes 8 w.toNat) ++ List.replicate 32 0
/-- acct.read (0x0B04) over the record it names, which its clear flag zeroes in the same action (R244); a buffer too short leaves it as it is. -/
def State.acctOut (s : State) (h : Hdr) (pb : Bytes) (clear : State → State) (a : Acct) : State :=
  (s.iff (bit (fld pb 0 1) 0 && decide (128 ≤ fld pb 16 4)) clear).output h pb 8 a.bytes 0 0 0
/-- Checks of acctRead, in the order of R316. -/
def acctReadChecks (s : State) (h : Hdr) (pb : Bytes) : List (Option Fail) :=
  let p := h.partNo
  let ten := bit (fld pb 0 1) 1
  let tid := w16At pb 2
  let mine := match s.tenant? tid with | some t => bit t.mask.toNat p | none => true
  gate s 0x0B04 h 24 (h.ownPart && (!h.isVf || !ten || mine))
    ++ fields [(0, decide (fld pb 0 1 ≤ 3)), rsvd pb 1 1, (2, !ten || tid != 0), rsvd pb 4 4, outField pb 8] ++ padding pb 24
    ++ [chk (!ten || (s.tenant? tid).isSome) stNotFound 0]
def State.admitAcctRead (s : State) (h : Hdr) (pb : Bytes) : State :=
  let p := h.partNo
  let ten := bit (fld pb 0 1) 1
  let tid := w16At pb 2
  runIn s h false (acctReadChecks s h pb) fun s =>
    if ten then
      match s.tenant? tid with
      | some t => s.acctOut h pb (fun s => s.onSch fun c => { c with tenants := KMap.mod c.tenants tid.toNat fun t => { t with acct := Acct.zero } }) t.acct
      | none => s.err h (stNotFound, 0)
    else s.acctOut h pb (fun s => s.onPart p fun x => { x with acct := Acct.zero }) (s.part p).acct

end Sys2Proof.Machine
end

