-- ==== Sys2Proof/Machine/FabOps.lean ====
section
/-! DEFINITION. Operations on the fabric (14): lanes and ports, routes, leases, ordered streams, mirrors and takeover, departure (R329 to R354). -/

namespace Sys2Proof.Machine

/-! ## Lanes and ports (Table 14.1, R329, R330) -/

def lanesOf (p : Nat) : List Nat := if p < 4 then [2 * p, 2 * p + 1] else [2 * p + 1, 2 * p + 2]
def portOfLane (l : Nat) : Option Nat := if l = 8 || l = 17 then none else some (if l < 8 then l / 2 else (l - 1) / 2)
/-- Half of a lane: 0 is PD_FAB_A, 1 is PD_FAB_B. -/
def laneHalf (l : Nat) : Nat := if l < 9 then 0 else 1
def spareLane (half : Nat) : Nat := if half = 0 then 8 else 17
def Fab.spareOf (f : Fab) (half : Nat) : Option Nat := if half = 0 then f.spareA else f.spareB
/-- Does the lane, or the spare that replaces it, carry flits? -/
def Fab.laneGood (f : Fab) (l : Nat) : Bool :=
  !f.laneFailed.getLsbD l || (f.spareOf (laneHalf l) == some l && !f.laneFailed.getLsbD (spareLane (laneHalf l)))
def Fab.goodLanes (f : Fab) (p : Nat) : Nat := ((lanesOf p).filter f.laneGood).length
def State.upPorts (s : State) : List Nat := (List.range 8).filter fun p => (s.port p).up
/-- Ports that route, forward and accept packets (R334). -/
def State.openPorts (s : State) : List Nat := (List.range 8).filter fun p => (s.port p).up && (s.port p).auth
def State.flood (s : State) (b : MsgBody) : State := s.each s.openPorts fun s p => s.sendPort p b
def State.floodExcept (s : State) (q : Nat) (b : MsgBody) : State := s.each (s.openPorts.filter (· ≠ q)) fun s p => s.sendPort p b

/-! ## Routes (R337) -/

/-- The shard groups this module serves (R346). -/
def State.ownGroups (s : State) : List GroupAdv :=
  if !s.fab.valid then []
  else s.ret.indexes.filterMap fun x =>
    let g := (KMap.getD s.fab.groups x.1 0).toNat
    if bit g 16 then some { member := s.fab.addr, index := ⟨x.1 % 64, Nat.mod_lt _ (by decide)⟩, group := BitVec.ofNat 12 g, dim := BitVec.ofNat 16 x.2.dim,
                            metric := BitVec.ofNat 8 x.2.metric }
    else none
/-- The route table goes to every neighbour, a route over the neighbour's own port as unreachable; the shard groups in force change with it (R356). -/
def State.advertise (s : State) : State :=
  let g := s.ownGroups ++ s.fab.heard
  let s := s.each s.openPorts fun s q =>
    s.sendPort q (.routes (s.fab.routes.map fun r => { dest := BitVec.ofNat 16 r.1, hops := BitVec.ofNat 6 (if r.2.port = q then 32 else r.2.hops) }) g)
  s.onFab fun f => { f with groupsNow := f.groups }
def routeLt (a b : Route) : Bool :=
  decide (a.hops < b.hops) || (a.hops == b.hops && (decide (a.via.toNat < b.via.toNat) || (a.via == b.via && decide (a.port < b.port))))
/-- One entry of a neighbour's table. -/
def Fab.learn (port : Nat) (via : W16) (f : Fab) (a : RouteAdv) : Fab :=
  let h := a.hops.toNat + 1
  let k := a.dest.toNat
  let new : Route := { port := port, hops := h, via := via }
  if k = 0 || k = 0xFFFF || (f.valid && a.dest == f.addr) then f
  else match KMap.get? f.routes k with
    | some r =>
      if r.port = port then { f with routes := if h ≤ 31 then KMap.set f.routes k new else KMap.erase f.routes k }
      else if h ≤ 31 && routeLt new r then { f with routes := KMap.set f.routes k new } else f
    | none => if h ≤ 31 && f.routes.length < 4096 then { f with routes := KMap.set f.routes k new } else f
/-- A port's link state is cleared and every route over it withdrawn (R337); what its receive buffers hold is lost, and packets on their way over it are
discarded. -/
def State.closePort (s : State) (p : Nat) : State :=
  let s := s.onPort p fun x => { x with up := false, auth := false, retraining := false, replay := [], txSeq := 0, rxSeq := 0xFFF,
                                        credits := [136, 136, 136, 136], rxHeld := [0, 0, 0, 0] }
  (s.onFab fun f => { f with routes := f.routes.filter fun r => r.2.port ≠ p,
                             transit := (f.transit.filter fun t => t.port ≠ p).map fun t => if t.toward = .over p then { t with toward := .gone } else t }).advertise
/-- A port goes down: recorded, and a peer-down notice flooded (R330, R339). -/
def State.portDown (s : State) (p : Nat) (idle : Bool) : State :=
  let x := s.port p
  if !x.up then s
  else ((s.closePort p).fabricEvent 2 p 0xFF x.peer x.serial 0).flood (.peerDown x.peer idle)
/-- A fabric half whose nine lanes have all failed turns off (R383). -/
def State.halfOff (s : State) (half : Nat) : State :=
  if (List.range 9).all fun i => s.fab.laneFailed.getLsbD (9 * half + i) then s.setDom (2 + half) .off else s
/-- A lane fails (R329): its port runs on the other lane, the domain's spare comes in where it is unused, else the port stays at half rate or goes
down. The answer says whether a spare came in. -/
def State.failLane (s : State) (l : Nat) : State × Bool :=
  if s.fab.laneFailed.getLsbD l then (s, false)
  else
    let half := laneHalf l
    let hit := match portOfLane l with | some p => some p | none => (s.fab.spareOf half).bind portOfLane
    let s := s.onFab fun f => { f with laneFailed := f.laneFailed ||| BitVec.ofNat 18 (2 ^ l) }
    let x := match hit with | some p => s.port p | none => Port.reset
    let s := s.fabricEvent 0 (hit.getD 0xFF) l (if x.up then x.peer else 0) (if x.up then x.serial else 0) 0
    match hit with
    | none => (s.halfOff half, false)
    | some p =>
      let spare := (s.fab.spareOf half).isNone && !s.fab.laneFailed.getLsbD (spareLane half) && l ≠ spareLane half
      let s := if spare then
          let s := s.spareIn 7 p l (spareLane half)
          let s := s.fabricEvent 1 p l (if x.up then x.peer else 0) (if x.up then x.serial else 0) 0
          (s.onFab fun f => if half = 0 then { f with spareA := some l } else { f with spareB := some l }).onPort p fun x => { x with spared := true }
        else s
      let n := s.fab.goodLanes p
      let s := s.onPort p fun x => { x with half := n == 1 }
      let s := if n = 0 then s.portDown p false else s
      (s.halfOff half, spare)

/-! ## Addresses (R335) -/

/-- The candidate address of a counter value c. -/
def candidate (serial : W64) (c : Nat) : W16 :=
  let d := digestBytes (sm3 (leBytes 8 serial.toNat ++ leBytes 4 c))
  BitVec.ofNat 16 (leNat (d.take 2))
def nextCand (serial : W64) : Nat → Nat → Nat × W16
  | 0, c => (c, candidate serial c)
  | fuel + 1, c => let a := candidate serial c; if a = 0 || a = 0xFFFF then nextCand serial fuel (c + 1) else (c, a)
/-- The module probes a candidate: the saved address first, else the next of the sequence. -/
def State.probe (s : State) (saved : Bool) : State :=
  let (c, a) := if saved && s.bbx.savedAddr ≠ 0 then (s.fab.probeC.toNat, s.bbx.savedAddr)
    else let x := nextCand s.ident.serial 8 s.fab.probeC.toNat; (x.1 + 1, x.2)
  (s.onFab fun f => { f with addr := a, probeC := BitVec.ofNat 32 c, probing := true, valid := false }).flood (.probe a s.ident.serial)

/-! ## Leases (R343 to R345, R129) -/

/-- The 4 KiB units of attic a lease holds, from a byte offset on (Table 5.3). -/
def State.lentUnits (s : State) (l : Lent) (off n : Nat) : List Nat :=
  (List.range n).filterMap fun i => (unitAt (regionUnits s.mem.att (.lent l.borrower l.ref)) (off / 4096 + i)).map attAt
def Fab.lentTo (f : Fab) (m : MsgHdr) : Option Lent := f.lent.find? fun l => l.borrower == m.src && l.ref == m.context
/-- A withdrawal completes when every part of the offer is released. -/
def State.endWithdraw (s : State) : State :=
  if s.fab.lent.isEmpty then s.each s.fab.withdrawing fun s h => (s.onFab fun f => { f with withdrawing := [] }).ok h 0 0 0 0 else s
/-- Granules come back: zero-filled, and free again under a withdrawal, else on offer again. -/
def State.reclaimLent (s : State) (l : Lent) : State :=
  let s := s.zeroRegion (regionUnits s.mem.att (.lent l.borrower l.ref))
  let s := s.onFab fun f => { f with lent := f.lent.filter (· ≠ l), offered := if !f.withdrawing.isEmpty then f.offered else f.offered ++ [l.gib] }
  let s := (s.attSize (.lent l.borrower l.ref) 0).attSize .offer (512 * sumNat s.fab.offered)
  s.endWithdraw
/-- Pages of the sequences of a partition on a lease window. -/
def KvPage.onLease (w : Nat) (g : KvPage) : Bool := !g.lost && g.loc == 2 && g.lease == w
/-- Identical copies that a lease holds of frames in HBM are given up, and CLEAN with them (Table 5.6). -/
def State.dropLeaseCopies (s : State) (w : Nat) : State :=
  s.each (KMap.keys s.sch.parts) fun s p =>
    let ks := ((s.part p).frames.filter fun f => match f.2.copy with | some c => c / 2 ^ 40 == w + 1 | none => false).map Prod.fst
    (s.onPart p fun x => ks.foldl Part.dropCopy x).onPages p fun g => if !g.isOut && ks.contains g.frame then g.move g.loc g.lease g.frame false else g
/-- A window is lost without notice (R129): the pages on it are rebuilt by re-prefill. -/
def State.windowLost (s : State) (w : Nat) : State :=
  let s := s.each s.sch.slots fun s x =>
    if x.2.pages.any (KvPage.onLease w) then
      s.onReq x.1 fun r => { r with replayed := true, pages := r.pages.map fun g => if g.onLease w then { g with lost := true } else g }
    else s
  let s := s.dropLeaseCopies w
  let s := s.each (KMap.keys s.sch.parts) fun s p => s.onPart p fun x => { x with spill := x.spill.filter fun f => f.1 / 2 ^ 40 ≠ w + 1 }
  s.onFab fun f => { f with windows := KMap.erase f.windows w }
/-- Is a page of some sequence on the window? -/
def State.windowUsed (s : State) (w : Nat) : Bool := s.sch.parts.any fun p => p.2.spill.any fun f => f.1 / 2 ^ 40 == w + 1
/-- A draining window with no page left is released to its lender. -/
def State.drainWindows (s : State) : State :=
  s.each (s.fab.windows.filter fun w => w.2.draining && !s.windowUsed w.1) fun s w =>
    (s.send w.2.lender 3 (.leaseRelease w.1)).onFab fun f => { f with windows := KMap.erase f.windows w.1 }

/-! ## Streams (R341, R342) -/

/-- The message this module sent that a reply answers. -/
def State.sent? (s : State) (m : MsgHdr) (cls : Nat) : Option OutMsg :=
  s.fab.out.find? fun o => o.dest == m.src && o.cls.toNat == cls && o.msgId == m.msgId && !o.reply && o.port.isNone
def State.dropOut (s : State) (o : OutMsg) : State := s.onFab fun f => { f with out := f.out.filter (· ≠ o) }
def streamKey (src : W16) (cls : Nat) : Nat := src.toNat * 256 + cls
/-- A message of a class is the next one of its stream. -/
def State.inTurn (s : State) (m : MsgHdr) (cls : Nat) : Bool :=
  !s.departed && !m.isReply && !m.isResync && m.msgId == KMap.getD s.fab.rxIds (streamKey m.src cls) 0
/-- The stream's number moves past a message. -/
def State.took (s : State) (m : MsgHdr) (cls : Nat) : State := s.onFab fun f => { f with rxIds := KMap.set f.rxIds (streamKey m.src cls) (m.msgId + 1) }
/-- Messages of a stream that had arrived early and follow the expected number are applied in order. -/
def State.catchUp (apply : Instr → State → State) (key : Nat) : Nat → State → State
  | 0, s => s
  | fuel + 1, s =>
    let n := KMap.getD s.fab.rxIds key 0
    match s.fab.early.find? fun e => e.1 == key && e.2.1 == n with
    | none => s
    | some e =>
      let s := s.onFab fun f => { f with rxIds := KMap.set f.rxIds key (n + 1), early := f.early.filter fun x => !(x.1 == key && x.2.1 == n) }
      State.catchUp apply key fuel (match e.2.2 with | some i => apply i s | none => s)
/-- A message of a stream arrives. One of an ordered class is applied in MSG_ID order: held (at most 64) ahead of a gap, discarded where already
applied. One of an unordered class is applied at once; its number counts in the stream. -/
def State.arrive (s : State) (m : MsgHdr) (cls : Nat) (ordered : Bool) (i : Instr) (apply : Instr → State → State) : State :=
  let key := streamKey m.src cls
  let s := if m.isResync then s.onFab fun f => { f with rxIds := KMap.set f.rxIds key m.msgId, early := f.early.filter fun e => e.1 ≠ key } else s
  let n := KMap.getD s.fab.rxIds key 0
  let early := s.fab.early.filter fun e => e.1 == key
  if m.msgId = n then
    State.catchUp apply key 65 (apply i (s.took m cls))
  else if m.msgId - n < 0x80000000 then
    if early.any fun e => e.2.1 == m.msgId then (if ordered then s else apply i s)
    else if ordered then (if early.length < 64 then s.onFab fun f => { f with early := f.early ++ [(key, m.msgId, some i)] } else s)
    else apply i (s.onFab fun f => { f with early := f.early ++ [(key, m.msgId, none)] })
  else if ordered then s else apply i s

/-! ## Mirrors and takeover (R349 to R353) -/

/-- Key of the delivery queue pair of a partition: queue pair 0 of its VF, or of the PF. -/
def State.deliveryFn (s : State) (p : PartNo) : Fn := if s.porch.vfs.getLsbD p.val then ⟨p.val + 1, Nat.succ_lt_succ p.isLt⟩ else 0
/-- R349, the conditions that the buddy checks. -/
def State.mirrorOk (s : State) (d : MirrorDesc) : Bool :=
  let x := s.part d.part.val
  let q := s.qp (qpKey (s.deliveryFn d.part) 0)
  !x.cores.isEmpty && !x.raw
    && (match s.tenant? d.tenant with | some t => bit t.mask.toNat d.part.val && t.model.modelId == d.modelId | none => false)
    && (!d.grammarEn || KMap.has s.sch.grammars d.grammar.toNat) && q.active && q.en && !q.stopped
/-- A mirrored or migrated request is admitted as a rebuild on this module (R352), or gets ERR_DEVICE with MIGRATED. It takes a CQ entry of its delivery queue pair
as a fetched command does (R307), and waits for one where none is free. -/
def State.resume (s : State) (d : MirrorDesc) : State :=
  let fn := s.deliveryFn d.part
  let k := qpKey fn 0
  let slot := s.freeSlot d.part.val
  if (s.qp k).active && !(s.qp k).stopped && !(s.qp k).cqRoom then s.onFab fun f => { f with resuming := f.resuming ++ [d] }
  else match slot, s.mirrorOk d with
  | some n, true =>
    let h : Hdr := { fn := fn, qp := 0, flags := 0, part := BitVec.ofNat 8 d.part.val, tag := d.tag, paramLen := 0, rsv := 0, run := (s.qp k).runs }
    let g := nextGen (KMap.getD s.sch.gens n 0)
    let pb := List.replicate (if d.isAsk then 160 else 32) 0 ++ padTo 40 d.sampling ++ padTo 592 d.stop
    let gr := if d.grammarEn then KMap.get? s.sch.grammars d.grammar.toNat else none
    let v := s.tenantVocab d.tenant
    let (buf, out, q, st) := rederive v gr d.stop [] [] (match gr with | some x => x.start | none => 0) [] d.tokens
    let r := { newReq s h (if d.isAsk then .ask else .generate) g pb with
      tenant := d.tenant, grammar := if d.grammarEn then some d.grammar.toNat else none, gState := BitVec.ofNat 16 q, gStack := st, prompt := d.prompt,
      emitted := d.tokens, buf := buf, issued := d.bytes.toNat, visible := d.bytes.toNat, phase := 4, stage := 9, migrated := true, rebuild := true,
      state := .rebuilding }
    let s := s.onSch fun c => { c with slots := KMap.set c.slots n r, gens := KMap.set c.gens n g }
    let s := s.onQp k fun q => { q with inFlight := q.inFlight + 1 }
    (((s.writeRecord n).issueText n (out.drop d.bytes.toNat)).mirrorOpen n).publishEntry n false
  | _, _ =>
    (s.onQp k fun q => { q with inFlight := q.inFlight + 1 }).complete k { tag := d.tag, status := stDevice, detail := 0, info := infoByte false true false s.degraded, r0 := 0, r1 := 0, r2 := 0, r3 := 0 }
/-- Requests taken over that waited for a CQ entry try again. -/
def State.resumeWaiting (s : State) : State :=
  let l := s.fab.resuming
  (s.onFab fun f => { f with resuming := [] }).each l State.resume
/-- The buddy declares a source lost (R351, R352): recorded, its holds and leases dropped, its mirrored requests resumed. -/
def State.declareLost (s : State) (src : W16) : State :=
  let ms := s.fab.mirrors.filter fun m => m.src == src
  if ms.isEmpty && !s.fab.sources.contains src then s
  else
    let serial := match (List.range 8).find? fun p => (s.port p).peer == src with | some p => (s.port p).serial | none => 0
    let s := s.fabricEvent 5 0xFF 0xFF src serial 0
    let s := s.onRet fun r => { r with memberHolds := r.memberHolds.filter fun h => h.1 ≠ src }
    let s := s.each (s.fab.lent.filter fun l => l.borrower == src) fun s l => s.reclaimLent l
    let s := s.onFab fun f => { f with mirrors := f.mirrors.filter fun m => m.src ≠ src, notices := f.notices.filter fun n => n.1 ≠ src }
    (s.each ms fun s m => s.resume m.desc).settle
/-- Mirroring to the buddy stops (R350). -/
def State.buddyLost (s : State) : State :=
  (s.onFab fun f => { f with buddyDown := true }).onSch fun c => { c with slots := KMap.mapAll c.slots fun _ r => { r with mirrored := false } }
/-- Every open mirror is closed at the buddy. -/
def State.closeMirrors (s : State) : State := s.each s.sch.slots fun s x => s.mirrorClose x.1

/-! ## Departure (R354) -/

/-- Every live request stops at once: nothing more is written for it, and its mirror stays open. -/
def State.stopAll (s : State) : State :=
  let s := s.onSch fun c =>
    { c with evac := none, slots := KMap.mapAll c.slots fun _ r => if r.closed then r else { r with closed := true, state := .ended, buf := [] },
             parts := KMap.mapAll c.parts fun _ x => { x with run := none, packets := [], again := false } }
  let s := s.onPorch fun p => { p with waiting := [], qps := KMap.mapAll p.qps fun _ q => { q with held := [], overflow := [] } }
  (s.onFab fun f => { f with resuming := [] }).onRet fun r => { r with jobs := [], ctx := List.replicate 8 0 }

end Sys2Proof.Machine
end

