-- ==== Sys2Proof/Machine/FabricLinks.lean ====
section
/-! DEFINITION. Tirtar links and routes: what happens on a port, and the routing protocol (R329 to R340, R351). -/

namespace Sys2Proof.Machine

/-- May a port come up: its domain is on, it has a lane, and it is down? -/
def State.portReady (s : State) (p : Nat) : Bool := !(s.port p).up && s.dom (2 + laneHalf (2 * p + p / 4)) == .on && decide (0 < s.fab.goodLanes p) && !s.departed
/-- PORT_UP: the exchange of chains and nonces begins (R333); a link that joins two holders of one address, or a 4,097th module, stays down (R336). -/
def State.linkUp (s : State) (p : Nat) (peer : W16) (serial : W64) : State :=
  if !s.portReady p then s
  else if s.fab.valid && peer == s.fab.addr then
    (if serial.toNat < s.ident.serial.toNat then s.fabricEvent 4 p 0xFF peer serial 0 else s)
  else if decide (4095 ≤ s.fab.routes.length) && !KMap.has s.fab.routes peer.toNat then s
  else
    let (n, s) := s.fresh
    (s.onPort p fun x => { x with up := true, auth := false, authFail := x.authFail, peer := peer, serial := serial, half := s.fab.goodLanes p == 1 }).sendPort p
      (.certs (BitVec.ofNat 256 n))

/-- LINK_AUTH_DONE (R333). -/
def State.authDone (s : State) (p : Nat) (ok : Bool) (digest : BitVec 128) : State :=
  let x := s.port p
  if !x.up || x.auth then s
  else if ok then
    (((s.onPort p fun x => { x with auth := true }).onFab fun f => f.learn p x.peer { dest := x.peer, hops := 0 }).advertise).iff s.fab.probing fun s =>
      s.sendPort p (.probe s.fab.addr s.ident.serial)
  else (s.onPort p fun x => { x with up := false, authFail := true }).fabricEvent 3 p 0xFF x.peer x.serial digest

/-- A port retrains (R332). -/
def State.retrain (s : State) (p : Nat) : State :=
  s.onPort p fun x => if x.up then { x with retraining := true, retrains := satAdd 8 x.retrains 1 } else x

/-! ## Flits (Table 14.2, R331, R332) -/

structure FlitHead where
  seq  : Nat
  ack  : Nat
  kind : Nat
  cvc  : Nat
  credits : Nat
  vc   : Nat
  first : Bool
  last : Bool
  deriving DecidableEq, Repr
def flitHead (b : Bytes) : FlitHead :=
  let w := fld b 0 8
  { seq := bits w 63 52, ack := bits w 51 40, kind := bits w 39 36, cvc := bits w 35 34, credits := bits w 33 24, vc := bits w 23 22, first := bit w 21, last := bit w 20 }
def flitOk (b : Bytes) : Bool := b.length == 256 && (crc32c (b.take 252)).toNat == fld b 252 4
/-- Flits of the replay buffer up to an acknowledged SEQ leave it. -/
def ackReplay (l : List (BitVec 12 × Nat × Bytes)) (ack : Nat) : List (BitVec 12 × Nat × Bytes) :=
  match indexOf (fun x => x.1.toNat == ack) l with
  | some i => l.drop (i + 1)
  | none => l
/-! ## Forwarding (R331, R338) -/

/-- Flits leave a receive buffer, and their credits return to the sender. -/
def State.freeFlits (s : State) (p vc n : Nat) : State :=
  if n = 0 then s else (s.onPort p fun x => { x with rxHeld := modAt x.rxHeld vc (· - n) }).sendPort p (.credits vc n)
/-- A data flit goes out: it takes a credit and the next SEQ, and stays in the replay buffer until it is acknowledged (R332). -/
def State.sendFlit (s : State) (q vc : Nat) (f : Bool × Bool × Bytes) : State :=
  let x := s.port q
  let w := x.txSeq.toNat * 2 ^ 52 + x.rxSeq.toNat * 2 ^ 40 + 2 ^ 36 + vc % 4 * 2 ^ 22 + boolNat f.1 * 2 ^ 21 + boolNat f.2.1 * 2 ^ 20
  let body := leBytes 8 w ++ padTo 244 f.2.2
  let flit := body ++ leBytes 4 (crc32c body).toNat
  (s.onPort q fun x => { x with txSeq := x.txSeq + 1, credits := modAt x.credits vc (· - 1), replay := x.replay ++ [(x.txSeq, 1, flit)] }).sendPort q (.flit flit)
/-- Flits a port may send now: it is authenticated (R334) and not retraining, and its replay buffer of 512 has room. -/
def Port.room (x : Port) : Nat := if x.up && x.auth && !x.retraining then 512 - x.replay.length else 0
def State.setTransit (s : State) (i : Nat) (t : Transit) : State := s.onFab fun f => { f with transit := setAt f.transit i t }
/-- The flits of a packet that can leave its receive buffer leave it. -/
def State.drainTransit (s : State) (i : Nat) (t : Transit) : State :=
  let n := match t.toward with
    | .over q => min t.flits.length (s.port q).room
    | .gone => t.flits.length
    | .here => if t.whole then t.flits.length else 0
    | .waiting => 0
  let s := s.setTransit i { t with flits := t.flits.drop n }
  let s := match t.toward with
    | .over q => s.each (t.flits.take n) fun s f => s.sendFlit q t.vc f
    | _ => s
  s.freeFlits t.port t.vc n
/-- A packet starts over the port of its route once that port holds credits for every flit of it and no other packet is on its way on the virtual channel; with no
route it is discarded. -/
def State.forwardOne (s : State) (i : Nat) : State :=
  match s.fab.transit[i]? with
  | none => s
  | some t =>
    if t.toward ≠ .waiting then s.drainTransit i t
    else match KMap.get? s.fab.routes t.dest.toNat with
      | none => s.drainTransit i { t with toward := .gone }
      | some r =>
        let x := s.port r.port
        if 0 < x.room && decide (t.total ≤ (x.credits[t.vc]?).getD 0) && !(s.fab.transit.any fun u => u.toward == .over r.port && u.vc == t.vc) then
          s.drainTransit i { t with toward := .over r.port }
        else s
/-- Every packet held goes on as far as it can, oldest first. -/
def State.forward (s : State) : State :=
  (s.each (List.range s.fab.transit.length) State.forwardOne).onFab fun f => { f with transit := f.transit.filter fun t => !(t.whole && t.flits.isEmpty) }
/-- DEST, HOPS and LENGTH of a packet header (Table 14.3). -/
def packetDest (d : Bytes) : W16 := BitVec.ofNat 16 (fld d 0 2)
def packetHops (d : Bytes) : Nat := fld d 6 1 % 64
def packetFlits (d : Bytes) : Nat := ceilDiv (32 + fld d 12 4) 244
/-- Where a packet goes: here, if its DEST is this module's address or names no module (assumption 150); nowhere, if its HOPS reach 0. -/
def State.packetToward (s : State) (d : Bytes) : Toward :=
  let a := packetDest d
  if a = 0 || a = 0xFFFF || (s.fab.valid && a == s.fab.addr) then .here else if packetHops d ≤ 1 then .gone else .waiting
/-- The packet header with HOPS one less. -/
def hopLess (d : Bytes) : Bytes := setAt d 6 (BitVec.ofNat 8 (fld d 6 1 / 64 * 64 + (packetHops d - 1)))
/-- An accepted data flit joins its packet; the first of one begins it. -/
def State.takeFlit (s : State) (p : Nat) (h : FlitHead) (d : Bytes) : State :=
  let s := s.onPort p fun x => { x with rxHeld := modAt x.rxHeld h.vc (· + 1) }
  if h.first then
    let way := s.packetToward d
    s.onFab fun f => { f with transit := f.transit ++ [{ port := p, vc := h.vc, dest := packetDest d, toward := way, total := packetFlits d,
                                                         flits := [(true, h.last, if way = .waiting then hopLess d else d)], whole := h.last }] }
  else match indexOf (fun (t : Transit) => t.port == p && t.vc == h.vc && !t.whole) s.fab.transit with
    | some i => s.onFab fun f => { f with transit := modAt f.transit i fun t => { t with flits := t.flits ++ [(false, h.last, d)], whole := h.last } }
    | none => s.freeFlits p h.vc 1
/-- FLIT_RECEIVE. -/
def State.flitIn (s : State) (p : Nat) (b : Bytes) : State :=
  let x := s.port p
  let h := flitHead b
  if !x.up then s
  else if !flitOk b then s.sendPort p (.nak x.rxSeq)
  else
    let s := s.onPort p fun x => { x with replay := ackReplay x.replay h.ack, credits := modAt x.credits h.cvc (· + h.credits) }
    if h.kind ≠ 1 || !x.auth then s.forward
    else if h.seq ≠ (x.rxSeq.toNat + 1) % 4096 then (s.sendPort p (.nak x.rxSeq)).forward
    else ((s.onPort p fun x => { x with rxSeq := BitVec.ofNat 12 h.seq }).takeFlit p h (slice b 8 244)).forward
/-- The flits of the replay buffer are sent again, each send counted. -/
def State.resend (s : State) (p : Nat) : State :=
  let s := s.onPort p fun x => { x with replay := x.replay.map fun f => (f.1, f.2.1 + 1, f.2.2) }
  s.each (s.port p).replay fun s f => s.sendPort p (.flit f.2.2)
/-- NAK_RECEIVE: a flit sent for the eighth time fails its lane, and the port retrains before the resend goes on. -/
def State.nakIn (s : State) (p : Nat) (ack : BitVec 12) : State :=
  if !(s.port p).up then s
  else
    let s := s.onPort p fun x => { x with replay := ackReplay x.replay ack.toNat }
    match (s.port p).replay.find? fun f => decide (7 ≤ f.2.1) with
    | none => (s.resend p).forward
    | some f =>
      let lane := ((lanesOf p)[if (s.port p).half then (indexOf s.fab.laneGood (lanesOf p)).getD 0 else f.1.toNat % 2]?).getD 0
      (s.failLane lane).1.retrain p

/-! ## Addresses (R335, R336) -/

/-- ADDRESS_PROBE: answered by a holder, contested by a lower serial number; passed on to the other ports (the flood). -/
def State.probeIn (s : State) (p : Nat) (cand : W16) (serial : W64) : State :=
  if !((s.port p).up && (s.port p).auth) then s
  else
    let s := s.floodExcept p (.probe cand serial)
    if s.fab.valid && s.fab.addr == cand then s.sendPort p (.probeAnswer cand)
    else if s.fab.probing && s.fab.addr == cand && serial.toNat < s.ident.serial.toNat then s.probe false
    else s

/-! ## Routing (R337, R339, R351) -/

/-- ROUTING_UPDATE from the neighbour of a port; a change of the table is passed on. -/
def State.routesIn (s : State) (p : Nat) (routes : List RouteAdv) (groups : List GroupAdv) : State :=
  let x := s.port p
  if !(x.up && x.auth) then s
  else
    let old := s.fab.routes
    let s := s.onFab fun f =>
      let f := (({ dest := x.peer, hops := 0 } : RouteAdv) :: routes).foldl (fun f a => f.learn p x.peer a) f
      { f with heard := (f.heard.filter fun g => !(g.member == x.peer || groups.any fun h => h.member == g.member)) ++ (groups.filter fun g => !(f.valid && g.member == f.addr)),
               links := KMap.set f.links x.peer.toNat ((routes.filter fun a => a.hops == 1).map fun a => a.dest) }
    if s.fab.routes = old then s else s.advertise.forward
/-- PEER_DOWN_NOTICE: once every port that the lost module's last table showed as up is reported idle, its buddy declares it lost (R351). -/
def State.peerDown (s : State) (reporter lost : W16) (idle : Bool) : State :=
  if !idle || s.fab.notices.contains (lost, reporter) then s
  else
    let s := (s.onFab fun f => { f with notices := f.notices ++ [(lost, reporter)] }).flood (.peerDown lost true)
    let near := KMap.getD s.fab.links lost.toNat []
    if !near.isEmpty && near.all fun a => (s.fab.valid && a == s.fab.addr && !((List.range 8).any fun p => (s.port p).up && (s.port p).peer == lost)) || s.fab.notices.contains (lost, a) then s.declareLost lost else s

end Sys2Proof.Machine
end

