-- ==== Sys2Proof/Machine/Messages.lean ====
section
/-! DEFINITION. Tirtar messages (R183, R188, R189, R191, R340 to R353): what the arrival of each does, and its retry. -/

namespace Sys2Proof.Machine

/-! ## Remote memory (R344) -/

/-- Is a transfer within a lent window: aligned, of 1 to 4 units? -/
def lentSpan (l : Lent) (off n : Nat) : Bool := off % 4096 == 0 && decide (1 ≤ n) && decide (n ≤ 4) && decide (off + 4096 * n ≤ l.gib * 2 ^ 30)
def State.memRead (s : State) (m : MsgHdr) (off units : Nat) : State :=
  match s.fab.lentTo m with
  | some l => if lentSpan l off units then s.reply m 2 (.memData ((s.lentUnits l off units).flatMap fun a => Mem.readN s.mem.bytes a 4096)) else s.reply m 2 .error
  | none => s.reply m 2 .error
def State.memWrite (s : State) (m : MsgHdr) (off : Nat) (d : Bytes) : State :=
  match s.fab.lentTo m with
  | some l =>
    if d.length % 4096 = 0 && lentSpan l off (d.length / 4096) then
      (s.onMem fun x => { x with bytes := writeRuns x.bytes ((s.lentUnits l off (d.length / 4096)).zip (pieces 4096 d)) }).reply m 2 .memDone
    else s.reply m 2 .error
  | none => s.reply m 2 .error

/-! ## Leases (R343, R345) -/

/-- An offer is heard: what its sender has to lend. -/
def State.offerIn (s : State) (m : MsgHdr) (gib : Nat) : State :=
  s.onFab fun f => { f with offers := (f.offers.filter fun o => o.1 ≠ m.src) ++ if gib = 0 then [] else [(m.src, gib)] }
/-- An ask is granted from the largest part on offer; its granules are zero-filled. -/
def State.askIn (s : State) (m : MsgHdr) (gib : Nat) : State :=
  let big := maxNat s.fab.offered
  let g := min gib big
  if g = 0 || (s.fab.lentTo m).isSome then s.reply m 3 .error
  else
    let rest := s.fab.offered.erase big ++ if g < big then [big - g] else []
    let s := s.onFab fun f => { f with offered := rest, lent := f.lent ++ [{ borrower := m.src, ref := m.context, gib := g }] }
    let s := (s.attSize .offer (512 * sumNat rest)).attSize (.lent m.src m.context) (512 * g)
    (s.zeroRegion (regionUnits s.mem.att (.lent m.src m.context))).reply m 3 (.leaseGrant g)
/-- A grant reaches the acquire that asked for it: the window is mapped. -/
def State.grantIn (s : State) (m : MsgHdr) (gib : Nat) : State :=
  match s.fab.acquiring.find? fun a => a.2.1 == m.src && m.context == BitVec.ofNat 64 a.2.2 with
  | none => s
  | some a =>
    let s := s.onFab fun f => { f with acquiring := f.acquiring.filter (· ≠ a) }
    if m.isError then s.err a.1 (stNotFound, 0)
    else (s.onFab fun f => { f with windows := KMap.set f.windows a.2.2 { lender := m.src, gib := gib, draining := false } }).ok a.1 a.2.2 m.src.toNat gib 0
/-- A withdrawal notice: the pager brings the window's pages home, then the window is released. -/
def State.withdrawIn (s : State) (m : MsgHdr) : State :=
  match KMap.get? s.fab.windows m.context.toNat with
  | some w => if w.lender = m.src then (s.onFab fun f => { f with windows := KMap.set f.windows m.context.toNat { w with draining := true } }).dropLeaseCopies m.context.toNat |>.drainWindows else s
  | none => s
def State.releaseIn (s : State) (m : MsgHdr) : State :=
  match s.fab.lentTo m with | some l => s.reclaimLent l | none => s

/-! ## Tables (R183, R188, R189, R191) -/

def ctxTable (m : MsgHdr) : Nat := m.context.toNat % 256
/-- An owner answers a gather request with the rows asked for, or with the per-bag sums of its shards' occurrences; a request whose mode is not that of its own
copy of the table is rejected (R191). The rows it reads count as one slice after another here too (R181). -/
def State.gatherIn (s : State) (m : MsgHdr) (pools : Bool) (pool : Nat) (rows : List W64) (bags : List (List Occ)) : State :=
  let tid := ctxTable m
  match s.table? tid with
  | none => s.reply m 4 .gatherReject
  | some t =>
    if pools != t.ownerPools then s.reply m 4 .gatherReject
    else
      let val := fun (r : Nat) => t.readRow r (t.entryOf r)
      let sums := pools && rows.isEmpty
      let read := if sums then (s.rowsOf tid bags).map Prod.snd else rows.map fun r => r.toNat
      let sl := pieces 65536 read
      let reply : MsgBody := if sums then
          let w := s.gatherWidth tid
          let valOf := fun (i : W64) => match s.idxRows tid i.toNat with | some [x] => RowVal.row (val x.2) | _ => RowVal.missing
          .gatherSums (bags.map fun b => let x := poolBag valOf (pool == 2) w b; (x.1, BitVec.ofNat 32 x.2))
        else .gatherRows (rows.map fun r => (r, val r.toNat))
      let s := s.each sl fun s l => s.countRows (l.map fun r => (tid, r))
      let s := s.onTable tid fun t => { t with slices := t.slices + sl.length }
      (s.each (dedup read) fun s r => s.makeHot tid r).reply m 4 reply
/-- A reply delivers rows or sums to the gather that asked. -/
def State.rowsIn (s : State) (m : MsgHdr) (rows : List (W64 × List W32)) (sums : List (List W32 × W32)) (shard : Nat) : State :=
  match s.sent? m 4 with
  | none => s
  | some o => match o.body with
    | .gatherReq gid t _ _ _ _ =>
      let key := t * 64 + shard
      (s.dropOut o).onTbl fun b => { b with gathers := b.gathers.map fun g =>
        if g.gid == gid && g.shards.contains key then
          { g with shards := g.shards.filter (· ≠ key), lostShards := if m.isError then g.lostShards ++ [key] else g.lostShards,
                   far := g.far ++ rows.map fun r => (farKey t r.1.toNat, r.2), sums := g.sums ++ if sums.isEmpty then [] else [(key, sums)] }
        else g }
    | _ => s
/-- Entries of another module for this owner's rows (R188); a module that does not own their shards, or has no such rows, refuses them. -/
def State.updateIn (s : State) (m : MsgHdr) (es : List WriteEntry) : State :=
  match s.table? (ctxTable m) with
  | none => s.reply m 4 .error
  | some t =>
    if !(es.all fun e => t.entryOk e && s.ownsShard t (t.shardOf e.row.toNat)) then s.reply m 4 .error
    else s.openWrite { no := 0, table := ctxTable m, cmd := none, remote := some m, count := es.length, entries := es, waited := false, owners := [], holders := [],
                       formed := none, failed := none }
/-- The first entry of an owner goes. -/
def dropOwner (a : W16) : List (W16 × List Nat) → List (W16 × List Nat)
  | [] => []
  | x :: l => if x.1 = a then l else x :: dropOwner a l
def minOpt (a b : Option Nat) : Option Nat := match a, b with | some x, some y => some (min x y) | some x, none => some x | none, y => y
/-- An owner's acknowledgement: its entries are done. -/
def State.updateAckIn (s : State) (m : MsgHdr) : State :=
  match s.sent? m 4 with
  | none => s
  | some o => match o.body with
    | .update n _ _ =>
      let s := s.dropOut o
      ((s.onTbl fun b => { b with writes := b.writes.map fun w => if w.no = n && w.owners.any (fun x => x.1 == m.src) then
          { w with owners := dropOwner m.src w.owners,
                   failed := if m.isError then (match w.owners.find? fun x => x.1 == m.src with | some x => minOpt w.failed x.2.head? | none => w.failed) else w.failed } else w })).endWrites
    | _ => s
/-- A row a write has formed goes to a holder, whose acknowledgement the write awaits (R189). `i`: the write's place. -/
def State.sendRow (s : State) (i tid row : Nat) (h : W16) (vals : List W32) : State :=
  let id := KMap.getD s.fab.txIds (h.toNat * 256 + 4) 0
  (s.send h 4 (.replicaInstall tid row vals)).onTbl fun b => { b with writes := modAt b.writes i fun w => { w with holders := w.holders ++ [(h, id)] } }
/-- An owner grants a replica of a row that is hot here or has fewer than 8 holders, in a table with OWNER_POOLS 0 (R183); of a row whose new value is formed and
not yet swapped, the new value, and the swap awaits this holder too (R189). -/
def State.replicaAskIn (s : State) (m : MsgHdr) (row : Nat) : State :=
  let tid := ctxTable m
  match s.table? tid with
  | none => s.reply m 4 .replicaDenied
  | some t =>
    let held := (t.holders.filter fun x => x.1 == row).length
    let hot := decide (thresh s.tbl.hotCfg ≤ t.countOf row)
    let formed := (enum s.tbl.writes).findSome? fun w => if w.2.table = tid then w.2.formed.bind (fun f => if f.1 = row then some (w.1, f.2.2.2) else none) else none
    if t.ownerPools || !(s.ownsShard t (t.shardOf row)) || !(entValid (t.entryOf row) || formed.isSome) || !(hot || decide (held < 8)) then s.reply m 4 .replicaDenied
    else
      let s := s.onTable tid fun t => { t with holders := (t.holders.filter fun x => !(x.1 == row && x.2 == m.src)) ++ [(row, m.src)] }
      match formed with
      | some (i, codes) => s.sendRow i tid row m.src (codes.map fun c => elem32 t.fmt 0 c.toNat)
      | none => s.send m.src 4 (.replicaInstall tid row (t.readRow row (t.entryOf row)))
/-- A holder installs a row in its pantry by the swap of R185; its old pantry slot is reclaimed. A row not cached here is a new copy: none is made while EN is 0
(R184), nor where no slot is free, and the module is then no holder. -/
def State.installIn (s : State) (m : MsgHdr) (row : Nat) (vals : List W32) : State :=
  let tid := ctxTable m
  match s.table? tid with
  | none => s.reply m 4 .replicaDenied
  | some t =>
    let e := t.entryOf row
    if !entPant e && !bit s.tbl.hotCfg.toNat 16 then s.reply m 4 .replicaDenied
    else
      let s := if !entPant e && (t.freePantry (s.formedPant tid)).isNone then (match t.coldest with
          | some v => (s.evictRow tid v).reclaimTable tid
          | none => s) else s
      match (s.table? tid).bind fun t => t.freePantry (s.formedPant tid) with
      | none => s.reply m 4 .replicaDenied
      | some p =>
        ((s.onTable tid fun x => { x with pantry := KMap.set x.pantry p (vals.map x.toCode), entries := KMap.set x.entries row (entry true true p 0),
                                          reclaim := x.reclaim ++ if entPant e then [(true, entPslot e, x.gathers)] else [] }).reclaimTable tid).reply m 4 (.replicaAck row)
/-- A replica is discarded. -/
def State.discardIn (s : State) (m : MsgHdr) (row : Nat) : State :=
  let tid := ctxTable m
  (s.onTable tid fun t =>
    let e := t.entryOf row
    if entPant e && !s.ownsShard t (t.shardOf row) then
      { t with entries := KMap.erase t.entries row, reclaim := t.reclaim ++ [(true, entPslot e, t.gathers)] }
    else t).reclaimTable tid
/-- A row is swapped once every holder has acknowledged it (R189). -/
def State.swapReady (s : State) : State :=
  let ready := fun (w : TWrite) => w.formed.isSome && w.holders.isEmpty
  let s := s.each (s.tbl.writes.filter ready) fun s w =>
    match w.formed with
    | some (row, a, p, codes) => s.swapRow w.table row a p codes
    | none => s
  (s.onTbl fun b => { b with writes := b.writes.map fun w => if ready w then { w with formed := none, waited := false } else w }).endWrites
/-- A holder has the row, or is dropped: then every module is told to discard the replica. -/
def State.holderDone (s : State) (src : W16) (tid row : Nat) (dropped : Bool) : State :=
  let s := s.onTbl fun b => { b with writes := b.writes.map fun w => match w.formed with
    | some f => if w.table = tid && f.1 = row then { w with holders := w.holders.filter fun h => h.1 ≠ src } else w
    | none => w }
  let s := if dropped then
      (s.onTable tid fun t => { t with holders := t.holders.filter fun x => !(x.1 == row && x.2 == src) }).each (KMap.keys s.fab.routes) fun s d =>
        s.send (BitVec.ofNat 16 d) 4 (.replicaDiscard tid row)
    else s
  s.swapReady
/-- The acknowledgement of an install: it counts for a write only where it answers the install that write sent (R189). -/
def State.installAckIn (s : State) (m : MsgHdr) (row : Nat) : State :=
  let s := match s.sent? m 4 with | some o => s.dropOut o | none => s
  let waits := s.tbl.writes.any fun w => w.holders.any fun h => h.1 == m.src && h.2 == m.msgId
  if m.isError || waits then s.holderDone m.src (ctxTable m) row m.isError else s

/-! ## Index shards (R346 to R348) -/

/-- A shard search on this member: its own snapshot, held until the release; a member that is full answers with ERROR. -/
def State.searchIn (s : State) (m : MsgHdr) (q : List W32) (k p w : Nat) (f : List FilterTerm) : State :=
  let i := m.context.toNat % 64
  match s.index? i with
  | none => s.reply m 5 .shardError
  | some ix =>
    if ix.loading || ix.unloaded || decide (65536 ≤ s.ret.memberHolds.length) || q.length ≠ ix.dim then s.reply m 5 .shardError
    else
      let (adm, s) := s.nextAdm i
      let j : Job := { adm := adm, slot := none, remote := some m, index := i, snap := ix.seq, query := q, k := k, d := ix.dMargin, p := if p = 0 then ix.pDef else p, w := w,
                       filter := f, round := 0, plan := [], queued := [], holds := [], reads := [], lists := [], earlier := [], overrun := false, unreadable := false,
                       part := 16, tenant := 0, own := none, members := [], others := [], rounds := 0, cancelled := false, failed := [], hot := s.ret.hotCfg }
      let s := s.onRet fun r => { r with jobs := r.jobs ++ [j], memberHolds := r.memberHolds ++ [(m.src, m.context, i, ix.seq)] }
      ((s.planRound j 0).settleJob adm).jobResult adm
/-- One member less to wait for: its candidates, or none where it cannot be reached (R347). -/
def State.memberDone (s : State) (adm : W64) (src : W16) (cands : List Cand) (rounds : Nat) (snap : W64) (lost : Bool) : State :=
  match s.job? adm with
  | none => s
  | some j =>
    if !j.members.contains src then s
    else
      let s := s.onJob adm fun x => { x with members := x.members.filter (· ≠ src), others := x.others ++ cands.map fun c => { c with member := src },
                                             rounds := max x.rounds rounds, unreadable := x.unreadable || lost }
      let s := match j.slot with
        | some n => s.onReq n fun r => { r with waitMembers := r.waitMembers.filter (· ≠ src), members := if lost then r.members else r.members ++ [(src, snap)] }
        | none => s
      (s.jobResult adm).settle
def State.searchReplyIn (s : State) (m : MsgHdr) (cands : List Cand) (rounds : Nat) (snap : W64) : State :=
  match s.sent? m 5 with
  | none => s
  | some o => match o.body with
    | .shardSearch adm _ _ _ _ _ _ => (s.dropOut o).memberDone adm m.src (if m.isError then [] else cands) rounds snap m.isError
    | _ => s
/-- A text fetch: on the member, its passage's text; on the asking module, the text that came. -/
def State.textIn (s : State) (m : MsgHdr) (id version : W64) (text : Bytes) : State :=
  if m.isReply then
    match s.sent? m 5 with
    | none => s
    | some o =>
      let s := s.dropOut o
      let hit := fun (p : Passage) => !p.fetched && !p.dropped && p.cand.member == m.src && p.cand.id == id && p.cand.version == version
      match s.sch.slots.find? fun x => x.2.running && x.2.stage == 6 && x.2.passages.any hit with
      | none => s
      | some (n, r) => match indexOf hit r.passages with
        | some i => ((if m.isError then s.passageDrop n i else s.passageText n i text).stage6Done n).settle
        | none => s
  else match (s.index? (m.context.toNat % 64)).bind fun ix => ix.exact id version with
    | some e =>
      let ks := match s.index? (m.context.toNat % 64) with | some ix => ix.fetchPages id version | none => []
      match ks.find? fun k => !s.cel.readable k with
      | some k => (s.noPage k).reply m 5 .error
      | none => s.reply m 5 (.text version e.text)
    | none => s.reply m 5 .error
def State.holdIn (s : State) (m : MsgHdr) : State :=
  s.onRet fun r => { r with memberHolds := r.memberHolds.filter fun h => !(h.1 == m.src && h.2.1 == m.context) }

/-! ## Mirrors and migration (R349, R350, R353) -/

def State.mirrorOpenIn (s : State) (m : MsgHdr) (d : MirrorDesc) : State :=
  if decide (8192 ≤ s.fab.mirrors.length) || !s.mirrorOk d then s.reply m 6 (.mirrorError m.context.toNat)
  else
    let serials := ((List.range 8).filter fun p => (s.port p).up && (s.port p).peer == m.src).map fun p => (s.port p).serial
    (s.onBbx fun b => { b with sources := b.sources ++ serials.filter fun x => !(b.sources.contains x) }).onFab fun f =>
      { f with sources := if f.sources.contains m.src then f.sources else f.sources ++ [m.src],
                                 mirrors := (f.mirrors.filter fun x => !(x.src == m.src && x.ref == m.context)) ++ [{ src := m.src, ref := m.context, desc := d }] }
def State.mirrorUpdateIn (s : State) (m : MsgHdr) (toks : List W32) (bytes : W32) : State :=
  s.onFab fun f => { f with mirrors := f.mirrors.map fun x => if x.src == m.src && x.ref == m.context then { x with desc := { x.desc with tokens := x.desc.tokens ++ toks, bytes := bytes } } else x }
def State.mirrorCloseIn (s : State) (m : MsgHdr) : State :=
  s.onFab fun f => { f with mirrors := f.mirrors.filter fun x => !(x.src == m.src && x.ref == m.context) }
def State.migrateIn (s : State) (m : MsgHdr) (d : MirrorDesc) : State := ((s.mirrorCloseIn m).resume d).settle

/-! ## Arrival -/

/-- What a message does when its turn has come (R341). -/
def applyMsg : Instr → State → State
  | .leaseOfferMsg m g, s => s.offerIn m g.toNat
  | .leaseGrantMsg m g, s => if m.isReply then s.grantIn m g.toNat else s.askIn m g.toNat
  | .leaseWithdrawalNotice m, s => s.withdrawIn m
  | .leaseReleaseMsg m, s => s.releaseIn m
  | .remoteMemoryRead m o u, s => s.memRead m o.toNat u.val
  | .remoteMemoryWrite m o d, s => s.memWrite m o.toNat d
  | .gatherRequestMsg m ow pl is bs, s => s.gatherIn m ow pl.val is bs
  | .tableUpdateMsg m es, s => s.updateIn m es
  | .replicaRequestMsg m r, s => s.replicaAskIn m r.toNat
  | .replicaInstallMsg m r v, s => s.installIn m r.toNat v
  | .replicaDiscardMsg m r, s => s.discardIn m r.toNat
  | .shardSearchMsg m q k p w f, s => s.searchIn m q k.toNat p.toNat w.toNat f
  | .holdReleaseMsg m, s => s.holdIn m
  | .mirrorOpen m d, s => s.mirrorOpenIn m d
  | .mirrorUpdate m t b, s => s.mirrorUpdateIn m t b
  | .mirrorClose m, s => s.mirrorCloseIn m
  | .migrationMsg m d, s => s.migrateIn m d
  | _, s => s
/-- The messages of a stream that a message's turn had held up are applied after it. -/
def State.caughtUp (s : State) (m : MsgHdr) (cls : Nat) : State := State.catchUp applyMsg (streamKey m.src cls) 65 s
/-- A message of a class arrives, unless the module has left the fabric. A reply is no message of a stream: it echoes a number. -/
def State.receive (s : State) (m : MsgHdr) (cls : Nat) (ordered : Bool) (i : Instr) : State :=
  if s.departed then s
  else if m.isReply then applyMsg i s
  else s.arrive m cls ordered i applyMsg
/-- A reply reaches a module that has not left the fabric. -/
def State.answered (s : State) (f : State → State) : State := if s.departed then s else f s

/-! ## Retries (R340) -/

/-- A message whose target cannot be reached: what its sender does. -/
def State.unreached (s : State) (o : OutMsg) : State :=
  match o.body with
  | .gatherReq gid t _ _ _ _ =>
    s.onTbl fun b => { b with gathers := b.gathers.map fun g =>
      if g.gid = gid then
        let bad := g.shards.filter fun k => k / 64 == t && (match s.table? t with | some x => (x.owners[k % 64]?).getD 0 == o.dest | none => false)
        { g with shards := g.shards.filter fun k => !(bad.contains k), lostShards := g.lostShards ++ bad }
      else g }
  | .update n _ _ =>
    (s.onTbl fun b => { b with writes := b.writes.map fun w => match w.owners.find? fun x => w.no == n && x.1 == o.dest with
      | some x => { w with owners := dropOwner o.dest w.owners, failed := minOpt w.failed x.2.head? }
      | none => w }).endWrites
  | .replicaInstall t row _ => s.holderDone o.dest t row true
  | .shardSearch adm _ _ _ _ _ _ => s.memberDone adm o.dest [] 0 0 true
  | .textFetch _ id version =>
    let hit := fun (p : Passage) => !p.fetched && !p.dropped && p.cand.member == o.dest && p.cand.id == id && p.cand.version == version
    (match s.sch.slots.find? fun x => x.2.running && x.2.stage == 6 && x.2.passages.any hit with
      | some (n, r) => (match indexOf hit r.passages with | some i => ((s.passageDrop n i).stage6Done n).settle | none => s)
      | none => s)
  | .mirrorOpen _ _ | .mirrorUpdate _ _ _ | .mirrorClose _ => if o.dest = s.fab.buddy then s.buddyLost else s
  | .leaseAsk _ =>
    (match s.fab.acquiring.find? fun a => a.2.1 == o.dest with
      | some a => (s.onFab fun f => { f with acquiring := f.acquiring.filter (· ≠ a) }).err a.1 (stNotFound, 0)
      | none => s)
  | .leaseWithdraw w => (match s.fab.lent.find? fun l => l.borrower == o.dest && l.ref == BitVec.ofNat 64 w with | some l => s.reclaimLent l | none => s)
  | .memRead w _ _ | .memWrite w _ _ => (match KMap.get? s.fab.windows w with | some x => if x.lender = o.dest then (s.windowLost w).settle else s | none => s)
  | _ => s
/-- MESSAGE_RETRY_TIMEOUT: the message is sent again; after four sends, or with no route, its target is unreachable and the stream's next message carries
RESYNC (R342). -/
def State.retry (s : State) (dest : W16) (cls : Nat) (id : W32) : State :=
  match s.fab.out.find? fun o => o.dest == dest && o.cls.toNat == cls && o.msgId == id && !o.reply && o.port.isNone with
  | none => s
  | some o =>
    if o.sends < 4 && KMap.has s.fab.routes dest.toNat then s.onFab fun f => { f with out := f.out.map fun x => if x = o then { x with sends := x.sends + 1 } else x }
    else
      let key := streamKey dest cls
      ((s.dropOut o).onFab fun f => { f with unreachable := if f.unreachable.contains key then f.unreachable else f.unreachable ++ [key] }).unreached o

end Sys2Proof.Machine
end

