-- ==== Sys2Proof/Machine/Spares.lean ====
section
/-! DEFINITION. Recovery shared by faults and tests: abandoning a step (R364), losing content (R365), and the spares of cores and lines (R56 to
R62, R357 to R359, R371). -/

namespace Sys2Proof.Machine

/-! ## Fault records (Table 15.13) -/

/-- A fault record: unit, mechanism, instance, address, class, partition and requests hit, MARK_ID of a program fault. -/
def State.faultRec (s : State) (unit mech inst addr cls : Nat) (p : Option Nat) (slots : List Nat) (mark : Nat) : State :=
  let step := match p with
    | some p => (match (s.part p).run with | some r => r.number.toNat | none => (s.part p).lastStep.toNat)
    | none => 0
  let handle := match slots.head? with
    | some n => (match s.req? n with | some r => handleOf n r.gen | none => 0)
    | none => 0
  s.record 0x0001 (if cls = 0 then 1 else if cls = 4 then 3 else 2)
    (payload [(1, unit), (1, mech), (2, inst), (8, addr), (1, cls), (1, p.getD 0xFF), (2, slots.length), (8, step), (4, handle), (2, mark)])
/-- Slots with an item in the running step of a partition. -/
def State.stepSlots (s : State) (p : Nat) : List Nat := match (s.part p).run with | some r => dedup (r.items.map fun i => i.slot) | none => []

/-! ## Abandoning a step (R364) -/

/-- A core stops whatever runs on it and keeps no launch state. -/
def Core.stopped (k : Core) : Core :=
  { k with busy := false, ended := false, prog := [], slots := [], given := [], pc := 0, loops := [], stats := [], acc := [], xfers := [], passes := [], unitOps := [], sigs := [], held := none, barrier := none,
           preempt := false, atMark := none }
/-- Pages of a partition's requests are lost: no frame holds them any more, and a repair chunk or rebuild re-derives them. -/
def State.losePages (s : State) (p : Nat) (hit : Nat → KvPage → Bool) : State :=
  s.each (s.slotsOf p) fun s n => match s.req? n with
    | none => s
    | some r =>
      let gone := r.pages.filter fun g => !g.lost && hit n g
      if gone.isEmpty then s
      else ((s.onPart p fun x => gone.foldl Part.freePage x).onReq n fun x =>
        { x with replayed := true, pages := x.pages.map fun g => if hit n g then { g with lost := true } else g }).markShared p
/-- A request with an item in an abandoned step: one with a replay record gets a rebuild item from C on (STATE 6, R364); an embed runs again (R367), and stages 6
and 7 with their gathers (R190, R208). -/
def State.redo (s : State) (p : Nat) (it : Item) : State :=
  match it.kind with
  | .embed => s.onReq it.slot fun r => if r.running then { r with replayed := true } else r
  | .pairs | .heads => s.repeatFront it.slot
  | .repair =>
    let frames := match s.req? it.slot with
      | some r => (r.pages.filter fun (g : KvPage) => g.no == it.pos / 64 && !g.lost).map fun (g : KvPage) => (g.loc, g.frame)
      | none => []
    s.losePages p fun _ g => g.no == it.pos / 64 && frames.contains (g.loc, g.frame)
  | _ => s.rebuildReq it.slot
/-- The running step of a partition is abandoned: its launches stop, no token is sampled, its number is spent, its raw packet waits to run again. -/
def State.abandonStep (s : State) (p : Nat) : State :=
  match (s.part p).run with
  | none => s
  | some run =>
    let s := s.onPart p fun x =>
      { x with run := none, land := [], again := x.again || run.packet.isSome,
               transfers := x.transfers.filter fun t => match t.2.key with | .layer _ _ => false | .xfer _ => false | _ => true,
               packets := match run.packet with | some (c, _, _) => c :: x.packets | none => x.packets }
    let s := s.each (s.part p).cores fun s c => s.onCore c Core.stopped
    s.each run.items fun s it => s.redo p it

/-! ## Spare cores (R58, R60, R62, R212, R364) -/

/-- The lowest-numbered free spare core (assumption 145). -/
def State.freeSpare (s : State) : Option Nat := (List.range 34).find? fun c => !s.cores.isEmpty && (s.core c).state == 0 && (s.partOf c).isNone
/-- A core's place in its partition passes to another core. -/
def State.replaceCore (s : State) (a b : Nat) : State :=
  s.onSch fun c => { c with parts := KMap.mapAll c.parts fun _ x => { x with cores := x.cores.map fun k => if k = a then b else k } }
/-- Core SRAM contents pass from one core to another. -/
def moveSram (m : Mem) (a b : Nat) : Mem := Mem.zero (Mem.copy m (coreBase a) (coreBase b) coreSram) (coreBase a) coreSram
/-- A write in flight to a core's SRAM follows the position to the core that takes it over. -/
def moveRun (a b : Nat) (r : Nat × Bytes) : Nat × Bytes :=
  if coreBase a ≤ r.1 ∧ r.1 < coreBase a + coreSram then (coreBase b + (r.1 - coreBase a), r.2) else r
/-- Spare core `b` takes the place of core `a`, whose STATE becomes `st`; with `carry`, the saved program state and SRAM move too, and
what its peers have in flight to it (R97). The spare-in record is written first (R371). -/
def State.moveCore (s : State) (a b : Nat) (st : BitVec 3) (carry : Bool) : State :=
  let s := s.spareIn 0 a a b
  let ka := s.core a
  let kb := s.core b
  let s := s.replaceCore a b
  let s := if carry then
      ({ s with cores := KMap.mapAll s.cores fun _ k => { k with xfers := k.xfers.map fun x => { x with runs := x.runs.map (moveRun a b) } } } : State).onMem fun m =>
        { m with bytes := moveSram m.bytes a b }
    else s
  let s := s.onCore b fun _ =>
    if carry then { ka with state := 1, fenced := 0, residue := kb.residue, bankErr := kb.bankErr, dogs := kb.dogs, droops := kb.droops, stretched := kb.stretched,
                            activity := kb.activity, lfsr := kb.lfsr, pllLocked := kb.pllLocked, preempt := false }
    else { kb with state := 1 }
  let s := (s.onCore a fun k => { k.stopped with state := st }).offCore a
  if (s.partOf b).isSome then s.wakeDom (coreDom b) else s
/-- A partition loses the core at a position: the core at its highest position takes that position (R364). -/
def dropCore (l : List Nat) (c : Nat) : List Nat :=
  match l.getLast? with
  | some z => (l.dropLast).map fun k => if k = c then z else k
  | none => l
/-- A core in service is retired at once: a free spare takes its place, else its partition shrinks. -/
def State.retireCore (s : State) (c : Nat) : State :=
  let used := (s.core c).state == 1 || (s.core c).state == 2
  match (if used then s.freeSpare else none) with
  | some b => s.moveCore c b 3 false
  | none =>
    let s := match s.partOf c with
      | some p =>
        let s := s.onPart p fun x => { x with cores := dropCore x.cores c }
        s.hbmSize (.save p) (8 * (s.part p).cores.length)
      | none => s
    (s.onCore c fun k => { k.stopped with state := 3 }).offCore c
/-- The running step on the core's partition is abandoned, and the core retired. -/
def State.retireNow (s : State) (c : Nat) : State := (match s.partOf c with | some p => s.abandonStep p | none => s).retireCore c
def partnerOf (e : Nat) : Nat := if e % 2 = 0 then e + 1 else e - 1
/-- An engine is fenced (R59); where its partner is fenced too, the core is retired (R60). -/
def State.fence (s : State) (c e : Nat) : State :=
  if (s.core c).fenced.getLsbD (partnerOf e) then s.retireNow c
  else s.onCore c fun k => { k with fenced := k.fenced ||| BitVec.ofNat 4 (2 ^ e), state := 2 }
/-- Engines of a core with a line awaiting repair that are not fenced. -/
def State.badEngines (s : State) (c : Nat) : List Nat :=
  dedup ((s.ras.awaiting.filter fun a => a.1 / 4 == c && !(s.core c).fenced.getLsbD (a.1 % 4)).map fun a => a.1 % 4)
/-- A core in service whose line failed moves to a spare while it runs no launch, or has its engine fenced where no spare is free (R58). -/
def State.dueMove (s : State) (c : Nat) (carry : Bool) : State :=
  let k := s.core c
  match s.badEngines c with
  | [] => s
  | es =>
    if k.state ≠ 1 && k.state ≠ 2 then s
    else match s.freeSpare with
      | some b => if k.busy && !carry then s.onCore c fun x => { x with preempt := true } else s.moveCore c b 4 carry
      | none => s.each es fun s e => if (s.core c).state == 3 then s else s.fence c e
def State.dueMoves (s : State) (cs : List Nat) : State := s.each cs fun s c => s.dueMove c false
/-- An awaiting-repair record (TYPE 0x0003, R441). CAUSE 0 self-test, 1 repeated residue faults, 2 failed retest after a burn. -/
def State.awaitRepair (s : State) (eng : Nat) (isCol : Bool) (line cause : Nat) : State :=
  let s := s.onRas fun r => if r.awaiting.contains (eng, isCol, line) then r else { r with awaiting := r.awaiting ++ [(eng, isCol, line)] }
  s.record 0x0003 2 (payload [(2, eng), (1, boolNat isCol), (1, line), (1, cause)])
/-- A line fails: recorded as awaiting repair, then R58. -/
def State.engineLineFails (s : State) (eng : Nat) (isCol : Bool) (line cause : Nat) : State := (s.awaitRepair eng isCol line cause).dueMove (eng / 4) false

/-! ## Attic lines (R359) and HBM channels (R358) -/

def spareLines : Nat := 244140
/-- The package of an attic address: the inverse of `atticLine`. -/
def atticPkg (addr : Nat) : Nat :=
  let h := Config.attGran / 2 * Config.granule
  let o := addr - 2 ^ 40
  o / h * 8 + o % h / 4096 % 8
/-- Where a row of a table lies in its attic region: the shards this module owns one after another, each its slots and then its indirection entries (assumption
139). -/
def State.rowOffset (s : State) (t : Table) (row : Nat) : Nat :=
  sumNat ((List.range (t.shardOf row)).map fun sh => if s.ownsShard t sh then t.shardSlots sh * t.slotBytes + 8 * t.shardRows sh else 0)
    + entAslot (t.entryOf row) * t.slotBytes
/-- What a retired granule held is lost under class 2 and re-derived under Table 15.4: KV pages, and identical copies of pages in HBM; table rows; mirrors. A replay
record has its other copy, an image its cellar copy, and granules lent are their borrower's to repair. -/
def State.loseGranule (s : State) (r : Region) (g first : Nat) : State :=
  let within := fun (unit n : Nat) => decide (unit < 512 * (g + 1)) && decide (512 * g < unit + n)
  match r with
  | .kvSpill p =>
    let hit := fun (k : Nat) => within k (KMap.getD (s.part p).spill k Frame.empty).units
    let ks := ((s.part p).frames.filter fun f => match f.2.copy with | some c => hit c | none => false).map Prod.fst
    let s := (s.onPart p fun x => ks.foldl Part.dropCopy x).onPages p fun q => if !q.isOut && ks.contains q.frame then q.move q.loc q.lease q.frame false else q
    s.losePages p fun _ q => q.loc == 1 && hit q.frame
  | .table t => s.onTable t fun x =>
      let rows := (x.entries.filter fun e => entValid e.2.toNat && within (512 * first + s.rowOffset x e.1 / 4096) 1).map Prod.fst
      { x with lost := x.lost ++ rows.filter fun v => !x.lost.contains v }
  | .mirror =>
    let gone := (enum s.fab.mirrors).filter fun m => within (512 * first + 72 * m.1) 72
    s.each gone fun s m => (s.onFab fun b => { b with mirrors := b.mirrors.filter fun x => !(x.src == m.2.src && x.ref == m.2.ref) }).send m.2.src 6 (.mirrorError m.2.ref.toNat)
  | _ => s
/-- A line of a package is remapped to a spare line, or (none left) the granule that holds it is retired, once, with what it holds (R105, R359). -/
def State.remapLine (s : State) (pkg addr : Nat) : State :=
  let used := KMap.getD s.ras.lines pkg 0
  let g := (addr - 2 ^ 40) / Config.granule
  if used < spareLines then
    (s.spareIn 5 pkg addr used).onRas fun r => { r with lines := KMap.set r.lines pkg (used + 1) }
  else if (s.mem.att.any fun (x : GranRun) => x.region == .retired && decide (x.first ≤ g) && decide (g < x.first + x.count)) then s
  else
    let (l, hit) := granRetire s.mem.att Config.attGran g
    let s := match hit with
      | some r => s.loseGranule r g (match s.mem.att.find? fun (x : GranRun) => x.region == r with | some x => x.first | none => g)
      | none => s
    (s.onRas fun r => { r with retired := KMap.set r.retired pkg (KMap.getD r.retired pkg 0 + 1) }).onMem fun m => { m with att := l }
/-- A frame of an image that fails its check on both fetches (R112): an uncorrectable attic error on its address, a class 2 fault; the frame comes again from the
cellar copy (Table 15.4). Where the spec gives the frame no address, a free one of the partition's image share. -/
def State.frameError (s : State) (p : Nat) (slots : List Nat) (place : Option Nat) : State :=
  let (n, s) := s.fresh
  let units := regionUnits s.mem.att (.images p)
  let total := sumNat (units.map fun u => u.2 - u.1)
  let addr := place.getD (match unitAt units (n % max 1 total) with | some u => attAt u | none => attAt 0)
  let pkg := if 2 ^ 40 ≤ addr then atticPkg addr else 0
  let s := s.faultRec 7 1 pkg addr 2 (some p) slots 0
  if 2 ^ 40 ≤ addr && addr < 2 ^ 41 then s.remapLine pkg (addr / 4096 * 4096) else s
/-- A core reaches an address of no populated range (R106): a device fault, recorded, and handled as an uncorrectable memory error of the step: it is abandoned. -/
def State.addrFault (s : State) (p c addr : Nat) : State :=
  let s := s.faultRec 5 1 c addr 1 (some p) (s.stepSlots p) 0
  let cs := (s.part p).cores
  ((s.abandonStep p).dueMoves cs).settle
/-- A channel of a stack is lost: its parity is brought in and a rebuild runs; where the parity is spent, nothing covers it. The answer says
whether the parity covered it. -/
def State.loseHbmChannel (s : State) (ch : Nat) : State × Bool :=
  let st := ch / 16
  if s.ras.hbmSpent.getLsbD st || s.ras.hbmRebuild.getLsbD st then (s, false)
  else
    let s := s.spareIn 3 ch 0 0
    (s.onRas fun r => { r with hbmRebuild := r.hbmRebuild ||| BitVec.ofNat 6 (2 ^ st) }, true)

end Sys2Proof.Machine
end

