-- ==== Sys2Proof/Machine/MaintCmds.lean ====
section
/-! DEFINITION. Tests and maintenance (0x08xx): selftest, calibrate, maint.policy, evacuate (R296, R326, R328, R353, R372, R373, Table 15.10). -/

namespace Sys2Proof.Machine

/-! ## Pieces (R372): one runs at a time, module-wide -/

/-- Units of each TARGET. -/
def targetUnits (t : Nat) : Nat := match t with | 0 => 34 | 1 => 96 | 2 => 16 | 3 => 128 | 4 => 8 | _ => 1
/-- Table 15.10, refused with ERR_BUSY; R328 for the module-wide test. -/
def State.pieceBusy (s : State) (x : Piece) : Bool :=
  match x.target with
  | 0 => s.freeSpare.isNone && ((s.partOf x.unit).isSome)
  | 1 => s.ras.hbmSpent.getLsbD (x.unit / 16) || s.ras.hbmRebuild.getLsbD (x.unit / 16)
  | 2 => decide (spareLines - KMap.getD s.ras.lines x.unit 0 < 65536)
  | 3 =>
    let c := x.unit / 16
    (s.cel.lostCtrl[c]?).getD false || (s.cel.lostChan.any fun k => k.1 / 16 == c) || (s.cel.dies.any fun d => d.1 / 64 == c && d.2.failed && !d.2.rebuilt)
  | 4 => s.upPorts == [x.unit]
  | _ => decide (0 < s.liveAll)
/-- Tests: 239 pieces of an attic package, one of anything else. -/
def pieceCount (x : Piece) : Nat := if x.target = 2 && !x.calib then 239 else 1
/-- The unit under test is drained. A core remembers in `left` what it was: 0 spare, 1 replaced by a spare, 2 tested in place, 3 out of service. -/
def State.drainUnit (s : State) (x : Piece) : State × Nat :=
  match x.target with
  | 0 =>
    let c := x.unit
    let k := s.core c
    if k.state = 0 then ((s.onCore c fun k => { k with state := 4 }).wakeDom (coreDom c), 0)
    else if k.state = 3 || k.state = 4 then (s.wakeDom (coreDom c), 3)
    else match s.freeSpare with
      | some b =>
        if k.busy then (s.onCore c fun k => { k with preempt := true }, 1)
        else ((s.moveCore c b 4 false).wakeDom (coreDom c), 1)
      | none => ((s.onCore c fun k => { k with state := 4 }).wakeDom (coreDom c), 2)
  | 4 => if (s.port x.unit).up then ((s.closePort x.unit).flood (.peerDown (s.port x.unit).peer false), 1) else (s, 1)
  | 0xF => (s.onRas fun r => { r with moduleTest := true }, 1)
  | _ => (s, pieceCount x)
/-- The next waiting test starts; one that Table 15.10 refuses completes with ERR_BUSY. -/
def State.startPiece (s : State) : Nat → State
  | 0 => s
  | fuel + 1 =>
    match s.ras.pieces with
    | [] => s
    | x :: rest =>
      if x.started then s
      else if s.pieceBusy x then State.startPiece ((s.onRas fun r => { r with pieces := rest }).err x.cmd.h (stBusy, 0)) fuel
      else
        let first := s.bbx.nextSeq.toNat
        let (s, left) := s.drainUnit x
        s.onRas fun r => { r with pieces := { x with started := true, left := left, records := first } :: rest }
/-- Checks of selftest and calibrate, in the order of R316. -/
def testChecks (calib : Bool) (s : State) (h : Hdr) (pb : Bytes) : List (Option Fail) :=
  let op := if calib then 0x0802 else 0x0801
  let t := fld pb 0 1
  gate s op h 8 true
    ++ fields [(0, if calib then decide (1 ≤ t) && decide (t ≤ 4) else decide (t ≤ 4) || t == 0xF), rsvd pb 1 1, (2, decide (fld pb 2 2 < targetUnits t)), rsvd pb 4 4] ++ padding pb 8
/-- selftest (0x0801) and calibrate (0x0802). -/
def State.admitTest (calib : Bool) (s : State) (h : Hdr) (pb : Bytes) : State :=
  let op := if calib then 0x0802 else 0x0801
  let t := fld pb 0 1
  runCmd s h (testChecks calib s h pb) fun s =>
    let x : Piece := { cmd := { op := BitVec.ofNat 16 op, h := h, pb := pb }, calib := calib, target := t, unit := fld pb 2 2, started := false, left := 0, records := 0 }
    (s.onRas fun r => { r with pieces := r.pieces ++ [x] }).startPiece (s.ras.pieces.length + 1)

/-! ## A piece ends -/

/-- Device address of a line of an attic package: each half interleaves its eight packages in 4 KiB lines (05, Table 5.3). -/
def atticLine (pkg line : Nat) : Nat := 2 ^ 40 + (pkg / 8) * (Config.attGran / 2 * Config.granule) + (line * 8 + pkg % 8) * 4096
/-- The unit failed: its spare is brought in where one is left. The outcome of R328: 1 no spare, 2 a spare came in. -/
def State.unitFails (s : State) (x : Piece) (engine : Nat) (isCol : Bool) (line : Nat) : State × Nat :=
  match x.target with
  | 0 =>
    let s := s.awaitRepair (4 * x.unit + engine) isCol line 0
    if x.left = 1 then (s.offCore x.unit, 2)
    else if x.left = 2 then ((s.onCore x.unit fun k => { k with state := 1 }).fence x.unit engine, 1)
    else (s.offCore x.unit, 1)
  | 1 => let (s, ok) := s.loseHbmChannel x.unit; (s, if ok then 2 else 1)
  | 2 =>
    let spare := decide (KMap.getD s.ras.lines x.unit 0 < spareLines)
    (s.remapLine x.unit (atticLine x.unit ((239 - x.left) * 65536 + line)), if spare then 2 else 1)
  | 3 =>
    (s.loseChannel (x.unit / 16) (x.unit % 16), 1)
  | 4 =>
    let l := match (lanesOf x.unit)[line % 2]? with | some l => l | none => 0
    let (s, ok) := s.failLane l
    (s, if ok then 2 else 1)
  | _ => (s, 1)
/-- The unit passed: a tested core becomes a spare; one tested in place serves again. A count of cores below 32 stands until the next start (R62). -/
def State.unitPasses (s : State) (x : Piece) : State :=
  if x.target = 0 then
    if x.left = 3 then s.offCore x.unit
    else if x.left = 2 then s.onCore x.unit fun k => { k with state := 1 }
    else (s.onCore x.unit fun k => { k with state := 0 }).offCore x.unit
  else s
/-- The unit under test is drained: a core of a partition once its position runs on the spare. -/
def State.drained (s : State) (x : Piece) : Bool := x.target ≠ 0 || (s.core x.unit).state == 4 || (s.core x.unit).state == 3
def State.pieceEnd (s : State) (pass : Bool) (engine : Nat) (isCol : Bool) (line : Nat) : State :=
  match s.ras.pieces with
  | [] => s
  | x :: rest =>
    if !x.started || !s.drained x then s
    else if pass && x.target = 2 && 1 < x.left then s.onRas fun r => { r with pieces := { x with left := x.left - 1 } :: rest }
    else
      let (s, out) := if pass then (s.unitPasses x, 0) else s.unitFails x engine isCol line
      let s := s.onRas fun r => { r with pieces := rest, moduleTest := if x.target = 0xF then false else r.moduleTest }
      let s := s.ok x.cmd.h out (s.bbx.nextSeq.toNat - x.records) 0 0
      (s.startPiece (rest.length + 1)).settle

/-! ## maint.policy, evacuate -/

/-- Checks of maintPolicy, in the order of R316. -/
def maintPolicyChecks (s : State) (h : Hdr) (pb : Bytes) : List (Option Fail) :=
  let m := fld pb 8 1
  gate s 0x0803 h 16 true ++ fields [(8, decide (m ≤ 3)), rsvd pb 9 7] ++ padding pb 16
/-- maint.policy (0x0803). -/
def State.admitMaintPolicy (s : State) (h : Hdr) (pb : Bytes) : State :=
  let m := fld pb 8 1
  runCmd s h (maintPolicyChecks s h pb) fun s =>
    let s := s.onCel fun c => { c with gcCfg := if bit m 0 then BitVec.ofNat 32 (fld pb 0 4) else c.gcCfg, maintCfg := if bit m 1 then BitVec.ofNat 32 (fld pb 4 4) else c.maintCfg }
    s.ok h s.cel.gcCfg.toNat s.cel.maintCfg.toNat 0 0
/-- Checks of evacuate, in the order of R316. -/
def evacuateChecks (s : State) (h : Hdr) (pb : Bytes) : List (Option Fail) :=
  gate s 0x0804 h 0 true ++ padding pb 0 ++ [chk (s.fab.buddy != 0) stState 0]
/-- evacuate (0x0804): it completes once every migratable request has moved (R353). -/
def State.admitEvacuate (s : State) (h : Hdr) (pb : Bytes) : State :=
  runCmd s h (evacuateChecks s h pb) fun s =>
    (s.onSch fun c => { c with evac := some (some h, 0, s.liveAll) }).settle

end Sys2Proof.Machine
end

