-- ==== Sys2Proof/Machine/Start.lean ====
section
/-! DEFINITION. Start-up (17, R18, R215, R388, R401 to R408, R415, R416): module reset, the boot ROM, the boot steps, recovery, power presence. -/

namespace Sys2Proof.Machine

/-! ## Module reset (R18, R215, R401) -/

/-- The cellar after module reset: flash contents, maps and wear stay; queues, claims and registers do not. -/
def Cel.restart (c : Cel) : Cel :=
  { Cel.reset with
    data := c.data, parity := c.parity, map := c.map, nextWrite := c.nextWrite, open_ := c.open_, crowded := c.crowded, nextAid := c.nextAid, used := c.used, lostChan := c.lostChan,
    acts := (c.acts.filter fun a => a.kind ≠ .replica).map fun a => { a with claimed := false, dests := [], age := 0, copies := [], phase := 0, ext := none, took := [], full := false, bad := [] },
    dies := (KMap.mapAll c.dies fun _ d => { d with queue := [], running := none, since3 := 0, since5 := 0, patrolBlock := 0 }).filter fun x => x.2 ≠ Die.reset,
    blocks := KMap.mapAll c.blocks fun _ b => { b with claim := none } }
/-- Mutations whose text was wholly written: a mutation follows the ones before it, so that the first which was not ends the list. -/
def writtenMuts (c : Cel) : List Mutation → List Mutation
  | [] => []
  | m :: l => if !m.placed || c.unacked m.writes then [] else { m with last := none, writes := [] } :: writtenMuts c l
/-- An index after module reset: not rebuilt until DIR_LOAD; its parameters, bindings and the written part of its log stay (R167, R215). -/
def Index.restart (c d : Cel) (x : Index) : Index :=
  let w := writtenMuts c x.waiting
  { x with pages := KMap.mapAll x.pages fun _ l => l.filter fun k => KMap.has d.map k, searches := 0, probes := [], overruns := 0, seqHiLatch := 0, unloaded := true, waiting := w,
           given := if x.loading then x.given else x.seq + BitVec.ofNat 64 w.length,
           dir := KMap.mapAll x.dir fun _ b => { b with hot := none, old := b.old.map fun o => (o.1, o.2.1, o.2.2.1, none) } }
/-- What the cellar had under way and not acknowledged ends with a reset (R273): loads not completed are undone, extents being made are given up, pages never
programmed are unmapped; the journal names the stripes that were under update. -/
def State.dropWrites (s : State) : State :=
  let s := s.each s.ret.indexes fun s x => s.each x.2.loads.reverse fun s l => s.undoLoad x.1 l
  let s := s.each (s.cel.acts.filter Activity.ofIndex) fun s a => s.onCel fun c => c.freeExt s.ident.variant (s.dimOf a.index) a
  s.onCel fun c =>
    let rows := dedup (c.open_ ++ c.pend.map fun w => keyRow w.key)
    let c := c.pend.foldl (fun (c : Cel) w =>
      if !w.programmed && KMap.get? c.map w.key = some 0xFFFFFFFF && !KMap.has c.data w.key then { c with map := KMap.erase c.map w.key, used := modAt c.used (keyCtrl w.key) (· - 1) } else c) c
    { c with pend := [], open_ := rows }
def oldReplica (b : Bucket) : Option Extent := match b.old with | some (_, _, _, h) => h | none => none
/-- Hot replicas are given up: the replica table is not kept. -/
def State.dropReplicas (s : State) : State :=
  s.each (s.ret.indexes.flatMap fun x => x.2.dir.filterMap fun b => if b.2.hot.isSome || (oldReplica b.2).isSome then some (x.2.dim, b.2.hot.toList ++ (oldReplica b.2).toList) else none) fun s x => s.each x.2 fun s e => s.freeExtent x.1 e
/-- Ports and lanes after module reset: failed lanes and spares in use are kept. -/
def Fab.restart (f : Fab) : Fab :=
  { Fab.reset with
    ports := f.ports.filterMap fun p => if p.2.spared then some (p.1, { Port.reset with spared := true }) else none,
    laneFailed := f.laneFailed, spareA := f.spareA, spareB := f.spareB, buddy := f.buddy, sources := f.sources,
    out := f.out.filter fun o => match o.body with | .mirrorClose _ | .departing => true | _ => false }
/-- What the fault logic keeps: fuse words, lines awaiting repair, parity and attic lines spent. -/
def Ras.restart (r : Ras) : Ras :=
  { Ras.reset with fac := r.fac, fld := r.fld, awaiting := r.awaiting, burned := r.burned, hbmSpent := r.hbmSpent, lines := r.lines,
                   retired := r.retired, fusedOut := r.fusedOut }
/-- Retired granules stay retired (R359); a fixed region takes others in their place. -/
def Memory.restart (m : Memory) : Memory :=
  { Memory.reset with att := ((m.att.filter fun x => x.region == .retired).flatMap fun x => (List.range x.count).map fun i => x.first + i).foldl
                              (fun l g => (granRetire l Config.attGran g).1) Memory.reset.att }
/-- Module reset, the boot ROM held at its first action. -/
def State.moduleReset (s : State) : State :=
  let before := s.cel
  let s := s.dropReplicas.dropWrites
  let p := s.pwr
  { s with
    porch := { Porch.reset with msix := s.porch.msix, cfgRetry := s.porch.cfgRetry, cfgDone := s.porch.cfgDone },
    sch := Sch.reset, mem := s.mem.restart, cores := [],
    ret := { Ret.reset with indexes := KMap.mapAll s.ret.indexes fun _ x => x.restart before s.cel }, tbl := Tbl.reset, cel := s.cel.restart, fab := s.fab.restart,
    ras := s.ras.restart, bbx := { s.bbx with timeLo := 0, timeHi := 0, hostTime := 0, aonCycles := 0, seqHiLatch := 0 },
    pwr := { Pwr.reset with inputOn := p.inputOn, modEn := p.modEn, perstN := p.perstN, pwrGood := p.pwrGood, samples := p.samples, low := p.low, overN := p.overN,
                            mv := p.mv, mw := p.mw, tJ := p.tJ, tS := p.tS, tP := p.tP, tC := p.tC },
    boot := { Boot.reset with svnFused := s.boot.svnFused, bootImg := s.boot.bootImg, romDigest := s.boot.romDigest },
    svc := { Svc.reset with latchOpen := s.svc.latchOpen, opened := s.svc.latchOpen, button := s.svc.button, alertN := s.svc.alertN } }

/-! ## Boot-step records (R403, R404, Table 17.2) -/

/-- The latest boot-step record of a step since the latest fw.commit record: OUTCOME, PATH, FAILS, UNITS. -/
def bootRecord (recs : List BbxRec) (step : Nat) : Option (Nat × Nat × Nat × Nat) :=
  recs.foldl (fun acc r =>
    if r.type = 0x0030 && fld r.payload 0 1 == 4 then none
    else if r.type = 0x0010 && fld r.payload 0 1 == step then some (fld r.payload 1 1, fld r.payload 2 1, fld r.payload 3 1, fld r.payload 4 8)
    else acc) none
/-- Path and FAILS carried of a step; `none`: the step is skipped. -/
def bootPath (recs : List BbxRec) (step : Nat) : Option (Nat × Nat) :=
  match bootRecord recs step with
  | none => some (0, 0)
  | some (out, p, f, _) => if out = 0 || out = 1 then some (p, 0) else if f < 3 then some (min f 2, f) else if step = 5 then some (2, 3) else none
def State.bootRec (s : State) (step outcome path fails units : Nat) (aon : W32) : State :=
  s.record 0x0010 (if outcome = 0 then 0 else if outcome = 1 then 2 else 3) (payload [(1, step), (1, outcome), (1, path), (1, fails), (8, units), (4, aon.toNat)])

/-! ## Fuses and cores (R56, R57, R61, R62) -/

/-- The four spares of a repair word: row 0, row 1, column 0, column 1 (Table 2.9): valid, line. -/
def spareEntry (w : W32) (k : Nat) : Option Nat := if bit w.toNat (8 * k + 7) then some (bits w.toNat (8 * k + 6) (8 * k)) else none
/-- The field word with spare `k` burned for a line. -/
def burnEntry (w : W32) (k line : Nat) : W32 := w ||| BitVec.ofNat 32 ((128 + line % 128) * 2 ^ (8 * k))
/-- A line awaiting repair is burned to the lowest-numbered unused spare of its kind; a core with none left is fused out. -/
def State.burn (s : State) (a : Nat × Bool × Nat) : State :=
  let (e, col, line) := a
  let fac := KMap.getD s.ras.fac e 0
  let fld := KMap.getD s.ras.fld e 0
  let ks := if col then [2, 3] else [0, 1]
  match ks.find? fun k => (spareEntry fac k).isNone && (spareEntry fld k).isNone with
  | some k =>
    (s.spareIn (if col then 2 else 1) e line (k % 2)).onRas fun r =>
      { r with fld := KMap.set r.fld e (burnEntry fld k line), awaiting := r.awaiting.filter (· ≠ a), burned := r.burned.filter (· ≠ a) ++ [a] }
  | none => s.onRas fun r => { r with fusedOut := r.fusedOut ||| BitVec.ofNat 34 (2 ^ (e / 4)), awaiting := r.awaiting.filter (· ≠ a) }
/-- Fuse conflicts are recorded: both entries of a spare valid (R56). -/
def State.conflicts (s : State) : State :=
  s.each s.ras.fac fun s f =>
    let fld := KMap.getD s.ras.fld f.1 0
    s.each ((List.range 4).filter fun k => (spareEntry f.2 k).isSome && (spareEntry fld k).isSome) fun s k =>
      s.record 0x0004 1 (payload [(2, f.1), (1, k), (1, 0), (4, f.2.toNat), (4, fld.toNat)])
/-- The line each of an engine's spares replaces (R56): its factory entry, else its field entry unless another entry already replaces that line: a factory
entry of its kind, or the field entry applied to the spare before it (assumption 140). -/
def appliedLines (fac fld : W32) : List (Option Nat) :=
  let field := fun (k : Nat) (others : List (Option Nat)) => match spareEntry fac k, spareEntry fld k with
    | some l, _ => some l
    | none, some l => if others.contains (some l) then none else some l
    | none, none => none
  let kind := fun (k : Nat) =>
    let first := field k [spareEntry fac (k + 1)]
    [first, field (k + 1) [first]]
  kind 0 ++ kind 2
/-- Fuse load applies the entries of every engine; of the field entries only where `field`. -/
def State.applyFuses (s : State) (field : Bool) : State :=
  s.onRas fun r =>
    let engines := dedup (r.fac.map Prod.fst ++ if field then r.fld.map Prod.fst else [])
    { r with applied := engines.foldl (fun m e => KMap.set m e (appliedLines (KMap.getD r.fac e 0) (if field then KMap.getD r.fld e 0 else 0))) [] }
/-- Core states after fuse load (R62): the 32 lowest-numbered healthy cores serve, the others are spares. -/
def State.assignCores (s : State) : State :=
  let healthy := (List.range 34).filter fun c => !s.ras.fusedOut.getLsbD c
  let serve := healthy.take 32
  s.each (List.range 34) fun s c => s.onCore c fun k =>
    { k with state := if serve.contains c then (if k.fenced = 0 then 1 else 2) else if healthy.contains c then 0 else 3 }
/-- Engines that a start leaves fenced. -/
def State.fenceAll (s : State) (es : List Nat) : State :=
  s.each (dedup es) fun s e =>
    if (s.core (e / 4)).state = 3 then s
    else if (s.core (e / 4)).fenced.getLsbD (partnerOf (e % 4)) then s.onCore (e / 4) fun k => { k with state := 3 }
    else s.onCore (e / 4) fun k => { k with fenced := k.fenced ||| BitVec.ofNat 4 (2 ^ (e % 4)), state := if k.state = 1 then 2 else k.state }
/-- FUSE_LOAD (R56, R57, R61): the entries are applied; path 0 burns first, paths 1 and 2 fence the lines awaiting repair; skipped, every engine a field entry names is fenced. -/
def State.fuseLoad (s : State) (path : Option Nat) : State :=
  let s := s.conflicts
  match path with
  | some 0 => ((s.each s.ras.awaiting State.burn).applyFuses true).assignCores
  | some _ => ((s.applyFuses true).assignCores).fenceAll (s.ras.awaiting.map fun a => a.1)
  | none => ((s.applyFuses false).assignCores).fenceAll (s.ras.fld.filterMap fun f => if (List.range 4).any fun k => (spareEntry f.2 k).isSome then some f.1 else none)
/-- Lines burned for a core that failed its test again, where every one of them has a further spare of its kind left (R61); `none`: the core is fused out. -/
def Ras.retry (r : Ras) (c : Nat) : Option (List (Nat × Bool × Nat)) :=
  let mine := r.burned.filter fun a => a.1 / 4 == c
  let left := fun (a : Nat × Bool × Nat) => (if a.2.1 then [2, 3] else [0, 1]).any fun k =>
    (spareEntry (KMap.getD r.fac a.1 0) k).isNone && (spareEntry (KMap.getD r.fld a.1 0) k).isNone
  if !mine.isEmpty && mine.all left then some mine else none
/-- Cores fail their test. With `fuse` (R61): the lines just burned for a core are recorded as awaiting repair once more and its engines fenced; a core with none
burned, or no further spare, is fused out. Without (no completed test): retired for this start. -/
def State.coreTest (s : State) (units : Nat) (fuse : Bool) : State :=
  let failed := (List.range 34).filter fun c => bit units c
  let again := if fuse then failed.filterMap s.ras.retry else []
  let bad := failed.filter fun c => !fuse || (s.ras.retry c).isNone
  let s := s.each again.flatten fun s a => s.awaitRepair a.1 a.2.1 a.2.2 2
  let s := s.fenceAll (again.flatten.map Prod.fst)
  let s := if fuse then s.onRas fun r => { r with burned := [], fusedOut := r.fusedOut ||| BitVec.ofNat 34 (sumNat (bad.map fun c => 2 ^ c)) } else s
  let healthy := (List.range 34).filter fun c => (s.core c).state ≠ 3 && !bad.contains c
  let serve := healthy.take 32
  s.each (List.range 34) fun s c => s.onCore c fun k =>
    { k with state := if serve.contains c then (if k.fenced = 0 then 1 else 2) else if healthy.contains c then 0 else 3 }

/-! ## Boot steps (Table 17.1) -/

/-- Domains a step brings up. -/
def stepDoms (i : Nat) : List Nat :=
  match i with
  | 3 => [41, 42, 43, 44, 45, 46] | 4 => [47, 48] | 5 => [1] | 6 => [2, 3] | 7 => [49, 50, 51, 52, 53, 54, 55, 56] | 9 => [5, 6] | _ => []
def State.domsOn (s : State) (l : List Nat) : State := s.each l fun s d => s.setDom d .on
/-- The work of a step that passed on a path, with the units that failed in it. -/
def State.stepWork (s : State) (i path units : Nat) : State :=
  match i with
  | 1 => s.fuseLoad (some path)
  | 2 => s.coreTest units true
  | 3 => s.onBoot fun b => { b with hbmPath := path }
  | 4 => s.onBoot fun b => { b with attPath := path }
  | 5 => (s.onBoot fun b => { b with pcieReady := true }).onPorch fun p => { p with linkUp := true }
  | 6 => s.probe (path == 0)
  | 7 => (s.each ((List.range 8).filter fun c => bit units c) fun s c => s.setDom (49 + c) .off).onCel fun c =>
      { c with lostCtrl := (List.range 8).map fun k => bit units k }
  | 8 => s.onCel fun c => c.mount s.ident.variant
  | 9 =>
    let good := s.ret.indexes.filter fun x => !bit units x.1
    let s := s.onRet fun r => { r with indexes := KMap.mapAll r.indexes fun k x => if bit units k then x else { x with unloaded := false } }
    let s := s.each good fun s x => (s.hbmSize (.index x.1) x.2.granules).syncHomes x.1 (dedup (KMap.keys x.2.pages ++ x.2.store.map fun e => x.2.homePage e.id))
    s.each good fun s x => s.each (List.range x.2.waiting.length) fun s _ => s.publish x.1
  | _ => s
/-- What a skipped step leaves: `units` are those of its last record. -/
def State.stepSkipped (s : State) (i units : Nat) : State :=
  let s := s.onBoot fun b => { b with skipped := b.skipped ||| BitVec.ofNat 10 (2 ^ (i - 1)) }
  match i with
  | 1 => s.fuseLoad none
  | 2 => s.coreTest units false
  | 3 | 4 | 7 | 8 => s.onBoot fun b => { b with hold := true }
  | 6 => (s.setDom 2 .off).setDom 3 .off
  | _ => s
/-- Domains turn on and the step's path is fixed; a skipped step is recorded and the next begins. -/
def State.beginStep (s : State) : Nat → Nat → State
  | 0, _ => s
  | fuel + 1, i =>
    let s := s.onBoot fun b => { b with step := i }
    if i = 0xA then s.onBoot fun b => { b with path := 0, fails := 0 }
    else match bootPath s.bbx.recs i with
      | some (p, f) =>
        let s := (s.domsOn (stepDoms i)).onBoot fun b => { b with path := p, fails := f }
        -- CEL_UP on path 1: a controller that failed at the previous start starts lost
        match i, bootRecord s.bbx.recs 7 with
        | 7, some (_, _, _, u) => if p = 0 then s else s.onCel fun c => { c with lostCtrl := (List.range 8).map fun k => bit u k }
        | _, _ => s
      | none =>
        let u := match bootRecord s.bbx.recs i with | some (_, _, _, u) => u | none => 0
        let s := (s.bootRec i 3 0xFF 3 0 (BitVec.ofNat 32 (s.bbx.aonCycles / 1024))).stepSkipped i u
        if s.boot.hold then s else State.beginStep s fuel (i + 1)
/-- Recovery mode is entered (R416). -/
def State.recover (s : State) : State :=
  let s := s.onBoot fun b => { b with recovery := true, attPath := 2, pcieReady := true }
  ((s.domsOn [1, 47, 48]).onPorch fun p => { p with linkUp := true }).serviceAction 7 0 0
/-- The boot ROM's actions (R402): its own digest, the image, recovery, or the first boot step. A start begins (START). -/
def State.bootRom (s : State) (romOk readable buttonHeld : Bool) : State :=
  let s := s.onBbx fun b => { b with starts := b.starts + 1, hostTime := 0, aonCycles := 0 }
  let s := s.onBoot fun b => { b with romHeld := false, step := 0, skipped := 0, alt := 0 }
  if !romOk then ((s.onBoot fun b => { b with romStopped := true }).onSvc fun v => { v with alertN := false }).setDom 1 .off
  else
    let img := match s.boot.bootImg with
      | some x => if x.passes s.boot.svnFused then some x else none
      | none => none
    match img with
    | some x =>
      if !readable || buttonHeld then s.recover
      else (s.onBoot fun b => { b with running := some x, svnRunning := x.svn }).beginStep 10 1
    | none => s.recover
/-- A boot step ends (R403 to R406). -/
def State.stepEnd (s : State) (ok : Bool) (units : Nat) (aon : W32) : State :=
  let b := s.boot
  let i := b.step
  let next := fun (s : State) => if s.boot.hold then s else s.beginStep 10 (i + 1)
  if b.romHeld || b.romStopped || b.hold || b.recovery || i = 0 || 0xA < i then s
  else if i = 0xA then
    ((s.bootRec i 0 0 0 0 aon).onBoot fun b => { b with step := 0xF, service := true })
  else if ok && !(i = 7 && decide (1 < countBits 8 (bit units))) then
    let s := s.stepWork i b.path units
    let s := if b.path = 0 then s else s.onBoot fun b => { b with alt := b.alt ||| BitVec.ofNat 10 (2 ^ (i - 1)) }
    next (s.bootRec i (if b.path = 0 then 0 else 1) b.path 0 units aon)
  else
    let f := min 3 (b.fails + 1)
    let s := s.bootRec i 2 b.path f units aon
    if i ≤ 5 then
      if i = 5 && b.fails = 3 then s.onBoot fun b => { b with hold := true } else s.bootRom true true false
    else next (s.stepSkipped i units)

/-! ## Power presence and sequencing (R380, R388, R389) -/

/-- Is the input within R380? -/
def inputOk (mv : Nat) : Bool := decide (34000 ≤ mv) && decide (mv ≤ 58000)
/-- The main stage and PD_CTL, then PD_HOST, come on (R388). -/
def State.powerUp (s : State) : State :=
  if s.pwr.inputOn && s.pwr.modEn && inputOk s.pwr.mv && !s.svc.latchOpen then
    (s.onPwr fun w => { w with pwrGood := true, inputLost := false }).domsOn [4, 1]
  else s
/-- Every domain but PD_AON turns off, and what it held is gone. -/
def State.powerDown (s : State) : State :=
  let s := s.moduleReset
  s.onPwr fun w => { w with doms := [(0, .on)], pwrGood := false }

/-! ## Rows -/

/-- PERST_ASSERT (R401, R313, R314). -/
def execPerstAssert (s : State) : Out :=
  .next (
    let s := s.onPwr fun w => { w with perstN := false }
    if s.dom 4 ≠ .on then s else (s.killWhere fun _ r => !r.closed).moduleReset)
/-- RESET_RELEASE (R401, R402, R434): PERST_N is deasserted with PD_CTL on; an open latch holds the module. -/
def execResetRelease (romOk : Bool) (readable : Bool) (buttonHeld : Bool) (s : State) : Out :=
  .next (
    let s := s.onPwr fun w => { w with perstN := true }
    if s.dom 4 ≠ .on || !s.boot.romHeld || s.svc.latchOpen then s
    else ((s.onPwr fun w => { w with pwrGood := true }).onSvc fun v => { v with opened := false }).bootRom romOk readable buttonHeld)
/-- BOOT_STEP_END. -/
def execBootStepEnd (ok : Bool) (units : W64) (aon : W32) (s : State) : Out := .next (s.stepEnd ok units.toNat aon)
/-- POWER_ON (R380, R388): PD_AON comes up; with MOD_EN asserted the module powers up at once. -/
def execPowerOn (mv : W32) (s : State) : Out :=
  .next (
    let s := s.onPwr fun w => { w with mv := mv.toNat }
    if s.pwr.inputOn then s
    else ((s.onPwr fun w => { w with inputOn := true, doms := [(0, .on)], samples := [], low := 0, overN := 0 }).powerUp))
/-- ALWAYS_ON_POWER_LOSS (R18): nothing is powered; fields marked kept lose their values; the MRAM keeps its own. -/
def execAlwaysOnPowerLoss (s : State) : Out :=
  .next (
    let s := s.stopAll.powerDown
    let s := s.onPwr fun w => { w with inputOn := false, doms := [], samples := [], low := 0, overN := 0, mv := 0, mw := 0, tJ := 0, tS := 0, tP := 0, tC := 0 }
    let s := s.onFab fun f => { f with ports := [], laneFailed := 0, spareA := none, spareB := none }
    let s := s.onRas fun r => { r with hbmSpent := 0, lines := [], retired := [] }
    (s.onMem fun m => { m with att := m.att.filter fun x => x.region != .retired }).onSvc fun v => { v with alertN := true, button := false })
end Sys2Proof.Machine
end

