-- ==== Sys2Proof/Machine/FabCmds.lean ====
section
/-! DEFINITION. Fabric commands (0x09xx): fab.status, fab.lease, fab.buddy (R343 to R345, R350, Table 13.11). -/

namespace Sys2Proof.Machine

/-- fab.status' record (Table 13.11). -/
def fabRec (s : State) : Bytes :=
  let port := fun (p : Nat) => let x := s.port p; boolNat x.up + 2 * boolNat x.auth + 4 * boolNat x.spared
  payload ([(2, if s.fab.valid then s.fab.addr.toNat else 0), (2, s.fab.buddy.toNat), (2, 1 + s.fab.routes.length), (2, 0)] ++ (List.range 8).map (fun p => (1, port p))
    ++ [(2, sumNat (s.fab.windows.map fun w => 2 ^ (w.1 % 16))), (2, 0), (4, sumNat (s.fab.lent.map fun l => l.gib)), (40, 0)])
/-- Checks of fabStatus, in the order of R316. -/
def fabStatusChecks (s : State) (h : Hdr) (pb : Bytes) : List (Option Fail) :=
  gate s 0x0901 h 16 true ++ fields [outField pb 0] ++ padding pb 16
/-- fab.status (0x0901). -/
def State.admitFabStatus (s : State) (h : Hdr) (pb : Bytes) : State :=
  runCmd s h (fabStatusChecks s h pb) fun s => s.output h pb 0 (fabRec s) 0 0 0

/-! ## fab.lease (0x0902) -/

/-- Windows neither held nor promised to an acquire. -/
def Fab.freeWindow (f : Fab) : Option Nat := (List.range 16).find? fun w => !KMap.has f.windows w && !(f.acquiring.any fun a => a.2.2 == w)
/-- The lender an acquire asks: its TARGET, or the reachable module with an offer, fewest hops, then the lower address. -/
def Fab.lender (f : Fab) (target : Nat) : Option W16 :=
  if target ≠ 0 then (if KMap.has f.routes target then some (BitVec.ofNat 16 target) else none)
  else
    let c := f.offers.filterMap fun o => (KMap.get? f.routes o.1.toNat).map fun r => (r.hops, o.1.toNat)
    ((sortBy (fun a b : Nat × Nat => decide (a.1 < b.1) || (a.1 == b.1 && decide (a.2 < b.2))) c).head?).map fun x => BitVec.ofNat 16 x.2
/-- Acquire: the lender is asked; its grant maps the lowest free window. -/
def State.leaseAcquire (s : State) (h : Hdr) (target gib : Nat) : State :=
  match s.fab.lender target, s.fab.freeWindow with
  | none, _ => s.err h (stNotFound, 0)
  | some _, none => s.err h (stNoResource, 0)
  | some l, some w =>
    let s := s.onFab fun f => { f with acquiring := f.acquiring ++ [(h, l, w)] }
    s.send l 3 (.leaseAsk gib)
/-- Release: while pages lie on the window the pager brings them home, and the release is turned away. -/
def State.leaseRelease (s : State) (h : Hdr) (w : Nat) : State :=
  match KMap.get? s.fab.windows w with
  | none => s.err h (stNotFound, 0)
  | some x =>
    if s.windowUsed w then (s.onFab fun f => { f with windows := KMap.set f.windows w { x with draining := true } }).err h (stBusy, 0)
    else ((s.send x.lender 3 (.leaseRelease w)).onFab fun f => { f with windows := KMap.erase f.windows w }).ok h 0 0 0 0
/-- Offer: granules are set aside, and every module with a route hears of it. -/
def State.leaseOffer (s : State) (h : Hdr) (gib : Nat) : State :=
  if memAttFree s < 512 * gib then s.err h (stNoResource, 0)
  else
    let s := s.onFab fun f => { f with offered := f.offered ++ [gib] }
    let s := s.attSize .offer (512 * sumNat s.fab.offered)
    let most := maxNat s.fab.offered
    (s.each s.fab.routes fun s r => s.send (BitVec.ofNat 16 r.1) 3 (.leaseOffer most)).ok h 0 0 0 0
/-- Withdrawal: parts not granted are free at once; the others come back by release (R345). -/
def State.leaseWithdraw (s : State) (h : Hdr) : State :=
  if s.fab.offered.isEmpty && (s.fab.lent.isEmpty || !s.fab.withdrawing.isEmpty) then s.err h (stNotFound, 0)
  else
    let s := s.attSize .offer 0
    let s := s.onFab fun f => { f with offered := [], withdrawing := f.withdrawing ++ [h] }
    let s := s.each s.fab.routes fun s r => s.send (BitVec.ofNat 16 r.1) 3 (.leaseOffer 0)
    (s.each s.fab.lent fun s l => s.send l.borrower 3 (.leaseWithdraw l.ref.toNat)).endWithdraw
/-- Checks of fabLease, in the order of R316. -/
def fabLeaseChecks (s : State) (h : Hdr) (pb : Bytes) : List (Option Fail) :=
  let op := fld pb 0 1
  let gib := fld pb 4 4
  gate s 0x0902 h 8 true
    ++ fields [(0, decide (op ≤ 3)), (1, op != 1 || decide (fld pb 1 1 ≤ 15)), (2, op != 0 || fld pb 2 2 != 0xFFFF), (4, (op != 0 && op != 2) || (decide (1 ≤ gib) && decide (gib ≤ 128)))] ++ padding pb 8
def State.admitFabLease (s : State) (h : Hdr) (pb : Bytes) : State :=
  let op := fld pb 0 1
  let gib := fld pb 4 4
  runCmd s h (fabLeaseChecks s h pb) fun s =>
    match op with
    | 0 => s.leaseAcquire h (fld pb 2 2) gib
    | 1 => s.leaseRelease h (fld pb 1 1)
    | 2 => s.leaseOffer h gib
    | _ => s.leaseWithdraw h

/-! ## fab.buddy (0x0903) -/

/-- A neighbour's port that failed its link authentication. -/
def State.authFailed (s : State) (a : W16) : Bool := (List.range 8).any fun p => (s.port p).authFail && (s.port p).peer == a
/-- Checks of fabBuddy, in the order of R316. -/
def fabBuddyChecks (s : State) (h : Hdr) (pb : Bytes) : List (Option Fail) :=
  let a := w16At pb 0
  gate s 0x0903 h 8 true
    ++ fields [(0, a != 0xFFFF && !(s.fab.valid && a == s.fab.addr)), rsvd pb 2 6] ++ padding pb 8
    ++ [chk (a == 0 || KMap.has s.fab.routes a.toNat || !s.authFailed a) stAuth 0, chk (a == 0 || KMap.has s.fab.routes a.toNat) stNotFound 0]
def State.admitFabBuddy (s : State) (h : Hdr) (pb : Bytes) : State :=
  let a := w16At pb 0
  runCmd s h (fabBuddyChecks s h pb) fun s =>
    let s := if a = s.fab.buddy then s else s.closeMirrors
    (s.onFab fun f => { f with buddy := a, buddyDown := false }).ok h a.toNat 0 0 0

end Sys2Proof.Machine
end

