-- ==== Sys2Proof/Machine/FwCmds.lean ====
section
/-! DEFINITION. Firmware, attestation, black box and sensors (0x0Axx, 0x0B01 to 0x0B03): R376, R377, R400, R409 to R416, R421. -/

namespace Sys2Proof.Machine

/-! ## fw.stage (0x0A01), fw.commit (0x0A02) -/

/-- Granules of the staging area (R412). -/
def stageGranules : Nat := 32
/-- A verified image is staged; it takes the place of an earlier one. -/
def State.stage (s : State) (img : Bytes) : Fail ⊕ State :=
  match fwVerify s.boot.svnFused img with
  | .inl f => .inl f
  | .inr x =>
    let s := if s.boot.staged.isNone then s.attSize .staging stageGranules else s
    .inr (s.onBoot fun b => { b with staged := some x })
/-- Checks of fwStage, in the order of R316. -/
def fwStageChecks (s : State) (h : Hdr) (pb : Bytes) : List (Option Fail) :=
  gate s 0x0A01 h 16 true ++ fields (dlField pb 0 true) ++ padding pb 16
    ++ [dlReads s pb 0, chk (s.boot.staged.isSome || decide (stageGranules ≤ memAttFree s)) stNoResource 0]
def State.admitFwStage (s : State) (h : Hdr) (pb : Bytes) : State :=
  runCmd s h (fwStageChecks s h pb) fun s =>
    match s.stage (dlBytes s pb 0) with
    | .inl f => s.err h f
    | .inr s => s.ok h (match s.boot.staged with | some x => x.version.toNat | none => 0) 0 0 0
/-- Can the boot region be written? Not while the cellar is not up (R406). -/
def State.bootWritable (s : State) : Bool := !(s.boot.hold && decide (s.boot.step ≤ 7))
/-- Checks of fwCommit, in the order of R316. -/
def fwCommitChecks (s : State) (h : Hdr) (pb : Bytes) : List (Option Fail) :=
  gate s 0x0A02 h 0 true ++ padding pb 0 ++ [chk s.boot.staged.isSome stState 0]
/-- fw.commit (R413): the image goes to the boot region, is read back and verified, and the SVN is burned. In recovery mode the module then starts
into it (R416). -/
def State.admitFwCommit (s : State) (h : Hdr) (pb : Bytes) : State :=
  runCmd s h (fwCommitChecks s h pb) fun s =>
    match s.boot.staged with
    | none => s.err h (stState, 0)
    | some x =>
      let s := if s.bootWritable then s.onBoot fun b => { b with bootImg := some x } else s
      let back := match s.boot.bootImg with | some y => y.passes s.boot.svnFused && s.bootWritable | none => false
      if !back then (s.serviceAction 4 1 x.version.toNat).err h (stDevice, 0)
      else
        let s := s.onBoot fun b => { b with svnFused := max b.svnFused x.svn, staged := none }
        let s := s.serviceAction 4 0 x.version.toNat
        let s := (s.attSize .staging 0).ok h x.version.toNat 0 0 0
        if s.boot.recovery then ((s.serviceAction 8 0 0).moduleReset).bootRom true true false else s

/-! ## attest (0x0A03) -/

/-- Measurements (Table 17.6): value and whether it is a digest. -/
def State.measure (s : State) (i : Nat) : Bytes :=
  match i with
  | 1 => digestBytes s.boot.romDigest
  | 2 => digestBytes (match s.boot.running with | some x => x.digest | none => 0)
  | 3 => leBytes 1 s.boot.svnFused ++ leBytes 1 s.boot.svnRunning
  | 4 => digestBytes (match s.boot.staged with | some x => x.digest | none => 0)
  | 5 => digestBytes (sm3 (leBytes 4 s.boot.imgPolicy.toNat ++ ((List.range 16).filter fun k => bit s.boot.imgPolicy.toNat k).flatMap fun k => slotKey s k))
  | _ => leBytes 4 (secBoot s)
/-- Bytes of an SM2 signature: r then s. -/
def sigBytes (x : BitVec 512) : Bytes := (leBytes 64 x.toNat).reverse
/-- The attestation record less its signature (Table 17.7). -/
def State.attestBody (s : State) (nonce : Bytes) (mask : Nat) : Bytes :=
  let blocks := ((List.range 6).filter fun i => bit mask (i + 1)).flatMap fun i => let v := s.measure (i + 1); leBytes 1 (i + 1) ++ leBytes 1 v.length ++ leBytes 2 0 ++ v
  leBytes 4 0x54415946 ++ leBytes 4 (56 + blocks.length + 64) ++ slice nonce 0 32 ++ leBytes 4 mask ++ leBytes 8 s.ident.serial.toNat ++ leBytes 4 s.bbx.starts.toNat ++ blocks
/-- Checks of attest, in the order of R316. -/
def attestChecks (s : State) (h : Hdr) (pb : Bytes) : List (Option Fail) :=
  let mask := fld pb 32 4
  gate s 0x0A03 h 56 true ++ fields [(32, mask % 2 == 0 && decide (mask < 128)), rsvd pb 36 4, outField pb 40] ++ padding pb 56
def State.admitAttest (s : State) (h : Hdr) (pb : Bytes) : State :=
  let mask := fld pb 32 4
  runCmd s h (attestChecks s h pb) fun s =>
    let body := s.attestBody (pb.take 32) mask
    let (n, s) := s.fresh
    s.output h pb 40 (body ++ sigBytes (Config.sm2Sign (sm3 body) n)) 0 0 0

/-! ## bbx.read (0x0B01), bbx.ack (0x0B02), sensors (0x0B03) -/

/-- Records from a sequence number on, at most `n`, in SEQ order. -/
def Bbx.from_ (b : Bbx) (start n : Nat) (sealedOnly : Bool) : List BbxRec := (b.recs.filter fun r => decide (start ≤ r.seq.toNat) && (!sealedOnly || r.sealed_)).take n
/-- READ is set in each record returned. -/
def Bbx.markRead (b : Bbx) (l : List BbxRec) : Bbx := { b with recs := b.recs.map fun r => if l.any fun x => x.seq == r.seq then { r with read := true } else r }
/-- The sequence number at which to continue. -/
def Bbx.nextFrom (b : Bbx) (start : Nat) (l : List BbxRec) : Nat :=
  match l.getLast? with
  | some r => r.seq.toNat + 1
  | none => match b.recs with | r :: _ => max start r.seq.toNat | [] => start
/-- Checks of bbxRead, in the order of R316. -/
def bbxReadChecks (s : State) (h : Hdr) (pb : Bytes) : List (Option Fail) :=
  gate s 0x0B01 h 32 true ++ fields [(12, decide (fld pb 12 1 ≤ 1)), rsvd pb 13 3, outField pb 16] ++ padding pb 32
def State.admitBbxRead (s : State) (h : Hdr) (pb : Bytes) : State :=
  let start := fld pb 0 8
  runCmd s h (bbxReadChecks s h pb) fun s =>
    let l := s.bbx.from_ start (fld pb 8 4) (fld pb 12 1 == 1)
    let nx := s.bbx.nextFrom start l
    let l' := l.map fun r => { r with read := true }
    let s := if fld pb 24 4 < 64 * l.length then s else s.onBbx fun b => b.markRead l
    s.output h pb 16 (l'.flatMap BbxRec.bytes) l.length (nx % 2 ^ 32) (nx / 2 ^ 32)
/-- Checks of bbxAck, in the order of R316. -/
def bbxAckChecks (s : State) (h : Hdr) (pb : Bytes) : List (Option Fail) :=
  gate s 0x0B02 h 8 true ++ padding pb 8
def State.admitBbxAck (s : State) (h : Hdr) (pb : Bytes) : State :=
  let upto := fld pb 0 8
  runCmd s h (bbxAckChecks s h pb) fun s =>
    let hit := fun (r : BbxRec) => r.sealed_ && r.read && decide (r.seq.toNat ≤ upto)
    let n := (s.bbx.recs.filter hit).length
    let s := s.onBbx fun b => { b with recs := b.recs.map fun r => if hit r then { r with sealed_ := false } else r, sealedN := b.sealedN - n }
    (s.serviceAction 6 0 upto).ok h n 0 0 0
/-- The sensors record (Table 13.11). -/
def sensorsRec (s : State) : Bytes :=
  let w := s.pwr
  payload [(2, w.tJ.toNat), (2, w.tS.toNat), (2, w.tP.toNat), (2, w.tC.toNat), (4, w.mv), (4, w.mw), (4, coreMhz w), (1, w.cap),
           (1, boolNat (decide (0 < w.therm) || w.thermHold)), (1, w.steps), (1, w.floor), (40, 0)]
/-- Checks of sensors, in the order of R316. -/
def sensorsChecks (s : State) (h : Hdr) (pb : Bytes) : List (Option Fail) :=
  gate s 0x0B03 h 16 true ++ fields [outField pb 0] ++ padding pb 16
def State.admitSensors (s : State) (h : Hdr) (pb : Bytes) : State :=
  runCmd s h (sensorsChecks s h pb) fun s => s.output h pb 0 (sensorsRec s) 0 0 0

end Sys2Proof.Machine
end

