-- ==== Sys2Proof/Machine/Admit.lean ====
section
/-! DEFINITION. Admission (R306, R307, R315 to R319): the command an opcode names, commands that waited, and the fetch of a submission entry. -/

namespace Sys2Proof.Machine

/-- What an opcode does with its header and parameters (Table 13.3); any other value is ERR_OPCODE. -/
def State.command (s : State) (op : Nat) (h : Hdr) (pb : Bytes) : State :=
  match op with
  | 0x0101 => State.admitIdentify s h pb
  | 0x0201 => State.admitTenantLoad s h pb
  | 0x0202 => State.admitTenantUnload s h pb
  | 0x0203 => State.admitBaseLoad s h pb
  | 0x0204 => State.admitTenantInfo s h pb
  | 0x0301 => State.admitAsk s h pb
  | 0x0302 => State.admitGenerate s h pb
  | 0x0303 => State.admitEmbed s h pb
  | 0x0304 => State.admitSearch s h pb
  | 0x0305 => State.admitRerank s h pb
  | 0x0306 => State.admitCancel s h pb
  | 0x0307 => State.admitStep s h pb
  | 0x0401 => State.admitIndexCreate s h pb
  | 0x0402 => State.admitIndexInsert s h pb
  | 0x0403 => State.admitIndexDelete s h pb
  | 0x0404 => State.admitIndexMerge s h pb
  | 0x0405 => State.admitIndexInfo s h pb
  | 0x0406 => State.admitIndexLoad s h pb
  | 0x0407 => State.admitPassageGet s h pb
  | 0x0501 => State.admitTableCreate s h pb
  | 0x0502 => State.admitTableWrite s h pb
  | 0x0503 => State.admitTableGather s h pb
  | 0x0504 => State.admitTableInfo s h pb
  | 0x0601 => State.admitVocabLoad s h pb
  | 0x0602 => State.admitGrammarLoad s h pb
  | 0x0603 => State.admitTokenize s h pb
  | 0x0604 => State.admitDetokenize s h pb
  | 0x0701 => State.admitPartSet s h pb
  | 0x0702 => State.admitPartStats s h pb
  | 0x0703 => State.admitPartRegulate s h pb
  | 0x0801 => State.admitTest false s h pb
  | 0x0802 => State.admitTest true s h pb
  | 0x0803 => State.admitMaintPolicy s h pb
  | 0x0804 => State.admitEvacuate s h pb
  | 0x0901 => State.admitFabStatus s h pb
  | 0x0902 => State.admitFabLease s h pb
  | 0x0903 => State.admitFabBuddy s h pb
  | 0x0A01 => State.admitFwStage s h pb
  | 0x0A02 => State.admitFwCommit s h pb
  | 0x0A03 => State.admitAttest s h pb
  | 0x0B01 => State.admitBbxRead s h pb
  | 0x0B02 => State.admitBbxAck s h pb
  | 0x0B03 => State.admitSensors s h pb
  | 0x0B04 => State.admitAcctRead s h pb
  | _ => s.err h (stOpcode, 0)

/-- Waiting commands whose objects no longer change are admitted, earliest first (R319). -/
def State.wake (s : State) : Nat → State
  | 0 => s
  | fuel + 1 =>
    let free := fun (x : Nat × Cmd) => !(s.onPorch fun p => { p with waiting := p.waiting.take x.1 }).mustWait x.2.op.toNat x.2.h x.2.pb
    match indexOf free (enum s.porch.waiting) with
    | none => s
    | some i =>
      match s.porch.waiting[i]? with
      | none => s
      | some c =>
        let s := s.onPorch fun p => { p with waiting := p.waiting.take i ++ p.waiting.drop (i + 1) }
        State.wake (s.command c.op.toNat c.h c.pb) fuel
/-- Work queued for PD_RET or PD_TXT wakes it from sleep (R385). -/
def State.retBusy (s : State) : Bool := !s.ret.jobs.isEmpty || !s.tbl.gathers.isEmpty || !s.tbl.writes.isEmpty
def State.txtBusy (s : State) : Bool :=
  (s.sch.slots.any fun x => x.2.running && (x.2.state == .front || x.2.stage == 6)) || s.sch.parts.any fun p => match p.2.run with | some r => !r.empty | none => false
def State.wakeUnits (s : State) : State :=
  let s := if s.retBusy && s.dom 6 == .sleep then s.setDom 6 .changing else s
  if s.txtBusy && s.dom 5 == .sleep then s.setDom 5 .changing else s
/-- The state an event leaves, once the requests that wait for a CQ entry of their delivery queue pair, and the commands it freed, are admitted. -/
def State.woken (s : State) : State :=
  let s := if s.fab.resuming.isEmpty then s else s.resumeWaiting
  (s.wake s.porch.waiting.length).wakeUnits
def woken (s : State) : Out := .next s.woken

/-- The header of a submission entry (Table 12.12). -/
def entryHdr (fn : Fn) (qp : QpNo) (e : Bytes) : Hdr :=
  { fn := fn, qp := qp, flags := BitVec.ofNat 8 (fld e 2 1), part := BitVec.ofNat 8 (fld e 3 1), tag := BitVec.ofNat 32 (fld e 4 4),
    paramLen := BitVec.ofNat 32 (fld e 8 4), rsv := BitVec.ofNat 32 (fld e 12 4), run := 0 }
/-- An indirect entry's own rules: an aligned address and zero bytes after it. -/
def indirectOk (e : Bytes) : Bool := fld e 16 8 % 8 == 0 && allZero (slice e 24 40)
/-- The next submission entry is fetched and admitted (R302 to R307). A BARRIER entry is fetched once every earlier command has completed; an indirect
entry that breaks its own rules fails as a header does. -/
def State.fetchNext (s : State) (fn : Fn) (qp : QpNo) : State :=
  let k := qpKey fn qp
  let q := s.qp k
  if !q.mayFetch || s.departed || q.sqHead == q.sqTail then s
  else
    let e := s.hostRead (q.runSqb.toNat + 64 * (q.sqHead % q.runSq)) 64
    let h := entryHdr fn qp e
    if h.flags.getLsbD 1 && q.inFlight != 0 then s
    else
      let bad := h.indirect && !indirectOk e
      let h := if bad then { h with rsv := 1 } else h
      let n := h.paramLen.toNat
      let pb := if !h.indirect then slice e 16 48 else if bad || 16777216 < n then [] else s.hostRead (fld e 16 8) n
      let s := s.onQp k fun q => { q with sqHead := q.sqHead + 1 }
      s.fetched (fld e 0 2) h pb fun h s => s.command (fld e 0 2) h pb

end Sys2Proof.Machine
end

