-- ==== Sys2Proof/Machine/CommandRows.lean ====
section
/-! DEFINITION. The rows of the host commands (Table 13.3): each is the fetch of its command (R307) and its admission. Rows that split one opcode by
a parameter share that opcode's admission. -/

namespace Sys2Proof.Machine

def execIdentify (h : Hdr) (pb : Bytes) (s : State) : Out := woken (s.fetched 0x0101 h pb fun h s => State.admitIdentify s h pb)
def execTenantLoad (h : Hdr) (pb : Bytes) (s : State) : Out := woken (s.fetched 0x0201 h pb fun h s => State.admitTenantLoad s h pb)
def execTenantUnload (h : Hdr) (pb : Bytes) (s : State) : Out := woken (s.fetched 0x0202 h pb fun h s => State.admitTenantUnload s h pb)
def execBaseUnload (h : Hdr) (pb : Bytes) (s : State) : Out := woken (s.fetched 0x0202 h pb fun h s => State.admitTenantUnload s h pb)
def execBaseLoad (h : Hdr) (pb : Bytes) (s : State) : Out := woken (s.fetched 0x0203 h pb fun h s => State.admitBaseLoad s h pb)
def execTenantInfo (h : Hdr) (pb : Bytes) (s : State) : Out := woken (s.fetched 0x0204 h pb fun h s => State.admitTenantInfo s h pb)
def execAsk (h : Hdr) (pb : Bytes) (s : State) : Out := woken (s.fetched 0x0301 h pb fun h s => State.admitAsk s h pb)
def execGenerate (h : Hdr) (pb : Bytes) (s : State) : Out := woken (s.fetched 0x0302 h pb fun h s => State.admitGenerate s h pb)
def execEmbed (h : Hdr) (pb : Bytes) (s : State) : Out := woken (s.fetched 0x0303 h pb fun h s => State.admitEmbed s h pb)
def execSearch (h : Hdr) (pb : Bytes) (s : State) : Out := woken (s.fetched 0x0304 h pb fun h s => State.admitSearch s h pb)
def execRerank (h : Hdr) (pb : Bytes) (s : State) : Out := woken (s.fetched 0x0305 h pb fun h s => State.admitRerank s h pb)
def execCancel (h : Hdr) (pb : Bytes) (s : State) : Out := woken (s.fetched 0x0306 h pb fun h s => State.admitCancel s h pb)
def execStep (h : Hdr) (pb : Bytes) (s : State) : Out := woken (s.fetched 0x0307 h pb fun h s => State.admitStep s h pb)
def execIndexCreate (h : Hdr) (pb : Bytes) (s : State) : Out := woken (s.fetched 0x0401 h pb fun h s => State.admitIndexCreate s h pb)
def execIndexModify (h : Hdr) (pb : Bytes) (s : State) : Out := woken (s.fetched 0x0401 h pb fun h s => State.admitIndexCreate s h pb)
def execIndexDestroy (h : Hdr) (pb : Bytes) (s : State) : Out := woken (s.fetched 0x0401 h pb fun h s => State.admitIndexCreate s h pb)
def execIndexInsert (h : Hdr) (pb : Bytes) (s : State) : Out := woken (s.fetched 0x0402 h pb fun h s => State.admitIndexInsert s h pb)
def execIndexDelete (h : Hdr) (pb : Bytes) (s : State) : Out := woken (s.fetched 0x0403 h pb fun h s => State.admitIndexDelete s h pb)
def execIndexMerge (h : Hdr) (pb : Bytes) (s : State) : Out := woken (s.fetched 0x0404 h pb fun h s => State.admitIndexMerge s h pb)
def execIndexInfo (h : Hdr) (pb : Bytes) (s : State) : Out := woken (s.fetched 0x0405 h pb fun h s => State.admitIndexInfo s h pb)
def execIndexLoad (h : Hdr) (pb : Bytes) (s : State) : Out := woken (s.fetched 0x0406 h pb fun h s => State.admitIndexLoad s h pb)
def execPassageGet (h : Hdr) (pb : Bytes) (s : State) : Out := woken (s.fetched 0x0407 h pb fun h s => State.admitPassageGet s h pb)
def execTableCreate (h : Hdr) (pb : Bytes) (s : State) : Out := woken (s.fetched 0x0501 h pb fun h s => State.admitTableCreate s h pb)
def execTableDestroy (h : Hdr) (pb : Bytes) (s : State) : Out := woken (s.fetched 0x0501 h pb fun h s => State.admitTableCreate s h pb)
def execTableWrite (h : Hdr) (pb : Bytes) (s : State) : Out := woken (s.fetched 0x0502 h pb fun h s => State.admitTableWrite s h pb)
def execTableGather (h : Hdr) (pb : Bytes) (s : State) : Out := woken (s.fetched 0x0503 h pb fun h s => State.admitTableGather s h pb)
def execTableInfo (h : Hdr) (pb : Bytes) (s : State) : Out := woken (s.fetched 0x0504 h pb fun h s => State.admitTableInfo s h pb)
def execVocabLoad (h : Hdr) (pb : Bytes) (s : State) : Out := woken (s.fetched 0x0601 h pb fun h s => State.admitVocabLoad s h pb)
def execVocabUnload (h : Hdr) (pb : Bytes) (s : State) : Out := woken (s.fetched 0x0601 h pb fun h s => State.admitVocabLoad s h pb)
def execGrammarLoad (h : Hdr) (pb : Bytes) (s : State) : Out := woken (s.fetched 0x0602 h pb fun h s => State.admitGrammarLoad s h pb)
def execGrammarUnload (h : Hdr) (pb : Bytes) (s : State) : Out := woken (s.fetched 0x0602 h pb fun h s => State.admitGrammarLoad s h pb)
def execTokenize (h : Hdr) (pb : Bytes) (s : State) : Out := woken (s.fetched 0x0603 h pb fun h s => State.admitTokenize s h pb)
def execDetokenize (h : Hdr) (pb : Bytes) (s : State) : Out := woken (s.fetched 0x0604 h pb fun h s => State.admitDetokenize s h pb)
def execPartSet (h : Hdr) (pb : Bytes) (s : State) : Out := woken (s.fetched 0x0701 h pb fun h s => State.admitPartSet s h pb)
def execPartStats (h : Hdr) (pb : Bytes) (s : State) : Out := woken (s.fetched 0x0702 h pb fun h s => State.admitPartStats s h pb)
def execPartRegulate (h : Hdr) (pb : Bytes) (s : State) : Out := woken (s.fetched 0x0703 h pb fun h s => State.admitPartRegulate s h pb)
def execSelftest (h : Hdr) (pb : Bytes) (s : State) : Out := woken (s.fetched 0x0801 h pb fun h s => State.admitTest false s h pb)
def execCalibrate (h : Hdr) (pb : Bytes) (s : State) : Out := woken (s.fetched 0x0802 h pb fun h s => State.admitTest true s h pb)
def execMaintPolicy (h : Hdr) (pb : Bytes) (s : State) : Out := woken (s.fetched 0x0803 h pb fun h s => State.admitMaintPolicy s h pb)
def execEvacuate (h : Hdr) (pb : Bytes) (s : State) : Out := woken (s.fetched 0x0804 h pb fun h s => State.admitEvacuate s h pb)
def execFabStatus (h : Hdr) (pb : Bytes) (s : State) : Out := woken (s.fetched 0x0901 h pb fun h s => State.admitFabStatus s h pb)
def execFabLeaseAcquire (h : Hdr) (pb : Bytes) (s : State) : Out := woken (s.fetched 0x0902 h pb fun h s => State.admitFabLease s h pb)
def execFabLeaseRelease (h : Hdr) (pb : Bytes) (s : State) : Out := woken (s.fetched 0x0902 h pb fun h s => State.admitFabLease s h pb)
def execFabLeaseOffer (h : Hdr) (pb : Bytes) (s : State) : Out := woken (s.fetched 0x0902 h pb fun h s => State.admitFabLease s h pb)
def execFabLeaseWithdraw (h : Hdr) (pb : Bytes) (s : State) : Out := woken (s.fetched 0x0902 h pb fun h s => State.admitFabLease s h pb)
def execFabBuddy (h : Hdr) (pb : Bytes) (s : State) : Out := woken (s.fetched 0x0903 h pb fun h s => State.admitFabBuddy s h pb)
def execFwStage (h : Hdr) (pb : Bytes) (s : State) : Out := woken (s.fetched 0x0A01 h pb fun h s => State.admitFwStage s h pb)
def execFwCommit (h : Hdr) (pb : Bytes) (s : State) : Out := woken (s.fetched 0x0A02 h pb fun h s => State.admitFwCommit s h pb)
def execAttest (h : Hdr) (pb : Bytes) (s : State) : Out := woken (s.fetched 0x0A03 h pb fun h s => State.admitAttest s h pb)
def execBbxRead (h : Hdr) (pb : Bytes) (s : State) : Out := woken (s.fetched 0x0B01 h pb fun h s => State.admitBbxRead s h pb)
def execBbxAck (h : Hdr) (pb : Bytes) (s : State) : Out := woken (s.fetched 0x0B02 h pb fun h s => State.admitBbxAck s h pb)
def execSensors (h : Hdr) (pb : Bytes) (s : State) : Out := woken (s.fetched 0x0B03 h pb fun h s => State.admitSensors s h pb)
def execAcctRead (h : Hdr) (pb : Bytes) (s : State) : Out := woken (s.fetched 0x0B04 h pb fun h s => State.admitAcctRead s h pb)
def execAcctReadClear (h : Hdr) (pb : Bytes) (s : State) : Out := woken (s.fetched 0x0B04 h pb fun h s => State.admitAcctRead s h pb)
/-- SELFTEST_PIECE_END (R372). -/
def execSelftestPieceEnd (pass : Bool) (engine : Fin 4) (isCol : Bool) (line : BitVec 7) (s : State) : Out := woken (s.pieceEnd pass engine.val isCol line.toNat)

end Sys2Proof.Machine
end

