-- ==== Sys2Proof/Machine/CoreOps.lean ====
section
/-! DEFINITION. What a core program reaches and how its instructions issue (04): segments (R85), SRAM ranges (R84), tiles, hazards (R49, R86, R93),
the loop stack (R94), program faults (R33). -/

namespace Sys2Proof.Machine

/-! ## Ranges of the core's own SRAM -/

/-- A range of a core's SRAM ends within it (R84). -/
def sramOk (r : Nat × Nat) : Bool := decide (r.1 + r.2 ≤ coreSram)
/-- A range by device address. -/
def absRange (c : Nat) (r : Nat × Nat) : Nat × Nat := (coreBase c + r.1, r.2)
def overlap (a b : Nat × Nat) : Bool := decide (a.1 < b.1 + b.2) && decide (b.1 < a.1 + a.2)
def meets (l m : List (Nat × Nat)) : Bool := l.any fun a => m.any fun b => overlap a b
def State.sram (s : State) (c a n : Nat) : Bytes := Mem.readN s.mem.bytes (coreBase c + a) n
/-- Ranges that instructions in flight will write, and ranges they read. -/
def Core.writing (k : Core) : List (Nat × Nat) := (k.xfers ++ k.unitOps).flatMap fun w => w.runs.map fun r => (r.1, r.2.length)
def Core.reading (k : Core) : List (Nat × Nat) := ((k.xfers ++ k.unitOps).flatMap fun w => w.reads) ++ k.passes.flatMap fun p => p.reads
/-- Chained mode holds an instruction that reads a range still to be written (R49), or writes one still being read (R93). -/
def Core.hazard (k : Core) (reads writes : List (Nat × Nat)) : Bool := !k.lat && (meets reads k.writing || meets writes k.reading)
/-- Chained mode holds an instruction behind a range that its own operands are found through (a tile-group record, a parameter record, a list's
header): it is read, and judged, only once its writer has completed (R49, R84, R87). -/
def Core.waitsFor (k : Core) (c : Nat) (l : List (Nat × Nat)) : Bool := k.hazard (l.map (absRange c)) []
/-- Every earlier instruction has completed, its writes visible and its signals in effect (R90, R94, R95). -/
def Core.drained (k : Core) : Bool := k.xfers.isEmpty && k.passes.isEmpty && k.unitOps.isEmpty && k.sigs.isEmpty

/-! ## Segments (R85, Table 4.2) -/

/-- The model of a segment's image: the tenant's, or its base's. -/
def State.segModels (s : State) (g : Seg) : List Model :=
  match KMap.get? s.sch.tenants g.src with
  | none => []
  | some t =>
    let b := match s.baseOf t with | some b => [b.model] | none => []
    if g.space = 4 then b ++ [t.model] else t.model :: b
def State.segTensor (s : State) (g : Seg) : Bytes × Bytes :=
  match (s.segModels g).findSome? fun m => m.tensors.find? fun t => t.1 == g.bound with
  | some t => t.2
  | none => ([], [])
/-- Stored and decoded bytes that a segment of a landing or an attic share reads: the bound tensor, then that of each further delta tenant of the launch (R218). -/
def State.segTensors (s : State) (g : Seg) : Bytes × Bytes :=
  let ts := (g.src :: g.others).map fun t => s.segTensor { g with src := t }
  if g.others.isEmpty then s.segTensor g else (ts.flatMap fun t => slice t.1 0 g.span, ts.flatMap fun t => slice t.2 0 g.span)
/-- The physical core at a position that the launch holds. -/
def State.peerCore (s : State) (p pos : Nat) : Option Nat := (s.part p).cores[pos]?
/-- KV bytes of one sequence in one layer group (512 pages). -/
def State.kvSpan (s : State) (k : Core) : Nat := match (k.slots.head?.bind s.req?).bind s.kvModel with | some m => 32768 * m.kvBytes | none => 0
/-- The layer group of a launch: step-parameter word 6. -/
def Core.group (k : Core) : Nat := ((k.words[6]?).getD 0).toNat
def Core.held_ (k : Core) (pos : Nat) : Bool := decide (pos < ((k.words[4]?).getD 0).toNat)
/-- Where a KV byte of a sequence lies: its page, translated by the page table (05, KV pages); a position of no page has no address (assumption 67). -/
def State.kvPlace (s : State) (slot group off : Nat) : Nat :=
  match s.req? slot with
  | none => noAddr
  | some r => match s.kvModel r with
    | none => noAddr
    | some m => match r.pages.find? fun g => g.group == group && g.no == off / (64 * m.kvBytes) with
      | some g => if g.lost then noAddr else g.addr + off % (64 * m.kvBytes)
      | none => noAddr
/-- Where the buffer of a working-share segment begins in the share: behind the buffers of lower numbers that its image binds (assumption 138). -/
def State.shareBase (s : State) (g : Seg) : Nat :=
  match (s.segModels g).find? fun m => m.segs.any fun x => x.1 == 3 && x.2.2.2 == g.bound with
  | some m => sumNat ((List.range g.bound).map fun b => maxNat (m.segs.map fun x => if x.1 = 3 && x.2.2.2 = b then 4096 * x.2.2.1 else 0))
  | none => 0
/-- Where a 64-byte unit of a segment lies; `none` where the access leaves what the launch holds. Read-only spaces have no place here. -/
def State.segPlace (s : State) (p c : Nat) (g : Seg) (a : Nat) : Option Nat :=
  let k := s.core c
  match g.space with
  | 0 => if a + 64 ≤ coreSram then some (coreBase c + a) else none
  | 1 => if a + 64 ≤ coreSram && k.held_ g.peer then (s.peerCore p g.peer).map fun d => coreBase d + a else none
  | 3 => s.mem.hbmAddr (.work p) (s.shareBase g + a)
  | 5 =>
    let n := s.kvSpan k
    if n = 0 then none else (k.slots[a / n]?).map fun slot => s.kvPlace slot k.group (a % n)
  | _ => none
/-- Is the access [a, a + n) from the segment's base within its extent? -/
def Seg.within (g : Seg) (off n : Nat) : Bool := decide (g.space < 8) && decide (g.base + off + n ≤ g.stop)
def allSome (f : Nat → Option Nat) : List Nat → Option (List Nat)
  | [] => some []
  | a :: l => match f a, allSome f l with | some x, some xs => some (x :: xs) | _, _ => none
/-- `n` bytes (whole 64-byte units) at an offset of a segment; `none` is a program fault (R84, R85). -/
def State.segRead (s : State) (p c : Nat) (g : Seg) (off n : Nat) : Option Bytes :=
  if !g.within off n then none
  else
    let a := g.base + off
    match g.space with
    | 2 => some (slice (s.segTensors g).2 a n)
    | 4 => some (slice (s.segTensors g).2 a n)
    | 6 => some (slice (s.segTensors g).1 a n)
    | 7 => some (slice (match (s.segModels g).head? with | some m => m.consts | none => []) a n)
    | _ => (allSome (s.segPlace p c g) ((List.range (n / 64)).map fun i => a + 64 * i)).map fun l => l.flatMap fun x => Mem.readN s.mem.bytes x 64
/-- The places of `n` bytes (whole 64-byte units) at an offset of a segment that is written; `none` is a program fault (R84, R85: outside the extent, a
read-only space, a peer not held), whatever the bytes are. -/
def State.segSpan (s : State) (p c : Nat) (g : Seg) (off n : Nat) : Option (List Nat) :=
  if !g.within off n then none else allSome (s.segPlace p c g) ((List.range (n / 64)).map fun i => g.base + off + 64 * i)

/-! ## Tiles (04, SFU and VEC) -/

structure Tile where
  addr : Nat
  fmt  : Nat
  rows : Nat
  cols : Nat

/-- Bytes of a row's elements: whole 32-element blocks in the 4-bit and 6-bit formats. -/
def Tile.rowBytes (t : Tile) : Nat := if fmtBits t.fmt < 8 then ceilDiv t.cols 32 * 4 * fmtBits t.fmt else t.cols * (fmtBits t.fmt / 8)
def Tile.pitch (t : Tile) : Nat := ceilDiv t.rowBytes 64 * 64
def Tile.blocks (t : Tile) : Nat := ceilDiv t.cols 32
/-- Where the scale of block `b` of row `i` lies: the spec gives the tile of an SFU or VEC instruction no scale address; the model puts the scales
behind the rows. -/
def Tile.scaleAddr (t : Tile) (i b : Nat) : Nat := t.addr + t.rows * t.pitch + (i * t.blocks + b) * scaleBytes t.fmt
def Tile.range (t : Tile) : Nat × Nat :=
  (t.addr, if fmtBlock t.fmt then t.rows * t.pitch + t.rows * t.blocks * scaleBytes t.fmt else (t.rows - 1) * t.pitch + t.rowBytes)
/-- Element `j` of a row of packed elements (R40). -/
def elemAt (fmt v j : Nat) : Nat := (v >>> (j * fmtBits fmt)) % 2 ^ fmtBits fmt
/-- A row decoded to FP32 (R64). -/
def State.tileRow (s : State) (c : Nat) (t : Tile) (i : Nat) : List W32 :=
  let v := leNat (s.sram c (t.addr + i * t.pitch) t.rowBytes)
  (List.range t.cols).map fun j =>
    elem32 t.fmt (if fmtBlock t.fmt then leNat (s.sram c (t.scaleAddr i (j / 32)) (scaleBytes t.fmt)) else 0) (elemAt t.fmt v j)
def State.tileRows (s : State) (c : Nat) (t : Tile) : List (List W32) := (List.range t.rows).map fun i => s.tileRow c t i
/-- A row converted to the tile's format (R64): its element bytes and its scales. -/
def Tile.encodeRow (t : Tile) (row : List W32) : Bytes × List Nat :=
  if fmtBlock t.fmt then
    let bs := (pieces 32 row).map fun b => encodeBlock t.fmt b
    (leBytes t.rowBytes (packSyms (fmtBits t.fmt) (bs.flatMap fun b => b.2 ++ List.replicate (32 - b.2.length) 0)), bs.map Prod.fst)
  else (leBytes t.rowBytes (packSyms (fmtBits t.fmt) (row.map fun x => encodePlain t.fmt x)), [])
/-- The runs that write rows to a tile of core `c`. -/
def Tile.runs (t : Tile) (c : Nat) (rows : List (List W32)) : List (Nat × Bytes) :=
  (enum rows).flatMap fun x =>
    let (b, sc) := t.encodeRow x.2
    (coreBase c + t.addr + x.1 * t.pitch, b) :: (enum sc).map fun y => (coreBase c + t.scaleAddr x.1 y.1, leBytes (scaleBytes t.fmt) y.2)

/-! ## Sequencing (R94) -/

/-- The sequencer arrives at an instruction: where it lies past the innermost body, that loop runs again or ends. -/
def loopBack (pc : Nat) : List (Nat × Nat × Nat) → Nat × List (Nat × Nat × Nat)
  | [] => (pc, [])
  | (first, last, left) :: l => if pc ≠ last + 1 then (pc, (first, last, left) :: l) else if 1 < left then (first, (first, last, left - 1) :: l) else loopBack pc l
def Core.goto (k : Core) (pc : Nat) : Core :=
  let x := loopBack pc k.loops
  { k with pc := x.1, loops := x.2, held := none }

/-- What an instruction does when the sequencer reaches it. -/
inductive CoreStep where
  /-- a program fault: no part of it is done -/
  | fault
  /-- the sequencer holds it; the state may carry what waiting itself changes -/
  | hold (s : State)
  /-- it is done: the next instruction follows -/
  | done (s : State)
  /-- it is done: the instruction at `pc` follows -/
  | jump (s : State) (pc : Nat)

/-- A program fault (R33, R75, R77, R81, R84, R85, R87, R91, R92, R99): the step ends its requests with ERR_DEVICE, a fault record is written, and
nothing is replayed. -/
def State.programFault (s : State) (c : Nat) : State :=
  match s.partOf c with
  | none => s
  | some p =>
    match (s.part p).run with
    | none => s
    | some run =>
      let slots := s.stepSlots p
      let s := s.faultRec 3 5 c (s.core c).pc 1 (some p) slots (s.core c).lastMark.toNat
      let s := s.each slots fun s n => s.endReq n stDevice 0
      let s := s.onPart p fun x =>
        { x with run := none, land := [], transfers := x.transfers.filter fun t => match t.2.key with | .layer _ _ => false | .xfer _ => false | _ => true }
      let s := s.each (s.part p).cores fun s d => s.onCore d Core.stopped
      let s := match run.packet with | some (q, n, k) => s.ok q.h 0 0 ((n + k) * 65536) 0 | none => s
      (s.dueMoves (s.part p).cores).settle

/-- Core programs may run on the core: its launch has started, its domain is on and its clock runs. -/
def State.coreRuns (s : State) (c : Nat) : Bool := (s.core c).busy && !(s.core c).ended && s.coreReady c && (s.core c).atMark.isNone

end Sys2Proof.Machine
end

