-- ==== Sys2Proof/Machine/CoreUnits.lean ====
section
/-! DEFINITION. What the instructions of the core's units do when they issue: XFER (Table 4.3), MMA (Tables 4.4, 4.5), SFU (Table 4.6), VEC
(Table 4.7), SEL (Table 4.8). Operands are read at issue; results are written when the instruction completes. -/

namespace Sys2Proof.Machine

def Core.scalar (k : Core) (r : Nat) : Nat := ((k.sc[r]?).getD 0).toNat
/-- A field, or the field plus a scalar register, modulo 2^32. -/
def Core.plus (k : Core) (add : Bool) (r v : Nat) : Nat := if add then (v + k.scalar r) % 2 ^ 32 else v

/-! ## XFER (R85, R86, R110 to R112) -/

/-- What a run of frames gives, in order, until `n` bytes are produced: the bytes, the offsets fetched, and the offset of a frame that fails its check
on both fetches (R110 to R112). `none`: a frame lies outside the segment. -/
structure FrameRun where
  bytes : Bytes
  offs  : List Nat
  bad   : Option Nat
def framesRun (rd : Nat → Option Bytes) : Nat → Nat → Nat → Option FrameRun
  | 0, _, _ => some ⟨[], [], none⟩
  | fuel + 1, off, n =>
    if n = 0 then some ⟨[], [], none⟩
    else match rd off with
      | none => none
      | some f =>
        match frameDecode f with
        | none => some ⟨[], [off], some off⟩
        | some b =>
          if !frameCheck f b then some ⟨[], [off], some off⟩
          else (framesRun rd fuel (off + 4096) (n - b.length)).map fun x => ⟨b ++ x.bytes, off :: x.offs, x.bad⟩
/-- The offsets a run of frames fetches, up to one that lies outside the segment or fails. -/
def framesTouched (rd : Nat → Option Bytes) : Nat → Nat → Nat → List Nat
  | 0, _, _ => []
  | fuel + 1, off, n =>
    if n = 0 then []
    else off :: match (rd off).bind frameDecode with
      | none => []
      | some b => framesTouched rd fuel (off + 4096) (n - b.length)
/-- The regulator an XFER to or from a space waits on: HBM or the attic. -/
def spaceRes (space : Nat) : Option Nat := if space = 6 then some 1 else if 2 ≤ space && space ≤ 5 then some 0 else none
/-- The segments of an XFER, its offsets in them and its length in bytes (Table 4.3). -/
def xferSrc (k : Core) (w : Insn) : Seg := (k.segs[Wd.at_ w 119 116]?).getD Seg.none
def xferDst (k : Core) (w : Insn) : Seg := (k.segs[Wd.at_ w 115 112]?).getD Seg.none
def xferFrom (k : Core) (w : Insn) : Nat := 64 * k.plus (Wd.at_ w 22 22 == 1) (Wd.at_ w 20 17) (Wd.at_ w 111 80)
def xferTo (k : Core) (w : Insn) : Nat := 64 * k.plus (Wd.at_ w 21 21 == 1) (Wd.at_ w 20 17) (Wd.at_ w 79 48)
def xferLen (w : Insn) : Nat := 64 * (Wd.at_ w 47 28 + 1)
/-- What an XFER reads: OP 0 copy, 1 copy with decompression, 2 zero fill (Table 4.3). -/
def State.xferData (s : State) (p c : Nat) (w : Insn) : Option FrameRun :=
  let k := s.core c
  let op := Wd.at_ w 123 120
  let so := xferFrom k w
  let n := xferLen w
  if op = 0 then (s.segRead p c (xferSrc k w) so n).map fun b => ⟨b, [], none⟩
  else if op = 1 then (framesRun (fun o => s.segRead p c (xferSrc k w) o 4096) n so n).map fun x => { x with bytes := slice x.bytes 0 n }
  else some ⟨List.replicate n 0, [], none⟩
/-- Ranges of the core's own SRAM an XFER reads: for OP 1 every frame it fetches. -/
def State.xferReads (s : State) (p c : Nat) (w : Insn) : List (Nat × Nat) :=
  let k := s.core c
  let sg := xferSrc k w
  if sg.space ≠ 0 then []
  else if Wd.at_ w 123 120 = 0 then [absRange c (sg.base + xferFrom k w, xferLen w)]
  else if Wd.at_ w 123 120 = 1 then
    (framesTouched (fun o => s.segRead p c sg o 4096) (xferLen w) (xferFrom k w) (xferLen w)).map fun o => absRange c (sg.base + o, 4096)
  else []
def xferWrites (k : Core) (c : Nat) (w : Insn) : List (Nat × Nat) :=
  let dg := xferDst k w
  if dg.space = 0 then [absRange c (dg.base + xferTo k w, xferLen w)] else []
/-- The regulator an XFER waits on. -/
def xferRes (k : Core) (w : Insn) : Option Nat :=
  if Wd.at_ w 123 120 ≠ 2 && (spaceRes (xferSrc k w).space).isSome then spaceRes (xferSrc k w).space else spaceRes (xferDst k w).space
/-- The 16 places of the DMA agent are taken, or chained mode holds the XFER behind its hazards (R49, R86, R93). -/
def State.xferHeld (s : State) (p c : Nat) (w : Insn) : Bool :=
  let k := s.core c
  decide (16 ≤ k.xfers.length) || k.hazard (s.xferReads p c w) (xferWrites k c w)
/-- The places an XFER reads, where its source has device addresses of its own. -/
def State.xferPlaces (s : State) (p c : Nat) (w : Insn) : List Nat :=
  let sg := xferSrc (s.core c) w
  if Wd.at_ w 123 120 = 2 then []
  else (allSome (s.segPlace p c sg) ((List.range (if Wd.at_ w 123 120 = 1 then 1 else xferLen w / 64)).map fun i =>
    sg.base + xferFrom (s.core c) w + 64 * i)).getD []
/-- GiB of each lease window held (Table 5.3). -/
def State.leaseSize (s : State) (w : Nat) : Nat := match KMap.get? s.fab.windows w with | some x => x.gib | none => 0
/-- An XFER issues. A destination that its segment forbids is a program fault whatever its source holds (R85); a frame that fails its check on both
fetches is an uncorrectable attic error at its address, and its output is discarded (R112). -/
def State.xfer (s : State) (p c : Nat) (w : Insn) : CoreStep :=
  let f := Wd.at_ w
  let k := s.core c
  match s.segSpan p c (xferDst k w) (xferTo k w) (xferLen w) with
  | none => .fault
  | some places =>
    if s.xferHeld p c w then .hold s
    else match s.xferData p c w with
      | none => .fault
      | some d =>
        match (s.xferPlaces p c w ++ places).find? fun a => !populated s.leaseSize a with
        | some a => .done (s.addrFault p c a)
        | none =>
        let reads := s.xferReads p c w
        let s := match d.bad with | none => s | some o => s.frameError p k.slots (s.segPlace p c (xferSrc k w) ((xferSrc k w).base + o))
        let res := xferRes k w
        let (s, waits) := match res with | some r => s.regulate p r (ceilDiv (xferLen w) 4096) false (.xfer c) k.slots | none => (s, false)
        let x : Write := { runs := if d.bad.isNone then places.zip (pieces 64 d.bytes) else [], reads := reads,
                           sem := if f 27 27 = 1 then some (Fin.ofNat 16 (f 26 23)) else none, sel := false, waits := if waits then res else none }
        .done (s.onCore c fun k => { k with xfers := k.xfers ++ [x] })

/-! ## MMA (R33 to R46, R52 to R54, R87, R387) -/

/-- Elements of an operand, `n` from a byte address, and the block-scale codes of its segments. -/
def State.packed (s : State) (c fmt addr saddr n : Nat) : List Nat × List Nat :=
  let v := leNat (s.sram c addr (ceilDiv (n * fmtBits fmt) 8))
  ((List.range n).map fun j => elemAt fmt v j,
   (List.range (n / 32)).map fun g => if fmtBlock fmt then leNat (s.sram c (saddr + g * scaleBytes fmt) (scaleBytes fmt)) else 0)
/-- Segment sums of one column for one activation vector (R37). -/
def columnSegs (fa fw : Nat) (a w : List Nat × List Nat) : List W32 :=
  (List.range (a.1.length / 32)).map fun g =>
    segment fa fw ((a.2[g]?).getD 0) ((w.2[g]?).getD 0) ((a.1.drop (32 * g)).take 32) ((w.1.drop (32 * g)).take 32)
def accKey (e entry col : Nat) : Nat := (e * 1024 + entry) * 128 + col
/-- The accumulators with a pass's last writes made. -/
def writePass (acc : KMap W32) (x : Pass) : KMap W32 :=
  (enum x.rows).foldl (fun m r => (enum r.2).foldl (fun m v => KMap.setD m (accKey x.engine (x.base + r.1) v.1) 0 v.2) m) acc
/-- Accumulators of an engine as a pass issued now finds them: earlier passes of the engine have been added first (02, Passes). -/
def Core.accOf (k : Core) (e : Nat) : KMap W32 := (k.passes.filter fun x => x.engine == e).foldl writePass k.acc
/-- A tile-group slot (Table 4.5): weight and scale addresses, format, ACCUM, accumulator base. -/
structure EngSlot where
  eng   : Nat
  waddr : Nat
  wscale : Nat
  fmt   : Nat
  accum : Bool
  base  : Nat
def slotOf (rec : Bytes) (e : Nat) : EngSlot :=
  { eng := e, waddr := fld rec (16 * e) 3, wscale := fld rec (16 * e + 4) 3, fmt := bits (fld rec (16 * e + 8) 1) 3 0, accum := bit (fld rec (16 * e + 8) 1) 4,
    base := bits (fld rec (16 * e + 10) 2) 9 0 }
/-- An MMA's activation format, vector count, tile group, and the byte address of its first vector (Table 4.4). -/
def mmaFmt (w : Insn) : Nat := Wd.at_ w 115 112
def mmaCount (k : Core) (w : Insn) : Nat := if Wd.at_ w 101 101 = 1 then k.scalar (Wd.at_ w 100 97) else Wd.at_ w 111 102 + 1
def mmaGroup (w : Insn) : Nat := 64 * Wd.at_ w 78 61
def mmaFrom (w : Insn) : Nat := 64 * Wd.at_ w 96 79
/-- The tile-group record and the slots of the engines of EMASK. -/
def State.mmaRec (s : State) (c : Nat) (w : Insn) : Bytes := s.sram c (mmaGroup w) 128
def State.mmaSlots (s : State) (c : Nat) (w : Insn) : List EngSlot :=
  let f := Wd.at_ w
  ((List.range 4).filter fun e => bit (f 119 116) e).map fun e =>
    let x := slotOf (s.mmaRec c w) e
    { x with base := (s.core c).plus (f 48 48 == 1) (f 47 44) x.base }
/-- Depth of a pass (R35): 256 in the class of 4-bit pairs, else 128. -/
def State.mmaDepth (s : State) (c : Nat) (w : Insn) : Nat :=
  match s.mmaSlots c w with | x :: _ => if passClass (mmaFmt w) x.fmt = 4 then 256 else 128 | [] => 128
/-- Bytes of a vector, the distance between vectors, and bytes of a vector's scales. -/
def State.mmaVec (s : State) (c : Nat) (w : Insn) : Nat := s.mmaDepth c w * fmtBits (mmaFmt w) / 8
def State.mmaStride (s : State) (c : Nat) (w : Insn) : Nat := if Wd.at_ w 60 49 = 0 then s.mmaVec c w else 64 * Wd.at_ w 60 49
def State.mmaScales (s : State) (c : Nat) (w : Insn) : Nat := s.mmaDepth c w / 32 * scaleBytes (mmaFmt w)
/-- Ranges of SRAM an MMA reads. -/
def State.mmaReads (s : State) (c : Nat) (w : Insn) : List (Nat × Nat) :=
  let kk := s.mmaDepth c w
  let m := mmaCount (s.core c) w
  [(mmaGroup w, 128), (mmaFrom w, (m - 1) * s.mmaStride c w + s.mmaVec c w)]
    ++ (if fmtBlock (mmaFmt w) then [(fld (s.mmaRec c w) 64 3, m * s.mmaScales c w)] else [])
    ++ (s.mmaSlots c w).flatMap fun x => (x.waddr, 128 * kk * fmtBits x.fmt / 8) :: (if fmtBlock x.fmt then [(x.wscale, 128 * (kk / 32) * scaleBytes x.fmt)] else [])
/-- The activation vectors, and the columns of an engine's weight tile (columns one after the other, K rows each). -/
def State.mmaActs (s : State) (c : Nat) (w : Insn) : List (List Nat × List Nat) :=
  (List.range (mmaCount (s.core c) w)).map fun j =>
    s.packed c (mmaFmt w) (mmaFrom w + j * s.mmaStride c w) (fld (s.mmaRec c w) 64 3 + j * s.mmaScales c w) (s.mmaDepth c w)
def State.mmaCols (s : State) (c : Nat) (w : Insn) (x : EngSlot) : List (List Nat × List Nat) :=
  let kk := s.mmaDepth c w
  (List.range 128).map fun i => s.packed c x.fmt (x.waddr + i * kk * fmtBits x.fmt / 8) (x.wscale + i * (kk / 32) * scaleBytes x.fmt) kk
/-- The pass of one engine: each vector against each column, from the accumulator where ACCUM is set (R36, R37). -/
def State.mmaPass (s : State) (c : Nat) (w : Insn) (x : EngSlot) : Pass :=
  let acc := (s.core c).accOf x.eng
  { engine := x.eng, base := x.base, reads := (s.mmaReads c w).map (absRange c),
    rows := (enum (s.mmaActs c w)).map fun a => (enum (s.mmaCols c w x)).map fun col =>
      column (KMap.getD acc (accKey x.eng (x.base + a.1) col.1) 0) x.accum (columnSegs (mmaFmt w) x.fmt a.2 col.2) }
/-- Everything an MMA needs holds: its tile group, its count, its accumulator entries and its ranges (R33, R84, R87). -/
def State.mmaOk (s : State) (c : Nat) (w : Insn) : Bool :=
  let m := mmaCount (s.core c) w
  (sramOk (mmaGroup w, 128) && tileGroupOk (Wd.at_ w 119 116) (mmaFmt w) (s.mmaRec c w))
    && !(m < 1 || 1024 < m || (s.mmaSlots c w).any (fun x => 1024 < x.base + m) || !(s.mmaReads c w).all sramOk)
/-- The array an engine's passes run on: its own, or its partner's where it is fenced (R59). -/
def Core.arrayOf (k : Core) (e : Nat) : Nat := if k.fenced.getLsbD e then partnerOf e else e
/-- Does an array of the MMA start from zero activity (R387)? -/
def State.mmaIdle (s : State) (c : Nat) (w : Insn) : Bool := (s.mmaSlots c w).any fun x => ((s.core c).activity[(s.core c).arrayOf x.eng]?).getD 0 == 0
/-- An MMA issues: the engines of EMASK, one weight tile each, M activation vectors. Chained mode first waits for the tile-group record (R49, R87). -/
def State.mma (s : State) (_p c : Nat) (w : Insn) : CoreStep :=
  if sramOk (mmaGroup w, 128) && (s.core c).waitsFor c [(mmaGroup w, 128)] then .hold s
  else if !s.mmaOk c w then .fault
  else
    if (s.core c).hazard ((s.mmaReads c w).map (absRange c)) [] then .hold s
    -- at most 8 cores begin a ramp from zero activity in one window (R387)
    else if s.mmaIdle c w && 8 ≤ s.pwr.rampWindow then
      .hold (s.onPwr fun x => if x.rampWait.contains c then x else { x with rampWait := x.rampWait ++ [c] })
    else
      let t := if s.mmaIdle c w then s.onPwr fun x => { x with rampWindow := x.rampWindow + 1 } else s
      .done (t.onCore c fun k =>
        { k with passes := k.passes ++ (s.mmaSlots c w).map (s.mmaPass c w), activity := (s.mmaSlots c w).foldl (fun l x => setAt l (k.arrayOf x.eng) 8) k.activity })

/-! ## SFU (R63 to R76, R88) -/

/-- s_in, bias or s_out (R73): mode, entry of the parameter record, default. -/
def State.param (s : State) (c mode entry : Nat) (dflt : W32) (row col : Nat) : W32 :=
  let w := fun (a : Nat) => BitVec.ofNat 32 (leNat (s.sram c a 4))
  match mode with
  | 1 => BitVec.ofNat 32 entry
  | 2 => w (entry + 4 * row)
  | 3 => w (entry + 4 * col)
  | _ => dflt
def paramRange (mode entry rows cols : Nat) : List (Nat × Nat) := if mode = 2 then [(entry, 4 * rows)] else if mode = 3 then [(entry, 4 * cols)] else []
/-- A state block: 2 KiB, or 3 KiB for moments. -/
def statSize (code : Nat) : Nat := if code = 0x11 then 3072 else 2048
/-- Elements that lane `l` has taken of a row of `n`. -/
def laneCount (n l : Nat) : Nat := (n + 255 - l) / 256
/-- Bytes of one lane: (m, s), (n, mean, m2) or (q, n); the lanes lie one after another (assumption 147). -/
def laneBytes (code : Nat) (x : Lane) : Bytes :=
  match code with
  | 0x10 => leBytes 4 x.a.toNat ++ leBytes 4 x.b.toNat
  | 0x11 => leBytes 4 x.n ++ leBytes 4 x.a.toNat ++ leBytes 4 x.b.toNat
  | _ => leBytes 4 x.b.toNat ++ leBytes 4 x.n
def State.lanes (s : State) (c code addr n : Nat) : List Lane :=
  let w := fun (a : Nat) => BitVec.ofNat 32 (leNat (s.sram c a 4))
  (List.range 256).map fun l => match code with
    | 0x10 => ⟨laneCount n l, w (addr + 8 * l), w (addr + 8 * l + 4)⟩
    | 0x11 => ⟨laneCount n l, w (addr + 12 * l + 4), w (addr + 12 * l + 8)⟩
    | _ => ⟨laneCount n l, 0, w (addr + 8 * l)⟩
/-- The state of a row that no first feed has started (R88): a free value. Bits of one free number give the count and every lane. -/
def freeLanes (n : Nat) : Nat × Bool × List Lane :=
  let cnt := n % 2 ^ 24
  let x := n / 2 ^ 32
  (cnt, bit n 24, (List.range 256).map fun l => ⟨laneCount cnt l, BitVec.ofNat 32 (x / 2 ^ (64 * l)), BitVec.ofNat 32 (x / 2 ^ (64 * l + 32))⟩)
/-- A row's state: its lanes from SRAM, its element count and NaN mark by the block's address (assumption 147). -/
def State.rowState (s : State) (c code addr : Nat) : State × Nat × Bool × List Lane :=
  match KMap.get? (s.core c).stats addr with
  | some (f, n, nan) => if f = code then (s, n, nan, s.lanes c code addr n) else let (x, s) := s.fresh; (s, freeLanes x)
  | none => let (x, s) := s.fresh; (s, freeLanes x)
/-- An SFU, VEC or SEL instruction goes into flight. -/
def State.launchUnit (s : State) (c : Nat) (sel : Bool) (reads : List (Nat × Nat)) (runs : List (Nat × Bytes)) : State :=
  s.onCore c fun k => { k with unitOps := k.unitOps ++ [{ runs := runs, reads := reads, sem := none, sel := sel, waits := none }] }
/-- Rows fed to their state blocks: `none` where a row grows past its limit (R75). -/
def State.feedRows (s : State) (c code : Nat) (first : Bool) (base : Nat) : List (Nat × List W32) → Option (State × List (Nat × Bytes))
  | [] => some (s, [])
  | (i, t) :: l =>
    let addr := base + i * statSize code
    let (s, n, nan, ls) := if first then (s, 0, false, List.replicate 256 (laneInit code)) else s.rowState c code addr
    if 16777216 < n + t.length then none
    else
      let nan := nan || t.any fun x => isNan32 x || (code = 0x10 && x = posInf32)
      let ls := laneFeed code ls n t
      let s := s.onCore c fun k => { k with stats := KMap.set k.stats addr (code, n + t.length, nan) }
      match State.feedRows s c code first base l with
      | none => none
      | some (s, r) => some (s, (coreBase c + addr, ls.flatMap (laneBytes code)) :: r)
def State.finishRows (s : State) (c code src dst : Nat) : List Nat → State × List (Nat × Bytes)
  | [] => (s, [])
  | i :: l =>
    let (s, n, nan, ls) := s.rowState c code (src + i * statSize code)
    let (a, b, _, bad) := statFinish code ls nan
    let (s, r) := State.finishRows s c code src dst l
    (s, (coreBase c + dst + 16 * i, leBytes 4 a.toNat ++ leBytes 4 b.toNat ++ leBytes 4 n ++ leBytes 4 (boolNat bad)) :: r)
/-- Fields of an SFU instruction (Table 4.6): rows, columns, byte addresses, its tiles and its parameter modes. -/
def sfuCode (w : Insn) : Nat := Wd.at_ w 119 112
def sfuRows (w : Insn) : Nat := Wd.at_ w 67 56 + 1
def sfuCols (w : Insn) : Nat := Wd.at_ w 55 44 + 1
def sfuSrc (w : Insn) : Nat := 64 * Wd.at_ w 103 86
def sfuDst (w : Insn) : Nat := 64 * Wd.at_ w 85 68
def sfuIn (w : Insn) : Tile := { addr := sfuSrc w, fmt := Wd.at_ w 111 108, rows := sfuRows w, cols := sfuCols w }
def sfuTile (w : Insn) : Tile := { addr := sfuDst w, fmt := Wd.at_ w 107 104, rows := sfuRows w, cols := sfuCols w }
/-- The input is the engine's accumulators, from an entry on. -/
def sfuAcc (w : Insn) : Bool := Wd.at_ w 43 43 == 1
def sfuMode (w : Insn) (i : Nat) : Nat := match i with | 0 => Wd.at_ w 40 39 | 1 => Wd.at_ w 38 37 | _ => Wd.at_ w 36 35
/-- The parameter record, and its entries (R73). -/
def sfuPar (w : Insn) : Nat := 64 * Wd.at_ w 34 17
def sfuUsed (w : Insn) : Bool := (List.range 3).any fun i => sfuMode w i ≠ 0
/-- It reads its parameter record: a fused form or a feed with a mode that is not the default. -/
def sfuRec (w : Insn) : Bool := Wd.at_ w 123 120 != 2 && sfuUsed w
def State.sfuEntry (s : State) (c : Nat) (w : Insn) (i : Nat) : Nat := fld (if sfuUsed w then s.sram c (sfuPar w) 16 else []) (4 * i) 4
/-- Ranges of SRAM an SFU instruction reads and writes. -/
def State.sfuReads (s : State) (c : Nat) (w : Insn) : List (Nat × Nat) :=
  let rows := sfuRows w
  let state := (sfuDst w, rows * statSize (sfuCode w))
  if Wd.at_ w 123 120 = 2 then [(sfuSrc w, rows * statSize (sfuCode w))]
  else (if sfuAcc w then [] else [(sfuIn w).range]) ++ (if sfuUsed w then [(sfuPar w, 16)] else [])
    ++ ((List.range 3).flatMap fun i => paramRange (sfuMode w i) (s.sfuEntry c w i) rows (sfuCols w)) ++ (if Wd.at_ w 123 120 = 1 then [state] else [])
def sfuWrites (w : Insn) : List (Nat × Nat) :=
  match Wd.at_ w 123 120 with
  | 0 => [(sfuTile w).range]
  | 2 => [(sfuDst w, 16 * sfuRows w)]
  | _ => [(sfuDst w, sfuRows w * statSize (sfuCode w))]
/-- Row `i` of the input: accumulators, or a tile row. -/
def State.sfuRow (s : State) (c : Nat) (w : Insn) (i : Nat) : List W32 :=
  if sfuAcc w then (List.range (sfuCols w)).map fun j => KMap.getD (s.core c).acc (accKey (Wd.at_ w 42 41) (Wd.at_ w 95 86 + i) j) 0
  else s.tileRow c (sfuIn w) i
/-- s_in, bias and s_out of an element (R73). -/
def State.sfuArg (s : State) (c : Nat) (w : Insn) (n i j : Nat) (d : W32) : W32 := s.param c (sfuMode w n) (s.sfuEntry c w n) d i j
/-- The fused form's output rows (R63, R73), and the rows a feed takes. -/
def State.sfuOut (s : State) (c : Nat) (w : Insn) : List (List W32) :=
  (List.range (sfuRows w)).map fun i => (enum (s.sfuRow c w i)).map fun e =>
    fused (sfuCode w) e.2 (s.sfuArg c w 0 i e.1 one32) (s.sfuArg c w 1 i e.1 0x80000000) (s.sfuArg c w 2 i e.1 one32)
def State.sfuFed (s : State) (c : Nat) (w : Insn) : List (Nat × List W32) :=
  (List.range (sfuRows w)).map fun i => (i, (enum (s.sfuRow c w i)).map fun e => ffma e.2 (s.sfuArg c w 0 i e.1 one32) (s.sfuArg c w 1 i e.1 0x80000000))
/-- Everything an SFU instruction needs holds: its ranges, and its accumulator entries. -/
def State.sfuOk (s : State) (c : Nat) (w : Insn) : Bool :=
  (s.sfuReads c w ++ sfuWrites w).all sramOk && (Wd.at_ w 123 120 == 2 || !(sfuAcc w && decide (1024 < Wd.at_ w 95 86 + sfuRows w)))
/-- Chained mode holds it behind what it reads and writes, and behind passes still to write its accumulators (R49, R93). -/
def State.sfuHeld (s : State) (c : Nat) (w : Insn) : Bool :=
  let k := s.core c
  k.hazard ((s.sfuReads c w).map (absRange c)) ((sfuWrites w).map (absRange c))
    || (Wd.at_ w 123 120 != 2 && sfuAcc w && !k.lat && k.passes.any fun x => x.engine == Wd.at_ w 42 41 && overlap (x.base, x.rows.length) (Wd.at_ w 95 86, sfuRows w))
/-- An SFU instruction issues: OP 0 fused form, 1 feed, 2 finish, 3 first feed. -/
def State.sfu (s : State) (_p c : Nat) (w : Insn) : CoreStep :=
  let op := Wd.at_ w 123 120
  let abs := (s.sfuReads c w).map (absRange c)
  if sfuRec w && sramOk (sfuPar w, 16) && (s.core c).waitsFor c [(sfuPar w, 16)] then .hold s
  else if !s.sfuOk c w then .fault
  else if s.sfuHeld c w then .hold s
  else if op = 2 then
    let (s, runs) := s.finishRows c (sfuCode w) (sfuSrc w) (sfuDst w) (List.range (sfuRows w))
    .done (s.launchUnit c false abs runs)
  else if op = 0 then .done (s.launchUnit c false abs ((sfuTile w).runs c (s.sfuOut c w)))
  else
    match s.feedRows c (sfuCode w) (op == 3) (sfuDst w) (s.sfuFed c w) with
    | none => .fault
    | some (s, runs) => .done (s.launchUnit c false abs runs)

/-! ## VEC (R89) -/

/-- One result of a VEC operation. -/
def vecOp (op : Nat) (a b : W32) : W32 :=
  match op with
  | 0 => fadd a b
  | 1 => fsub a b
  | 2 => fmul a b
  | 3 => fmax a b
  | 4 => fmin a b
  | 6 => fabs a
  | _ => a
/-- The mask of OP 7: one bit per element, rows padded as tiles are. -/
def maskPitch (cols : Nat) : Nat := ceilDiv (ceilDiv cols 8) 64 * 64
/-- Fields of a VEC instruction (Table 4.7): its tiles, BMODE and the address of its parameter. -/
def vecRows (w : Insn) : Nat := Wd.at_ w 53 42 + 1
def vecCols (w : Insn) : Nat := Wd.at_ w 41 30 + 1
def vecB (w : Insn) : Nat := Wd.at_ w 29 28
def vecPar (w : Insn) : Nat := 64 * Wd.at_ w 27 10
def vecA (w : Insn) : Tile := { addr := 64 * Wd.at_ w 107 90, fmt := Wd.at_ w 119 116, rows := vecRows w, cols := vecCols w }
def vecBTile (w : Insn) : Tile := { addr := 64 * Wd.at_ w 89 72, fmt := Wd.at_ w 115 112, rows := if vecB w = 1 then 1 else vecRows w, cols := vecCols w }
def vecD (w : Insn) : Tile := { addr := 64 * Wd.at_ w 71 54, fmt := Wd.at_ w 111 108, rows := vecRows w, cols := vecCols w }
/-- Ranges of SRAM a VEC instruction reads. -/
def vecReads (w : Insn) : List (Nat × Nat) :=
  let op := Wd.at_ w 123 120
  let b := vecBTile w
  (vecA w).range
    :: (if op = 5 || op = 6 then [] else if vecB w = 2 then [(b.addr, 4)] else if op = 7 then [(b.addr, (b.rows - 1) * maskPitch b.cols + ceilDiv b.cols 8)] else [b.range])
    ++ (if op = 7 then [(vecPar w, 4)] else [])
def State.word (s : State) (c a : Nat) : W32 := BitVec.ofNat 32 (leNat (s.sram c a 4))
/-- Row `i` of the result. A mask given as one scalar is `free`: the spec does not say which bit it is. -/
def State.vecRow (s : State) (c : Nat) (w : Insn) (free : Bool) (i : Nat) : List W32 :=
  let op := Wd.at_ w 123 120
  let a := s.tileRow c (vecA w) i
  let b := vecBTile w
  let r := if vecB w = 1 then 0 else i
  if op = 7 then
    let m := leNat (s.sram c (b.addr + r * maskPitch b.cols) (ceilDiv b.cols 8))
    (enum a).map fun e => if (if vecB w = 2 then free else bit m e.1) then e.2 else s.word c (vecPar w)
  else if op = 5 || op = 6 then a.map fun x => vecOp op x 0
  else if vecB w = 2 then a.map fun x => vecOp op x (s.word c b.addr)
  else List.zipWith (vecOp op) a (s.tileRow c b r)
/-- A VEC instruction issues. -/
def State.vec (s : State) (_p c : Nat) (w : Insn) : CoreStep :=
  let abs := (vecReads w).map (absRange c)
  if !((vecD w).range :: vecReads w).all sramOk then .fault
  else if (s.core c).hazard abs [absRange c (vecD w).range] then .hold s
  else
    let (free, s) := if Wd.at_ w 123 120 = 7 && vecB w = 2 then s.fresh else (0, s)
    .done (s.launchUnit c false abs ((vecD w).runs c ((List.range (vecRows w)).map (s.vecRow c w (bit free 0)))))

/-! ## SEL (R77 to R82) -/

/-- The bytes of a result list (Table 3.7). -/
def selBytes (largest : Bool) (k : Nat) (l : List Ent) : Bytes :=
  let pad := if largest then negInf32 else posInf32
  leBytes 2 l.length ++ leBytes 1 (boolNat (decide (l.length < k)) + 2 * boolNat (!largest)) ++ leBytes 1 k ++ leBytes 4 0
    ++ l.flatMap (fun e => leBytes 4 e.value.toNat ++ leBytes 4 e.index)
    ++ (List.replicate (k - l.length) (leBytes 4 pad.toNat ++ leBytes 4 0xFFFFFFFF)).flatten
/-- A list in SRAM: its direction and entries. A COUNT above 64, the most a list holds, is taken as 64 (assumption 149). -/
def State.selList (s : State) (c a : Nat) : Bool × List Ent :=
  let h := s.sram c a 8
  (!bit (fld h 2 1) 1, (List.range (min 64 (fld h 0 2))).map fun j =>
    let e := s.sram c (a + 8 + 8 * j) 8
    { value := BitVec.ofNat 32 (fld e 0 4), index := fld e 4 4 })
/-- Fields of a SEL instruction (Table 4.8): K, addresses, and for a pass its length, first index and mask. -/
def selK (w : Insn) : Nat := Wd.at_ w 114 109 + 1
def selSrc (w : Insn) : Nat := 64 * Wd.at_ w 96 79
def selDst (w : Insn) : Nat := 64 * Wd.at_ w 78 61
def selMask (w : Insn) : Nat := 64 * Wd.at_ w 59 42
def selLen (k : Core) (w : Insn) : Nat := if Wd.at_ w 9 9 = 1 then k.scalar (Wd.at_ w 8 5) else Wd.at_ w 108 97 + 1
def selFirst (k : Core) (w : Insn) : Nat := Wd.at_ w 41 10 + (if Wd.at_ w 4 4 = 1 then k.scalar (Wd.at_ w 3 0) else 0)
def selRow (k : Core) (w : Insn) : Tile := { addr := selSrc w, fmt := Wd.at_ w 119 116, rows := 1, cols := selLen k w }
def selMasked (w : Insn) : Bool := Wd.at_ w 60 60 == 1
/-- Ranges of SRAM a SEL instruction reads and writes. -/
def State.selReads (s : State) (c : Nat) (w : Insn) : List (Nat × Nat) :=
  if Wd.at_ w 123 120 = 0 then (selRow (s.core c) w).range :: (if selMasked w then [(selMask w, 512)] else [])
  else [(selSrc w, 8), (selMask w, 8)] ++ [(selSrc w, 8 + 8 * (s.selList c (selSrc w)).2.length), (selMask w, 8 + 8 * (s.selList c (selMask w)).2.length)]
def selWrites (w : Insn) : List (Nat × Nat) := [(selDst w, 8 + 8 * selK w)]
/-- The entries a pass chooses from: its row, less what the mask leaves out. -/
def State.selEnts (s : State) (c : Nat) (w : Insn) : List Ent :=
  let m := leNat (s.sram c (selMask w) 512)
  (enum (s.tileRow c (selRow (s.core c) w) 0)).filterMap fun e =>
    if !selMasked w || bit m e.1 then some ({ value := e.2, index := selFirst (s.core c) w + e.1 } : Ent) else none
/-- Everything a SEL instruction needs holds (R77, R81, R84): lengths, indexes and ranges of a pass; ranges and one direction of a merge. -/
def State.selOk (s : State) (c : Nat) (w : Insn) : Bool :=
  let n := selLen (s.core c) w
  (selWrites w ++ s.selReads c w).all sramOk
    && (Wd.at_ w 123 120 != 0 || !(n < 1 || 4096 < n || 0xFFFFFFFE < selFirst (s.core c) w + n - 1))
/-- SEL instructions of one core run one at a time; chained mode waits for the headers of a merge's lists before it reads their COUNT. -/
def State.selWaits (s : State) (c : Nat) (w : Insn) : Bool :=
  ((s.core c).unitOps.any fun x => x.sel)
    || (Wd.at_ w 123 120 != 0 && sramOk (selSrc w, 8) && sramOk (selMask w, 8) && (s.core c).waitsFor c [(selSrc w, 8), (selMask w, 8)])
/-- Chained mode holds it behind its hazards. -/
def State.selHeld (s : State) (c : Nat) (w : Insn) : Bool := (s.core c).hazard ((s.selReads c w).map (absRange c)) ((selWrites w).map (absRange c))
def State.sel (s : State) (_p c : Nat) (w : Insn) : CoreStep :=
  let abs := (s.selReads c w).map (absRange c)
  if s.selWaits c w then .hold s
  else if !s.selOk c w then .fault
  else if s.selHeld c w then .hold s
  else if Wd.at_ w 123 120 = 0 then
    let largest := Wd.at_ w 115 115 == 0
    .done (s.launchUnit c true abs [(coreBase c + selDst w, selBytes largest (selK w) (selTop largest (selK w) (s.selEnts c w)))])
  else
    let (d1, l1) := s.selList c (selSrc w)
    let (d2, l2) := s.selList c (selMask w)
    if d1 != d2 then .fault
    else .done (s.launchUnit c true abs [(coreBase c + selDst w, selBytes d1 (selK w) (selMergeList d1 (selK w) l1 l2))])

end Sys2Proof.Machine
end

