-- ==== Sys2Proof/Machine/CoreSeq.lean ====
section
/-! DEFINITION. The sequencer (04): SYNC, CTRL and MARK instructions, issue, completions, signals and barriers, pre-emption (R90 to R99). -/

namespace Sys2Proof.Machine

/-- A core's position in its partition. -/
def State.position (s : State) (p c : Nat) : Nat := (indexOf (fun d => d == c) (s.part p).cores).getD 0

/-! ## SYNC (R90 to R92) -/

/-- A signal issues: it waits for the core's earlier writes, those of its passes among them. -/
def State.signal (s : State) (p c : Nat) (w : Insn) : CoreStep :=
  let f := Wd.at_ w
  let target := if f 110 110 = 1 then s.position p c else f 115 111
  .done (s.onCore c fun k =>
    let g : Sig :=
      { target := target, sem := Fin.ofNat 16 (f 119 116), count := BitVec.ofNat 16 (f 109 94), xfers := k.xfers.length, units := k.unitOps.length, passes := k.passes.length }
    { k with sigs := k.sigs ++ [g] })
/-- A wait: COUNT is subtracted once the semaphore reaches it. -/
def State.wait (s : State) (_p c : Nat) (w : Insn) : CoreStep :=
  let f := Wd.at_ w
  let n := BitVec.ofNat 16 (f 109 94)
  let v := (((s.core c).sems)[f 119 116]?).getD 0
  if n.toNat ≤ v.toNat then .done (s.onCore c fun k => { k with sems := setAt k.sems (f 119 116) (v - n) }) else .hold s
/-- The barrier, and its GROUP, that the core at a position has arrived at. -/
def State.arrival (s : State) (p i : Nat) : Option (Nat × W32) := match s.peerCore p i with | some d => (s.core d).barrier | none => none
/-- Has another core arrived at the same barrier with another GROUP that one of the two takes part in (R91)? -/
def State.barrierClash (s : State) (p c : Nat) (w : Insn) : Bool :=
  let me := s.position p c
  let g := BitVec.ofNat 32 (Wd.at_ w 93 62)
  (List.range 32).any fun i => i ≠ me && match s.arrival p i with | some (b, h) => b == Wd.at_ w 61 58 && h != g && (g.getLsbD i || h.getLsbD me) | none => false
/-- A barrier: the last member to arrive completes it for all. -/
def State.barrier (s : State) (p c : Nat) (w : Insn) : CoreStep :=
  let f := Wd.at_ w
  let id := f 61 58
  let g := BitVec.ofNat 32 (f 93 62)
  let me := s.position p c
  let members := (List.range 32).filter fun i => g.getLsbD i
  if !g.getLsbD me then .fault
  else if s.barrierClash p c w then .fault
  else if members.all fun i => i == me || s.arrival p i == some (id, g) then
    .done (s.each (members.filter (· ≠ me)) fun s i => match s.peerCore p i with
      | some d => s.onCore d fun k => { (k.goto (k.pc + 1)) with barrier := none }
      | none => s)
  else .hold (s.onCore c fun k => { k with barrier := some (id, g) })
def State.fenceSync (s : State) (_p c : Nat) (_w : Insn) : CoreStep := if (s.core c).drained then .done s else .hold s

/-! ## CTRL (Table 4.11, R85, R94) -/

def condHolds (cond a b : Nat) : Bool :=
  match cond with
  | 0 => true
  | 1 => a == b
  | 2 => a != b
  | 3 => decide (a < b)
  | _ => decide (b ≤ a)
/-- A loop of `n` runs over the next `len` instructions. -/
def State.loopCtrl (s : State) (c n len : Nat) : CoreStep :=
  let pc := (s.core c).pc
  if n = 0 then .jump s (pc + 1 + len)
  else .jump (s.onCore c fun k => { k with loops := (pc + 1, pc + len, n) :: k.loops }) (pc + 1)
def State.setScalar (s : State) (c r v : Nat) : CoreStep := .done (s.onCore c fun k => { k with sc := setAt k.sc r (BitVec.ofNat 32 v) })
def State.ctrl (s : State) (_p c : Nat) (w : Insn) : CoreStep :=
  let f := Wd.at_ w
  let k := s.core c
  let d := f 119 116
  let a := k.scalar (f 115 112)
  let b := k.scalar (f 111 108)
  let ia := f 95 64
  let ib := f 63 32
  match f 123 120 with
  | 0 => .done s
  | 1 => s.setScalar c d ia
  | 2 => s.setScalar c d ((k.words[ia]?).getD 0).toNat
  | 3 => s.setScalar c d (a + ia)
  | 4 => s.setScalar c d (a + b)
  | 5 => s.setScalar c d (a * ia)
  | 6 => s.loopCtrl c ia ib
  | 7 => s.loopCtrl c a ib
  | 8 => if condHolds (f 107 105) a b then .jump s ((k.pc : Int) + 1 + imm32 ia).toNat else .done s
  | 9 => .done (s.onCore c fun k => { k with segs := modAt k.segs d fun g => { g with base := g.launchBase + (a + ia) % 2 ^ 32 * 4096 } })
  | 10 => if k.drained then .done (s.onCore c fun k => { k with ended := true }) else .hold s
  | _ => .fault

/-! ## MARK (R95) -/

/-- The masks of a MARK: BANK_LIVE, ACC_LIVE, MARK_ID. -/
def markMasks (w : Insn) : BitVec 48 × BitVec 32 × W16 :=
  (BitVec.ofNat 48 (Wd.at_ w 119 72), BitVec.ofNat 32 (Wd.at_ w 71 40), BitVec.ofNat 16 (Wd.at_ w 39 24))
/-- A MARK: where a pre-emption is asked for, nothing issues after it. -/
def State.markInsn (s : State) (_p c : Nat) (w : Insn) : CoreStep :=
  .done (s.onCore c fun k => { k with lastMark := (markMasks w).2.2, atMark := if k.preempt then some (markMasks w) else none })

/-! ## Issue -/

/-- An instruction by its class (Table 4.1). -/
def State.perform (s : State) (p c : Nat) (w : Insn) : CoreStep :=
  match Wd.at_ w 127 124 with
  | 1 => s.xfer p c w
  | 2 => s.mma p c w
  | 3 => s.sfu p c w
  | 4 => s.vec p c w
  | 5 => s.sel p c w
  | 6 => (match Wd.at_ w 123 120 with
    | 0 => s.signal p c w
    | 1 => s.wait p c w
    | 2 => s.barrier p c w
    | _ => s.fenceSync p c w)
  | 7 => s.ctrl p c w
  | 8 => s.markInsn p c w
  | _ => .fault
/-- What follows: the next instruction, a held one, or a program fault. -/
def State.after (s : State) (c : Nat) (w : Insn) : CoreStep → State
  | .fault => s.programFault c
  | .hold t => t.onCore c fun k => { k with held := some w }
  | .done t => t.onCore c fun k => k.goto (k.pc + 1)
  | .jump t pc => t.onCore c fun k => k.goto pc
/-- What an instruction reads in interleaved mode (R50): an operand whose producer is still in flight has at the cycle of the read its old value or
its new one, which the model, having no cycles, leaves free: each pending write of the core has been made or not, and a pass has written its first
entries up to some one. -/
def State.seen (s : State) (c : Nat) : State :=
  let k := s.core c
  if !k.lat || (k.xfers.isEmpty && k.unitOps.isEmpty && k.passes.isEmpty) then s
  else
    let (n, s) := s.fresh
    let (m, s) := s.fresh
    let runs := ((enum ((k.xfers ++ k.unitOps).flatMap Write.runs)).filter fun r => bit n r.1).map Prod.snd
    let s := s.onMem fun x => { x with bytes := writeRuns x.bytes runs }
    s.onCore c fun k => { k with acc := (enum k.passes).foldl (fun a x => writePass a { x.2 with rows := x.2.rows.take (m / 2 ^ (16 * x.1) % 65536) }) k.acc }
/-- The memory and the accumulators of `c` as they are in `s`: what an instruction read ahead of its producer is not thereby written. -/
def State.unseen (t s : State) (c : Nat) : State :=
  (t.onMem fun x => { x with bytes := s.mem.bytes }).onCore c fun k => { k with acc := (s.core c).acc }
/-- Instructions of the units and of the DMA agent read what interleaved mode gives them; the others read registers. -/
def State.performSeen (s : State) (p c : Nat) (w : Insn) : CoreStep :=
  if 5 < Wd.at_ w 127 124 || !(s.core c).lat then s.perform p c w
  else match (s.seen c).perform p c w with
    | .fault => .fault
    | .hold t => .hold (t.unseen s c)
    | .done t => .done (t.unseen s c)
    | .jump t n => .jump (t.unseen s c) n
def State.run (s : State) (c : Nat) (w : Insn) : State :=
  match s.partOf c with
  | some p => s.after c w (s.performSeen p c w)
  | none => s
/-- The sequencer issues the instruction at its pc: class and operation are the row's. It holds nothing, and its core runs. -/
def State.issues (s : State) (c : Nat) (cls op : Nat) (w : Insn) : Bool :=
  s.coreRuns c && (s.core c).held.isNone && (s.core c).prog[(s.core c).pc]? == some w && Wd.at_ w 127 124 == cls && Wd.at_ w 123 120 == op
def State.issue (s : State) (c : Nat) (cls op : Nat) (w : Insn) : State := if s.issues c cls op w then s.run c w else s
/-- The instruction a core holds is tried again. -/
def State.tryHeld (s : State) (c : Nat) : State :=
  match (s.core c).held with
  | some w => if s.coreRuns c then s.run c w else s
  | none => s

/-! ## Completions (R36, R67, R86, R90) -/

/-- The oldest XFER completes: its writes are visible, its semaphore is raised. A semaphore that stands at its top takes a free value: the spec states
none for an XFER. -/
def State.xferDone (s : State) (c : Nat) : State :=
  match (s.core c).xfers with
  | [] => s
  | x :: rest =>
    if x.waits.isSome then s
    else
      let s := s.onMem fun m => { m with bytes := writeRuns m.bytes x.runs }
      let s := s.onCore c fun k => { k with xfers := rest, sigs := k.sigs.map fun g => { g with xfers := g.xfers - 1 } }
      let s := match x.sem with
        | none => s
        | some i =>
          let v := (((s.core c).sems)[i.val]?).getD 0
          let (n, s) := if v = 0xFFFF then s.fresh else (v.toNat + 1, s)
          s.onCore c fun k => { k with sems := setAt k.sems i.val (BitVec.ofNat 16 n) }
      s.tryHeld c
/-- The oldest SFU, VEC or SEL instruction writes its output. -/
def State.unitDone (s : State) (c : Nat) : State :=
  match (s.core c).unitOps with
  | [] => s
  | x :: rest =>
    let s := s.onMem fun m => { m with bytes := writeRuns m.bytes x.runs }
    (s.onCore c fun k => { k with unitOps := rest, sigs := k.sigs.map fun g => { g with units := g.units - 1 } }).tryHeld c
/-- The first element that satisfies `f` is taken out. -/
def dropFirst {α : Type} (f : α → Bool) : List α → List α
  | [] => []
  | x :: l => if f x then l else x :: dropFirst f l
/-- The sequencer stalls in a semaphore wait or for a place in the DMA agent, so that the engines hold their state (R48, R86). A pre-empted core drains
all the same (R95). -/
def Core.stalls (k : Core) : Bool :=
  !k.preempt && match k.held with
    | some w => (Wd.at_ w 127 124 == 6 && Wd.at_ w 123 120 == 1) || (Wd.at_ w 127 124 == 1 && decide (16 ≤ k.xfers.length))
    | none => false
/-- The oldest pass of an engine makes its last accumulator write; signals issued after it wait for one pass less. -/
def State.passDone (s : State) (c e : Nat) : State :=
  if (s.core c).stalls then s
  else match (s.core c).passes.find? fun x => x.engine == e with
    | none => s
    | some x =>
      let at_ := (indexOf (fun y => y.engine == e) (s.core c).passes).getD 0
      (s.onCore c fun k =>
        { k with acc := writePass k.acc x, passes := dropFirst (fun y => y.engine == e) k.passes,
                 sigs := k.sigs.map fun g => if at_ < g.passes then { g with passes := g.passes - 1 } else g }).tryHeld c
/-- The oldest signal takes effect once the writes ahead of it are visible; a semaphore beyond 65,535, or a position the launch does not hold, is a
program fault. -/
def State.signalDone (s : State) (c : Nat) : State :=
  match (s.core c).sigs, s.partOf c with
  | g :: rest, some p =>
    if g.xfers ≠ 0 || g.units ≠ 0 || g.passes ≠ 0 then s
    else
      let s := s.onCore c fun k => { k with sigs := rest }
      match (if (s.core c).held_ g.target then s.peerCore p g.target else none) with
      | none => s.programFault c
      | some d =>
        let v := (((s.core d).sems)[g.sem.val]?).getD 0
        if 65535 < v.toNat + g.count.toNat then s.programFault c
        else ((s.onCore d fun k => { k with sems := setAt k.sems g.sem.val (v + g.count) }).tryHeld d).tryHeld c
  | _, _ => s

/-! ## Pre-emption (R95 to R99, R239, R240) -/

/-- An instruction of SYNC that waits: a wait or a barrier. -/
def isWait (w : Insn) : Bool := Wd.at_ w 127 124 == 6 && (Wd.at_ w 123 120 == 1 || Wd.at_ w 123 120 == 2)
/-- The masks a pre-empted core saves under: those of the MARK it stands at, or of the MARK directly before the wait or barrier it is held in (R96). -/
def Core.saveMasks (k : Core) : Option (BitVec 48 × BitVec 32 × W16) :=
  if !k.preempt || !k.drained then none
  else match k.atMark with
    | some m => some m
    | none =>
      match k.held, (if k.pc = 0 then none else k.prog[k.pc - 1]?) with
      | some w, some m => if isWait w && Wd.at_ m 127 124 == 8 then some (markMasks m) else none
      | _, _ => none
/-- Save and restore: banks and accumulator groups not live read as zero afterwards (R97). -/
def State.zeroDead (s : State) (c : Nat) (banks : BitVec 48) (groups : BitVec 32) : State :=
  let s := s.onMem fun m =>
    { m with bytes := ((List.range 48).filter fun b => !banks.getLsbD b).foldl (fun x b => Mem.zero x (coreBase c + b * 0x40000) 0x40000) m.bytes }
  s.onCore c fun k => { k with acc := k.acc.filter fun x => groups.getLsbD (8 * (x.1 / 131072) + x.1 / 128 % 1024 / 128) }
/-- The state record of a pre-empted core (R95): scalar, segment and semaphore registers, loop state, step-parameter words, latency mode, and the address of the
instruction after the MARK, in an order of the model's (assumption 151). -/
def stateRecord (k : Core) : Bytes :=
  padTo 1024 (k.sc.flatMap (fun x => leBytes 4 x.toNat) ++ k.segs.flatMap (fun g => payload [(1, g.space), (1, g.peer), (6, g.base), (8, g.stop)])
    ++ k.sems.flatMap (fun x => leBytes 2 x.toNat) ++ k.words.flatMap (fun x => leBytes 4 x.toNat)
    ++ payload [(1, boolNat k.lat), (3, k.loops.length), (4, k.pc)] ++ k.loops.flatMap fun l => payload [(4, l.1), (4, l.2.1), (4, l.2.2)])
/-- Bytes of the save area that a save moves, and a restore (R95). -/
def saveBytes (banks : BitVec 48) (groups : BitVec 32) : Nat := 0x40000 * countBits 48 banks.getLsbD + 0x10000 * countBits 32 groups.getLsbD + 1024
/-- A core's live banks, live accumulator groups and state record are written to the save area of its position (R95, R109); neither that nor the restore
waits on a regulator, and both are charged (R132). -/
def State.saveCore (s : State) (p c : Nat) (banks : BitVec 48) (groups : BitVec 32) : State :=
  let k := s.core c
  let place := fun (off : Nat) => s.mem.hbmAddr (.save p) (s.position p c * (8 * Config.granule) + off)
  let copies := ((List.range 48).filter fun b => banks.getLsbD b).filterMap fun b => (place (0x40000 * b)).map fun a => (coreBase c + 0x40000 * b, a, 0x40000)
  let live := ((List.range 32).filter fun g => groups.getLsbD g).filterMap fun g => (place (0xC00000 + 0x10000 * g)).map fun a => (g, a)
  let entries := live.flatMap fun g => (k.acc.filter fun x => x.1 / 16384 == g.1).map fun x => (g.2 + 4 * (x.1 % 16384), leBytes 4 x.2.toNat)
  let record := ((place 0xE00000).map fun a => (a, stateRecord k)).toList
  let s := s.onMem fun m => { m with bytes := writeRuns (zeroRuns (copyRuns m.bytes copies) (live.map fun g => (g.2, 0x10000))) (entries ++ record) }
  let n := ceilDiv (saveBytes banks groups) 4096
  (s.spendExempt p 0 n).spendExempt p 0 n
/-- Does the test at the front drain this core of a partition (Table 15.10)? -/
def State.underTest (s : State) (c : Nat) : Bool :=
  match s.ras.pieces with
  | x :: _ => x.started && x.target == 0 && x.unit == c && x.left == 1 && (s.core c).state != 4
  | [] => false
/-- The core the front test drains passes its position to a spare, and turns on again for the test. -/
def State.testMove (s : State) (c : Nat) (carry : Bool) : State :=
  match s.freeSpare with
  | some b => (s.moveCore c b 4 carry).wakeDom (coreDom c)
  | none => s
/-- The pre-empted core is saved, and restored on the core that its position moves to: a spare (R58, R97), or itself where none is free. -/
def State.preemptSave (s : State) (c : Nat) : State :=
  match s.partOf c, (s.core c).saveMasks with
  | some p, some (banks, groups, _) =>
    let s := (s.saveCore p c banks groups).zeroDead c banks groups
    let s := s.onCore c fun k => { k with preempt := false, atMark := none }
    let ts := dedup ((s.core c).slots.filterMap fun n => (s.req? n).map fun r => r.tenant)
    let up := fun (a : Acct) => { a with preempt := satAdd 64 a.preempt 1 }
    let s := s.onPart p fun x => { x with acct := up x.acct }
    let s := s.onSch fun x => { x with tenants := ts.foldl (fun m t => KMap.mod m t.toNat fun y => { y with acct := up y.acct }) x.tenants }
    if s.underTest c then s.testMove c true else s.dueMove c true
  | _, _ => s

/-! ## Rows: instructions -/

def execXferCopy (core : CoreNo) (w : Insn) (s : State) : Out := woken (s.issue core.val 1 0 w)
def execXferDecompress (core : CoreNo) (w : Insn) (s : State) : Out := woken (s.issue core.val 1 1 w)
def execXferZeroFill (core : CoreNo) (w : Insn) (s : State) : Out := woken (s.issue core.val 1 2 w)
def execMmaPass (core : CoreNo) (w : Insn) (s : State) : Out := woken (s.issue core.val 2 0 w)
def execSfuFused (core : CoreNo) (w : Insn) (s : State) : Out := woken (s.issue core.val 3 0 w)
def execSfuStatsFeed (core : CoreNo) (w : Insn) (s : State) : Out := woken (s.issue core.val 3 1 w)
def execSfuStatsFinish (core : CoreNo) (w : Insn) (s : State) : Out := woken (s.issue core.val 3 2 w)
def execSfuStatsFirst (core : CoreNo) (w : Insn) (s : State) : Out := woken (s.issue core.val 3 3 w)
def execVecAdd (core : CoreNo) (w : Insn) (s : State) : Out := woken (s.issue core.val 4 0 w)
def execVecSubtract (core : CoreNo) (w : Insn) (s : State) : Out := woken (s.issue core.val 4 1 w)
def execVecMultiply (core : CoreNo) (w : Insn) (s : State) : Out := woken (s.issue core.val 4 2 w)
def execVecMaximum (core : CoreNo) (w : Insn) (s : State) : Out := woken (s.issue core.val 4 3 w)
def execVecMinimum (core : CoreNo) (w : Insn) (s : State) : Out := woken (s.issue core.val 4 4 w)
def execVecConvert (core : CoreNo) (w : Insn) (s : State) : Out := woken (s.issue core.val 4 5 w)
def execVecAbsolute (core : CoreNo) (w : Insn) (s : State) : Out := woken (s.issue core.val 4 6 w)
def execVecSelect (core : CoreNo) (w : Insn) (s : State) : Out := woken (s.issue core.val 4 7 w)
def execSelPass (core : CoreNo) (w : Insn) (s : State) : Out := woken (s.issue core.val 5 0 w)
def execSelMerge (core : CoreNo) (w : Insn) (s : State) : Out := woken (s.issue core.val 5 1 w)
def execSyncSignal (core : CoreNo) (w : Insn) (s : State) : Out := woken (s.issue core.val 6 0 w)
def execSyncWait (core : CoreNo) (w : Insn) (s : State) : Out := woken (s.issue core.val 6 1 w)
def execSyncBarrier (core : CoreNo) (w : Insn) (s : State) : Out := woken (s.issue core.val 6 2 w)
def execSyncFence (core : CoreNo) (w : Insn) (s : State) : Out := woken (s.issue core.val 6 3 w)
def execNop (core : CoreNo) (w : Insn) (s : State) : Out := woken (s.issue core.val 7 0 w)
def execLoadi (core : CoreNo) (w : Insn) (s : State) : Out := woken (s.issue core.val 7 1 w)
def execLoadp (core : CoreNo) (w : Insn) (s : State) : Out := woken (s.issue core.val 7 2 w)
def execAddi (core : CoreNo) (w : Insn) (s : State) : Out := woken (s.issue core.val 7 3 w)
def execCtrlAdd (core : CoreNo) (w : Insn) (s : State) : Out := woken (s.issue core.val 7 4 w)
def execMuli (core : CoreNo) (w : Insn) (s : State) : Out := woken (s.issue core.val 7 5 w)
def execLoop (core : CoreNo) (w : Insn) (s : State) : Out := woken (s.issue core.val 7 6 w)
def execLoopr (core : CoreNo) (w : Insn) (s : State) : Out := woken (s.issue core.val 7 7 w)
def execBranch (core : CoreNo) (w : Insn) (s : State) : Out := woken (s.issue core.val 7 8 w)
def execSetseg (core : CoreNo) (w : Insn) (s : State) : Out := woken (s.issue core.val 7 9 w)
def execEndProgram (core : CoreNo) (w : Insn) (s : State) : Out := woken (s.issue core.val 7 10 w)
def execMark (core : CoreNo) (w : Insn) (s : State) : Out := woken (s.issue core.val 8 0 w)

/-! ## Rows: completions, keeper, droop -/

def execXferComplete (core : CoreNo) (s : State) : Out := woken (s.xferDone core.val)
def execPassLastWrite (core : CoreNo) (engine : Fin 4) (s : State) : Out := woken (s.passDone core.val engine.val)
def execSfuVecSelComplete (core : CoreNo) (s : State) : Out := woken (s.unitDone core.val)
def execSignalTakeEffect (core : CoreNo) (s : State) : Out := woken (s.signalDone core.val)
/-- ACTIVITY_DECAY (R52, R53): an array without a pass, its own engine's or a fenced partner's (R59), loses an eighth; its dummy operands are the
LFSR's, whose polynomial the spec does not give. -/
def execActivityDecay (core : CoreNo) (engine : Fin 4) (s : State) : Out :=
  .next (
    if (s.core core.val).passes.any fun x => (s.core core.val).arrayOf x.engine == engine.val then s
    else
      let (n, s) := s.fresh
      s.onCore core.val fun k => { k with activity := modAt k.activity engine.val (· - 1), lfsr := setAt k.lfsr engine.val (BitVec.ofNat 32 n) })
/-- DROOP_STRETCH (R55, R392): an episode begins. -/
def execDroopStretch (core : CoreNo) (s : State) : Out :=
  .next (if (s.core core.val).stretched || s.dom (coreDom core.val) != .on then s
         else s.onCore core.val fun k => { k with stretched := true, droops := satAdd 32 k.droops 1 })
def execStretchExit (core : CoreNo) (s : State) : Out := .next (s.onCore core.val fun k => { k with stretched := false })

/-! ## Rows: pre-emption and watchdogs -/

def execPreemptSave (core : CoreNo) (s : State) : Out := woken (s.preemptSave core.val)
/-- PREEMPT_WATCHDOG (R99): the core reaches no MARK in time. -/
def execPreemptWatchdog (core : CoreNo) (s : State) : Out :=
  woken (if (s.core core.val).preempt && (s.core core.val).busy && (s.core core.val).atMark.isNone then s.programFault core.val else s)
/-- SEQUENCER_WATCHDOG (Table 15.2, R364): a class 1 fault; the second in one start retires the core. -/
def execSequencerWatchdog (core : CoreNo) (s : State) : Out :=
  woken (
    let c := core.val
    let k := s.core c
    let waiting := match k.held with | some w => isWait w | none => false
    match s.partOf c with
    | none => s
    | some p =>
      if !k.busy || k.ended || waiting then s
      else
        let s := s.faultRec 3 4 c k.pc 1 (some p) (s.stepSlots p) 0
        let s := s.abandonStep p
        let s := s.onCore c fun k => { k with dogs := k.dogs + 1 }
        let s := if 2 ≤ k.dogs + 1 then s.retireCore c else s
        (s.dueMoves (s.part p).cores).settle)

end Sys2Proof.Machine
end

