-- ==== Sys2Proof/Machine/FabricRows.lean ====
section
/-! DEFINITION. The rows of the fabric: links, routes and messages (R329 to R353). -/

namespace Sys2Proof.Machine

/-! ## Links and routes -/

def execPortUp (port : PortNo) (peer : W16) (serial : W64) (s : State) : Out := woken (s.linkUp port.val peer serial)
def execLinkAuthDone (port : PortNo) (ok : Bool) (digest : BitVec 128) (s : State) : Out := woken (s.authDone port.val ok digest)
/-- LANE_FAIL (R329): for a flit's eighth send the port also retrains. -/
def execLaneFail (lane : Fin 18) (reason : LaneReason) (s : State) : Out :=
  woken (match reason, portOfLane lane.val with
    | .eighthSend, some p => (s.failLane lane.val).1.retrain p
    | _, _ => (s.failLane lane.val).1)
def execFlitReceive (port : PortNo) (flit : Bytes) (s : State) : Out := woken (s.flitIn port.val flit)
def execNakReceive (port : PortNo) (ack : BitVec 12) (s : State) : Out := woken (s.nakIn port.val ack)
/-- PORT_RETRAIN_DONE: the resend resumes. -/
def execPortRetrainDone (port : PortNo) (s : State) : Out :=
  woken (if (s.port port.val).retraining then
      ((s.onPort port.val fun x => { x with retraining := false, replay := x.replay.map fun f => (f.1, 0, f.2.2) }).resend port.val).forward
    else s)
def execAddressProbe (port : PortNo) (cand : W16) (serial : W64) (s : State) : Out := woken (s.probeIn port.val cand serial)
/-- ADDRESS_PROBE_TIMEOUT: the address is held, and kept in MRAM. -/
def execAddressProbeTimeout (s : State) : Out :=
  woken (if s.fab.probing then ((s.onFab fun f => { f with probing := false, valid := true }).onBbx fun b => { b with savedAddr := s.fab.addr }).advertise else s)
def execRoutingUpdate (port : PortNo) (routes : List RouteAdv) (groups : List GroupAdv) (s : State) : Out := woken (s.routesIn port.val routes groups)
/-- ROUTE_ADVERTISE_TIMER. -/
def execRouteAdvertiseTimer (s : State) : Out := woken s.advertise
/-- ROUTE_EXPIRE. -/
def execRouteExpire (dest : W16) (s : State) : Out :=
  woken (if KMap.has s.fab.routes dest.toNat then (s.onFab fun f => { f with routes := KMap.erase f.routes dest.toNat, heard := f.heard.filter fun g => g.member ≠ dest }).advertise else s)
def execPeerDownNotice (reporter : W16) (lost : W16) (electricalIdle : Bool) (s : State) : Out := woken (s.peerDown reporter lost electricalIdle)
/-- DEPARTING_NOTICE. -/
def execDepartingNotice (src : W16) (s : State) : Out := woken (s.declareLost src)

/-! ## Messages -/

def execRemoteMemoryRead (m : MsgHdr) (offset : W64) (units : Fin 5) (s : State) : Out := woken (s.receive m 2 false (.remoteMemoryRead m offset units))
def execRemoteMemoryWrite (m : MsgHdr) (offset : W64) (data : Bytes) (s : State) : Out := woken (s.receive m 2 false (.remoteMemoryWrite m offset data))
def execLeaseOfferMsg (m : MsgHdr) (gib : Byte) (s : State) : Out := woken (s.receive m 3 true (.leaseOfferMsg m gib))
/-- LEASE_GRANT_MSG: without REPLY it is the borrower's ask, which the lender answers with the grant; with REPLY, the grant. -/
def execLeaseGrantMsg (m : MsgHdr) (gib : Byte) (s : State) : Out := woken (s.receive m 3 true (.leaseGrantMsg m gib))
def execLeaseWithdrawalNotice (m : MsgHdr) (s : State) : Out := woken (s.receive m 3 true (.leaseWithdrawalNotice m))
def execLeaseReleaseMsg (m : MsgHdr) (s : State) : Out := woken (s.receive m 3 true (.leaseReleaseMsg m))
def execGatherRequestMsg (m : MsgHdr) (ownerPools : Bool) (pool : Fin 3) (indices : List W64) (bags : List (List Occ)) (s : State) : Out :=
  woken (s.receive m 4 false (.gatherRequestMsg m ownerPools pool indices bags))
def execGatherReplyMsg (m : MsgHdr) (shard : Fin 64) (rows : List (W64 × List W32)) (sums : List (List W32 × W32)) (s : State) : Out :=
  woken (s.answered fun s => s.rowsIn m rows sums shard.val)
def execTableUpdateMsg (m : MsgHdr) (entries : List WriteEntry) (s : State) : Out := woken (s.receive m 4 true (.tableUpdateMsg m entries))
def execTableUpdateAck (m : MsgHdr) (_applied : W32) (s : State) : Out := woken (s.answered fun s => s.updateAckIn m)
def execReplicaRequestMsg (m : MsgHdr) (row : W32) (s : State) : Out := woken (s.receive m 4 false (.replicaRequestMsg m row))
def execReplicaInstallMsg (m : MsgHdr) (row : W32) (values : List W32) (s : State) : Out := woken (s.receive m 4 true (.replicaInstallMsg m row values))
def execReplicaInstallAck (m : MsgHdr) (row : W32) (s : State) : Out := woken (s.answered fun s => s.installAckIn m row.toNat)
def execReplicaDiscardMsg (m : MsgHdr) (row : W32) (s : State) : Out := woken (s.receive m 4 false (.replicaDiscardMsg m row))
def execShardSearchMsg (m : MsgHdr) (query : List W32) (k : Byte) (p : W16) (w : Byte) (filter : List FilterTerm) (s : State) : Out :=
  woken (s.receive m 5 false (.shardSearchMsg m query k p w filter))
def execShardSearchReply (m : MsgHdr) (cands : List Cand) (rounds : Byte) (snapshot : W64) (s : State) : Out :=
  woken (s.answered fun s => s.searchReplyIn m cands rounds.toNat snapshot)
/-- TEXT_FETCH_MSG: the fetch, and with REPLY the text it brings. -/
def execTextFetchMsg (m : MsgHdr) (id : W64) (version : W64) (text : Bytes) (s : State) : Out := woken (s.answered fun s => s.textIn m id version text)
def execHoldReleaseMsg (m : MsgHdr) (s : State) : Out := woken (s.receive m 5 false (.holdReleaseMsg m))
def execMirrorOpen (m : MsgHdr) (d : MirrorDesc) (s : State) : Out := woken (s.receive m 6 true (.mirrorOpen m d))
def execMirrorUpdate (m : MsgHdr) (tokens : List W32) (bytes : W32) (s : State) : Out := woken (s.receive m 6 true (.mirrorUpdate m tokens bytes))
def execMirrorClose (m : MsgHdr) (s : State) : Out := woken (s.receive m 6 true (.mirrorClose m))
/-- MIRROR_ERROR_REPLY: the buddy dropped the mirror (R349): the request named by CONTEXT is not migratable until its next mirror open. -/
def execMirrorErrorReply (m : MsgHdr) (s : State) : Out :=
  woken (s.answered fun s => s.onReq m.context.toNat fun r => if m.src = s.fab.buddy then { r with mirrorBad := true } else r)
def execMigrationMsg (m : MsgHdr) (d : MirrorDesc) (s : State) : Out := woken (s.receive m 7 true (.migrationMsg m d))
def execMessageRetryTimeout (dest : W16) (cls : Byte) (msgId : W32) (s : State) : Out := woken (s.answered fun s => s.retry dest cls.toNat msgId)

end Sys2Proof.Machine
end

