-- ==== Sys2Proof/Machine/LaunchEvents.lean ====
section
/-! DEFINITION. Launches, landing, pager and regulator events (R113 to R133, R225, R257). -/

namespace Sys2Proof.Machine

/-! ## Launches (R85, R115, Table 4.12) -/

/-- Nothing starts while a hold stands or the supply is going (R381, R389, R395, R398, R433). -/
def State.holdsLaunches (s : State) : Bool := s.pwr.pwrHold || s.pwr.thermHold || s.departed
/-- The tenant, model and program of a launch: the tenant's own image where it lists the kind, else its base's. -/
def State.launchProg (s : State) (p : Nat) (l : Launch) : Option (Nat × Model × Prog) :=
  let find := fun (m : Model) => (m.launch.filter fun x => x.1 == l.kind).findSome? fun x => m.progs.find? fun g => g.id == x.2 && decide (g.cores ≤ (s.part p).cores.length)
  match l.slots.head?.bind s.req? with
  | none => none
  | some r =>
    let t := match l.kind with | 1 => r.embedder | 2 => r.reranker | 3 => r.head | _ => r.tenant
    match s.tenant? t with
    | none => none
    | some x => match find x.model with
      | some g => some (t.toNat, x.model, g)
      | none => (s.baseOf x).bind fun b => (find b.model).map fun g => (t.toNat, b.model, g)
/-- Step-parameter words of a position (Table 4.12). Words 16 to 63 are filled as the launch map directs; the spec gives the map no layout, so they are
free values. -/
def launchWords (run : StepRun) (l : Launch) (cores pos free : Nat) : List W32 :=
  let its := run.items.filter fun i => l.slots.contains i.slot
  let w := [run.number.toNat % 2 ^ 32, run.number.toNat / 2 ^ 32, l.slots.length, sumNat (its.map fun i => i.tokens), cores, pos, l.layer,
    if l.kind = 4 then (match its.head? with | some i => i.pos | none => 0) else 0] ++ List.replicate 8 0
  (w.map fun x => BitVec.ofNat 32 x) ++ (List.range 48).map fun i => BitVec.ofNat 32 (free / 2 ^ (32 * i))
/-- The segment registers as the image's segment table binds them (Table 4.2). A tensor of a delta image is followed by the same tensor of the launch's other
delta tenants, each an extent further on (R218, assumption 137). -/
def bindSegs (m : Model) (g : Prog) (tid : Nat) (others : List Nat) : List Seg :=
  (List.range 16).map fun i => match m.segs[g.segBase + i]? with
    | some (sp, peer, ext, bound) =>
      let more := if sp = 2 || sp = 6 then others else []
      { space := sp, peer := peer, src := tid, bound := bound, others := more, span := 4096 * ext, launchBase := 0, base := 0, stop := 4096 * ext * (1 + more.length) }
    | none => Seg.none
/-- A core at the start of a launch: its program from the first instruction, semaphores 0. -/
def Core.begin_ (k : Core) (g : Prog) (segs : List Seg) (slots : List Nat) (given : List (Nat × Nat × List W32)) (words : List W32) : Core :=
  { k with lat := g.lat == 1, busy := true, ended := false, prog := g.insns, slots := slots, given := given, pc := 0, segs := segs, sems := List.replicate 16 0, words := words,
           loops := [], stats := [], held := none, barrier := none, preempt := false, atMark := none, lastMark := 0 }
/-- The part of an item that the core at a position is given: an item's candidates in contiguous groups of ceil(count / cores), with their pairs (R24, R195, R223);
any other item whole, with its tokens. -/
def State.givenOf (s : State) (cores pos : Nat) (it : Item) : List (Nat × Nat × List W32) :=
  match s.req? it.slot with
  | none => []
  | some r =>
    let n := ceilDiv it.seqs cores
    let deal := fun (todo : Passage → Bool) (f : Passage → List W32) =>
      (((((enum r.passages).filter fun x => !x.2.dropped && todo x.2).take it.seqs).drop (n * pos)).take n).map fun x => (it.slot, x.1, f x.2)
    match it.kind with
    | .pairs => deal (fun p => p.logit.isNone) (s.pairOf r)
    | .heads => deal (fun p => p.head.isNone) fun _ => []
    | .embed => [(it.slot, 0, r.qTok)]
    | _ => [(it.slot, it.pos, ((r.prompt ++ r.emitted).drop it.pos).take it.tokens)]
/-- Slots of a launch that still run it: an encoder item that was withdrawn, or whose request was cancelled, starts no further launch (R29, R209, R242). -/
def State.liveSlots (s : State) (run : StepRun) (l : Launch) : List Nat :=
  l.slots.filter fun n => decide (3 < l.kind)
    || (run.items.any fun i => i.slot == n) && (match s.req? n with | some r => r.running | none => false)
/-- The next launch of a partition's step starts once its layers have landed and its cores are ready; one that has no program fails (04, launch kinds), and one
with nothing left to run is passed over. -/
def State.launchStart (s : State) (p : Nat) : State :=
  match (s.part p).run with
  | none => s
  | some run =>
    match run.launches with
    | [] => s
    | l :: rest =>
      let l := { l with slots := s.liveSlots run l }
      let skip := fun (s : State) => (((s.onPart p fun x => { x with run := some { run with launches := rest } }).streamFill p).tryBoundary p).settle
      if l.started || s.holdsLaunches then s
      else if l.slots.isEmpty then skip s
      else if !s.launchMay p l then s
      else match s.launchProg p l with
        | none => skip (s.each l.slots fun s n => s.endReq n stNotFound 0)
        | some (tid, m, g) =>
          let cs := (s.part p).cores.take g.cores
          if !cs.all s.coreReady then s
          else
            let (n, s) := s.fresh
            let others := ((s.launchTenants l).filter fun t => t.toNat ≠ tid).map fun t => t.toNat
            let its := run.items.filter fun i => l.slots.contains i.slot
            let s := s.each (enum cs) fun s x =>
              s.onCore x.2 fun k => k.begin_ g (bindSegs m g tid others) l.slots (its.flatMap (s.givenOf g.cores x.1)) (launchWords run l g.cores x.1 n)
            let s := s.onMem fun y => { y with bytes := cs.foldl (fun b c => Mem.writeN b (coreBase c) (slice m.consts g.constOff g.constLen)) y.bytes }
            s.onPart p fun x => { x with run := some { run with launches := { l with started := true } :: rest } }
/-- The launch at the head of a partition's step has ended on every core. -/
def State.launchOver (s : State) (p : Nat) : Bool :=
  match (s.part p).run with
  | some run => (match run.launches with | l :: _ => l.started | [] => false) && (s.part p).cores.all fun c => !(s.core c).busy || (s.core c).ended
  | none => false
/-- A launch ends: its cores are free, its layers' slots too where no other launch reads them; the boundary follows the last launch. -/
def State.launchEnd (s : State) (p : Nat) (cycles : Nat) (outs : List LaunchOut) : State :=
  if !s.launchOver p then s
  else
    let s := s.onPart p fun x => { x with run := x.run.map fun r => { r with launches := r.launches.drop 1, cycles := r.cycles + cycles, outs := outs ++ r.outs } }
    let s := s.each (s.part p).cores fun s c => s.onCore c fun k =>
      { k with busy := false, ended := false, prog := [], slots := [], given := [], preempt := false, held := none, atMark := none, loops := [] }
    let s := s.each (s.part p).cores fun s c => if s.underTest c then s.testMove c false else s.dueMove c false
    ((s.streamFill p).tryBoundary p).settle

/-! ## Landing (R112, R115) -/

/-- A layer is wholly in its slot. A frame that fails its CRC is fetched once more; failing again, it is an uncorrectable attic error (R112). -/
def State.layerLanded (s : State) (p place : Nat) (crcOk : Bool) : State :=
  match (s.part p).land[place]? with
  | none => s
  | some l =>
    if l.landed || (s.part p).waitsFor (.layer l.model l.layer) then s
    else
      let upd := fun (s : State) (v : LandSlot) => s.onPart p fun x => { x with land := setAt x.land place v }
      if crcOk then (upd s { l with landed := true }).streamFill p
      else if !l.retried then upd s { l with retried := true }
      else (upd s { l with retried := false }).frameError p [] none

/-! ## Pager and regulators -/

/-- A pager transfer completes; an empty step ends with it (R226), and windows whose pages are home are released (R345). -/
def State.pagerTransferDone (s : State) (p : Nat) : State :=
  if (s.part p).pagerOps.isEmpty || (s.part p).waitsFor .pager then s
  else
    let s := s.pagerDone p
    let s := match (s.part p).run with
      | some run => if run.empty then s.boundary p run else s.pagerNext p
      | none => s.pagerNext p
    s.drainWindows.settle
/-- Has a waiting transfer gone in the meantime? -/
def State.transferGone (s : State) (p res : Nat) (t : Transfer) : Bool :=
  match t.key with
  | .pager => (s.part p).pagerOps.isEmpty
  | .layer m l => !(s.part p).land.any fun x => x.model == m && x.layer == l && !x.landed
  | .scan a _ => (s.job? a).isNone
  | .fetch n => (match s.req? n with | some r => !r.running || r.stage ≠ 6 | none => true)
  | .gather g => !s.tbl.gathers.any fun x => x.gid == g
  | .xfer c => !((s.core c).xfers.any fun x => x.waits == some res)
/-- The oldest XFER of a core that waits on a regulator waits no more. -/
def startXfer (res : Nat) : List Write → List Write
  | [] => []
  | x :: l => if x.waits = some res then { x with waits := none } :: l else x :: startXfer res l
/-- The first waiting transfer of a resource starts where the bucket, refilled, holds its tokens, or where it may borrow an idle resource (R131). The
frames of one that is no XFER start as far as the bucket goes (assumption 64). -/
def State.regulatedStart (s : State) (p res : Nat) : State :=
  let s := s.onPart p fun x => { x with transfers := x.transfers.filter fun t => t.1 ≠ res || !s.transferGone p res t.2 }
  match (s.part p).transfers.find? fun t => t.1 == res, (s.part p).regs[res]? with
  | some t, some r =>
    let (s, starts) := if r.en then s.mayTransfer p res t.2.units r else (s, true)
    if !starts then
      match t.2.key with
      | .xfer _ => s
      | _ =>
        let n := min t.2.units (((s.part p).regs[res]?).getD r).tokens.toNat
        (s.spend p res n).onPart p fun x => { x with transfers := x.transfers.map fun y => if y == t then (t.1, { t.2 with units := t.2.units - n }) else y }
    else
      let s := (if r.en then s.spend p res t.2.units else s).onPart p fun x => { x with transfers := dropFirst (fun y => y == t) x.transfers }
      match t.2.key with
      | .xfer c => s.onCore c fun k => { k with xfers := startXfer res k.xfers }
      | .scan adm c => s.issueScan adm c
      | .fetch n => s.issueFetch n
      | _ => s
  | _, _ => s
def resourceNo : Resource → Nat
  | .hbm => 0 | .attic => 1 | .cellar => 2 | .tirtar => 3
/-- SLOWDOWN of a closed window (R133). -/
def slowdown (obs int : Nat) : Nat := if int = 0 then 1024 else min 65535 (1024 * obs / max (obs - int) 1)

/-! ## Rows -/

def execLaunchStart (part : PartNo) (s : State) : Out := woken (s.launchStart part.val)
def execLaunchEnd (part : PartNo) (cycles : W64) (outs : List LaunchOut) (s : State) : Out := woken (s.launchEnd part.val cycles.toNat outs)
def execLayerLanded (part : PartNo) (place : Fin 64) (crcOk : Bool) (s : State) : Out := woken (s.layerLanded part.val place.val crcOk)
def execPagerTransferDone (part : PartNo) (s : State) : Out := woken (s.pagerTransferDone part.val)
/-- The forming of a request's mask has begun (R257): at the boundary that sampled its latest token, or at the end of its last prefill chunk. -/
def State.maskBegun (s : State) (r : Req) (slot : Nat) : Bool :=
  !r.emitted.isEmpty || (match (s.part r.part.val).run with
    | some run => (run.items.any fun i => i.slot == slot && (i.kind == .prefill || i.kind == .rebuild) && decide (r.total ≤ i.pos + i.tokens))
        && run.launches.all fun l => l.kind == 6 || !l.slots.contains slot
    | none => false)
/-- GRAMMAR_MASK_READY (R257): a boundary that waits on the mask may run. -/
def execGrammarMaskReady (slot : SlotNo) (s : State) : Out :=
  woken (match s.req? slot.val with
    | some r => if r.running && r.grammar.isSome && s.maskBegun r slot.val then ((s.onReq slot.val fun x => { x with maskReady := true }).tryBoundary r.part.val).settle else s
    | none => s)
def execRegulatedTransferStart (part : PartNo) (res : Resource) (s : State) : Out := .next (s.regulatedStart part.val (resourceNo res))
/-- SLOWDOWN_WINDOW_CLOSE (R133). -/
def execSlowdownWindowClose (part : PartNo) (obs : W64) (int : W64) (s : State) : Out :=
  .next (s.onPart part.val fun x =>
    { x with slow := BitVec.ofNat 32 (slowdown obs.toNat int.toNat), stallObs := BitVec.ofNat 32 (min obs.toNat 0xFFFFFFFF),
             stallInt := BitVec.ofNat 32 (min int.toNat 0xFFFFFFFF) })

end Sys2Proof.Machine
end

