-- ==== Sys2Proof/Machine/RetrievalEvents.lean ====
section
/-! DEFINITION. Retrieval and the cellar as they go on by themselves (06, 11): plans dispatched, pages scored, passages fetched, mutations published,
merges, generations and replicas; flash operations, patrol, claims, erases and losses. -/

namespace Sys2Proof.Machine

/-! ## Scans and passages -/

/-- Cellar bytes read for a request (Table 9.10). -/
def State.chargeCellar (s : State) (p : Nat) (tenant : W16) (bytes : Nat) : State := s.charge p tenant fun a => { a with cellar := satAdd 64 a.cellar bytes }
/-- A page of a plan comes up: scored or skipped, counted, and the retrieval's result given once its last list is in. -/
def State.scanPage (s : State) (adm : W64) (ctrl page : Nat) (readable : Bool) : State :=
  match s.job? adm with
  | none => s
  | some j =>
    let due := j.holds.contains ctrl && j.reads.contains (ctrl, page) && !(s.part j.part).waitsFor (.scan adm ctrl) && !s.cel.reading (pageKey ctrl page) (.scan adm)
    if !due then s
    else
      let ok := readable && s.cel.pageReadable ctrl page
      let s := if ok then s else s.noPage (pageKey ctrl page)
      let s := if j.remote.isSome then s else s.chargeCellar j.part j.tenant 16384
      (((s.scorePage adm ctrl page ok).dispatch ctrl).jobResult adm).settle

def execScanPlanDispatch (ctrl : CtrlNo) (s : State) : Out := woken (s.dispatch ctrl.val)
def execScanPageScored (adm : W64) (ctrl : CtrlNo) (page : W32) (readable : Bool) (s : State) : Out := woken (s.scanPage adm ctrl.val page.toNat readable)

/-- The next passage of a request that its own store holds (R166) and whose page reads are done; those of members come as messages. -/
def State.nextFetch (s : State) (slot : Nat) (r : Req) : Option (Nat × Passage) :=
  if (s.part r.part.val).waitsFor (.fetch slot) then none
  else (enum r.passages).find? fun p => !p.2.fetched && !p.2.dropped && p.2.cand.member == 0 && !s.cel.busy (.fetch slot p.1)
/-- PASSAGE_FETCH_DONE: the text of the exact version the candidate carries, tokenised as it arrives, or a candidate dropped for a page that cannot be read
(R166, R288); the pages it read are charged. -/
def State.fetchDone (s : State) (slot : Nat) (readable : Bool) : State :=
  match s.req? slot with
  | none => s
  | some r =>
    if !r.running || r.stage ≠ 6 then s
    else match s.nextFetch slot r with
      | none => s
      | some (i, p) =>
        let ks := match s.index? r.index with | some ix => ix.fetchPages p.cand.id p.cand.version | none => []
        let s := s.chargeCellar r.part.val r.tenant (16384 * ks.length)
        let lost := ks.find? fun k => !s.cel.readable k
        let s := match (if readable then lost else some (lost.getD (ks.head?.getD 0))), (s.index? r.index).bind fun ix => ix.exact p.cand.id p.cand.version with
          | none, some e => s.passageText slot i e.text
          | none, none => s.passageDrop slot i
          | some k, _ => (s.noPage k).passageDrop slot i
        (s.stage6Done slot).settle
def execPassageFetchDone (slot : SlotNo) (readable : Bool) (s : State) : Out := woken (s.fetchDone slot.val readable)

/-! ## Mutations, merges, generations (R148 to R151, R159 to R166) -/

/-- MUTATION_PUBLISH, on an index that is in service. -/
def execMutationPublish (index : IndexNo) (s : State) : Out :=
  woken (match s.index? index.val with
    | some ix => if ix.unloaded then s else s.publish index.val
    | none => s)

/-- Does a tombstone of the index drop a version of a passage at a merge point? -/
def Index.dropped (ix : Index) (id version : W64) (m : W64) (b : Option Nat) : Bool :=
  ix.tombs.any fun t => t.id == id && decide (t.n.toNat ≤ m.toNat) && decide (version.toNat < t.n.toNat) && (match b with | some b => t.buckets.contains b | none => true)
def oldTable : Nat := 65536
def State.mudLen (s : State) (i b : Nat) : Nat := match s.index? i with | some ix => (ix.mudOf b).length | none => 0
/-- Merges that have taken their claims: each will need a place in the old-generation table (R142, R161). -/
def State.merging (s : State) : Nat := (s.cel.acts.filter fun a => a.kind == .merge && a.claimed).length
/-- A merge never starts while its bucket's OLD bit is set, nor while the old-generation table has no place for it (R161). -/
def State.mayMerge (s : State) (a : Activity) : Bool :=
  match s.index? a.index with
  | some ix => (ix.bucket a.bucket).old.isNone && decide (s.oldGens + s.merging < oldTable) && !ix.unloaded
  | none => false
/-- May an index's activity start? In the crowded condition of R159 the largest mudroom list goes first, then the lower bucket, of those that can start; a replica
starts while replication is on and its bucket has a current extent and no replica (R164, R170). -/
def State.mayBegin (s : State) (a : Activity) : Bool :=
  match s.index? a.index with
  | none => false
  | some ix =>
    if a.kind = .merge then
      let n := s.mudLen a.index a.bucket
      s.mayMerge a && !(s.cel.crowded && s.cel.acts.any fun x => x.kind == .merge && !x.claimed && x.aid != a.aid && s.mayMerge x
        && (decide (n < s.mudLen x.index x.bucket) || (n == s.mudLen x.index x.bucket && decide (x.bucket < a.bucket))))
    else bit s.ret.hotCfg.toNat 16 && !ix.unloaded && (ix.bucket a.bucket).ext.isSome && (ix.bucket a.bucket).hot.isNone
/-- Pages of a new extent's `n` that lie on the channel of its page `i`. -/
def chanNeed (n i : Nat) : Nat := ceilDiv (n - i) 16
/-- The blocks a new extent of `n` pages goes to on a controller: on each channel it reaches, TLC blocks of one die with room for its pages there (which die is
the model's choice); none where a channel has no room. -/
def Cel.extentBlocks (v : Variant) (c : Cel) (ctrl bucket n : Nat) : Option (List Nat) :=
  ((List.range (min 16 n)).foldl (fun (acc : Option (List Nat)) i => acc.bind fun l =>
    ((List.range 4).findSome? fun d =>
      let die := dieNo ctrl ((bucket + i) % 16) d
      let bs := c.relocBlocks v die none (chanNeed n i)
      if c.dieLost die || c.room v bs < chanNeed n i then none else some bs).map fun bs => l ++ bs) (some [])).map (sortBy fun x y => decide (x < y))
/-- Blocks an activity has chosen on the channel of its extent's page `i`. -/
def Activity.onChan (a : Activity) (i : Nat) : List Nat := a.dests.filter fun k => k / 65536 / 4 % 16 == (a.bucket + i) % 16
/-- A merge or replica chooses the controller of its new extent (R271; a replica's is another than its bucket's) and its blocks, for the most pages the extent can
have; a choice made before stands while it has room. -/
def State.chooseExtent (s : State) (a : Activity) : Option Activity :=
  match s.index? a.index with
  | none => none
  | some ix =>
    let v := s.ident.variant
    let k := ix.bucket a.bucket
    let n := extentPages ix.dim (if a.kind = .merge then min ix.cap (k.records + (ix.mudOf a.bucket).length) else k.records)
    if !a.dests.isEmpty && (List.range (min 16 n)).all fun i => decide (chanNeed n i ≤ s.cel.room v (a.onChan i)) then some a
    else (s.cel.pickCtrl v (if a.kind = .replica then k.ext.map fun e => e.ctrl else none)).bind fun c =>
      (s.cel.extentBlocks v c a.bucket n).map fun l => { a with ctrl := c, dests := l }
/-- A merge's new generation: the records of g it keeps, the entries it folds, and whether CAP left some out (R160, R161). -/
def Index.fold (ix : Index) (b : Nat) (recs : List Rec) (m : W64) : List Rec × List Mud × Bool :=
  let keep := recs.filter fun r => !ix.dropped r.id r.version m (some b)
  let elig := (ix.mudOf b).filter fun e => e.foldGen == 0 && decide (e.version.toNat ≤ m.toNat) && !ix.dropped e.id e.version m none
  let sorted := sortBy (fun x y : Mud => decide (y.version.toNat < x.version.toNat)) elig
  let take := sorted.take (ix.cap - keep.length)
  (keep ++ take.map fun e => { id := e.id, tag := e.tag, version := e.version, vec := e.vec }, take, decide (ix.cap - keep.length < elig.length))
/-- The records of an extent that lie on none of the pages that could not be read. -/
def State.goodRecs (s : State) (dim : Nat) (e : Extent) (bad : List Nat) : List Rec :=
  let len := recordLen dim
  ((enum (s.extentRecs dim e)).filter fun r => !(bad.any fun k => k / 2 ^ 32 == e.ctrl && decide (e.page + r.1 * len / 16384 ≤ k % 2 ^ 32)
    && decide (k % 2 ^ 32 ≤ e.page + (r.1 * len + len - 1) / 16384))).map Prod.snd
/-- The pages of a new extent begin to be written, each on the die of its channel that the activity has claimed blocks of. -/
def Cel.writeExt (v : Variant) (c : Cel) (a : Activity) (d : Nat) (pages : List Bytes) : Cel :=
  (enum pages).foldl (fun c x =>
    let key := pageKey a.ctrl (d + x.1)
    match a.onChan x.1 with
    | k :: _ => (c.enter key (pageOf x.2) (some a.aid)).queueOp v (k / 65536) { kind := .actWrite a.aid, page := key, block := 0, place := 0 }
    | [] => c) c
/-- A merge or replica goes on (R160, R164, R290): the current generation's pages are read; then the new extent is made and its pages are written. A replica of
which a page could not be read is given up. -/
def State.stepIndexAct (s : State) (aid : W32) : State :=
  match s.cel.act? aid with
  | none => s
  | some a =>
    match s.index? a.index with
    | none => s
    | some ix =>
      let v := s.ident.variant
      let k := ix.bucket a.bucket
      let keys := match k.ext with | some e => runKeys e.ctrl e.page (extentPages ix.dim e.count) | none => []
      if !a.claimed || a.phase = 2 then s
      else
        let s := if a.phase = 0 && s.cel.mayOccupy aid (s.cel.needs a keys) then
            s.onCel fun c => (c.readFor v aid keys).onAct aid fun x => { x with phase := 1, bad := keys.filter fun k => !c.readable k }
          else s
        match s.cel.act? aid with
        | none => s
        | some a =>
          if a.phase ≠ 1 || s.cel.opsOf aid ≠ 0 || !s.cel.mayOccupy aid (s.cel.needs a []) then s
          else if a.kind = .replica && !a.bad.isEmpty then s.endIndexAct a
          else
            let old := match k.ext with | some e => s.goodRecs ix.dim e a.bad | none => []
            let (recs, took, full) := if a.kind = .merge then ix.fold a.bucket old a.mergePoint else (old, [], false)
            let n := extentPages ix.dim recs.length
            let d := s.cel.newRun a.ctrl a.bucket n
            if recs.isEmpty then s.onCel fun c => c.onAct aid fun x => { x with phase := 2, took := took, full := full }
            else if Config.dataPages v < d + n then s
            else s.onCel fun c => (c.onAct aid fun x =>
              { x with phase := 2, ext := some { ctrl := a.ctrl, page := d, count := recs.length }, took := took, full := full }).writeExt v a d (pieces 16384 (recs.flatMap Rec.bytes))
/-- A merge or replica takes its claims: the bucket, then the blocks of its new extent (R160, R289); once it has them all a merge's merge point is fixed. -/
def State.claimIndexAct (s : State) (a : Activity) : State :=
  let s :=
    if a.claimed || !s.mayBegin a then s
    else match s.chooseExtent a with
      | none => s
      | some x => (s.onCel fun c => c.takeClaims s.ident.variant x).onCel fun c => c.onAct a.aid fun y => { y with mergePoint := s.snapOf a.index }
  s.stepIndexAct a.aid
/-- ACTIVITY_CLAIM. -/
def execActivityClaim (aid : W32) (s : State) : Out :=
  woken (match s.cel.act? aid with
    | some a => if a.ofIndex then s.claimIndexAct a else s.claimAct aid
    | none => s)

/-- Is an activity's new extent wholly written (R273)? -/
def State.written (s : State) (a : Activity) : Bool := a.claimed && a.phase == 2 && !(s.cel.pend.any fun w => w.act == some a.aid)
/-- MERGE_COMMIT: the new generation takes over in one step (R160); a replica of the bucket that is being written is abandoned (R164). -/
def State.mergeCommit (s : State) (i b : Nat) : State :=
  match s.index? i, s.cel.acts.find? fun a => a.kind == .merge && a.index == i && a.bucket == b && s.written a with
  | some ix, some a =>
    let k := ix.bucket b
    let m := a.mergePoint
    let g := BitVec.ofNat 32 (k.gen + 1)
    let s := s.onIndex i fun x => { x with
      mud := x.mud.map fun y => if y.bucket == b && y.foldGen == 0 && decide (y.version.toNat ≤ m.toNat) && (a.took.contains y || x.dropped y.id y.version m none)
        then { y with foldGen := g } else y,
      dir := (x.setBucket b { k with ext := a.ext, gen := k.gen + 1, old := some (k.ext, k.gen, m, k.hot), hot := none, mergePoint := m, full := a.full, due := false }).dir }
    let s := s.onCel fun c => c.dropAct a.aid
    let s := s.each (s.cel.acts.filter fun y => y.kind == .replica && y.index == i && y.bucket == b) fun s y => s.endIndexAct y
    match s.index? i with
    | some x =>
      -- entries or tombstones published after M may have made the bucket due again
      if x.dueNow b && ((x.mudOf b).any (fun y => decide (m.toNat < y.version.toNat)) || x.tombs.any fun t => t.buckets.contains b && decide (m.toNat < t.n.toNat)) then s.makeDue i b else s
    | none => s
  | _, _ => s
def execMergeCommit (index : IndexNo) (bucket : BitVec 28) (s : State) : Out := woken (s.mergeCommit index.val bucket.toNat)

/-- Tombstones that every bucket they are attached to has merged past go (R163). -/
def Index.retireTombs (ix : Index) : Index :=
  { ix with tombs := ix.tombs.filter fun t => !(t.buckets.all fun b => let k := ix.bucket b
      k.gen != 0 && decide (t.n.toNat ≤ k.mergePoint.toNat) && k.old.isNone) }
/-- Does a readable generation of a bucket hold a version? -/
def State.genHolds (s : State) (ix : Index) (b : Nat) (id version : W64) : Bool :=
  let k := ix.bucket b
  (k.ext.toList ++ (match k.old with | some (e, _, _, _) => e.toList | none => [])).any fun e => (s.extentRecs ix.dim e).any fun r => r.id == id && r.version == version
/-- The passage store keeps each passage's latest version, and older ones while something readable or live names them (R166). -/
def State.cleanStore (s : State) (i : Nat) : State :=
  match s.index? i with
  | none => s
  | some ix =>
    let named := fun (e : StoreEntry) => s.sch.slots.any fun r => !r.2.closed && r.2.index == i && r.2.passages.any fun p => p.cand.id == e.id && p.cand.version == e.version && p.cand.member == 0
    let keep := fun (e : StoreEntry) =>
      (match ix.latest e.id with | some l => l.version == e.version | none => true) || named e
        || (ix.mud.any fun m => m.id == e.id && m.version == e.version) || (e.home :: e.spill.toList).any fun b => s.genHolds ix b e.id e.version
    let homes := dedup ((ix.store.filter fun e => !keep e).map fun e => ix.homePage e.id)
    (s.onIndex i fun x => { x with store := x.store.filter keep }).syncHomes i homes
/-- GENERATION_RETIRE (R162). -/
def State.retireGen (s : State) (i b : Nat) : State :=
  match s.index? i with
  | none => s
  | some ix =>
    match (ix.bucket b).old with
    | none => s
    | some (e, g, m, h) =>
      let held := (s.snapshots i).any fun n => decide (n < m.toNat)
      let scanned := s.ret.jobs.any fun j => j.index == i && j.own.isNone && j.plan.any fun p => p.bucket == b && p.gen == g
      if held || scanned then s
      else
        let s := s.each (e.toList ++ h.toList) fun s x => s.freeExtent ix.dim x
        let s := s.onIndex i fun x => ({ x with
          mud := x.mud.filter fun y => !(y.bucket == b && y.foldGen != 0 && decide (y.foldGen.toNat ≤ g + 1)),
          dir := (x.setBucket b { x.bucket b with old := none }).dir }).retireTombs
        (s.cleanStore i).markCrowded
def execGenerationRetire (index : IndexNo) (bucket : BitVec 28) (s : State) : Out := woken (s.retireGen index.val bucket.toNat)

/-- The replica probed least often, of the full table (R164). -/
def State.coolest (s : State) : Option (Nat × Nat) :=
  ((s.ret.indexes.flatMap fun x => (x.2.dir.filter fun b => b.2.hot.isSome).map fun b => (x.2.heatOf b.1, x.1, b.1)).foldl (fun best x => match best with
    | none => some x
    | some y => if x.1 < y.1 then some x else some y) (none : Option (Nat × Nat × Nat))).map Prod.snd
/-- A replica makes room for another; its extent is trimmed once no planned scan reads it. -/
def State.dropReplica (s : State) (i b : Nat) : State :=
  match s.index? i with
  | none => s
  | some ix => match (ix.bucket b).hot with
    | none => s
    | some e => ((s.onRet fun r => { r with leaving := r.leaving ++ [(ix.dim, e)] }).onIndex i fun x => x.setBucket b { x.bucket b with hot := none }).sweepLeaving
/-- HOT_REPLICA_COMMIT: a replica that is wholly written joins the table, in the place of the coolest where that is full (R164); none once replication is off
(R170). -/
def State.replicaCommit (s : State) (i b : Nat) : State :=
  match s.index? i, s.cel.acts.find? fun a => a.kind == .replica && a.index == i && a.bucket == b && s.written a with
  | some ix, some a =>
    if !bit s.ret.hotCfg.toNat 16 || (ix.bucket b).hot.isSome then s.endIndexAct a
    else match a.ext with
      | none => s.onCel fun c => c.dropAct a.aid
      | some e =>
        let s := s.onCel fun c => c.dropAct a.aid
        let s := if 4096 ≤ s.replicas then (match s.coolest with | some x => s.dropReplica x.1 x.2 | none => s) else s
        s.onIndex i fun x => x.setBucket b { x.bucket b with hot := some e }
  | _, _ => s
def execHotReplicaCommit (index : IndexNo) (bucket : BitVec 28) (s : State) : Out := woken (s.replicaCommit index.val bucket.toNat)

/-! ## Flash (R280 to R295) -/

/-- What the end of a flash operation, or a loss, lets go on: contexts of dropped searches, loads, passage.get. -/
def State.afterFlash (s : State) : State := (s.sweepLeft.settleLoads).settleGets
/-- What a read was made for, where the page could not be read at step 5 (R288): a scan skips its records, a fetch drops its candidate, any other command that
reads it ends with ERR_DEVICE. -/
def State.readFails (s : State) (op : FlashOp) : State :=
  match op.kind with
  | .scan adm =>
    match s.job? adm with
    | some j =>
      let s := if j.remote.isSome then s else s.chargeCellar j.part j.tenant 16384
      (((s.scorePage adm (op.page / 2 ^ 32) (op.page % 2 ^ 32) false).dispatch (op.page / 2 ^ 32)).jobResult adm).settle
    | none => s
  | .fetch slot i =>
    match s.req? slot with
    | none => s
    | some r =>
      match r.passages[i]?, s.index? r.index with
      | some p, some ix =>
        let ks := ix.fetchPages p.cand.id p.cand.version
        if !r.running || r.stage ≠ 6 || p.fetched || p.dropped || !ks.contains op.page then s
        else (((s.chargeCellar r.part.val r.tenant (16384 * ks.length)).passageDrop slot i).stage6Done slot).settle
      | _, _ => s
  | .get no =>
    match s.ret.gets.find? fun g => g.no == no with
    | some g => (((s.onRet fun r => { r with gets := r.gets.filter fun x => x.no ≠ no }).onCel fun c => c.unqueue fun o => o.kind == .get no)).err g.h (stDevice, 0)
    | none => s
  | _ => s
/-- An index's activity goes on after one of its operations. -/
def State.actOn (s : State) (op : FlashOp) : State :=
  match opAid op with
  | some aid => (match s.cel.act? aid with | some a => if a.ofIndex then s.stepIndexAct aid else s | none => s)
  | none => s
/-- FLASH_OP_COMPLETE: an idle die with work queued starts it first. -/
def State.flashDone (s : State) (die : Nat) (r : FlashResult) : State :=
  let s := s.onCel fun c => c.start s.ident.variant die
  match (s.cel.die die).running with
  | none => s
  | some op =>
    if !opFits op.kind r then s
    else
      let s := s.opEnds die op r
      let s := match r with
        | .read st _ => if st.val = 5 then s.readFails op else s
        | _ => s
      (s.actOn op).afterFlash
def execFlashOpComplete (die : DieId) (r : FlashResult) (s : State) : Out := woken (s.flashDone die.no r)

/-- PATROL_READ: the page is read in class 2, and the patrol moves on. -/
def State.patrol (s : State) (die : Nat) : State :=
  if s.cel.dieLost die then s
  else match s.cel.patrolNext die with
    | none => s
    | some (b, p) => s.onCel fun c => (c.onDie die fun d => { d with patrolBlock := b + 1 }).queueOp s.ident.variant die { kind := .patrol, page := 0, block := b, place := p }
def execPatrolRead (die : DieId) (s : State) : Out := woken (s.patrol die.no)

/-- BLOCK_ERASE (R293): a written block with no valid page, no read outstanding and no claim. -/
def execBlockErase (die : DieId) (block : W16) (s : State) : Out :=
  let b := s.cel.block s.ident.variant die.no block.toNat
  woken (if b.pages.isEmpty || b.valid != 0 || (s.cel.die die.no).readsOn block.toNat != 0 || b.retired || b.claim.isSome || s.cel.dieLost die.no then s
    else s.onCel fun c => c.eraseBlock s.ident.variant die.no block.toNat)
def execDieFail (die : DieId) (s : State) : Out := woken (s.failDie die.no).afterFlash
def execControllerLost (ctrl : CtrlNo) (s : State) : Out := woken (s.loseCtrl ctrl.val).afterFlash
def execCellarChannelLost (ctrl : CtrlNo) (chan : Fin 16) (s : State) : Out := woken (s.loseChannel ctrl.val chan.val).afterFlash

end Sys2Proof.Machine
end

