-- ==== Sys2Proof/Machine/GatherEvents.lean ====
section
/-! DEFINITION. Sparse tables as they go on by themselves (07): the end of a gather, the halving of candidate counts, one row write. -/

namespace Sys2Proof.Machine

/-- GATHER_COMPLETE (R178, R180, R191): the pooled vectors and counts go to the command's buffer, or to the request's feature slot. It waits for every
shard's answer and for its regulators. -/
def State.gatherDone (s : State) (gid : W32) : State :=
  match s.tbl.gathers.find? fun g => g.gid == gid with
  | none => s
  | some g =>
    if !g.shards.isEmpty || (s.part g.part).waitsFor (.gather gid) then s
    else
      let (vecs, counts, missing, lost) := s.gatherResult g
      let s := (s.onTbl fun b => { b with gathers := b.gathers.filter fun x => x.gid != gid }).countGather g
      let s : State := match g.cmd, g.slot with
        | some (h, out), _ =>
          (s.hostWrite out.toNat (vecs.flatMap wordsBytes ++ counts.flatMap fun n => leBytes 4 n)).finishDeg h (decide (lost ≠ 0)) missing lost
        | none, some (slot, i) =>
          s.onReq slot fun r => { r with feats := (r.feats.filter fun f => f.1 != i) ++ [(i, vecs)], headDegraded := r.headDegraded || decide (lost ≠ 0),
                                         degraded := r.degraded || decide (lost ≠ 0) }
        | none, none => s
      ((s.reclaimAll.tryDestroy g.table).each (KMap.keys s.tbl.tables) fun s t => s.tryDestroy t).settle
def execGatherComplete (gid : W32) (s : State) : Out := woken (s.gatherDone gid)

/-- COUNT_HALVING (R181). -/
def execCountHalving (table : TableNo) (s : State) : Out :=
  woken (s.onTable table.val fun t => if t.slices < 65536 then t else { t with slices := t.slices - 65536, cands := t.cands.map fun c => (c.1, c.2 / 2) })

/-- The first write that has an entry left, where it is on this table: a module applies commands in the order it accepted them (R187). -/
def State.nextWrite (s : State) (tid : Nat) : Option (Nat × TWrite) :=
  ((enum s.tbl.writes).find? fun w => !w.2.entries.isEmpty || w.2.formed.isSome).bind fun w => if w.2.table = tid then some w else none
/-- WRITE_ENTRY_APPLY (R185 to R189): the row is formed in a spare slot, or the write waits for one; a row with holders swaps once they acknowledge. -/
def State.writeEntry (s : State) (tid : Nat) : State :=
  match s.nextWrite tid, s.table? tid with
  | some (i, w), some t =>
    if w.formed.isSome then s.swapReady
    else match w.entries with
      | [] => s
      | e :: l =>
        let put := fun (s : State) (f : TWrite → TWrite) => s.onTbl fun b => { b with writes := modAt b.writes i f }
        match t.formRow (s.formedPant tid) e with
        | none => if w.waited then s else (put s fun w => { w with waited := true }).onTbl fun b => { b with reclaimWait := satAdd 32 b.reclaimWait 1 }
        | some (a, p, codes) =>
          let row := e.row.toNat
          let holders := (t.holders.filter fun x => x.1 == row).map Prod.snd
          let up := holders.filter fun h => KMap.has s.fab.routes h.toNat
          let s := put s fun w => { w with entries := l, formed := some (row, a, p, codes), holders := [] }
          let s := s.each up fun s h => s.sendRow i tid row h (codes.map fun c => elem32 t.fmt 0 c.toNat)
          (s.each (holders.filter fun h => !up.contains h) fun s h => s.holderDone h tid row true).swapReady
  | _, _ => s
def execWriteEntryApply (table : TableNo) (s : State) : Out := woken (s.writeEntry table.val).settle

end Sys2Proof.Machine
end

