-- ==== Sys2Proof/Machine/FaultEvents.lean ====
section
/-! DEFINITION. Faults by class (15): what each report of Tables 15.1 and 15.2 does, and the end of a parity rebuild. A report of a class that the
table does not give its unit changes nothing. -/

namespace Sys2Proof

/-- UNIT of a fault record: the row of Table 15.2, counted from 1. -/
def FaultUnit.code : FaultUnit → Nat
  | .engine => 1 | .sram => 2 | .sequencer => 3 | .sfu => 4 | .hallway => 5 | .hbm => 6 | .attic => 7 | .controlSram => 8 | .control => 9
  | .textEngine => 10 | .mergeUnit => 11 | .scanUnit => 12 | .cellar => 13 | .tirtar => 14 | .pcie => 15 | .powerStage => 16
/-- Is the unit part of a core? -/
def FaultUnit.ofCore : FaultUnit → Bool
  | .engine | .sram | .sequencer | .sfu => true
  | _ => false
/-- INST: the core of a core's unit, else the instance the report names. -/
def FaultReport.unitInst (f : FaultReport) : Nat := if f.unit.ofCore then f.core.val else f.inst.toNat

end Sys2Proof

namespace Sys2Proof.Machine

/-! ## Class 0 -/

/-- A corrected error of an attic line; the eighth in one start remaps it (R359). -/
def State.lineError (s : State) (pkg addr : Nat) : State :=
  let key := pkg * 2 ^ 48 + addr / 4096
  let n := KMap.getD s.ras.lineErrs key 0 + 1
  if n < 8 then s.onRas fun r => { r with lineErrs := KMap.set r.lineErrs key n }
  else (s.remapLine pkg addr).onRas fun r => { r with lineErrs := KMap.erase r.lineErrs key }
/-- Does Table 15.2 give the unit's report class 0? -/
def State.corrects (s : State) (f : FaultReport) : Bool :=
  match f.unit with
  | .sram | .controlSram | .textEngine | .mergeUnit | .pcie | .powerStage => true
  | .hbm => !f.lost || (let st := f.inst.toNat / 16; !(s.ras.hbmSpent.getLsbD st || s.ras.hbmRebuild.getLsbD st))
  | .attic => !f.lost
  | _ => false
/-- FAULT_CORRECTED: counted and recorded; a lost HBM channel brings the parity in, an attic line wears towards its remap. -/
def execFaultCorrected (f : FaultReport) (s : State) : Out :=
  woken (if !s.corrects f then s
    else
      let s := (s.faultRec f.unit.code f.mech.val f.unitInst f.addr.toNat 0 none [] 0).onRas fun r => { r with corrected := satAdd 64 r.corrected 1 }
      match f.unit with
      | .hbm => if f.lost then (s.loseHbmChannel f.inst.toNat).1 else s
      | .attic => s.lineError f.inst.toNat f.addr.toNat
      | _ => s)

/-! ## Class 1 -/

/-- The partitions whose step a class 1 report abandons. -/
def State.hitParts (s : State) (f : FaultReport) : List Nat :=
  match f.unit with
  | .engine | .sram | .sequencer | .sfu => (s.partOf f.core.val).toList
  | .controlSram | .control => KMap.keys s.sch.parts
  | .hallway | .textEngine => (KMap.keys s.sch.parts).filter fun p => f.parts.getLsbD p
  | _ => []
def stepClass : FaultUnit → Bool
  | .engine | .sram | .sequencer | .sfu | .hallway | .controlSram | .control | .textEngine => true
  | _ => false
/-- The faulty unit is fenced (R364 item 2): the third residue fault of a column, the second bad word of a bank, the second watchdog. -/
def State.fenceUnit (s : State) (f : FaultReport) : State :=
  let c := f.core.val
  let k := s.core c
  match f.unit with
  | .engine =>
    let key := 128 * f.engine.val + f.line.toNat
    let n := KMap.getD k.residue key 0 + 1
    let s := s.onCore c fun k => { k with residue := KMap.set k.residue key n }
    if n = 3 then s.engineLineFails (4 * c + f.engine.val) true f.line.toNat 1 else s
  | .sram =>
    let n := KMap.getD k.bankErr f.bank.toNat 0 + 1
    let s := s.onCore c fun k => { k with bankErr := KMap.set k.bankErr f.bank.toNat n }
    if n = 2 then s.retireNow c else s
  | .sequencer =>
    let s := s.onCore c fun k => { k with dogs := k.dogs + 1 }
    if k.dogs + 1 = 2 then s.retireNow c else s
  | _ => s
/-- FAULT_STEP: the record of each partition, then its step abandoned, then the unit fenced. Text work whose logits survive is only repeated. -/
def execFaultStep (f : FaultReport) (s : State) : Out :=
  woken (if !stepClass f.unit then s
    else
      let ps := s.hitParts f
      let keep := f.unit == .textEngine && !f.lost
      let s := if ps.isEmpty then s.faultRec f.unit.code f.mech.val f.unitInst f.addr.toNat 1 none [] 0
        else s.each ps fun s p => s.faultRec f.unit.code f.mech.val f.unitInst f.addr.toNat 1 (some p) (if keep then [] else s.stepSlots p) 0
      let s := if keep then s else s.each ps fun s p => s.abandonStep p
      let s := s.fenceUnit f
      (s.each ps fun s p => s.dueMoves (s.part p).cores).settle)

/-! ## Class 2 (Table 15.4) -/

/-- The pages of a partition that share the frame of the page a report names, and their slots. -/
def State.frameOf (s : State) (f : FaultReport) : Option (Nat × Nat) :=
  match s.req? f.slot.val with
  | none => none
  | some r => (r.pages.find? fun g => g.group == f.group.toNat && g.no == f.page.toNat && !g.lost).map fun g => (r.part.val, g.addr)
/-- The address of the attic line a report names: its ADDR, or the place of the page or row it names by its own coordinates. -/
def State.lineOf (s : State) (f : FaultReport) : Nat :=
  match f.region with
  | .kvPage => (match s.frameOf f with | some x => x.2 | none => f.addr.toNat)
  | .tableRow => (match s.table? f.group.toNat with
    | some t => (s.mem.attAddr (.table f.group.toNat) (s.rowOffset t f.addr.toNat)).getD (attAt 0)
    | none => attAt 0)
  | _ => if 2 ^ 40 ≤ f.addr.toNat && f.addr.toNat < 2 ^ 41 then f.addr.toNat else attAt 0
/-- The requests whose content is hit. -/
def State.pageSlots (s : State) (f : FaultReport) : List Nat :=
  match f.region with
  | .kvPage => (match s.frameOf f with
    | some (p, a) => (s.slotsOf p).filter fun n => match s.req? n with
      | some r => r.pages.any fun g => !g.lost && g.addr == a
      | none => false
    | none => [])
  | .replayCopy => if (s.req? f.slot.val).isSome then [f.slot.val] else []
  | _ => []
/-- The lost content of a region, and what re-derives it. A shared base, an image frame, a vocabulary, a grammar and a directory are read again from
their copies, which leaves the state as it was; granules lent are their borrower's to repair. -/
def State.loseContent (s : State) (f : FaultReport) : State :=
  match f.region with
  | .kvPage => (match s.frameOf f with
    | some (p, a) => s.losePages p fun _ g => g.addr == a
    | none => s)
  | .landing => s.each (KMap.keys s.sch.parts) fun s p =>
      if f.parts.getLsbD p then s.onPart p fun x => { x with land := modAt x.land f.page.toNat fun l => { l with landed := false, retried := false } } else s
  | .work => s.each (KMap.keys s.sch.parts) fun s p => if f.parts.getLsbD p then s.abandonStep p else s
  | .pantry => s.onTable f.group.toNat fun t =>
      let e := t.entryOf f.addr.toNat
      if !entPant e then t
      else if s.ownsShard t (t.shardOf f.addr.toNat) then { t with entries := KMap.set t.entries f.addr.toNat (entry (entValid e) false 0 (entAslot e)), reclaim := t.reclaim ++ [(true, entPslot e, t.gathers)] }
      else { t with entries := KMap.erase t.entries f.addr.toNat, reclaim := t.reclaim ++ [(true, entPslot e, t.gathers)] }
  | .tableRow => s.onTable f.group.toNat fun t => if t.lost.contains f.addr.toNat || !entValid (t.entryOf f.addr.toNat) then t else { t with lost := t.lost ++ [f.addr.toNat] }
  | .replayCopy => s.onReq f.slot.val fun r => { r with update := r.update + 1, copyA := true, copyB := true }
  | .mirror =>
    match s.fab.mirrors.find? fun m => m.src == f.group && m.ref == f.addr with
    | some m => (s.onFab fun b => { b with mirrors := b.mirrors.filter fun x => !(x.src == m.src && x.ref == m.ref) }).send m.src 6 (.mirrorError m.ref.toNat)
    | none => s
  | .sharedBase | .imageFrame | .textTable | .directory | .lent => s
/-- FAULT_PAGE: HBM lines of a stack whose parity is spent, and attic lines with an uncorrectable error, which are remapped. -/
def execFaultPage (f : FaultReport) (s : State) : Out :=
  let st := f.inst.toNat / 16
  let ok := match f.unit with
    | .hbm => s.ras.hbmSpent.getLsbD st || s.ras.hbmRebuild.getLsbD st
    | .attic => true
    | _ => false
  woken (if !ok then s
    else
      let slots := s.pageSlots f
      let p := match f.region with | .kvPage => (s.frameOf f).map fun x => x.1 | _ => none
      let s := s.faultRec f.unit.code f.mech.val f.inst.toNat f.addr.toNat 2 p slots 0
      let s := if f.unit == .attic then s.remapLine f.inst.toNat (s.lineOf f / 4096 * 4096) else s
      (s.loseContent f).settle)

/-! ## Class 3 -/

/-- A scan unit fails in a search (R169): the candidates it had kept, and every further record of its channel, go to another unit of the controller. -/
def Job.unitFails (j : Job) (u : Nat) : Job :=
  if j.failed.contains u then j
  else
    let j := { j with failed := j.failed ++ [u] }
    let t := j.unitOf (u / 16) (u % 16)
    let listOf := fun (n : Nat) => match j.lists.find? fun l => l.1 == n with | some l => l.2 | none => []
    if t = u || (listOf u).isEmpty then j
    else { j with lists := (j.lists.filter fun l => l.1 ≠ u && l.1 ≠ t) ++ [(t, (listOf u).foldl (candInsert (j.k + j.d)) (listOf t))] }
def State.scanUnitFails (s : State) (slot u : Nat) : State :=
  s.onRet fun r => { r with jobs := r.jobs.map fun j => if j.slot == some slot then j.unitFails u else j }
/-- FAULT_FRONT: the merge and gather units' work is repeated; a scan unit's pages go to the controller's other scan units (R169). -/
def execFaultFront (f : FaultReport) (s : State) : Out :=
  woken (match f.unit with
    | .mergeUnit => ((s.faultRec f.unit.code f.mech.val f.inst.toNat f.addr.toNat 3 none [f.slot.val] 0).repeatFront f.slot.val).settle
    | .scanUnit => ((s.faultRec f.unit.code f.mech.val f.inst.toNat f.addr.toNat 3 none [f.slot.val] 0).scanUnitFails f.slot.val (f.inst.toNat % 128)).onReq f.slot.val
        fun r => if r.running then { r with replayed := true } else r
    | _ => s)

/-! ## Class 4 -/

/-- Requests whose content a class 4 report takes: pages in a stack, pages in an attic channel, or the request of a lost record. -/
def State.beyondSlots (s : State) (f : FaultReport) : List Nat :=
  match f.region with
  | .replayCopy => [f.slot.val]
  | _ => (s.sch.slots.filter fun x => f.parts.getLsbD x.2.part.val && x.2.running).map Prod.fst
/-- FAULT_BEYOND_SPARING: a second channel of a stack, a whole attic channel, both copies of a record. The partitions hit stop, and their requests end
with ERR_DEVICE, or stay to migrate while an evacuation runs. -/
def execFaultBeyondSparing (f : FaultReport) (s : State) : Out :=
  let st := f.inst.toNat / 16
  let ok := match f.unit with
    | .hbm => f.lost && (s.ras.hbmSpent.getLsbD st || s.ras.hbmRebuild.getLsbD st)
    | .attic => f.lost
    | _ => false
  woken (if !ok then s
    else
      let slots := s.beyondSlots f
      let s := (s.faultRec f.unit.code f.mech.val f.inst.toNat f.addr.toNat 4 none slots 0).onRas fun r =>
        { r with beyond := true, hbmLost := if f.unit == .hbm && st < 6 then r.hbmLost ||| BitVec.ofNat 6 (2 ^ st) else r.hbmLost }
      let s := if f.region == .replayCopy then s else s.each (KMap.keys s.sch.parts) fun s p => if f.parts.getLsbD p then s.abandonStep p else s
      let s := if s.sch.evac.isSome && f.region != .replayCopy then s else s.each slots fun s n => s.endReq n stDevice 0
      s.settle)

/-- HBM_PARITY_REBUILD_DONE (R358): the stack's parity is spent. -/
def execHbmParityRebuildDone (stack : Fin 6) (s : State) : Out :=
  woken (s.onRas fun r => if r.hbmRebuild.getLsbD stack.val
    then { r with hbmRebuild := r.hbmRebuild &&& ~~~(BitVec.ofNat 6 (2 ^ stack.val)), hbmSpent := r.hbmSpent ||| BitVec.ofNat 6 (2 ^ stack.val) } else r)

end Sys2Proof.Machine
end

