-- ==== Sys2Proof/Machine/Porch.lean ====
section
/-! DEFINITION. Queue pairs and doorbells (R302 to R314, R437), function-level reset and link loss. -/

namespace Sys2Proof.Machine

/-- The host reaches a function's BARs: the link is up, configuration has ended, and a VF is enabled (R298, R408). -/
def State.reaches (s : State) (fn : Fn) : Bool :=
  s.dom 1 == .on && s.boot.pcieReady && s.porch.linkUp && (fn.val == 0 || s.porch.vfs.getLsbD (fn.val - 1))

/-! ## Stopping (R305) -/

/-- Is a command that waits a request of the queue pair? -/
def Cmd.requestOf (c : Cmd) (k : Nat) : Bool := decide (0x0301 ≤ c.op.toNat) && decide (c.op.toNat ≤ 0x0305) && qpKey c.h.fn c.h.qp == k
/-- A queue pair stops: its live requests, those that wait under R319 too, end as a cancel would, without a completion; it writes nothing further. The completion
of a cancel from another queue pair waits for their records no longer. -/
def State.stopQp (s : State) (k : Nat) : State :=
  let due := (s.qp k).held.filter fun e => e.2.1 ≠ k
  let s := s.onPorch fun p =>
    { p with waiting := p.waiting.filter fun c => !c.requestOf k, qps := KMap.mapAll p.qps fun _ q => { q with held := q.held.filter fun e => e.2.1 ≠ k } }
  let s := s.onQp k fun q => { q with en := false, stopped := true, overflow := [], held := [] }
  let s := s.killWhere fun _ r => !r.closed && qpKey r.fn r.qp == k
  s.each due fun s e => s.complete e.2.1 e.2.2
/-- The same for a fault on the link (BAD_DMA). -/
def State.dmaFails (s : State) (k : Nat) : State :=
  if (s.qp k).active then ((s.onQp k fun q => { q with badDma := true }).stopQp k).settle else s

/-! ## Doorbells (R304) -/

/-- A doorbell write that breaks a rule: BAD_DB, and the queue pair stops if it is enabled. -/
def State.badDoorbell (s : State) (k : Nat) (rule : Bool) : State :=
  let t := s.onQp k fun q => { q with badDb := true }
  if rule && (s.qp k).en then (t.stopQp k).settle else t
/-- How far a ring index moves a position that is counted without wrap. -/
def advanceTo (pos v size : Nat) : Nat := (v + size - pos % size) % size
def State.sqTail (s : State) (fn : Fn) (qp : QpNo) (v : Nat) : State :=
  let k := qpKey fn qp
  let q := s.qp k
  if !s.reaches fn then s
  else if !q.en then s.badDoorbell k false
  else if q.runSq ≤ v then s.badDoorbell k true
  else s.onQp k fun q => { q with sqTail := q.sqTail + advanceTo q.sqTail v q.runSq }
def State.cqHead (s : State) (fn : Fn) (qp : QpNo) (v : Nat) : State :=
  let k := qpKey fn qp
  let q := s.qp k
  if !s.reaches fn then s
  else if !q.active then s.badDoorbell k false
  else if q.runCq ≤ v || q.cqTail - q.cqHead < advanceTo q.cqHead v q.runCq then s.badDoorbell k true
  else s.onQp k fun q => { q with cqHead := q.cqHead + advanceTo q.cqHead v q.runCq }
/-- OR_HEAD releases records; the overflow store then moves, and completions that waited for it are written (R311). -/
def State.orHead (s : State) (fn : Fn) (qp : QpNo) (v : Nat) : State :=
  let k := qpKey fn qp
  let q := s.qp k
  if !s.reaches fn then s
  else if !q.active then s.badDoorbell k false
  else if q.runOr ≤ v || q.orTail - q.orHead < advanceTo q.orHead v q.runOr then s.badDoorbell k true
  else
    let s := s.onQp k fun q => { q with orHead := q.orHead + advanceTo q.orHead v q.runOr }
    ((s.moveOverflow k q.overflow.length).releaseHeld k).settle

/-! ## Enable and disable (R302, R303) -/

/-- The checks of an enable. -/
def Qp.cfgOk (q : Qp) (fn : Fn) : Bool :=
  q.sqb.toNat % 4096 == 0 && q.cqb.toNat % 4096 == 0 && q.orb.toNat % 4096 == 0
    && decide (6 ≤ q.orLog2.toNat) && decide (q.orLog2.toNat ≤ 20) && decide (4 ≤ q.cqLog2.toNat) && decide (q.cqLog2.toNat ≤ 16)
    && decide (4 ≤ q.sqLog2.toNat) && decide (q.sqLog2.toNat ≤ 16) && decide (q.orVec.toNat < vecCount fn.val) && decide (q.cqVec.toNat < vecCount fn.val)
def Qp.sizes (q : Qp) (v : W32) : Qp :=
  { q with orLog2 := BitVec.ofNat 5 (bits v.toNat 14 10), cqLog2 := BitVec.ofNat 5 (bits v.toNat 9 5), sqLog2 := BitVec.ofNat 5 (bits v.toNat 4 0) }
/-- The rings start empty. -/
def Qp.start (q : Qp) (store : Bool) : Qp :=
  { q with en := true, active := true, stopped := false, runSqb := q.sqb, runCqb := q.cqb, runOrb := q.orb, runSq := 2 ^ q.sqLog2.toNat, runCq := 2 ^ q.cqLog2.toNat,
           runOr := 2 ^ q.orLog2.toNat, sqHead := 0, sqTail := 0, cqHead := 0, cqTail := 0, orHead := 0, orTail := 0, inFlight := 0, store := store, overflow := [],
           held := [], runs := q.runs + 1, cqNew := 0, orNew := 0 }
/-- A write of EN = 1. In hold and in recovery no overflow store is taken (R406, R416); recovery has queue pair 0 of the PF only. -/
def State.enableQp (s : State) (fn : Fn) (qp : QpNo) (v : W32) : State :=
  let k := qpKey fn qp
  if !s.reaches fn || (s.qp k).en then s
  else
    let s := s.onQp k fun q => q.sizes v
    let q := s.qp k
    let store := !s.boot.hold && !s.boot.recovery
    if q.active || !q.cfgOk fn || (store && memHbmFree s < 1) || (s.boot.recovery && k != 0) then s.onQp k fun q => { q with badCfg := true }
    else (s.iff store fun s => s.hbmSize (.orStore k) 1).onQp k fun q => q.start store
/-- A write of EN = 0. -/
def State.disableQp (s : State) (fn : Fn) (qp : QpNo) (v : W32) : State :=
  if s.reaches fn then s.onQp (qpKey fn qp) fun q => { (q.sizes v) with en := false } else s
/-- The run has drained. -/
def Qp.drained (q : Qp) : Bool := q.active && !q.en && (q.stopped || (q.inFlight == 0 && q.overflow.isEmpty && q.held.isEmpty))
/-- The overflow store goes back. -/
def State.freeStore (s : State) (k : Nat) : State :=
  if (s.qp k).store then (s.onQp k fun q => { q with store := false }).hbmSize (.orStore k) 0 else s
def State.drainEnd (s : State) (k : Nat) : State :=
  if (s.qp k).drained then (s.freeStore k).onQp k fun q => { q with active := false } else s

/-! ## Resets (R313) -/

/-- Every queue pair of a function at its reset values, its overflow store back, its waiting commands and held completions gone. -/
def State.resetQps (s : State) (fn : Fn) : State :=
  let s := s.each (List.range 64) fun s i => (s.freeStore (64 * fn.val + i)).onQp (64 * fn.val + i) fun q => { Qp.reset with runs := q.runs }
  s.onPorch fun p =>
    { p with waiting := p.waiting.filter fun c => c.h.fn ≠ fn, qps := KMap.mapAll p.qps fun _ q => { q with held := q.held.filter fun e => e.2.1 / 64 ≠ fn.val } }
/-- A function-level reset. -/
def State.flr (s : State) (fn : Fn) : State := ((s.killWhere fun _ r => !r.closed && r.fn == fn).resetQps fn).settle
/-- A queue pair that runs stops: EN reads 0 and nothing further is written. -/
def Qp.stop (q : Qp) : Qp := if q.active then { q with en := false, stopped := true, overflow := [], held := [] } else q
/-- The PCIe link is lost: every function's live requests end as under R305. -/
def State.linkLost (s : State) : State :=
  ((s.killWhere fun _ r => !r.closed).onPorch fun p => { p with linkUp := false, qps := KMap.mapAll p.qps fun _ q => q.stop }).settle

/-! ## Rows -/

def execSqTailDoorbell (fn : Fn) (qp : QpNo) (v : W32) (s : State) : Out := woken (s.sqTail fn qp v.toNat)
def execCqHeadDoorbell (fn : Fn) (qp : QpNo) (v : W32) (s : State) : Out := woken (s.cqHead fn qp v.toNat)
def execOrHeadDoorbell (fn : Fn) (qp : QpNo) (v : W32) (s : State) : Out := woken (s.orHead fn qp v.toNat)
def execQpEnable (fn : Fn) (qp : QpNo) (v : W32) (s : State) : Out := woken (s.enableQp fn qp v)
def execQpDisable (fn : Fn) (qp : QpNo) (v : W32) (s : State) : Out := woken (s.disableQp fn qp v)
def execQpDrainEnd (fn : Fn) (qp : QpNo) (s : State) : Out := woken (s.drainEnd (qpKey fn qp))
def execRingDmaFailure (fn : Fn) (qp : QpNo) (s : State) : Out := woken (s.dmaFails (qpKey fn qp))
def execCommandFetch (fn : Fn) (qp : QpNo) (s : State) : Out := woken (s.fetchNext fn qp)
def execFunctionLevelReset (fn : Fn) (s : State) : Out := woken (s.flr fn)
def execLinkLoss (s : State) : Out := woken s.linkLost
/-- CONFIG_REQUEST (R408): answered with Request Retry Status until PCIE_READY ends; then a write of the VF count takes effect (Table 12.1). -/
def execConfigRequest (vfs : Option (Fin 17)) (s : State) : Out :=
  .next (if s.dom 1 ≠ .on || s.boot.romHeld || s.boot.romStopped then s
         else s.onPorch fun p =>
           if !s.boot.pcieReady then { p with cfgRetry := p.cfgRetry + 1 }
           else { p with cfgDone := p.cfgDone + 1, linkUp := true, vfs := match vfs with | some n => BitVec.ofNat 16 (2 ^ n.val - 1) | none => p.vfs })

end Sys2Proof.Machine
end

