-- ==== Sys2Proof/Machine/PowerEvents.lean ====
section
/-! DEFINITION. Power, clocks and temperature as they go on by themselves (16): samples, steps and holds, lost phases, MOD_EN, domains that sleep and
wake, the sequencer's windows. -/

namespace Sys2Proof.Machine

/-! ## Shutdowns (R382, R399) -/

/-- The core rail turns off, SERVICE clears, and every live request ends with ERR_DEVICE; raw packets that wait end so too. -/
def State.railOff (s : State) : State :=
  let packets := s.sch.parts.flatMap fun p => p.2.packets ++ (match p.2.run with | some r => (match r.packet with | some (c, _, _) => [c] | none => []) | none => [])
  let s := s.onBoot fun b => { b with service := false }
  let s := s.onSch fun c => { c with parts := KMap.mapAll c.parts fun _ x => { x with run := none, land := [], packets := [], again := false, transfers := [] } }
  let s := s.each (List.range 34) fun s c => (s.onCore c Core.stopped).offCore c
  let s := s.each (s.sch.slots.filter fun x => x.2.running) fun s x => s.endReq x.1 stDevice 0
  (s.each packets fun s c => s.err c.h (stDevice, 0)).settle

/-! ## Power samples (R381, R393 to R396) -/

def capW (w : Pwr) : Nat := min 900 (max 600 (bits w.capCfg.toNat 9 0))
def meanOver (l : List Nat) (limit : Nat) : Bool := decide (1000 * limit * l.length < sumNat l)
/-- cap_step of R394: samples in mW, the newest first. -/
def Pwr.capStep (w : Pwr) : Pwr :=
  let c := capW w
  let x := (w.samples.head?).getD 0
  let l64 := w.samples.take 64
  let l := w.samples.take 1024
  let (cap, slow, up) :=
    if 1100000 < x && w.cap < 8 then (w.cap + 1, 64, w.upWait)
    else if w.slowWait = 0 && meanOver l64 c && w.cap < 8 then (w.cap + 1, 64, w.upWait)
    else if w.upWait = 0 && decide (0 < w.cap) && decide (16 * sumNat l ≤ 15 * 1000 * c * l.length) && decide (maxNat l ≤ 1100000) then (w.cap - 1, w.slowWait, 1024)
    else (w.cap, w.slowWait, w.upWait)
  { w with cap := cap, slowWait := slow - 1, upWait := if w.cap < cap then 1024 else up - 1 }
/-- A change of s is recorded (R396). -/
def State.stepsChanged (s : State) (before : Nat) : State := if s.pwr.steps = before then s else s.powerEvent 2
/-- Power hold (R395): 8 steps in force and 938 samples in a row above 1,100 W; it ends when the last 64 average below CAP_W. -/
def State.powerHold (s : State) : State :=
  let w := s.pwr
  if !w.pwrHold && w.steps == 8 && decide (938 ≤ w.overN) then (s.onPwr fun w => { w with pwrHold := true }).powerEvent 3
  else
    let l := w.samples.take 64
    if w.pwrHold && decide (sumNat l < 1000 * capW w * l.length) then (s.onPwr fun w => { w with pwrHold := false }).powerEvent 4 else s
/-- Input lost (R381, R354): no further launch, a record, every live request stopped, the main stage off, PWR_GOOD low. -/
def State.loseInput (s : State) : State :=
  let s := (s.onPwr fun w => { w with inputLost := true }).powerEvent 1
  ((s.stopAll.flood .departing).powerDown).onPwr fun w => { w with inputLost := true }
/-- POWER_SAMPLE: 256 always-on cycles pass. -/
def State.powerSample (s : State) (mv mw : Nat) : State :=
  if s.dom 0 ≠ .on then s
  else
    let s := s.onBbx fun b => { b with aonCycles := b.aonCycles + 256 }
    let s := s.onPwr fun w =>
      { w with mv := mv, mw := mw, samples := (mw :: w.samples).take 1024, low := if mv < 34000 then w.low + 1 else 0, overN := if 1100000 < mw then w.overN + 1 else 0 }
    let s := if s.pwr.low = 64 then s.powerEvent 0 else s
    if s.dom 4 ≠ .on then s
    else if mv < 32000 || 60000 < mv then s.loseInput
    else
      let before := s.pwr.steps
      ((s.onPwr Pwr.capStep).stepsChanged before).powerHold
def execPowerSample (mv : W32) (mw : W32) (s : State) : Out := woken (s.powerSample mv.toNat mw.toNat)

/-! ## Core-rail phases (R382) -/

/-- Phases that carry load: the first 16 healthy ones, spares 16 and 17 last. -/
def Pwr.carrying (w : Pwr) : List Nat := ((List.range 18).filter fun i => !w.failed.getLsbD i).take 16
/-- PHASE_FAIL. The record's MECH is a free choice: Table 15.13 has no code for a phase's check. -/
def State.phaseFail (s : State) (p : Nat) : State :=
  if s.pwr.failed.getLsbD p || s.dom 4 ≠ .on then s
  else
    let before := s.pwr.steps
    let old := s.pwr.carrying
    let failed := s.pwr.failed ||| BitVec.ofNat 18 (2 ^ p)
    let n := countBits 18 fun i => failed.getLsbD i
    let (mech, s) := s.fresh
    let s := s.faultRec 16 (mech % 8) p p (if n ≤ 2 then 0 else 4) none [] 0
    let new := ({ s.pwr with failed := failed } : Pwr).carrying
    let s := match new.find? fun i => !old.contains i with | some i => s.spareIn 8 p p i | none => s
    let s := s.onPwr fun w => { w with failed := failed, floor := if n = 3 then min 8 (w.floor + 4) else if 3 < n then min 8 (w.floor + 2) else w.floor }
    let s := s.stepsChanged before
    if new.length < 12 then s.railOff else s
def execPhaseFail (phase : Fin 18) (s : State) : Out := woken (s.phaseFail phase.val)

/-! ## Temperature (R397 to R400) -/

def tThr (w : Pwr) : Nat := min 100 (max 80 (bits w.thermCfg.toNat 7 0))
def raw256 (t : W16) : Int := t.toInt
/-- The hottest reading and its sensor, the lower number among equals. -/
def hottest (l : List W16) : Nat × W16 := (enum l).foldl (fun b x => if raw256 b.2 < raw256 x.2 then x else b) (0, (l.head?).getD 0)
/-- A thermal event (TYPE 0x0021, R441). -/
def State.thermEvent (s : State) (kind sensor : Nat) (t : W16) (ev : Nat) : State :=
  s.record 0x0021 (if ev = 1 then 2 else if ev = 3 then 3 else 0) (payload [(1, kind), (1, sensor), (2, t.toNat), (1, s.pwr.therm), (1, ev)])
/-- Shutdown (R399): SERVICE clears, the core rail and the HBM turn off, THERM_TRIP_N stays asserted. -/
def State.thermShutdown (s : State) (sensor : Nat) (t : W16) : State :=
  if s.pwr.thermShut then s
  else
    let s := (s.onPwr fun w => { w with thermShut := true, tripN := false }).thermEvent 0 sensor t 3
    (s.railOff).each (List.range 6) fun s i => s.setDom (41 + i) .off
/-- THERM after a sample of T: one step toward its target (R397). -/
def Pwr.thermStep (w : Pwr) (t : Int) : Nat :=
  let target := min 8 (max 0 (t - (tThr w : Int) + 1)).toNat
  if w.therm < target then w.therm + 1 else if target + 2 ≤ w.therm then w.therm - 1 else w.therm
def Pwr.heat (w : Pwr) (t : Int) : Pwr := { w with therm := w.thermStep t }
/-- The readings of a thermal sample are kept. -/
def State.readTemps (s : State) (js ss ps : List W16) : State := s.onPwr fun w => { w with tJ := (hottest js).2, tS := (hottest ss).2, tP := (hottest ps).2 }
/-- THERM follows a sample of T; its change, and a change of the steps in force, are recorded (R397, R400). -/
def State.heated (s : State) (js : List W16) : State :=
  let j := hottest js
  let before := s.pwr.steps
  let th := s.pwr.therm
  let s := s.onPwr fun w => w.heat (raw256 j.2 / 256)
  (if s.pwr.therm = th then s else s.thermEvent 0 j.1 j.2 0).stepsChanged before
/-- Does a memory reading stand at `c` °C or more? -/
def memAt (l : List W16) (c : Int) : Bool := !l.isEmpty && decide (c * 256 ≤ raw256 (hottest l).2)
def State.holdStarts (s : State) (kind : Nat) (x : Nat × W16) : State :=
  (s.onPwr fun w => { w with thermHold := true, tripN := false }).thermEvent kind x.1 x.2 1
/-- What a sample does beyond THERM: shutdown, the start or the end of a thermal hold (R398, R399). -/
def State.thermActs (s : State) (js ss ps : List W16) : State :=
  let j := hottest js
  let t := raw256 j.2 / 256
  if 110 ≤ t then s.thermShutdown j.1 j.2
  else if !s.pwr.thermHold then
    if 105 ≤ t then s.holdStarts 0 j else if memAt ss 95 then s.holdStarts 1 (hottest ss) else if memAt ps 95 then s.holdStarts 2 (hottest ps) else s
  else if decide (t < (tThr s.pwr : Int)) && !memAt ss 85 && !memAt ps 85 then
    (s.onPwr fun w => { w with thermHold := false, tripN := true }).thermEvent 0 j.1 j.2 2
  else s
/-- THERMAL_SAMPLE. -/
def State.thermalSample (s : State) (js ss ps : List W16) : State :=
  if s.dom 4 ≠ .on || js.isEmpty then s
  else if s.pwr.thermShut then s.readTemps js ss ps
  else ((s.readTemps js ss ps).heated js).thermActs js ss ps
def execThermalSample (junctions hbm packages : List W16) (s : State) : Out := woken (s.thermalSample junctions hbm packages)
/-- THERMAL_HOLD_EXPIRY: the hold has lasted 10 s. The record's sensor number is the model's 0: the state keeps the hottest reading alone. -/
def execThermalHoldExpiry (s : State) : Out := woken (if s.pwr.thermHold then s.thermShutdown 0 s.pwr.tJ else s)

/-! ## MOD_EN (R388, R389, R427, R434) -/

def execModEnAssert (s : State) : Out :=
  .next (if s.svc.latchOpen then s
    else
      let s := s.onPwr fun w => { w with modEn := true }
      if s.dom 4 == .on then s else s.powerUp)
def execModEnDeassert (s : State) : Out :=
  .next (if s.svc.latchOpen || !s.pwr.modEn then s
    else
      let s := s.onPwr fun w => { w with modEn := false }
      if s.dom 4 ≠ .on then s else ((s.powerEvent 5).stopAll.flood .departing).powerDown)

/-! ## Domains (R384 to R387, R390) -/

/-- DOMAIN_SLEEP: a core of a partition with no launch, no activity and no test, or PD_TXT or PD_RET with no work. -/
def State.sleepDom (s : State) (d : Nat) : State :=
  if s.dom d ≠ .on then s
  else if isCoreDom d then
    let c := d - 7
    let k := s.core c
    let tested := s.ras.pieces.any fun x => x.started && x.target == 0 && x.unit == c
    if (s.partOf c).isNone || k.busy || k.preempt || !(k.activity.all fun a => a == 0) || tested then s
    else (s.setDom d .sleep).onCore c fun k => { k with pllLocked := false }
  else if d = 5 then (if s.txtBusy then s else s.setDom d .sleep)
  else if d = 6 then (if s.retBusy then s else s.setDom d .sleep)
  else s
def execDomainSleep (dom : Fin 57) (s : State) : Out := .next (s.sleepDom dom.val)
/-- A core that has become ready goes on with the instruction it holds. -/
def State.readyCore (s : State) (c : Nat) : State := if s.coreReady c then s.tryHeld c else s
def execDomainWakeDone (dom : Fin 57) (s : State) : Out :=
  woken (if s.dom dom.val ≠ .changing then s
    else
      let s := s.setDom dom.val .on
      if isCoreDom dom.val then s.readyCore (dom.val - 7) else s)
def execPllLock (core : CoreNo) (s : State) : Out :=
  woken (if s.dom (coreDom core.val) == .on || s.dom (coreDom core.val) == .changing
    then (s.onCore core.val fun k => { k with pllLocked := true }).readyCore core.val else s)
/-- INRUSH_WINDOW: the next cores turn on, or begin the ramp they held (R387). -/
def State.inrush (s : State) (ramp : Bool) : State :=
  if ramp then
    let go := s.pwr.rampWait.take 8
    let s := s.onPwr fun w => { w with rampWindow := go.length, rampWait := w.rampWait.drop 8 }
    s.each go fun s c => (s.onCore c fun k => { k with activity := k.activity.map fun a => max 1 a }).tryHeld c
  else
    let go := s.pwr.onWait.take 2
    (s.onPwr fun w => { w with onWindow := go.length, onWait := w.onWait.drop 2 }).each go fun s d => if s.dom d == .off then s.setDom d .changing else s
def execInrushWindow (ramp : Bool) (s : State) : Out := woken (s.inrush ramp)

end Sys2Proof.Machine
end

