-- ==== Sys2Proof/Machine/ServiceEvents.lean ====
section
/-! DEFINITION. Service by hand and management (17, 18): the button, removal, the latch, ALERT_N, the LEDs, the management port, the DOE mailbox. -/

namespace Sys2Proof.Machine

/-! ## Removal (R430, R431) -/

/-- A change of the removal state asserts ALERT_N (R429). -/
def State.setRemoval (s : State) (r : BitVec 2) : State := s.onSvc fun v => { v with removal := r, alertN := false }
/-- SERVICE_BUTTON_PRESS. -/
def State.press (s : State) (ms : Nat) : State :=
  if ms < 100 || 2000 < ms || s.dom 0 ≠ .on then s
  else if s.svc.removal = 1 then
    -- a press while REMOVAL is 1 cancels the removal; requests already migrated stay with the buddy
    let s := s.onSch fun c => { c with evac := match c.evac with | some (none, _, _) => none | e => e }
    ((s.setRemoval 0).onSvc fun v => { v with refused := false }).serviceAction 9 0 0
  else if s.service && !s.departed && s.fab.buddy ≠ 0 && !s.fab.buddyDown && s.svc.removal = 0 then
    let s := ((s.setRemoval 1).onSvc fun v => { v with refused := false, moved := 0 }).serviceAction 0 0 0
    (s.onSch fun c => { c with evac := match c.evac with | none => some (none, 0, s.liveAll) | e => e }).settle
  else s.onSvc fun v => { v with refused := true }
def execServiceButtonPress (ms : W32) (s : State) : Out := woken (s.press ms.toNat)

/-- Has every request of a removal moved or ended, and every raw packet? -/
def State.quiet (s : State) : Bool :=
  s.liveAll == 0 && (match s.sch.evac with | some (some _, _, _) => false | _ => true) && s.sch.parts.all fun p => p.2.packets.isEmpty && (match p.2.run with | some r => r.packet.isNone | none => true)
/-- REMOVAL_COMPLETE: mirrors closed, the record, the departing notice, the lanes idle, REMOVAL 2. -/
def State.removed (s : State) : State :=
  if s.svc.removal ≠ 1 || !s.quiet || s.departed then s
  else
    let s := (s.closeMirrors.onSch fun c => { c with evac := none }).serviceAction 3 0 s.svc.moved
    let s := s.flood .departing
    let s := s.each ((List.range 8).filter fun p => (s.port p).up) fun s p => s.closePort p
    s.setRemoval 2
def execRemovalComplete (s : State) : Out := woken s.removed

/-! ## The latch (R433, R434) -/

/-- LATCH_OPEN: PWR_GOOD stays low while it is open; while REMOVAL is not 2, every live request stops and a departing notice goes out. -/
def State.openLatch (s : State) : State :=
  if s.svc.latchOpen then s
  else
    let s := (s.onSvc fun v => { v with latchOpen := true, opened := true, alertN := false }).onPwr fun w => { w with pwrGood := false }
    if s.svc.removal = 2 || s.dom 4 ≠ .on then s
    else (((s.onSvc fun v => { v with surprise := true }).stopAll).flood .departing).serviceAction 1 0 0
def execLatchOpen (s : State) : Out := woken s.openLatch
def execLatchClose (s : State) : Out := .next (s.onSvc fun v => { v with latchOpen := false })
/-- ALERT_RESPONSE_READ (R429). -/
def execAlertResponseRead (s : State) : Out := .next (if s.dom 0 == .on then s.onSvc fun v => { v with alertN := true } else s)

/-! ## LEDs (Table 18.7), read off the state -/

/-- A LED's pattern: off, steady, or blinking at a rate in tenths of a hertz. -/
inductive Led where
  | off | on | blink (tenthsHz : Nat)
  deriving DecidableEq, Repr
/-- Recovery mode, in which SERVICE reads 0 too, shows its own pattern (DEDUCED: the row could never show otherwise). -/
def State.ledGreen (s : State) : Led :=
  if s.dom 0 ≠ .on then .off else if s.dom 4 ≠ .on then .blink 5 else if s.boot.recovery then .blink 40 else if s.service then .on else .blink 20
def State.ledAmber (s : State) : Led :=
  if s.dom 0 ≠ .on then .off
  else if !s.pwr.tripN || s.bbx.recs.any (fun r => r.sealed_ && r.sev == 3) then .on
  else if s.degraded then .blink 10 else if s.svc.surprise then .blink 40 else .off
def State.ledBlue (s : State) : Led :=
  if s.dom 0 ≠ .on then .off
  else if s.svc.removal = 2 then .on else if s.svc.removal = 1 then .blink 10 else if s.svc.refused then .blink 40 else if s.svc.locate then .blink 5 else .off

/-! ## The management port (R424, R416) -/

def State.say (s : State) (m : MgmtMsg) : State := { s with mgmt := { out := s.mgmt.out ++ [m] } }
/-- A request over SMBus is served while PD_AON is on. -/
def State.aon (s : State) (f : State → State) : State := if s.dom 0 == .on then f s else s
/-- MCTP_BBX_READ: FROM and MAX as bbx.read has them; READ is set in each record returned. -/
def execMctpBbxRead (start : W64) (max : W32) (s : State) : Out :=
  .next (s.aon fun s =>
    let l := s.bbx.from_ start.toNat max.toNat false
    (s.onBbx fun b => b.markRead l).say (.bbx (l.map fun r => { r with read := true })))
def execPldmMonitoring (s : State) : Out :=
  .next (s.aon fun s => s.say (.monitoring s.pwr.mv s.pwr.mw s.pwr.tJ s.pwr.tS s.pwr.tP s.pwr.tC))
def execPldmFru (s : State) : Out := .next (s.aon fun s => s.say (.fru (Config.variantCode s.ident.variant) s.ident.coldPlate s.ident.serial))
/-- PLDM_FIRMWARE_UPDATE: taken in recovery mode alone, and verified under R411. -/
def execPldmFirmwareUpdate (image : Bytes) (s : State) : Out :=
  woken (s.aon fun s =>
    if !s.boot.recovery then s.say .fwRejected
    else match s.stage image with
      | .inr t => t.say .fwAccepted
      | .inl _ => s.say .fwRejected)

/-! ## The DOE mailbox: SPDM 1.3 and 1.2 (R420, R421) -/

/-- A request over the PF's mailbox is served while the link is up. -/
def State.doe (s : State) (f : State → State) : State := if s.porch.linkUp && s.dom 1 == .on && s.dom 4 == .on then f s else s
/-- A signature over a transcript the model does not build: its digest is free. -/
def State.signFree (s : State) : BitVec 512 × State :=
  let (d, s) := s.fresh
  let (n, s) := s.fresh
  (Config.sm2Sign (BitVec.ofNat 256 d) n, s)
def execSpdmGetVersion (s : State) : Out := .next (s.doe fun s => s.say (.version [0x12, 0x13]))
def execSpdmGetCapabilities (s : State) : Out := .next (s.doe fun s => s.say (.capabilities true true true))
def execSpdmNegotiateAlgorithms (s : State) : Out := .next (s.doe fun s => s.say (.algorithms true true))
def execSpdmGetDigests (s : State) : Out := .next (s.doe fun s => s.say (.digests (sm3 Config.certChain)))
def execSpdmGetCertificate (slot : Byte) (s : State) : Out := .next (s.doe fun s => s.say (if slot = 0 then .certificate 0 Config.certChain else .unsupported))
def execSpdmChallenge (slot : Byte) (nonce : BitVec 256) (s : State) : Out :=
  .next (s.doe fun s =>
    if slot ≠ 0 then s.say .unsupported
    else
      let (g, s) := s.signFree
      s.say (.challenge 0 nonce g))
/-- SPDM_GET_MEASUREMENTS: one index of Table 17.6, or all of them (index 0xFF). -/
def execSpdmGetMeasurements (index : Byte) (nonce : BitVec 256) (s : State) : Out :=
  .next (s.doe fun s =>
    let l := if index = 0xFF then [1, 2, 3, 4, 5, 6] else if 1 ≤ index.toNat && index.toNat ≤ 6 then [index.toNat] else []
    if l.isEmpty && index ≠ 0 then s.say .unsupported
    else
      let (g, s) := s.signFree
      s.say (.measurements (l.map fun i => (i, s.measure i)) nonce g))
def execSpdmUnsupportedRequest (_code : Byte) (s : State) : Out := .next (s.doe fun s => s.say .unsupported)

end Sys2Proof.Machine
end

