-- ==== Sys2Proof/Machine/RegRows.lean ====
section
/-! DEFINITION. Register rows: writes and reads of the registers through BAR0, by their access codes (R17, R300). Table 12.4 and Table 12.5 place them.
The commands act only while the host reaches the function's BARs; reserved bits of a write are dropped (Table 0.6). -/

namespace Sys2Proof.Machine

/-- The physical function. -/
def pf : Fn := 0
/-- A write that the PF's BAR0 takes: nothing happens while the host does not reach it. -/
def State.pfWrite (s : State) (f : State → State) : State := if s.reaches pf then f s else s
/-- A value with the bits of `mask` alone. -/
def keep (v : W32) (mask : Nat) : W32 := v &&& BitVec.ofNat 32 mask
/-- The nearer limit of lo to hi. -/
def clamp (v lo hi : Nat) : Nat := min hi (max lo v)

/-! ## Writes -/

/-- `PWR_DROOP_CFG` (Table 2.7): ignored once LOCK is set; THRESH 0xF is not taken. -/
def droopNext (old v : W32) : W32 :=
  if old.getLsbD 4 then old
  else if bits v.toNat 3 0 = 15 then keep v 0x10 ||| keep old 0xF else keep v 0x1F
def State.writeDroop (s : State) (v : W32) : State := s.onPwr fun w => { w with droopCfg := droopNext w.droopCfg v }
/-- `MEM_PAGER_CFGnn` (Table 5.7, R123): in force at the partition's next boundary, at once where it stands at one. -/
def State.writePager (s : State) (p : Nat) (v : W32) : State := (s.onPart p fun x => { x with pagerNew := some (keep v 0xFFFFFF07) }).settle
/-- `SCH_SCHED_CFGnn` (Table 9.5, R232). -/
def State.writeSched (s : State) (p : Nat) (v : W32) : State := (s.onPart p fun x => { x with schedNew := some v }).settle
/-- `RET_HOT_CFG` (Table 6.9, R170). -/
def State.writeRetHot (s : State) (v : W32) : State := s.onRet fun r => { r with hotCfg := keep v 0x1FFFF }
/-- `TBL_HOT_CFG` (Table 7.3, R184). -/
def State.writeTblHot (s : State) (v : W32) : State := s.onTbl fun t => { t with hotCfg := keep v 0x1FFFF }
/-- `CEL_GC_CFG` and `CEL_MAINT_CFG` (Tables 11.8 and 11.9, R296): each decision reads the register. -/
def State.writeGc (s : State) (v : W32) : State := s.onCel fun c => { c with gcCfg := v }
def State.writeMaint (s : State) (v : W32) : State := s.onCel fun c => { c with maintCfg := v }
/-- `FAB_SHARD_GRPnn` (Table 14.10, R356): in force after the next routing update. -/
def State.writeGroup (s : State) (i : Nat) (v : W32) : State := s.onFab fun b => { b with groups := KMap.setD b.groups i 0 (keep v 0x10FFF) }
/-- `BBX_TIME_LO` and `BBX_TIME_HI` (Table 15.17, R379): a write of HI takes effect as the pair and restarts AON. -/
def State.writeTimeLo (s : State) (v : W32) : State := s.onBbx fun b => { b with timeLo := v }
def State.writeTimeHi (s : State) (v : W32) : State := s.onBbx fun b => { b with timeHi := v, hostTime := v ++ b.timeLo, aonCycles := 0 }
/-- `PWR_CAP_CFG` and `PWR_THERM_CFG` (R396, R397), held at the nearer limit; the next sample reads them. -/
def State.writeCap (s : State) (v : W32) : State := s.onPwr fun w => { w with capCfg := BitVec.ofNat 32 (clamp (bits v.toNat 9 0) 600 900) }
def State.writeTherm (s : State) (v : W32) : State := s.onPwr fun w => { w with thermCfg := BitVec.ofNat 32 (clamp (bits v.toNat 7 0) 80 100) }
/-- `SEC_IMG_POLICY` and the key slots (Tables 17.11 and 17.12): ignored once LOCK is set. -/
def Boot.locked (b : Boot) : Bool := b.imgPolicy.getLsbD 17
def State.writePolicy (s : State) (v : W32) : State := s.onBoot fun b => if b.locked then b else { b with imgPolicy := keep v 0x3FFFF }
def State.writeKey (s : State) (i : Nat) (v : W32) : State := s.onBoot fun b => if b.locked then b else { b with keys := KMap.setD b.keys i 0 v }

/-! ## Counters a 1 clears -/

/-- What a W1C count becomes: a 1 in any bit clears the whole field. -/
def clearOn {n : Nat} (v : W32) (old : BitVec n) : BitVec n := if v = 0 then old else 0
def State.clearOvr (s : State) (i : Nat) (v : W32) : State := s.onIndex i fun x => { x with overruns := clearOn v x.overruns }
def State.clearWait (s : State) (v : W32) : State := s.onTbl fun t => { t with reclaimWait := clearOn v t.reclaimWait }
def State.clearAnom (s : State) (v : W32) : State := s.onSch fun c => { c with sampleAnom := clearOn v c.sampleAnom }
def State.clearUncorr (s : State) (v : W32) : State := s.onCel fun c => { c with uncorr := clearOn v c.uncorr }
/-- LOST of `BBX_SEALED` (Table 15.16): bits [31:16] of the write. -/
def State.clearLost (s : State) (v : W32) : State := s.onBbx fun b => { b with lost := clearOn (keep v 0xFFFF0000) b.lost }

/-! ## Reads that latch a high word (Tables 6.6, 9.8, 15.15) -/

def lowWord (v : W64) : W32 := v.setWidth 32
def highWord (v : W64) : W32 := (v >>> 32).setWidth 32
def State.returns (s : State) (v : W32) : State := s.onPorch fun p => { p with readData := v.setWidth 64 }
def State.readSeqLo (s : State) (i : Nat) : State :=
  match s.index? i with
  | some x => (s.onIndex i fun x => { x with seqHiLatch := highWord x.seq }).returns (lowWord x.seq)
  | none => s.returns 0
def State.readStepLo (s : State) (p : Nat) : State := (s.onPart p fun x => { x with stepHiLatch := highWord x.lastStep }).returns (lowWord (s.part p).lastStep)
def State.readBbxLo (s : State) : State := (s.onBbx fun b => { b with seqHiLatch := highWord b.nextSeq }).returns (lowWord s.bbx.nextSeq)
/-- A read the host cannot reach returns all ones (DEDUCED from R300: as reserved space reads). -/
def State.pfRead (s : State) (f : State → State) : State := if s.reaches pf then f s else s.returns 0xFFFFFFFF

/-! ## REG_WRITE: a write by offset -/

/-- The queue-pair registers of a function (Tables 12.8 to 12.11). The bases are ignored while EN is 1. -/
def State.writeQp (s : State) (fn : Fn) (qp : QpNo) (off : Nat) (v : W32) : State :=
  let k := qpKey fn qp
  let base := fun (f : Qp → Qp) => s.onQp k fun q => if q.en then q else f q
  let lo := fun (old : W64) => highWord old ++ v
  let hi := fun (old : W64) => v ++ lowWord old
  match off with
  | 0x00 => base fun q => { q with sqb := lo q.sqb }
  | 0x04 => base fun q => { q with sqb := hi q.sqb }
  | 0x08 => base fun q => { q with cqb := lo q.cqb }
  | 0x0C => base fun q => { q with cqb := hi q.cqb }
  | 0x10 => base fun q => { q with orb := lo q.orb }
  | 0x14 => base fun q => { q with orb := hi q.orb }
  | 0x18 => if v.getLsbD 31 then s.enableQp fn qp v else s.disableQp fn qp v
  | 0x1C => s.onQp k fun q =>
      { q with orVec := BitVec.ofNat 8 (bits v.toNat 23 16), cqVec := BitVec.ofNat 8 (bits v.toNat 15 8), orCoal := BitVec.ofNat 4 (bits v.toNat 7 4),
               cqCoal := BitVec.ofNat 4 (bits v.toNat 3 0) }
  | 0x20 => s.onQp k fun q =>
      { q with orSpill := q.orSpill && !v.getLsbD 4, badCfg := q.badCfg && !v.getLsbD 3, badDb := q.badDb && !v.getLsbD 2, badDma := q.badDma && !v.getLsbD 1 }
  | _ => s
/-- The GLB window of a function: its queue pairs, and LOCATE of the PF's `GLB_SERVICE` (Table 18.9). -/
def State.writeGlb (s : State) (fn : Fn) (off : Nat) (v : W32) : State :=
  if off = 0xC && fn = 0 then s.onSvc fun x => { x with locate := v.getLsbD 5 }
  else if h : 0x10000 ≤ off ∧ off < 0x11000 then s.writeQp fn ⟨(off - 0x10000) / 0x40, by omega⟩ ((off - 0x10000) % 0x40) v
  else s
/-- The first of a list of (base, instances, write) that an offset lies in; any other register is read-only or reserved. -/
def routeWrite (s : State) (off : Nat) : List (Nat × Nat × (Nat → State)) → State
  | [] => s
  | (b, n, f) :: l => match inst off b n with | some i => f i | none => routeWrite s off l
/-- An aligned 32-bit write at an offset of the PF's BAR0 (Table 12.4). -/
def State.writePf (s : State) (off : Nat) (v : W32) : State :=
  if off < 0x100000 then s.writeGlb pf off v
  else routeWrite s off
    [(0x100000, 1, fun _ => s.writeDroop v), (0x100300, 1, fun _ => s.writeCap v), (0x100308, 1, fun _ => s.writeTherm v),
     (0x300140, 16, fun i => s.writeSched i v), (0x400100, 16, fun i => s.writePager i v), (0x500200, 64, fun i => s.clearOvr i v),
     (0x500308, 1, fun _ => s.writeRetHot v), (0x600000, 1, fun _ => s.writeTblHot v), (0x600004, 1, fun _ => s.clearWait v),
     (0x70000C, 1, fun _ => s.clearAnom v), (0x800004, 1, fun _ => s.writeGc v), (0x800008, 1, fun _ => s.writeMaint v),
     (0x80000C, 1, fun _ => s.clearUncorr v),
     (0x900100, 8, fun i => s.onPort i fun p => { p with authFail := p.authFail && !v.getLsbD 4 }), (0x900200, 64, fun i => s.writeGroup i v),
     (0xB00008, 1, fun _ => s.writePolicy v), (0xB01000, 256, fun i => s.writeKey i v), (0xC00008, 1, fun _ => s.clearLost v),
     (0xC00010, 1, fun _ => s.writeTimeLo v), (0xC00014, 1, fun _ => s.writeTimeHi v)]
/-- A register write of any form (R300): only an aligned 32-bit one is taken. `width` counts bits. -/
def State.regWriteAt (s : State) (fn : Fn) (off width : Nat) (v : W32) : State :=
  if !s.reaches fn || off % 4 ≠ 0 || width ≠ 32 then s
  else if fn = pf then s.writePf off v
  else if off < 0x100000 then s.writeGlb fn off v
  else s

/-! ## Rows -/

def execPwrDroopCfgWrite (v : W32) (s : State) : Out := .next (s.pfWrite fun s => s.writeDroop v)
def execMemPagerCfgWrite (part : PartNo) (v : W32) (s : State) : Out := woken (s.pfWrite fun s => s.writePager part.val v)
def execSchSchedCfgWrite (part : PartNo) (v : W32) (s : State) : Out := woken (s.pfWrite fun s => s.writeSched part.val v)
def execRetHotCfgWrite (v : W32) (s : State) : Out := .next (s.pfWrite fun s => s.writeRetHot v)
def execTblHotCfgWrite (v : W32) (s : State) : Out := .next (s.pfWrite fun s => s.writeTblHot v)
def execCelGcCfgWrite (v : W32) (s : State) : Out := .next (s.pfWrite fun s => s.writeGc v)
def execCelMaintCfgWrite (v : W32) (s : State) : Out := .next (s.pfWrite fun s => s.writeMaint v)
def execFabShardGrpWrite (index : IndexNo) (v : W32) (s : State) : Out := .next (s.pfWrite fun s => s.writeGroup index.val v)
def execBbxTimeHiWrite (v : W32) (s : State) : Out := .next (s.pfWrite fun s => s.writeTimeHi v)
def execPwrCapCfgWrite (v : W32) (s : State) : Out := .next (s.pfWrite fun s => s.writeCap v)
def execPwrThermCfgWrite (v : W32) (s : State) : Out := .next (s.pfWrite fun s => s.writeTherm v)
def execSecImgPolicyWrite (v : W32) (s : State) : Out := .next (s.pfWrite fun s => s.writePolicy v)
def execSecImgKeyWrite (slot : Fin 16) (word : Fin 16) (v : W32) (s : State) : Out := .next (s.pfWrite fun s => s.writeKey (16 * slot.val + word.val) v)
def execRetOvrClear (index : IndexNo) (v : W32) (s : State) : Out := .next (s.pfWrite fun s => s.clearOvr index.val v)
def execTblReclaimWaitClear (v : W32) (s : State) : Out := .next (s.pfWrite fun s => s.clearWait v)
def execTxtSampleAnomClear (v : W32) (s : State) : Out := .next (s.pfWrite fun s => s.clearAnom v)
def execCelUncorrClear (v : W32) (s : State) : Out := .next (s.pfWrite fun s => s.clearUncorr v)
def execBbxSealedLostClear (v : W32) (s : State) : Out := .next (s.pfWrite fun s => s.clearLost v)
def execRetSeqLoRead (index : IndexNo) (s : State) : Out := .next (s.pfRead fun s => s.readSeqLo index.val)
def execSchStepLoRead (part : PartNo) (s : State) : Out := .next (s.pfRead fun s => s.readStepLo part.val)
def execBbxSeqLoRead (s : State) : Out := .next (s.pfRead State.readBbxLo)
def execRegWrite (fn : Fn) (offset : W32) (width : BitVec 8) (v : W64) (s : State) : Out := woken (s.regWriteAt fn offset.toNat width.toNat (v.setWidth 32))

end Sys2Proof.Machine
end

