-- ==== Sys2Proof/Machine/Dispatch.lean ====
section
/-! DEFINITION. One arm per row of the table: the meaning each command has. -/

namespace Sys2Proof.Machine

def exec (i : Instr) (s : State) : Host.Outcome State Fault Refusal :=
  match i with
  | .sqTailDoorbell fn qp v => Sys2Proof.Machine.execSqTailDoorbell fn qp v s
  | .cqHeadDoorbell fn qp v => Sys2Proof.Machine.execCqHeadDoorbell fn qp v s
  | .orHeadDoorbell fn qp v => Sys2Proof.Machine.execOrHeadDoorbell fn qp v s
  | .qpEnable fn qp v => Sys2Proof.Machine.execQpEnable fn qp v s
  | .qpDisable fn qp v => Sys2Proof.Machine.execQpDisable fn qp v s
  | .qpDrainEnd fn qp => Sys2Proof.Machine.execQpDrainEnd fn qp s
  | .ringDmaFailure fn qp => Sys2Proof.Machine.execRingDmaFailure fn qp s
  | .commandFetch fn qp => Sys2Proof.Machine.execCommandFetch fn qp s
  | .functionLevelReset fn => Sys2Proof.Machine.execFunctionLevelReset fn s
  | .linkLoss => Sys2Proof.Machine.execLinkLoss s
  | .perstAssert => Sys2Proof.Machine.execPerstAssert s
  | .resetRelease romOk readable buttonHeld => Sys2Proof.Machine.execResetRelease romOk readable buttonHeld s
  | .bootStepEnd ok units aon => Sys2Proof.Machine.execBootStepEnd ok units aon s
  | .identify h pb => Sys2Proof.Machine.execIdentify h pb s
  | .tenantLoad h pb => Sys2Proof.Machine.execTenantLoad h pb s
  | .tenantUnload h pb => Sys2Proof.Machine.execTenantUnload h pb s
  | .baseUnload h pb => Sys2Proof.Machine.execBaseUnload h pb s
  | .baseLoad h pb => Sys2Proof.Machine.execBaseLoad h pb s
  | .tenantInfo h pb => Sys2Proof.Machine.execTenantInfo h pb s
  | .ask h pb => Sys2Proof.Machine.execAsk h pb s
  | .generate h pb => Sys2Proof.Machine.execGenerate h pb s
  | .embed h pb => Sys2Proof.Machine.execEmbed h pb s
  | .search h pb => Sys2Proof.Machine.execSearch h pb s
  | .rerank h pb => Sys2Proof.Machine.execRerank h pb s
  | .cancel h pb => Sys2Proof.Machine.execCancel h pb s
  | .step h pb => Sys2Proof.Machine.execStep h pb s
  | .indexCreate h pb => Sys2Proof.Machine.execIndexCreate h pb s
  | .indexModify h pb => Sys2Proof.Machine.execIndexModify h pb s
  | .indexDestroy h pb => Sys2Proof.Machine.execIndexDestroy h pb s
  | .indexInsert h pb => Sys2Proof.Machine.execIndexInsert h pb s
  | .indexDelete h pb => Sys2Proof.Machine.execIndexDelete h pb s
  | .indexMerge h pb => Sys2Proof.Machine.execIndexMerge h pb s
  | .indexInfo h pb => Sys2Proof.Machine.execIndexInfo h pb s
  | .indexLoad h pb => Sys2Proof.Machine.execIndexLoad h pb s
  | .passageGet h pb => Sys2Proof.Machine.execPassageGet h pb s
  | .tableCreate h pb => Sys2Proof.Machine.execTableCreate h pb s
  | .tableDestroy h pb => Sys2Proof.Machine.execTableDestroy h pb s
  | .tableWrite h pb => Sys2Proof.Machine.execTableWrite h pb s
  | .tableGather h pb => Sys2Proof.Machine.execTableGather h pb s
  | .tableInfo h pb => Sys2Proof.Machine.execTableInfo h pb s
  | .vocabLoad h pb => Sys2Proof.Machine.execVocabLoad h pb s
  | .vocabUnload h pb => Sys2Proof.Machine.execVocabUnload h pb s
  | .grammarLoad h pb => Sys2Proof.Machine.execGrammarLoad h pb s
  | .grammarUnload h pb => Sys2Proof.Machine.execGrammarUnload h pb s
  | .tokenize h pb => Sys2Proof.Machine.execTokenize h pb s
  | .detokenize h pb => Sys2Proof.Machine.execDetokenize h pb s
  | .partSet h pb => Sys2Proof.Machine.execPartSet h pb s
  | .partStats h pb => Sys2Proof.Machine.execPartStats h pb s
  | .partRegulate h pb => Sys2Proof.Machine.execPartRegulate h pb s
  | .selftest h pb => Sys2Proof.Machine.execSelftest h pb s
  | .selftestPieceEnd pass engine isCol line => Sys2Proof.Machine.execSelftestPieceEnd pass engine isCol line s
  | .calibrate h pb => Sys2Proof.Machine.execCalibrate h pb s
  | .maintPolicy h pb => Sys2Proof.Machine.execMaintPolicy h pb s
  | .evacuate h pb => Sys2Proof.Machine.execEvacuate h pb s
  | .fabStatus h pb => Sys2Proof.Machine.execFabStatus h pb s
  | .fabLeaseAcquire h pb => Sys2Proof.Machine.execFabLeaseAcquire h pb s
  | .fabLeaseRelease h pb => Sys2Proof.Machine.execFabLeaseRelease h pb s
  | .fabLeaseOffer h pb => Sys2Proof.Machine.execFabLeaseOffer h pb s
  | .fabLeaseWithdraw h pb => Sys2Proof.Machine.execFabLeaseWithdraw h pb s
  | .fabBuddy h pb => Sys2Proof.Machine.execFabBuddy h pb s
  | .fwStage h pb => Sys2Proof.Machine.execFwStage h pb s
  | .fwCommit h pb => Sys2Proof.Machine.execFwCommit h pb s
  | .attest h pb => Sys2Proof.Machine.execAttest h pb s
  | .bbxRead h pb => Sys2Proof.Machine.execBbxRead h pb s
  | .bbxAck h pb => Sys2Proof.Machine.execBbxAck h pb s
  | .sensors h pb => Sys2Proof.Machine.execSensors h pb s
  | .acctRead h pb => Sys2Proof.Machine.execAcctRead h pb s
  | .acctReadClear h pb => Sys2Proof.Machine.execAcctReadClear h pb s
  | .scanPlanDispatch ctrl => Sys2Proof.Machine.execScanPlanDispatch ctrl s
  | .scanPageScored adm ctrl page readable => Sys2Proof.Machine.execScanPageScored adm ctrl page readable s
  | .passageFetchDone slot readable => Sys2Proof.Machine.execPassageFetchDone slot readable s
  | .mutationPublish index => Sys2Proof.Machine.execMutationPublish index s
  | .mergeCommit index bucket => Sys2Proof.Machine.execMergeCommit index bucket s
  | .generationRetire index bucket => Sys2Proof.Machine.execGenerationRetire index bucket s
  | .hotReplicaCommit index bucket => Sys2Proof.Machine.execHotReplicaCommit index bucket s
  | .launchStart part => Sys2Proof.Machine.execLaunchStart part s
  | .launchEnd part cycles outs => Sys2Proof.Machine.execLaunchEnd part cycles outs s
  | .grammarMaskReady slot => Sys2Proof.Machine.execGrammarMaskReady slot s
  | .layerLanded part place crcOk => Sys2Proof.Machine.execLayerLanded part place crcOk s
  | .pagerTransferDone part => Sys2Proof.Machine.execPagerTransferDone part s
  | .regulatedTransferStart part res => Sys2Proof.Machine.execRegulatedTransferStart part res s
  | .slowdownWindowClose part obs int => Sys2Proof.Machine.execSlowdownWindowClose part obs int s
  | .preemptSave core => Sys2Proof.Machine.execPreemptSave core s
  | .preemptWatchdog core => Sys2Proof.Machine.execPreemptWatchdog core s
  | .sequencerWatchdog core => Sys2Proof.Machine.execSequencerWatchdog core s
  | .xferCopy core w => Sys2Proof.Machine.execXferCopy core w s
  | .xferDecompress core w => Sys2Proof.Machine.execXferDecompress core w s
  | .xferZeroFill core w => Sys2Proof.Machine.execXferZeroFill core w s
  | .xferComplete core => Sys2Proof.Machine.execXferComplete core s
  | .mmaPass core w => Sys2Proof.Machine.execMmaPass core w s
  | .activityDecay core engine => Sys2Proof.Machine.execActivityDecay core engine s
  | .sfuFused core w => Sys2Proof.Machine.execSfuFused core w s
  | .sfuStatsFirst core w => Sys2Proof.Machine.execSfuStatsFirst core w s
  | .sfuStatsFeed core w => Sys2Proof.Machine.execSfuStatsFeed core w s
  | .sfuStatsFinish core w => Sys2Proof.Machine.execSfuStatsFinish core w s
  | .vecAdd core w => Sys2Proof.Machine.execVecAdd core w s
  | .vecSubtract core w => Sys2Proof.Machine.execVecSubtract core w s
  | .vecMultiply core w => Sys2Proof.Machine.execVecMultiply core w s
  | .vecMaximum core w => Sys2Proof.Machine.execVecMaximum core w s
  | .vecMinimum core w => Sys2Proof.Machine.execVecMinimum core w s
  | .vecConvert core w => Sys2Proof.Machine.execVecConvert core w s
  | .vecAbsolute core w => Sys2Proof.Machine.execVecAbsolute core w s
  | .vecSelect core w => Sys2Proof.Machine.execVecSelect core w s
  | .selPass core w => Sys2Proof.Machine.execSelPass core w s
  | .selMerge core w => Sys2Proof.Machine.execSelMerge core w s
  | .syncSignal core w => Sys2Proof.Machine.execSyncSignal core w s
  | .signalTakeEffect core => Sys2Proof.Machine.execSignalTakeEffect core s
  | .syncWait core w => Sys2Proof.Machine.execSyncWait core w s
  | .syncBarrier core w => Sys2Proof.Machine.execSyncBarrier core w s
  | .syncFence core w => Sys2Proof.Machine.execSyncFence core w s
  | .nop core w => Sys2Proof.Machine.execNop core w s
  | .loadi core w => Sys2Proof.Machine.execLoadi core w s
  | .loadp core w => Sys2Proof.Machine.execLoadp core w s
  | .addi core w => Sys2Proof.Machine.execAddi core w s
  | .ctrlAdd core w => Sys2Proof.Machine.execCtrlAdd core w s
  | .muli core w => Sys2Proof.Machine.execMuli core w s
  | .loop core w => Sys2Proof.Machine.execLoop core w s
  | .loopr core w => Sys2Proof.Machine.execLoopr core w s
  | .branch core w => Sys2Proof.Machine.execBranch core w s
  | .setseg core w => Sys2Proof.Machine.execSetseg core w s
  | .endProgram core w => Sys2Proof.Machine.execEndProgram core w s
  | .mark core w => Sys2Proof.Machine.execMark core w s
  | .droopStretch core => Sys2Proof.Machine.execDroopStretch core s
  | .stretchExit core => Sys2Proof.Machine.execStretchExit core s
  | .gatherComplete gid => Sys2Proof.Machine.execGatherComplete gid s
  | .countHalving table => Sys2Proof.Machine.execCountHalving table s
  | .writeEntryApply table => Sys2Proof.Machine.execWriteEntryApply table s
  | .flashOpComplete die r => Sys2Proof.Machine.execFlashOpComplete die r s
  | .patrolRead die => Sys2Proof.Machine.execPatrolRead die s
  | .activityClaim aid => Sys2Proof.Machine.execActivityClaim aid s
  | .blockErase die block => Sys2Proof.Machine.execBlockErase die block s
  | .dieFail die => Sys2Proof.Machine.execDieFail die s
  | .controllerLost ctrl => Sys2Proof.Machine.execControllerLost ctrl s
  | .faultCorrected f => Sys2Proof.Machine.execFaultCorrected f s
  | .faultStep f => Sys2Proof.Machine.execFaultStep f s
  | .faultPage f => Sys2Proof.Machine.execFaultPage f s
  | .faultFront f => Sys2Proof.Machine.execFaultFront f s
  | .faultBeyondSparing f => Sys2Proof.Machine.execFaultBeyondSparing f s
  | .hbmParityRebuildDone stack => Sys2Proof.Machine.execHbmParityRebuildDone stack s
  | .powerSample mv mw => Sys2Proof.Machine.execPowerSample mv mw s
  | .phaseFail phase => Sys2Proof.Machine.execPhaseFail phase s
  | .thermalSample junctions hbm packages => Sys2Proof.Machine.execThermalSample junctions hbm packages s
  | .thermalHoldExpiry => Sys2Proof.Machine.execThermalHoldExpiry s
  | .modEnAssert => Sys2Proof.Machine.execModEnAssert s
  | .modEnDeassert => Sys2Proof.Machine.execModEnDeassert s
  | .domainSleep dom => Sys2Proof.Machine.execDomainSleep dom s
  | .domainWakeDone dom => Sys2Proof.Machine.execDomainWakeDone dom s
  | .pllLock core => Sys2Proof.Machine.execPllLock core s
  | .inrushWindow ramp => Sys2Proof.Machine.execInrushWindow ramp s
  | .portUp port peer serial => Sys2Proof.Machine.execPortUp port peer serial s
  | .linkAuthDone port ok digest => Sys2Proof.Machine.execLinkAuthDone port ok digest s
  | .laneFail lane reason => Sys2Proof.Machine.execLaneFail lane reason s
  | .flitReceive port flit => Sys2Proof.Machine.execFlitReceive port flit s
  | .nakReceive port ack => Sys2Proof.Machine.execNakReceive port ack s
  | .addressProbe port cand serial => Sys2Proof.Machine.execAddressProbe port cand serial s
  | .addressProbeTimeout => Sys2Proof.Machine.execAddressProbeTimeout s
  | .routingUpdate port routes groups => Sys2Proof.Machine.execRoutingUpdate port routes groups s
  | .routeAdvertiseTimer => Sys2Proof.Machine.execRouteAdvertiseTimer s
  | .routeExpire dest => Sys2Proof.Machine.execRouteExpire dest s
  | .peerDownNotice reporter lost electricalIdle => Sys2Proof.Machine.execPeerDownNotice reporter lost electricalIdle s
  | .departingNotice src => Sys2Proof.Machine.execDepartingNotice src s
  | .messageRetryTimeout dest cls msgId => Sys2Proof.Machine.execMessageRetryTimeout dest cls msgId s
  | .remoteMemoryRead m offset units => Sys2Proof.Machine.execRemoteMemoryRead m offset units s
  | .remoteMemoryWrite m offset data => Sys2Proof.Machine.execRemoteMemoryWrite m offset data s
  | .leaseOfferMsg m gib => Sys2Proof.Machine.execLeaseOfferMsg m gib s
  | .leaseGrantMsg m gib => Sys2Proof.Machine.execLeaseGrantMsg m gib s
  | .leaseWithdrawalNotice m => Sys2Proof.Machine.execLeaseWithdrawalNotice m s
  | .leaseReleaseMsg m => Sys2Proof.Machine.execLeaseReleaseMsg m s
  | .gatherRequestMsg m ownerPools pool indices bags => Sys2Proof.Machine.execGatherRequestMsg m ownerPools pool indices bags s
  | .gatherReplyMsg m shard rows sums => Sys2Proof.Machine.execGatherReplyMsg m shard rows sums s
  | .tableUpdateMsg m entries => Sys2Proof.Machine.execTableUpdateMsg m entries s
  | .replicaRequestMsg m row => Sys2Proof.Machine.execReplicaRequestMsg m row s
  | .replicaInstallMsg m row values => Sys2Proof.Machine.execReplicaInstallMsg m row values s
  | .replicaDiscardMsg m row => Sys2Proof.Machine.execReplicaDiscardMsg m row s
  | .shardSearchMsg m query k p w filter => Sys2Proof.Machine.execShardSearchMsg m query k p w filter s
  | .shardSearchReply m cands rounds snapshot => Sys2Proof.Machine.execShardSearchReply m cands rounds snapshot s
  | .textFetchMsg m id version text => Sys2Proof.Machine.execTextFetchMsg m id version text s
  | .holdReleaseMsg m => Sys2Proof.Machine.execHoldReleaseMsg m s
  | .mirrorOpen m d => Sys2Proof.Machine.execMirrorOpen m d s
  | .mirrorUpdate m tokens bytes => Sys2Proof.Machine.execMirrorUpdate m tokens bytes s
  | .mirrorClose m => Sys2Proof.Machine.execMirrorClose m s
  | .migrationMsg m d => Sys2Proof.Machine.execMigrationMsg m d s
  | .serviceButtonPress ms => Sys2Proof.Machine.execServiceButtonPress ms s
  | .removalComplete => Sys2Proof.Machine.execRemovalComplete s
  | .latchOpen => Sys2Proof.Machine.execLatchOpen s
  | .latchClose => Sys2Proof.Machine.execLatchClose s
  | .alertResponseRead => Sys2Proof.Machine.execAlertResponseRead s
  | .mctpBbxRead start max => Sys2Proof.Machine.execMctpBbxRead start max s
  | .pldmMonitoring => Sys2Proof.Machine.execPldmMonitoring s
  | .pldmFru => Sys2Proof.Machine.execPldmFru s
  | .pldmFirmwareUpdate image => Sys2Proof.Machine.execPldmFirmwareUpdate image s
  | .spdmGetVersion => Sys2Proof.Machine.execSpdmGetVersion s
  | .spdmGetCapabilities => Sys2Proof.Machine.execSpdmGetCapabilities s
  | .spdmNegotiateAlgorithms => Sys2Proof.Machine.execSpdmNegotiateAlgorithms s
  | .spdmGetDigests => Sys2Proof.Machine.execSpdmGetDigests s
  | .spdmGetCertificate slot => Sys2Proof.Machine.execSpdmGetCertificate slot s
  | .spdmChallenge slot nonce => Sys2Proof.Machine.execSpdmChallenge slot nonce s
  | .spdmGetMeasurements index nonce => Sys2Proof.Machine.execSpdmGetMeasurements index nonce s
  | .spdmUnsupportedRequest code => Sys2Proof.Machine.execSpdmUnsupportedRequest code s
  | .pwrDroopCfgWrite v => Sys2Proof.Machine.execPwrDroopCfgWrite v s
  | .memPagerCfgWrite part v => Sys2Proof.Machine.execMemPagerCfgWrite part v s
  | .schSchedCfgWrite part v => Sys2Proof.Machine.execSchSchedCfgWrite part v s
  | .retHotCfgWrite v => Sys2Proof.Machine.execRetHotCfgWrite v s
  | .tblHotCfgWrite v => Sys2Proof.Machine.execTblHotCfgWrite v s
  | .celGcCfgWrite v => Sys2Proof.Machine.execCelGcCfgWrite v s
  | .celMaintCfgWrite v => Sys2Proof.Machine.execCelMaintCfgWrite v s
  | .fabShardGrpWrite index v => Sys2Proof.Machine.execFabShardGrpWrite index v s
  | .bbxTimeHiWrite v => Sys2Proof.Machine.execBbxTimeHiWrite v s
  | .pwrCapCfgWrite v => Sys2Proof.Machine.execPwrCapCfgWrite v s
  | .pwrThermCfgWrite v => Sys2Proof.Machine.execPwrThermCfgWrite v s
  | .secImgPolicyWrite v => Sys2Proof.Machine.execSecImgPolicyWrite v s
  | .secImgKeyWrite slot word v => Sys2Proof.Machine.execSecImgKeyWrite slot word v s
  | .retOvrClear index v => Sys2Proof.Machine.execRetOvrClear index v s
  | .tblReclaimWaitClear v => Sys2Proof.Machine.execTblReclaimWaitClear v s
  | .txtSampleAnomClear v => Sys2Proof.Machine.execTxtSampleAnomClear v s
  | .celUncorrClear v => Sys2Proof.Machine.execCelUncorrClear v s
  | .bbxSealedLostClear v => Sys2Proof.Machine.execBbxSealedLostClear v s
  | .retSeqLoRead index => Sys2Proof.Machine.execRetSeqLoRead index s
  | .schStepLoRead part => Sys2Proof.Machine.execSchStepLoRead part s
  | .bbxSeqLoRead => Sys2Proof.Machine.execBbxSeqLoRead s
  | .regWrite fn offset width v => Sys2Proof.Machine.execRegWrite fn offset width v s
  | .powerOn mv => Sys2Proof.Machine.execPowerOn mv s
  | .alwaysOnPowerLoss => Sys2Proof.Machine.execAlwaysOnPowerLoss s
  | .configRequest vfs => Sys2Proof.Machine.execConfigRequest vfs s
  | .portRetrainDone port => Sys2Proof.Machine.execPortRetrainDone port s
  | .cellarChannelLost ctrl chan => Sys2Proof.Machine.execCellarChannelLost ctrl chan s
  | .tableUpdateAck m applied => Sys2Proof.Machine.execTableUpdateAck m applied s
  | .replicaInstallAck m row => Sys2Proof.Machine.execReplicaInstallAck m row s
  | .mirrorErrorReply m => Sys2Proof.Machine.execMirrorErrorReply m s
  | .passLastWrite core engine => Sys2Proof.Machine.execPassLastWrite core engine s
  | .sfuVecSelComplete core => Sys2Proof.Machine.execSfuVecSelComplete core s

end Sys2Proof.Machine
end

