-- ==== Sys2Proof/Safety.lean ====
section
/-! DEFINITION. What a safe run is, and what every command keeps. Every step answers a next state (the model has no fault; a refusal is a row without
a meaning); the rest is what claims about the whole machine speak of. -/

namespace Sys2Proof

/-- The outcome is a next state. -/
def Machine.Completes (o : Host.Outcome Machine.State Machine.Fault Machine.Refusal) : Prop := ∃ t, o = .next t

/-- The next `k` steps from `s` all answer a next state. -/
def Machine.SafeFor : Nat → Machine.State → Prop
  | 0, _ => True
  | k + 1, s => ∃ t, Machine.step s = .next t ∧ Machine.SafeFor k t

end Sys2Proof

namespace Sys2Proof.Machine

/-- The records of a run lie inside its output ring, none above an unread one, and its overflow store is within its size (R308, R310, R311). -/
def Qp.fits (q : Qp) : Prop := (q.active = true → q.orHead ≤ q.orTail ∧ q.orTail - q.orHead < q.runOr) ∧ q.overflow.length ≤ 32768
/-- The black box is within its ring, its count of sealed records is right, and at most 256 are sealed (R374, R376). -/
def Bbx.fits (b : Bbx) : Prop := b.recs.length ≤ 126976 ∧ b.sealedN = b.recs.countP BbxRec.sealed_ ∧ b.sealedN ≤ 256
/-- The steps of the clock that the cap, the temperature and the lost phases ask for are at most 8 each (R382, R394, R397). -/
def Pwr.bounded (w : Pwr) : Prop := w.cap ≤ 8 ∧ w.therm ≤ 8 ∧ w.floor ≤ 8
/-- The queue pairs' map is in canonical form and each is within its rings. -/
def State.ringsFit (s : State) : Prop := KMap.wf s.porch.qps = true ∧ ∀ x ∈ s.porch.qps, x.2.fits

/-- What lies between a state and one that operations of the block make from it: the queue of waiting commands and the identity are the same; the
memories keep their canonical form; a core fused out and a fused SVN never come back; the black box and the output rings stay within their sizes, and the clock's steps within 8. -/
structure Evolves (s t : State) : Prop where
  pending : t.pending = s.pending
  ident : t.ident = s.ident
  host : Mem.wf s.host = true → Mem.wf t.host = true
  bytes : Mem.wf s.mem.bytes = true → Mem.wf t.mem.bytes = true
  fuses : ∀ c, s.ras.fusedOut.getLsbD c = true → t.ras.fusedOut.getLsbD c = true
  svn : s.boot.svnFused ≤ t.boot.svnFused
  box : s.bbx.fits → t.bbx.fits
  rings : s.ringsFit → t.ringsFit
  power : s.pwr.bounded → t.pwr.bounded

/-- The invariant of the machine: memories in canonical form, the black box within its ring with at most 256 sealed records (R374, R376), and every
output ring within its size (R310, R311), and at most 8 steps of the clock asked for by each cause (R400). -/
def State.Inv (s : State) : Prop := Mem.wf s.host = true ∧ Mem.wf s.mem.bytes = true ∧ s.bbx.fits ∧ s.ringsFit ∧ s.pwr.bounded
/-- The outcome of `n` steps from `s`. -/
def stepsFrom : Nat → State → Host.Outcome State Fault Refusal
  | 0, s => .next s
  | n + 1, s => match step s with | .next t => stepsFrom n t | o => o

/-! ## Host commands: when a row's command runs -/

/-- The state once the porch has taken a command: it holds one entry of its completion ring (R307). -/
def State.taken (s : State) (h : Hdr) : State := s.onQp (qpKey h.fn h.qp) fun q => { q with inFlight := q.inFlight + 1 }
/-- The header as taken, with the run of its queue pair. -/
def State.stamped (s : State) (h : Hdr) : Hdr := { h with run := ((s.taken h).qp (qpKey h.fn h.qp)).runs }
/-- The porch takes the command now: its queue pair runs with room in its completion ring, and a BARRIER command has none before it (R302 to R307). -/
def State.takes (s : State) (h : Hdr) : Bool :=
  (s.qp (qpKey h.fn h.qp)).mayFetch && !s.departed && !(h.flags.getLsbD 1 && (s.qp (qpKey h.fn h.qp)).inFlight != 0)
/-- The command is taken and waits for no object (R319). -/
def State.admits (s : State) (op : Nat) (h : Hdr) (pb : Bytes) : Bool := s.takes h && !(s.taken h).mustWait op (s.stamped h) pb
/-- The command is admitted and every check of its list holds. -/
def State.clear (s : State) (op : Nat) (checks : State → Hdr → Bytes → List (Option Fail)) (h : Hdr) (pb : Bytes) : Bool :=
  s.admits op h pb && (firstFail (checks (s.taken h) (s.stamped h) pb)).isNone
/-- No command waits, no moved request waits for an entry of its delivery pair, and neither the retrieval nor the text domain sleeps: an event leaves
what it leaves and wakes nothing. -/
def State.calm (s : State) : Bool := s.porch.waiting.isEmpty && s.fab.resuming.isEmpty && s.dom 5 != .sleep && s.dom 6 != .sleep

/-- A row of the host commands: its constructor, its opcode (Table 13.3) and its checks. -/
structure HostRow where
  row : Hdr → Bytes → Instr
  op : Nat
  checks : State → Hdr → Bytes → List (Option Fail)
/-- Administration, requests, indexes. -/
def hostRowsA : List HostRow :=
  [⟨.identify, 0x0101, identifyChecks⟩, ⟨.tenantLoad, 0x0201, tenantLoadChecks⟩, ⟨.tenantUnload, 0x0202, tenantUnloadChecks⟩,
   ⟨.baseUnload, 0x0202, tenantUnloadChecks⟩, ⟨.baseLoad, 0x0203, baseLoadChecks⟩, ⟨.tenantInfo, 0x0204, tenantInfoChecks⟩,
   ⟨.ask, 0x0301, askChecks⟩, ⟨.generate, 0x0302, generateChecks⟩, ⟨.embed, 0x0303, embedChecks⟩, ⟨.search, 0x0304, searchChecks⟩,
   ⟨.rerank, 0x0305, rerankChecks⟩, ⟨.cancel, 0x0306, cancelChecks⟩, ⟨.step, 0x0307, stepChecks⟩,
   ⟨.indexCreate, 0x0401, indexCreateChecks⟩, ⟨.indexModify, 0x0401, indexCreateChecks⟩, ⟨.indexDestroy, 0x0401, indexCreateChecks⟩,
   ⟨.indexInsert, 0x0402, indexInsertChecks⟩, ⟨.indexDelete, 0x0403, indexDeleteChecks⟩, ⟨.indexMerge, 0x0404, indexMergeChecks⟩,
   ⟨.indexInfo, 0x0405, indexInfoChecks⟩, ⟨.indexLoad, 0x0406, indexLoadChecks⟩, ⟨.passageGet, 0x0407, passageGetChecks⟩]
/-- Tables, text, partitions. -/
def hostRowsB : List HostRow :=
  [⟨.tableCreate, 0x0501, tableCreateChecks⟩, ⟨.tableDestroy, 0x0501, tableCreateChecks⟩, ⟨.tableWrite, 0x0502, tableWriteChecks⟩,
   ⟨.tableGather, 0x0503, tableGatherChecks⟩, ⟨.tableInfo, 0x0504, tableInfoChecks⟩, ⟨.vocabLoad, 0x0601, vocabLoadChecks⟩,
   ⟨.vocabUnload, 0x0601, vocabLoadChecks⟩, ⟨.grammarLoad, 0x0602, grammarLoadChecks⟩, ⟨.grammarUnload, 0x0602, grammarLoadChecks⟩,
   ⟨.tokenize, 0x0603, tokenizeChecks⟩, ⟨.detokenize, 0x0604, detokenizeChecks⟩, ⟨.partSet, 0x0701, partSetChecks⟩,
   ⟨.partStats, 0x0702, partStatsChecks⟩, ⟨.partRegulate, 0x0703, partRegulateChecks⟩, ⟨.acctRead, 0x0B04, acctReadChecks⟩,
   ⟨.acctReadClear, 0x0B04, acctReadChecks⟩]
/-- Maintenance, fabric, firmware, records. -/
def hostRowsC : List HostRow :=
  [⟨.selftest, 0x0801, testChecks false⟩, ⟨.calibrate, 0x0802, testChecks true⟩, ⟨.maintPolicy, 0x0803, maintPolicyChecks⟩,
   ⟨.evacuate, 0x0804, evacuateChecks⟩, ⟨.fabStatus, 0x0901, fabStatusChecks⟩, ⟨.fabLeaseAcquire, 0x0902, fabLeaseChecks⟩,
   ⟨.fabLeaseRelease, 0x0902, fabLeaseChecks⟩, ⟨.fabLeaseOffer, 0x0902, fabLeaseChecks⟩, ⟨.fabLeaseWithdraw, 0x0902, fabLeaseChecks⟩,
   ⟨.fabBuddy, 0x0903, fabBuddyChecks⟩, ⟨.fwStage, 0x0A01, fwStageChecks⟩, ⟨.fwCommit, 0x0A02, fwCommitChecks⟩, ⟨.attest, 0x0A03, attestChecks⟩,
   ⟨.bbxRead, 0x0B01, bbxReadChecks⟩, ⟨.bbxAck, 0x0B02, bbxAckChecks⟩, ⟨.sensors, 0x0B03, sensorsChecks⟩]
/-- Every row of the host commands. -/
def hostRows : List HostRow := hostRowsA ++ hostRowsB ++ hostRowsC

/-! ## Core instructions -/

/-- A row of the core instructions: its constructor, and the class and operation of its encoding (Tables 4.1, 4.3 to 4.11). -/
structure CoreRow where
  row : CoreNo → Insn → Instr
  cls : Nat
  op : Nat
/-- Every row of the core instructions. -/
def coreRows : List CoreRow :=
  [⟨.xferCopy, 1, 0⟩, ⟨.xferDecompress, 1, 1⟩, ⟨.xferZeroFill, 1, 2⟩, ⟨.mmaPass, 2, 0⟩, ⟨.sfuFused, 3, 0⟩, ⟨.sfuStatsFeed, 3, 1⟩, ⟨.sfuStatsFinish, 3, 2⟩,
   ⟨.sfuStatsFirst, 3, 3⟩, ⟨.vecAdd, 4, 0⟩, ⟨.vecSubtract, 4, 1⟩, ⟨.vecMultiply, 4, 2⟩, ⟨.vecMaximum, 4, 3⟩, ⟨.vecMinimum, 4, 4⟩, ⟨.vecConvert, 4, 5⟩,
   ⟨.vecAbsolute, 4, 6⟩, ⟨.vecSelect, 4, 7⟩, ⟨.selPass, 5, 0⟩, ⟨.selMerge, 5, 1⟩, ⟨.syncSignal, 6, 0⟩, ⟨.syncWait, 6, 1⟩, ⟨.syncBarrier, 6, 2⟩, ⟨.syncFence, 6, 3⟩,
   ⟨.nop, 7, 0⟩, ⟨.loadi, 7, 1⟩, ⟨.loadp, 7, 2⟩, ⟨.addi, 7, 3⟩, ⟨.ctrlAdd, 7, 4⟩, ⟨.muli, 7, 5⟩, ⟨.loop, 7, 6⟩, ⟨.loopr, 7, 7⟩, ⟨.branch, 7, 8⟩, ⟨.setseg, 7, 9⟩,
   ⟨.endProgram, 7, 10⟩, ⟨.mark, 8, 0⟩]

end Sys2Proof.Machine
end

