-- ==== Sys2Proof/Certificates/Slice0/Obligations.lean ====
section
/-! DEFINITION. The statements for the provers: what the rules of the specification say of the block's commands. `woken` in an answer admits the commands that
the event freed and wakes the units that have work (R319, R385). -/

open Sys2Proof Sys2Proof.Machine

/-! ## The machine's step -/

/-- The command at the front of the queue is run on the state with the queue's rest (the package's rule for a block). -/
def Obligations.StepRunsTheFrontCommand : Prop :=
  ∀ (s : State) (c : Instr) (rest : List Instr), step { s with pending := c :: rest } = exec c { s with pending := rest }

/-- On an empty queue the block idles (the model's choice, log entry 1). No row of the table gives bits, so no word spells a command, and placing a word changes nothing. -/
def Obligations.EmptyQueueIdlesAndNoWordIsACommand : Prop :=
  (∀ s : State, s.pending = [] → step s = .next s) ∧ ∀ nbits w : Nat, decodeTableWord nbits w = none ∧ ∀ s : State, s.withFetchWord nbits w = s

/-- Every command, on every state, answers a next state with the queue as it was: none faults, none is refused, and none puts a command in the queue. -/
def Obligations.EveryCommandAnswers : Prop := ∀ (i : Instr) (s : State), ∃ t, exec i s = .next t ∧ t.pending = s.pending

/-- The invariant holds after reset. -/
def Obligations.ResetHasTheInvariant : Prop := State.reset.Inv

/-- Every step keeps the invariant, from every state that has it. -/
def Obligations.EveryStepKeepsTheInvariant : Prop := ∀ s t : State, s.Inv → step s = .next t → t.Inv

/-- Over any number of steps a core fused out stays fused out (R61), the SVN burned in fuses never goes down (R409), and what the module is (its variant, stepping, serial, slot and
cold plate) never changes. -/
def Obligations.FusesAndIdentityAreForGood : Prop :=
  ∀ (n : Nat) (s t : State), stepsFrom n s = .next t →
    s.boot.svnFused ≤ t.boot.svnFused ∧ (∀ c, s.ras.fusedOut.getLsbD c = true → t.ras.fusedOut.getLsbD c = true) ∧ t.ident = s.ident

/-! ## The porch: doorbells, queue pairs, resets -/

/-- A doorbell value below its ring's entry count that does not pass the device's tail moves its ring (R304): the submission tail, the completion head, or
the output head, which releases records and then lets the overflow store move and completions that waited for it be written (R311). The position modulo the
ring's size is the value written. -/
def Obligations.DoorbellsMoveTheirRings : Prop :=
  (∀ (s : State) (fn : Fn) (qp : QpNo) (v : W32), s.reaches fn = true → (s.qp (qpKey fn qp)).en = true → v.toNat < (s.qp (qpKey fn qp)).runSq →
    exec (.sqTailDoorbell fn qp v) s =
      .next (s.onQp (qpKey fn qp) fun q => { q with sqTail := q.sqTail + advanceTo q.sqTail v.toNat (s.qp (qpKey fn qp)).runSq }).woken)
  ∧ (∀ (s : State) (fn : Fn) (qp : QpNo) (v : W32), s.reaches fn = true → (s.qp (qpKey fn qp)).active = true → v.toNat < (s.qp (qpKey fn qp)).runCq →
    advanceTo (s.qp (qpKey fn qp)).cqHead v.toNat (s.qp (qpKey fn qp)).runCq ≤ (s.qp (qpKey fn qp)).cqTail - (s.qp (qpKey fn qp)).cqHead →
    exec (.cqHeadDoorbell fn qp v) s =
      .next (s.onQp (qpKey fn qp) fun q => { q with cqHead := q.cqHead + advanceTo q.cqHead v.toNat (s.qp (qpKey fn qp)).runCq }).woken)
  ∧ (∀ (s : State) (fn : Fn) (qp : QpNo) (v : W32), s.reaches fn = true → (s.qp (qpKey fn qp)).active = true → v.toNat < (s.qp (qpKey fn qp)).runOr →
    advanceTo (s.qp (qpKey fn qp)).orHead v.toNat (s.qp (qpKey fn qp)).runOr ≤ (s.qp (qpKey fn qp)).orTail - (s.qp (qpKey fn qp)).orHead →
    exec (.orHeadDoorbell fn qp v) s =
      .next ((((s.onQp (qpKey fn qp) fun q => { q with orHead := q.orHead + advanceTo q.orHead v.toNat (s.qp (qpKey fn qp)).runOr }).moveOverflow
        (qpKey fn qp) (s.qp (qpKey fn qp)).overflow.length).releaseHeld (qpKey fn qp)).settle).woken)
  ∧ ∀ pos v size : Nat, v < size → (pos + advanceTo pos v size) % size = v ∧ advanceTo pos v size < size

/-- A doorbell that breaks a rule of R304 while EN is 1 sets BAD_DB and stops the queue pair; one that reaches a queue pair that is not enabled (or, for the
heads, not active) is ignored but for BAD_DB. -/
def Obligations.BadDoorbellsStop : Prop :=
  ∀ (s : State) (fn : Fn) (qp : QpNo) (v : W32), s.reaches fn = true →
    ((s.qp (qpKey fn qp)).en = false →
      exec (.sqTailDoorbell fn qp v) s = .next (s.onQp (qpKey fn qp) fun q => { q with badDb := true }).woken)
    ∧ ((s.qp (qpKey fn qp)).en = true → (s.qp (qpKey fn qp)).runSq ≤ v.toNat →
      exec (.sqTailDoorbell fn qp v) s = .next (((s.onQp (qpKey fn qp) fun q => { q with badDb := true }).stopQp (qpKey fn qp)).settle).woken)
    ∧ ((s.qp (qpKey fn qp)).active = false →
      exec (.cqHeadDoorbell fn qp v) s = .next (s.onQp (qpKey fn qp) fun q => { q with badDb := true }).woken
      ∧ exec (.orHeadDoorbell fn qp v) s = .next (s.onQp (qpKey fn qp) fun q => { q with badDb := true }).woken)
    ∧ ((s.qp (qpKey fn qp)).en = true → (s.qp (qpKey fn qp)).active = true →
      (s.qp (qpKey fn qp)).cqTail - (s.qp (qpKey fn qp)).cqHead < advanceTo (s.qp (qpKey fn qp)).cqHead v.toNat (s.qp (qpKey fn qp)).runCq →
      exec (.cqHeadDoorbell fn qp v) s = .next (((s.onQp (qpKey fn qp) fun q => { q with badDb := true }).stopQp (qpKey fn qp)).settle).woken)
    ∧ ((s.qp (qpKey fn qp)).en = false → (s.qp (qpKey fn qp)).active = true → (s.qp (qpKey fn qp)).runOr ≤ v.toNat →
      exec (.orHeadDoorbell fn qp v) s = .next (s.onQp (qpKey fn qp) fun q => { q with badDb := true }).woken)

/-- An enable that R302 allows latches the bases and sizes, starts the rings empty, clears STOPPED, and takes one HBM granule for the overflow store (none in
hold and in recovery); one that it refuses sets BAD_CFG and leaves EN at 0. -/
def Obligations.EnableStartsOrRefuses : Prop :=
  ∀ (s : State) (fn : Fn) (qp : QpNo) (v : W32), s.reaches fn = true → (s.qp (qpKey fn qp)).en = false →
    let k := qpKey fn qp
    let u := s.onQp k fun q => q.sizes v
    let store := !s.boot.hold && !s.boot.recovery
    ((u.qp k).active = false → (u.qp k).cfgOk fn = true → (store = true → 1 ≤ memHbmFree s) → (s.boot.recovery = true → k = 0) →
      exec (.qpEnable fn qp v) s =
        .next ((u.iff store fun s => s.hbmSize (.orStore k) 1).onQp k fun q => q.start store).woken)
    ∧ ((u.qp k).active = true → exec (.qpEnable fn qp v) s = .next (u.onQp k fun q => { q with badCfg := true }).woken)
    ∧ ((u.qp k).cfgOk fn = false → exec (.qpEnable fn qp v) s = .next (u.onQp k fun q => { q with badCfg := true }).woken)
    ∧ (store = true → memHbmFree s = 0 → exec (.qpEnable fn qp v) s = .next (u.onQp k fun q => { q with badCfg := true }).woken)
    ∧ (s.boot.recovery = true → k ≠ 0 → exec (.qpEnable fn qp v) s = .next (u.onQp k fun q => { q with badCfg := true }).woken)

/-- EN = 0 takes effect at once and the size fields follow the write (R303); once the run has drained the overflow store goes back and ACTIVE clears;
a transfer to a ring that fails on the link sets BAD_DMA and stops the queue pair (R305); the fetch of an inline entry takes the command from the ring (R307). -/
def Obligations.QueuePairsRunAndDrain : Prop :=
  (∀ (s : State) (fn : Fn) (qp : QpNo) (v : W32), s.reaches fn = true →
    exec (.qpDisable fn qp v) s = .next (s.onQp (qpKey fn qp) fun q => { (q.sizes v) with en := false }).woken)
  ∧ (∀ (s : State) (fn : Fn) (qp : QpNo), (s.qp (qpKey fn qp)).drained = true → (s.qp (qpKey fn qp)).store = true →
    exec (.qpDrainEnd fn qp) s =
      .next (((s.onQp (qpKey fn qp) fun q => { q with store := false }).hbmSize (.orStore (qpKey fn qp)) 0).onQp (qpKey fn qp)
        fun q => { q with active := false }).woken)
  ∧ (∀ (s : State) (fn : Fn) (qp : QpNo), (s.qp (qpKey fn qp)).drained = true → (s.qp (qpKey fn qp)).store = false →
    exec (.qpDrainEnd fn qp) s = .next (s.onQp (qpKey fn qp) fun q => { q with active := false }).woken)
  ∧ (∀ (s : State) (fn : Fn) (qp : QpNo), (s.qp (qpKey fn qp)).active = true →
    exec (.ringDmaFailure fn qp) s = .next (((s.onQp (qpKey fn qp) fun q => { q with badDma := true }).stopQp (qpKey fn qp)).settle).woken)
  ∧ ∀ (s : State) (fn : Fn) (qp : QpNo),
    let q := s.qp (qpKey fn qp)
    let e := s.hostRead (q.runSqb.toNat + 64 * (q.sqHead % q.runSq)) 64
    let h := entryHdr fn qp e
    q.mayFetch = true → s.departed = false → q.sqHead ≠ q.sqTail → h.flags.getLsbD 1 = false → h.indirect = false →
    exec (.commandFetch fn qp) s =
      .next ((s.onQp (qpKey fn qp) fun q => { q with sqHead := q.sqHead + 1 }).fetched (fld e 0 2) h (slice e 16 48)
        fun h s => s.command (fld e 0 2) h (slice e 16 48)).woken

/-- A function-level reset ends the function's live requests, puts every queue pair of the function at its reset values and no other function's, and drops
the function's waiting commands (R313); a lost link ends every function's requests and stops every queue pair that runs. -/
def Obligations.FunctionResetAndLinkLoss : Prop :=
  (∀ (s : State) (fn : Fn),
    exec (.functionLevelReset fn) s = .next (((s.killWhere fun _ r => !r.closed && r.fn == fn).resetQps fn).settle).woken)
  ∧ (∀ (u : State) (fn : Fn), KMap.wf u.porch.qps = true →
    (∀ i < 64, (u.resetQps fn).qp (64 * fn.val + i) = { Qp.reset with runs := (u.qp (64 * fn.val + i)).runs })
    ∧ (∀ k, k / 64 ≠ fn.val → (u.resetQps fn).qp k = { u.qp k with held := (u.qp k).held.filter fun e => e.2.1 / 64 ≠ fn.val })
    ∧ (u.resetQps fn).porch.waiting = u.porch.waiting.filter (fun c => c.h.fn ≠ fn) ∧ (u.resetQps fn).sch = u.sch)
  ∧ ∀ s : State, exec .linkLoss s =
      .next (((s.killWhere fun _ r => !r.closed).onPorch fun p => { p with linkUp := false, qps := KMap.mapAll p.qps fun _ q => q.stop }).settle).woken

/-- A configuration request before PCIE_READY is answered with Request Retry Status and has no other effect; after it, it is completed, the link is up, and a
write of the VF count enables that many VFs, the lowest-numbered (R408, Table 12.1). -/
def Obligations.ConfigurationRequests : Prop :=
  ∀ (s : State) (vfs : Option (Fin 17)), s.dom 1 = .on → s.boot.romHeld = false → s.boot.romStopped = false →
    (s.boot.pcieReady = false → exec (.configRequest vfs) s = .next { s with porch := { s.porch with cfgRetry := s.porch.cfgRetry + 1 } })
    ∧ (s.boot.pcieReady = true → vfs = none →
      exec (.configRequest vfs) s = .next { s with porch := { s.porch with cfgDone := s.porch.cfgDone + 1, linkUp := true } })
    ∧ ∀ n : Fin 17, s.boot.pcieReady = true → vfs = some n →
      exec (.configRequest vfs) s =
        .next { s with porch := { s.porch with cfgDone := s.porch.cfgDone + 1, linkUp := true, vfs := BitVec.ofNat 16 (2 ^ n.val - 1) } }
      ∧ ∀ i < 16, (BitVec.ofNat 16 (2 ^ n.val - 1)).getLsbD i = decide (i < n.val)

/-! ## Resets, start-up and power -/

/-- Module reset clears what R18 does not mark as kept and leaves the rest: queue pairs, partitions, requests, tables and cores are at their reset values, memory reads zero and indexes are unloaded (the model's choice, log entry 133), the
boot ROM is held at its first action and SERVICE reads 0; the black box, the fuse words, the cores fused out, lines awaiting repair, spent HBM parity, the fused SVN, the boot
region's image, the cellar's lost channels, the buddy and the identity stay. -/
def Obligations.ModuleResetClearsAndKeeps : Prop :=
  ∀ s : State,
    let t := s.moduleReset
    (t.porch.qps = [] ∧ t.porch.waiting = [] ∧ t.porch.vfs = 0 ∧ t.porch.linkUp = false ∧ t.sch = Sch.reset ∧ t.tbl = Tbl.reset ∧ t.cores = []
      ∧ t.mem.bytes = [] ∧ t.mem.hbmUsed = 0 ∧ t.boot.romHeld = true ∧ t.boot.service = false ∧ t.boot.hold = false ∧ t.boot.recovery = false
      ∧ t.boot.staged = none ∧ t.bbx.hostTime = 0 ∧ (∀ x ∈ t.ret.indexes, x.2.unloaded = true))
    ∧ (t.ident = s.ident ∧ t.host = s.host ∧ t.bbx.recs = s.bbx.recs ∧ t.bbx.sealedN = s.bbx.sealedN ∧ t.bbx.nextSeq = s.bbx.nextSeq ∧ t.bbx.starts = s.bbx.starts
      ∧ t.ras.fac = s.ras.fac ∧ t.ras.fld = s.ras.fld ∧ t.ras.awaiting = s.ras.awaiting ∧ t.ras.fusedOut = s.ras.fusedOut ∧ t.ras.hbmSpent = s.ras.hbmSpent
      ∧ t.boot.svnFused = s.boot.svnFused ∧ t.boot.bootImg = s.boot.bootImg ∧ t.fab.buddy = s.fab.buddy ∧ t.fab.laneFailed = s.fab.laneFailed
      ∧ t.cel.lostChan = s.cel.lostChan ∧ t.pwr.modEn = s.pwr.modEn ∧ t.pwr.inputOn = s.pwr.inputOn)

/-- PERST_N asserted while PD_CTL is on ends every live request and is a module reset; its deassertion with the boot ROM held is reset release, and the boot
ROM runs from its first action, unless the latch is open (R401, R434). With PD_CTL off only the pin moves. -/
def Obligations.ResetIsAssertedAndReleased : Prop :=
  (∀ s : State, s.dom 4 = .on →
    exec .perstAssert s = .next (((s.onPwr fun w => { w with perstN := false }).killWhere fun _ r => !r.closed).moduleReset))
  ∧ (∀ (s : State) (romOk readable held : Bool), s.dom 4 = .on → s.boot.romHeld = true → s.svc.latchOpen = false →
    exec (.resetRelease romOk readable held) s =
      .next ((((s.onPwr fun w => { w with perstN := true }).onPwr fun w => { w with pwrGood := true }).onSvc fun v => { v with opened := false }).bootRom
        romOk readable held))
  ∧ ∀ (s : State) (romOk readable held : Bool), s.dom 4 ≠ .on →
    exec .perstAssert s = .next { s with pwr := { s.pwr with perstN := false } }
    ∧ exec (.resetRelease romOk readable held) s = .next { s with pwr := { s.pwr with perstN := true } }

/-- The boot ROM's actions (R402): a digest of its own that does not match stops it, with ALERT_N low and the PCIe link off; a boot image that fails its
checks, an unreadable strap or a held button enters recovery mode (R416); else the image runs and the first step begins. Each start counts once. -/
def Obligations.BootRomActs : Prop :=
  ∀ (s : State) (readable held : Bool),
    (s.bootRom false readable held).boot.romStopped = true ∧ (s.bootRom false readable held).svc.alertN = false
    ∧ (s.bootRom false readable held).bbx.starts = s.bbx.starts + 1
    ∧ ((∀ x, s.boot.bootImg = some x → x.passes s.boot.svnFused = false) →
        (s.bootRom true readable held).boot.recovery = true ∧ (s.bootRom true readable held).boot.pcieReady = true)
    ∧ (∀ x, s.boot.bootImg = some x → x.passes s.boot.svnFused = true →
        ((readable = false ∨ held = true) → (s.bootRom true readable held).boot.recovery = true)
        ∧ (readable = true → held = false → ∃ u : State, s.bootRom true readable held = u.beginStep 10 1 ∧ u.boot.running = some x ∧ u.boot.svnRunning = x.svn
            ∧ u.boot.skipped = 0 ∧ u.boot.alt = 0 ∧ u.boot.romHeld = false ∧ u.bbx.starts = s.bbx.starts + 1))

/-- A boot step that ends (R403 to R405): step 0xA brings SERVICE up; another step but 7 that passed on path 0 does its work, and the next begins; a step of
1 to 4 that failed starts the boot ROM again, and one of 6 to 9 that failed is skipped. Nothing happens in hold, in recovery, or with the boot ROM held or stopped. -/
def Obligations.BootStepsEnd : Prop :=
  ∀ (s : State) (units : W64) (aon : W32),
    ((s.boot.romHeld || s.boot.romStopped || s.boot.hold || s.boot.recovery) = true → ∀ ok, exec (.bootStepEnd ok units aon) s = .next s)
    ∧ ((s.boot.romHeld || s.boot.romStopped || s.boot.hold || s.boot.recovery) = false →
      (∀ ok, s.boot.step = 0xA →
        exec (.bootStepEnd ok units aon) s = .next ((s.bootRec 0xA 0 0 0 0 aon).onBoot fun b => { b with step := 0xF, service := true }))
      ∧ (∀ i, s.boot.step = i → 1 ≤ i → i ≤ 9 → i ≠ 7 → s.boot.path = 0 →
        exec (.bootStepEnd true units aon) s =
          .next (let u := (s.stepWork i 0 units.toNat).bootRec i 0 0 0 units.toNat aon
                 if u.boot.hold then u else u.beginStep 10 (i + 1)))
      ∧ (∀ i, s.boot.step = i → 1 ≤ i → i ≤ 4 →
        exec (.bootStepEnd false units aon) s = .next ((s.bootRec i 2 s.boot.path (min 3 (s.boot.fails + 1)) units.toNat aon).bootRom true true false))
      ∧ (∀ i, s.boot.step = i → 6 ≤ i → i ≤ 9 →
        exec (.bootStepEnd false units aon) s =
          .next (let u := (s.bootRec i 2 s.boot.path (min 3 (s.boot.fails + 1)) units.toNat aon).stepSkipped i units.toNat
                 if u.boot.hold then u else u.beginStep 10 (i + 1))))

/-- Power comes and goes (R380, R388, R389, R18): the always-on supply brings PD_AON up with everything else off; MOD_EN with the input in range brings up the
main stage, PD_CTL and PD_HOST; its deassertion stops every request, floods the departing notice and turns every domain but PD_AON off; the loss of the
always-on supply leaves nothing powered. -/
def Obligations.PowerComesAndGoes : Prop :=
  (∀ (s : State) (mv : W32), s.pwr.inputOn = false → s.pwr.modEn = false →
    exec (.powerOn mv) s =
      .next (s.onPwr fun w => { w with mv := mv.toNat, inputOn := true, doms := [(0, .on)], samples := [], low := 0, overN := 0 }))
  ∧ (∀ s : State, s.svc.latchOpen = false → s.dom 4 ≠ .on → s.pwr.inputOn = true → inputOk s.pwr.mv = true →
    exec .modEnAssert s = .next (((s.onPwr fun w => { w with modEn := true }).onPwr fun w => { w with pwrGood := true, inputLost := false }).domsOn [4, 1]))
  ∧ (∀ s : State, s.svc.latchOpen = false → s.pwr.modEn = true → s.dom 4 = .on →
    ∃ u : State, exec .modEnDeassert s = .next u.powerDown
      ∧ u = (((s.onPwr fun w => { w with modEn := false }).powerEvent 5).stopAll).flood .departing)
  ∧ (∀ s : State, ∃ t, exec .alwaysOnPowerLoss s = .next t ∧ t.pwr.doms = [] ∧ t.pwr.inputOn = false ∧ t.pwr.pwrGood = false ∧ t.sch = Sch.reset
    ∧ t.porch.qps = [] ∧ t.mem.bytes = [] ∧ t.fab.laneFailed = 0 ∧ t.svc.alertN = true)
  ∧ ∀ s : State, (s.powerDown).pwr.doms = [(0, .on)] ∧ (s.powerDown).pwr.pwrGood = false ∧ (s.powerDown).boot.romHeld = true

/-- A power sample with the input inside 32 V to 60 V and the domain of control on (R393 to R396): the sample joins the last 1,024, the cap step follows
R394, a change of the steps in force is recorded, and power hold is entered or left. Outside that range the input is lost (R381). -/
def Obligations.PowerSamplesAct : Prop :=
  ∀ (s : State) (mv mw : W32), s.dom 0 = .on → s.dom 4 = .on →
    let u := (s.onBbx fun b => { b with aonCycles := b.aonCycles + 256 }).onPwr fun w =>
      { w with mv := mv.toNat, mw := mw.toNat, samples := (mw.toNat :: w.samples).take 1024, low := if mv.toNat < 34000 then w.low + 1 else 0,
               overN := if 1100000 < mw.toNat then w.overN + 1 else 0 }
    let v := if u.pwr.low = 64 then u.powerEvent 0 else u
    (32000 ≤ mv.toNat → mv.toNat ≤ 60000 →
      exec (.powerSample mv mw) s = .next (((v.onPwr Pwr.capStep).stepsChanged v.pwr.steps).powerHold).woken)
    ∧ ((mv.toNat < 32000 ∨ 60000 < mv.toNat) → exec (.powerSample mv mw) s = .next (v.loseInput).woken)

/-- CAP after a power sample is that of R394's listing: a sample above 1,100 W, or with no wait left a mean of the last 64 above CAP_W, adds one step, at most
8, and restarts both waits; else the mean of the last 1,024 at most 15/16 of CAP_W, with none above 1,100 W and no wait left, takes one away; else the waits run down. -/
def Obligations.CapStepFollowsTheSamples : Prop :=
  (∀ (w : Pwr) (x : Nat) (l : List Nat), w.samples = x :: l →
    let fast := 1100000 < x ∧ w.cap < 8
    let slow := w.slowWait = 0 ∧ 1000 * capW w * (w.samples.take 64).length < sumNat (w.samples.take 64) ∧ w.cap < 8
    let back := w.upWait = 0 ∧ 0 < w.cap ∧ 16 * sumNat (w.samples.take 1024) ≤ 15 * 1000 * capW w * (w.samples.take 1024).length ∧ ∀ y ∈ w.samples.take 1024, y ≤ 1100000
    ((fast ∨ slow) → w.capStep = { w with cap := w.cap + 1, slowWait := 63, upWait := 1024 })
    ∧ (¬fast → ¬slow → back → w.capStep = { w with cap := w.cap - 1, slowWait := w.slowWait - 1, upWait := 1023 })
    ∧ (¬fast → ¬slow → ¬back → w.capStep = { w with slowWait := w.slowWait - 1, upWait := w.upWait - 1 }))
  ∧ (∀ w : Pwr, (w.cap ≤ 8 → w.capStep.cap ≤ 8) ∧ 600 ≤ capW w ∧ capW w ≤ 900 ∧ coreMhz w = 1200 - 75 * min 8 (max w.floor (w.cap + w.therm)))
  ∧ ∀ (s : State) (mv mw : W32), s.dom 0 = .on → s.dom 4 = .on → 32000 ≤ mv.toNat → mv.toNat ≤ 60000 →
    let w := { s.pwr with samples := (mw.toNat :: s.pwr.samples).take 1024 }.capStep
    ∃ u : State, exec (.powerSample mv mw) s = .next u.woken ∧ u.pwr.cap = w.cap ∧ u.pwr.slowWait = w.slowWait ∧ u.pwr.upWait = w.upWait ∧ u.pwr.samples = w.samples


/-- A core-rail phase that fails (R382): it is recorded with class 0 while a spare is left and 4 after, a spare phase that takes its load is recorded, the third
failure raises FLOOR by 4 and each later one by 2, at most 8, and with fewer than 12 phases left the core rail turns off. -/
def Obligations.PhaseFailureFloorsTheClock : Prop :=
  ∀ (s : State) (p : Fin 18), s.pwr.failed.getLsbD p.val = false → s.dom 4 = .on →
    let failed := s.pwr.failed ||| BitVec.ofNat 18 (2 ^ p.val)
    let n := countBits 18 fun i => failed.getLsbD i
    let new := ({ s.pwr with failed := failed } : Pwr).carrying
    let a := s.fresh.2.faultRec 16 (s.fresh.1 % 8) p.val p.val (if n ≤ 2 then 0 else 4) none [] 0
    let b := match new.find? fun i => !s.pwr.carrying.contains i with | some i => a.spareIn 8 p.val p.val i | none => a
    let c := (b.onPwr fun w =>
      { w with failed := failed, floor := if n = 3 then min 8 (w.floor + 4) else if 3 < n then min 8 (w.floor + 2) else w.floor }).stepsChanged s.pwr.steps
    exec (.phaseFail p) s = .next (if new.length < 12 then c.railOff else c).woken

/-- A thermal sample (R397, R398): T is the hottest junction, rounded down; THERM moves one step up while below its target, one down while two or more above it; a hold
starts at T of 105 °C or a memory reading of 95 °C, ends below T_THR with every memory reading below 85 °C, and at 110 °C the module shuts down. -/
def Obligations.ThermalSamplesStepTheClock : Prop :=
  (∀ (w : Pwr) (t : Int),
    let target := min 8 (max 0 (t - (tThr w : Int) + 1)).toNat
    (w.therm < target → w.thermStep t = w.therm + 1) ∧ (target + 2 ≤ w.therm → w.thermStep t = w.therm - 1)
    ∧ (target ≤ w.therm → w.therm < target + 2 → w.thermStep t = w.therm) ∧ w.heat t = { w with therm := w.thermStep t } ∧ 80 ≤ tThr w ∧ tThr w ≤ 100)
  ∧ (∀ (s : State) (js ss ps : List W16), s.dom 4 = .on → js ≠ [] → s.pwr.thermShut = false →
    exec (.thermalSample js ss ps) s = .next (((s.readTemps js ss ps).heated js).thermActs js ss ps).woken)
  ∧ (∀ (s : State) (js : List W16),
    let a := s.onPwr fun w => w.heat (raw256 (hottest js).2 / 256)
    (a.pwr.therm = s.pwr.therm → a.pwr.steps = s.pwr.steps → s.heated js = a)
    ∧ (a.pwr.therm ≠ s.pwr.therm → a.pwr.steps = s.pwr.steps → s.heated js = a.thermEvent 0 (hottest js).1 (hottest js).2 0)
    ∧ (a.pwr.therm ≠ s.pwr.therm → a.pwr.steps ≠ s.pwr.steps → s.heated js = (a.thermEvent 0 (hottest js).1 (hottest js).2 0).powerEvent 2))
  ∧ ∀ (s : State) (js ss ps : List W16),
    let t : Int := raw256 (hottest js).2 / 256
    (t < 105 → memAt ss 95 = false → memAt ps 95 = false → s.pwr.thermHold = false → s.thermActs js ss ps = s)
    ∧ (105 ≤ t → t < 110 → s.pwr.thermHold = false → s.thermActs js ss ps = s.holdStarts 0 (hottest js))
    ∧ (t < 105 → memAt ss 95 = true → s.pwr.thermHold = false → s.thermActs js ss ps = s.holdStarts 1 (hottest ss))
    ∧ (t < 105 → memAt ss 95 = false → memAt ps 95 = true → s.pwr.thermHold = false → s.thermActs js ss ps = s.holdStarts 2 (hottest ps))
    ∧ (110 ≤ t → s.thermActs js ss ps = s.thermShutdown (hottest js).1 (hottest js).2)
    ∧ (t < (tThr s.pwr : Int) → memAt ss 85 = false → memAt ps 85 = false → s.pwr.thermHold = true →
      s.thermActs js ss ps = (s.onPwr fun w => { w with thermHold := false, tripN := true }).thermEvent 0 (hottest js).1 (hottest js).2 2)
    ∧ ((s.holdStarts 0 (hottest js)).pwr.thermHold = true ∧ (s.holdStarts 0 (hottest js)).pwr.tripN = false)

/-- A thermal hold that has lasted 10 s shuts the module down (R399): the event is recorded (its sensor number 0 on an expiry is the model's choice, log entry 114), the core rail and every HBM domain turn off, THERM_TRIP_N is asserted. -/
def Obligations.ThermalShutdown : Prop :=
  (∀ s : State, s.pwr.thermHold = true → exec .thermalHoldExpiry s = .next (s.thermShutdown 0 s.pwr.tJ).woken)
  ∧ ∀ (s : State) (n : Nat) (t : W16), s.pwr.thermShut = false →
    s.thermShutdown n t =
      (((s.onPwr fun w => { w with thermShut := true, tripN := false }).thermEvent 0 n t 3).railOff).each (List.range 6) fun s i => s.setDom (41 + i) .off

/-- Domains sleep, wake and turn on (R384 to R387, R390): a core of a partition with nothing to do sleeps and loses its PLL lock; PD_TXT and PD_RET sleep
without work; a domain that was changing is on when its wake ends; a PLL locks; each window lets two waiting cores turn on, and eight begin their ramp. -/
def Obligations.DomainsSleepAndWake : Prop :=
  (∀ (s : State) (d : Fin 57), isCoreDom d.val = true → s.dom d.val = .on → (s.partOf (d.val - 7)).isSome = true → (s.core (d.val - 7)).busy = false →
    (s.core (d.val - 7)).preempt = false → ((s.core (d.val - 7)).activity.all fun a => a == 0) = true → s.ras.pieces = [] →
    exec (.domainSleep d) s = .next ((s.setDom d.val .sleep).onCore (d.val - 7) fun k => { k with pllLocked := false }))
  ∧ (∀ s : State, s.dom 5 = .on → s.txtBusy = false → exec (.domainSleep 5) s = .next (s.setDom 5 .sleep))
  ∧ (∀ s : State, s.dom 6 = .on → s.retBusy = false → exec (.domainSleep 6) s = .next (s.setDom 6 .sleep))
  ∧ (∀ (s : State) (d : Fin 57), s.dom d.val = .changing →
    exec (.domainWakeDone d) s = .next (if isCoreDom d.val then (s.setDom d.val .on).readyCore (d.val - 7) else s.setDom d.val .on).woken)
  ∧ (∀ (s : State) (c : CoreNo), s.dom (coreDom c.val) = .on →
    exec (.pllLock c) s = .next ((s.onCore c.val fun k => { k with pllLocked := true }).readyCore c.val).woken)
  ∧ (∀ (s : State) (a b : Nat) (l : List Nat), s.pwr.onWait = a :: b :: l → s.dom a = .off →
    exec (.inrushWindow false) s =
      .next ((s.onPwr fun w => { w with onWindow := 2, onWait := w.onWait.drop 2 }).each [a, b] fun s d => if s.dom d == .off then s.setDom d .changing else s).woken)
  ∧ ∀ s : State, 8 ≤ s.pwr.rampWait.length →
    exec (.inrushWindow true) s =
      .next ((s.onPwr fun w => { w with rampWindow := 8, rampWait := w.rampWait.drop 8 }).each (s.pwr.rampWait.take 8)
        fun s c => (s.onCore c fun k => { k with activity := k.activity.map fun a => max 1 a }).tryHeld c).woken

/-- The service button, removal and the latch (R429 to R434): a press of 100 ms to 2 s with a buddy in service asks for removal and evacuates; one while
REMOVAL is 1 cancels it; one that is refused changes nothing but the blink; removal completes once the module is quiet; an open latch drops PWR_GOOD, and
while REMOVAL is not 2 stops every request and is recorded; closing it and an alert response read move their signals alone. -/
def Obligations.ServiceByHand : Prop :=
  (∀ (s : State) (ms : W32), 100 ≤ ms.toNat → ms.toNat ≤ 2000 → s.dom 0 = .on → s.svc.removal = 0 → s.service = true → s.departed = false → s.fab.buddy ≠ 0 →
    s.fab.buddyDown = false → s.sch.evac = none →
    exec (.serviceButtonPress ms) s =
      .next (((((s.setRemoval 1).onSvc fun v => { v with refused := false, moved := 0 }).serviceAction 0 0 0).onSch fun c =>
        { c with evac := some (none, 0, s.liveAll) }).settle).woken)
  ∧ (∀ (s : State) (ms : W32), 100 ≤ ms.toNat → ms.toNat ≤ 2000 → s.dom 0 = .on → s.svc.removal = 1 → s.sch.evac = none →
    exec (.serviceButtonPress ms) s = .next (((s.setRemoval 0).onSvc fun v => { v with refused := false }).serviceAction 9 0 0).woken)
  ∧ (∀ (s : State) (ms : W32), 100 ≤ ms.toNat → ms.toNat ≤ 2000 → s.dom 0 = .on → s.svc.removal ≠ 1 → s.service = false →
    exec (.serviceButtonPress ms) s = .next (s.onSvc fun v => { v with refused := true }).woken)
  ∧ (∀ s : State, s.svc.removal = 1 → s.quiet = true → s.departed = false →
    ∃ u : State, exec .removalComplete s = .next (u.setRemoval 2).woken)
  ∧ (∀ s : State, s.svc.latchOpen = false → s.svc.removal ≠ 2 → s.dom 4 = .on →
    exec .latchOpen s =
      .next (((((s.onSvc fun v => { v with latchOpen := true, opened := true, alertN := false }).onPwr fun w => { w with pwrGood := false }).onSvc fun v =>
        { v with surprise := true }).stopAll).flood .departing |>.serviceAction 1 0 0).woken)
  ∧ (∀ s : State, s.svc.latchOpen = false → s.svc.removal = 2 →
    exec .latchOpen s =
      .next ((s.onSvc fun v => { v with latchOpen := true, opened := true, alertN := false }).onPwr fun w => { w with pwrGood := false }).woken)
  ∧ (∀ s : State, exec .latchClose s = .next { s with svc := { s.svc with latchOpen := false } })
  ∧ ∀ s : State, s.dom 0 = .on → exec .alertResponseRead s = .next { s with svc := { s.svc with alertN := true } }

/-- The management port while PD_AON is on (R424, R416): a black-box read returns the records asked for with READ set, the monitoring and FRU records say what
the state holds, and a firmware update is taken in recovery mode alone. -/
def Obligations.ManagementPortAnswers : Prop :=
  ∀ s : State, s.dom 0 = .on →
    (∀ (start : W64) (n : W32),
      let l := (s.bbx.recs.filter fun r => decide (start.toNat ≤ r.seq.toNat)).take n.toNat
      exec (.mctpBbxRead start n) s = .next { s with bbx := s.bbx.markRead l, mgmt := { out := s.mgmt.out ++ [.bbx (l.map fun r => { r with read := true })] } })
    ∧ exec .pldmMonitoring s = .next { s with mgmt := { out := s.mgmt.out ++ [.monitoring s.pwr.mv s.pwr.mw s.pwr.tJ s.pwr.tS s.pwr.tP s.pwr.tC] } }
    ∧ exec .pldmFru s = .next { s with mgmt := { out := s.mgmt.out ++ [.fru (Config.variantCode s.ident.variant) s.ident.coldPlate s.ident.serial] } }
    ∧ (∀ image, s.boot.recovery = false → exec (.pldmFirmwareUpdate image) s = .next ({ s with mgmt := { out := s.mgmt.out ++ [.fwRejected] } } : State).woken)
    ∧ ∀ image t, s.boot.recovery = true → s.stage image = .inr t →
      exec (.pldmFirmwareUpdate image) s = .next ({ t with mgmt := { out := t.mgmt.out ++ [.fwAccepted] } } : State).woken

/-- The DOE mailbox while the link is up (R420, R421): versions 1.2 and 1.3, the capabilities and algorithms of the responder, one certificate chain in slot 0 and
its digest, a challenge signed over the nonce, the measurements of Table 17.6 by index, and an error for any other request code. -/
def Obligations.MailboxAnswers : Prop :=
  ∀ s : State, s.porch.linkUp = true → s.dom 1 = .on → s.dom 4 = .on →
    exec .spdmGetVersion s = .next { s with mgmt := { out := s.mgmt.out ++ [.version [0x12, 0x13]] } }
    ∧ exec .spdmGetCapabilities s = .next { s with mgmt := { out := s.mgmt.out ++ [.capabilities true true true] } }
    ∧ exec .spdmNegotiateAlgorithms s = .next { s with mgmt := { out := s.mgmt.out ++ [.algorithms true true] } }
    ∧ exec .spdmGetDigests s = .next { s with mgmt := { out := s.mgmt.out ++ [.digests (sm3 Config.certChain)] } }
    ∧ exec (.spdmGetCertificate 0) s = .next { s with mgmt := { out := s.mgmt.out ++ [.certificate 0 Config.certChain] } }
    ∧ (∀ slot, slot ≠ 0 → exec (.spdmGetCertificate slot) s = .next { s with mgmt := { out := s.mgmt.out ++ [.unsupported] } })
    ∧ (∀ nonce, ∃ sig, exec (.spdmChallenge 0 nonce) s = .next { s with freeCtr := s.freeCtr + 2, mgmt := { out := s.mgmt.out ++ [.challenge 0 nonce sig] } })
    ∧ (∀ (index : Byte) nonce, 1 ≤ index.toNat → index.toNat ≤ 6 → ∃ sig, exec (.spdmGetMeasurements index nonce) s =
        .next { s with freeCtr := s.freeCtr + 2, mgmt := { out := s.mgmt.out ++ [.measurements [(index.toNat, s.measure index.toNat)] nonce sig] } })
    ∧ ∀ code, exec (.spdmUnsupportedRequest code) s = .next { s with mgmt := { out := s.mgmt.out ++ [.unsupported] } }

/-! ## Host commands -/

/-- The porch takes a command only where R302 to R307 let it; a command that names an object being changed then waits at the end of the line (R319). Rows of
one opcode do the same. -/
def Obligations.CommandsAreTakenOrWait : Prop :=
  ∀ r ∈ hostRows, ∀ (h : Hdr) (pb : Bytes) (s : State),
    (s.takes h = false → exec (r.row h pb) s = .next s.woken)
    ∧ (s.takes h = true → (s.taken h).mustWait r.op (s.stamped h) pb = true →
      exec (r.row h pb) s =
        .next ((s.taken h).onPorch fun p => { p with waiting := p.waiting ++ [{ op := BitVec.ofNat 16 r.op, h := s.stamped h, pb := pb }] }).woken)

/-- Checks run in the order of R316 and the first that fails is the command's completion: its status and DETAIL, with every result word 0 (R317); nothing
else of the state changes. For every row of the host commands. -/
def Obligations.FirstFailingCheckIsReported : Prop :=
  ∀ r ∈ hostRows, ∀ (h : Hdr) (pb : Bytes) (s : State) (f : Fail), s.admits r.op h pb = true →
    firstFail (r.checks (s.taken h) (s.stamped h) pb) = some f →
    exec (r.row h pb) s = .next ((s.taken h).finish (s.stamped h) f.1 f.2 0 0 0 0).woken

/-- Checks 2 to 4 of R316 come before any check of the command's own: an opcode the module may not run now is ERR_BUSY, a VF's forbidden opcode ERR_AUTH, a broken header field
ERR_PARAM with DETAIL 0xFFF0 and a wrong length ERR_PARAM with DETAIL 0xFFF1, in that order. -/
def Obligations.HeaderChecksComeFirst : Prop :=
  ∀ r ∈ hostRows, ∀ (s : State) (h : Hdr) (pb : Bytes),
    (s.service = false → r.op < 0x0A00 → firstFail (r.checks s h pb) = some (stBusy, 0))
    ∧ (s.service = true → h.isVf = true → vfMay r.op = false → firstFail (r.checks s h pb) = some (stAuth, 0))
    ∧ (s.service = true → h.isVf = false → 4 ≤ h.flags.toNat → firstFail (r.checks s h pb) = some (stParam, 0xFFF0))
    ∧ (s.service = true → h.isVf = false → h.flags.toNat < 4 → h.part.toNat < 16 → h.rsv ≠ 0 → firstFail (r.checks s h pb) = some (stParam, 0xFFF0))
    ∧ (s.service = true → h.isVf = false → h.flags.toNat < 4 → h.part.toNat < 16 → h.rsv = 0 → h.indirect = false → 48 < h.paramLen.toNat →
      firstFail (r.checks s h pb) = some (stParam, 0xFFF1))

/-- A completion is one entry of 32 bytes in the completion ring (Table 12.13): TAG, STATUS, DETAIL, SQ_HEAD, the queue pair, INFO, PHASE and four result
words, at the ring's tail, which moves on by one and raises the completion vector's interrupt (R308, R312). A queue pair that is stopped or not active, or has
begun another run, writes nothing (R305, R313). The entry's phase is 1 on the first pass through the ring and flips at each wrap. -/
def Obligations.CompletionEntries : Prop :=
  (∀ (s : State) (h : Hdr) (st d : W16) (r0 r1 r2 r3 : Nat),
    let k := qpKey h.fn h.qp
    let q := s.qp k
    let c : Compl := { tag := h.tag, status := st, detail := d, info := infoByte false false false s.degraded, r0 := BitVec.ofNat 32 r0,
                       r1 := BitVec.ofNat 32 r1, r2 := BitVec.ofNat 32 r2, r3 := BitVec.ofNat 32 r3 }
    (q.runs = h.run → q.active = true → q.stopped = false → s.departed = false →
      s.finish h st d r0 r1 r2 r3 =
        ((s.hostWrite (q.runCqb.toNat + 32 * (if q.runCq = 0 then 0 else q.cqTail % q.runCq))
            (c.bytes (if q.runSq = 0 then 0 else q.sqHead % q.runSq) (k % 64) (phaseOf q.cqTail q.runCq))).onQp k
          fun q => { q with cqTail := q.cqTail + 1, inFlight := q.inFlight - 1 }).cqIrq k true)
    ∧ ((q.runs ≠ h.run ∨ q.active = false ∨ q.stopped = true ∨ s.departed = true) → s.finish h st d r0 r1 r2 r3 = s)
    ∧ s.cqIrq k true = (s.onQp k fun q => { q with cqNew := 0 }).msix k q.cqVec.toNat
    ∧ (s.msix k q.cqVec.toNat).porch.msix =
        KMap.set s.porch.msix (2048 * h.fn.val + q.cqVec.toNat) (KMap.getD s.porch.msix (2048 * h.fn.val + q.cqVec.toNat) 0 + 1))
  ∧ (∀ (c : Compl) (sq qp ph : Nat), sq < 65536 → qp < 64 → ph < 2 →
    (c.bytes sq qp ph).length = 32
    ∧ fld (c.bytes sq qp ph) 0 4 = c.tag.toNat ∧ fld (c.bytes sq qp ph) 4 2 = c.status.toNat ∧ fld (c.bytes sq qp ph) 6 2 = c.detail.toNat
    ∧ fld (c.bytes sq qp ph) 8 2 = sq ∧ fld (c.bytes sq qp ph) 10 1 = qp ∧ fld (c.bytes sq qp ph) 11 1 = c.info.toNat
    ∧ fld (c.bytes sq qp ph) 12 1 = ph ∧ fld (c.bytes sq qp ph) 16 4 = c.r0.toNat ∧ fld (c.bytes sq qp ph) 20 4 = c.r1.toNat
    ∧ fld (c.bytes sq qp ph) 24 4 = c.r2.toNat ∧ fld (c.bytes sq qp ph) 28 4 = c.r3.toNat)
  ∧ ∀ pos size : Nat, 0 < size → (pos < size → phaseOf pos size = 1) ∧ phaseOf (pos + size) size = 1 - phaseOf pos size

/-- The commands that report a record fill their OUTBUF with it and complete with OK (R318): identify, tenant.info, index.info, table.info, part.stats,
fab.status, sensors, attest; passage.get too, once the store's pages are read, or with ERR_DEVICE where one is unreadable (R166, R288). A buffer too short is left as it is, and the completion is ERR_PARAM with the bytes needed in RESULT3.
The records have the lengths of Table 13.11, and the sensors' bytes 20, 22 and 23 are CAP, the steps in force and FLOOR. -/
def Obligations.ReportsFillTheirBuffer : Prop :=
  (∀ (s : State) (h : Hdr) (pb : Bytes),
    let u := s.taken h
    let g := s.stamped h
    let full := fun (v : State) (off : Nat) (b : Bytes) (r0 r1 r2 : Nat) => ((v.hostWrite (fld pb off 8) b).finish g stOk 0 r0 r1 r2 0).woken
    let short := fun (v : State) (off : Nat) (b : Bytes) => (v.finish g stParam (BitVec.ofNat 16 off) 0 0 0 b.length).woken
    let ans := fun (v : State) (off : Nat) (b : Bytes) (r0 r1 r2 : Nat) => if b.length ≤ fld pb (off + 8) 4 then full v off b r0 r1 r2 else short v off b
    (s.clear 0x0101 identifyChecks h pb = true → exec (.identify h pb) s = .next (ans u 0 (identifyRec u) 0 0 0))
    ∧ (s.clear 0x0204 tenantInfoChecks h pb = true → ∀ t, u.tenant? (w16At pb 0) = some t →
        exec (.tenantInfo h pb) s = .next (ans u 8 (tenantRec u (w16At pb 0) t) 0 0 0))
    ∧ (s.clear 0x0405 indexInfoChecks h pb = true → ∀ x, u.index? (fld pb 0 1) = some x →
        exec (.indexInfo h pb) s = .next (ans u 8 (indexRec (fld pb 0 1) x) 0 0 0))
    ∧ (s.clear 0x0504 tableInfoChecks h pb = true → ∀ t, u.table? (fld pb 0 1) = some t → exec (.tableInfo h pb) s = .next (ans u 8 (tableRec u t) 0 0 0))
    ∧ (s.clear 0x0702 partStatsChecks h pb = true →
        exec (.partStats h pb) s = .next (ans (u.wakeCores g.partNo) 0 (partRec (u.wakeCores g.partNo) g.partNo) 0 0 0))
    ∧ (s.clear 0x0901 fabStatusChecks h pb = true → exec (.fabStatus h pb) s = .next (ans u 0 (fabRec u) 0 0 0))
    ∧ (s.clear 0x0B03 sensorsChecks h pb = true → exec (.sensors h pb) s = .next (ans u 0 (sensorsRec u) 0 0 0))
    ∧ (s.clear 0x0A03 attestChecks h pb = true → ∃ sig : BitVec 512,
        exec (.attest h pb) s = .next (ans { u with freeCtr := u.freeCtr + 1 } 40 (u.attestBody (pb.take 32) (fld pb 32 4) ++ sigBytes sig) 0 0 0))
    ∧ (s.clear 0x0407 passageGetChecks h pb = true → ∀ x e, u.index? (fld pb 0 1) = some x → x.latestAt (BitVec.ofNat 64 (fld pb 8 8)) x.seq = some e →
        let a : Get := { no := u.ret.nextGet, h := g, pb := pb, version := e.version, text := e.text, pages := x.fetchPages (BitVec.ofNat 64 (fld pb 8 8)) e.version }
        exec (.passageGet h pb) s = .next (((u.onRet fun r => { r with nextGet := r.nextGet + 1, gets := r.gets ++ [a] }).each a.pages fun s k =>
          s.queueRead k (.get a.no)).getDone a).woken))
  ∧ (∀ (s : State) (a : Get),
    let v := s.onRet fun r => { r with gets := r.gets.filter fun x => x.no ≠ a.no }
    (s.cel.busy (.get a.no) = true → s.getDone a = s)
    ∧ (s.cel.busy (.get a.no) = false → (∀ k ∈ a.pages, s.cel.readable k = true) → s.getDone a =
      if a.text.length ≤ fld a.pb 24 4 then (v.hostWrite (fld a.pb 16 8) a.text).finish a.h stOk 0 (a.version.toNat % 2 ^ 32) (a.version.toNat / 2 ^ 32) a.text.length 0
      else v.finish a.h stParam 16 0 0 0 a.text.length)
    ∧ ∀ k, s.cel.busy (.get a.no) = false → a.pages.find? (fun k => !s.cel.readable k) = some k → s.getDone a = (v.noPage k).finish a.h stDevice 0 0 0 0 0)
  ∧ ∀ s : State,
    (identifyRec s).length = 64 ∧ (sensorsRec s).length = 64 ∧ (fabRec s).length = 64 ∧ (∀ p, (partRec s p).length = 64)
    ∧ (∀ t id, (tenantRec s id t).length = 64) ∧ (∀ t, (tableRec s t).length = 64)
    ∧ (s.pwr.cap ≤ 8 → s.pwr.floor ≤ 8 →
        fld (sensorsRec s) 20 1 = s.pwr.cap ∧ fld (sensorsRec s) 22 1 = s.pwr.steps ∧ fld (sensorsRec s) 23 1 = s.pwr.floor ∧ s.pwr.steps ≤ 8)

/-- Tenants and bases come and go (R113 to R118, R216, R217): a verified image that its fields, vocabulary, base and shares allow is placed as its hints ask, registered and answered with its
MODEL_ID; a base is held once for the module, in HBM too where its hints ask and the granules are free; an unload gives back what the load took. -/
def Obligations.TenantsAndBasesComeAndGo : Prop :=
  ∀ (s : State) (h : Hdr) (pb : Bytes),
    let u := s.taken h
    let g := s.stamped h
    let id := fun (m : Model) => m.modelId.toNat
    (∀ m v x t, s.clear 0x0201 tenantLoadChecks h pb = true → u.verifyImage (dlBytes u pb 8) = .inr m → u.vocab? (fld pb 2 1) = some v →
      firstFail (lateLoadChecks u pb m v) = none → templateOf u pb m v = some x → u.imageFits pb m (dlBytes u pb 8).length = true →
      u.placeAllIn (fld pb 0 2) (maskList (fld pb 4 2)) (tenantOf pb m x) = some t →
      exec (.tenantLoad h pb) s =
        .next ((((u.onSch fun c => { c with tenants := KMap.set c.tenants (fld pb 0 2) t }).sysAdd (dlBytes u pb 8).length).each (maskList (fld pb 4 2))
          fun s p => if (s.part p).run.isSome then (s.setW p).streamFill p else s.setW p).finish g stOk 0 (id m % 2 ^ 32) (id m / 2 ^ 32) 0 0).woken)
    ∧ (∀ m, s.clear 0x0203 baseLoadChecks h pb = true → u.verifyImage (dlBytes u pb 0) = .inr m → m.kind = 2 → KMap.has u.sch.bases (id m) = false →
      u.sch.bases.length < 64 → ceilDiv m.stored Config.granule ≤ memAttFree u → u.sysRoom (dlBytes u pb 0).length = true →
      let inHbm := (m.hint == 2 || m.hint == 3) && decide (ceilDiv m.decoded Config.granule ≤ memHbmFree u)
      exec (.baseLoad h pb) s =
        .next (((((u.onSch fun c => { c with bases := KMap.set c.bases (id m) { model := m, shared := inHbm } }).attSize (.baseImage (id m)) (ceilDiv m.stored Config.granule)).hbmSize
            (.base (id m)) (if inHbm then ceilDiv m.decoded Config.granule else 0)).sysAdd (dlBytes u pb 0).length).finish g stOk 0
            (id m % 2 ^ 32) (id m / 2 ^ 32) 0 0).woken)
    ∧ (∀ t, s.clear 0x0202 tenantUnloadChecks h pb = true → bit (fld pb 2 1) 0 = false → KMap.get? u.sch.tenants (fld pb 0 2) = some t →
      exec (.tenantUnload h pb) s =
        .next ((((u.onSch fun c => { c with tenants := KMap.erase c.tenants (fld pb 0 2) }).each (maskList t.mask.toNat) State.setW).sysSub t.model.imageLen).finish g stOk 0 0 0 0 0).woken)
    ∧ ∀ b, s.clear 0x0202 tenantUnloadChecks h pb = true → bit (fld pb 2 1) 0 = true → KMap.get? u.sch.bases (fld pb 8 8) = some b →
      exec (.baseUnload h pb) s =
        .next (((((u.attSize (.baseImage (fld pb 8 8)) 0).hbmSize (.base (fld pb 8 8)) 0).onSch fun c =>
            { c with bases := KMap.erase c.bases (fld pb 8 8) }).sysSub b.model.imageLen).finish g stOk 0 0 0 0 0).woken

/-- An admitted request takes a free slot of the request table with the slot's next generation: 1 first, then one more each time,
1 again after 524,287, and no handle of generation 0 names a request (R10), keeps its function, queue pair, tag,
partition and parameters, and its handle is written where it asks (R321); its replay record is begun and its request-table entry written (R222). The slot's request is what its command says: for an ask or a search also the index and its
snapshot (R23); for a generate its prompt, in prefill. -/
def Obligations.RequestsTakeASlot : Prop :=
  ∀ (s : State) (h : Hdr) (pb : Bytes) (n : Nat),
    let g := s.stamped h
    let wake := fun (text : Bool) => ((s.taken h).wakeCores g.partNo).iff text fun s => s.wakeDom 5
    let gen := fun (w : State) => nextGen (KMap.getD w.sch.gens n 0)
    let own := fun (w : State) (r : Req) (k : ReqKind) =>
      r.kind = k ∧ r.gen = gen w ∧ r.fn = h.fn ∧ r.qp = h.qp ∧ r.tag = h.tag ∧ r.part.val = g.partNo ∧ r.params = pb ∧ r.closed = false ∧ r.emitted = []
    let held := fun (w : State) (r : Req) => w.onSch fun c => { c with slots := KMap.set c.slots n r, gens := KMap.set c.gens n (gen w) }
    let done := fun (v : State) (go : State → State) => (((go (v.writeRecord n)).publishEntry n false).settle).woken
    let told := fun (w : State) (off : Nat) => if fld pb off 8 ≠ 0 then w.hostWrite (fld pb off 8) (leBytes 4 (handleOf n (gen (wake true)))) else w
    (∀ ix t, s.clear 0x0301 askChecks h pb = true → (wake true).index? (fld pb 2 1) = some ix → (s.taken h).index? (fld pb 2 1) = some ix →
      (s.taken h).tenant? (w16 pb 0) = some t → (wake true).tenant? (w16 pb 0) = some t → (wake true).freeSlot g.partNo = some n →
      ((wake true).nextAdm (fld pb 2 1)).2.freeSlot g.partNo = some n → ∃ r : Req,
        own ((wake true).nextAdm (fld pb 2 1)).2 r .ask ∧ r.tenant = w16 pb 0 ∧ r.index = fld pb 2 1 ∧ r.snap = ix.seq ∧ r.embedder = ix.embedder ∧ r.state = .front
        ∧ exec (.ask h pb) s = .next (done (told (held ((wake true).nextAdm (fld pb 2 1)).2 r) 40) id))
    ∧ (s.clear 0x0302 generateChecks h pb = true → (wake true).freeSlot g.partNo = some n → ∃ r : Req,
        own (wake true) r .generate ∧ r.tenant = w16 pb 0 ∧ r.prompt = ((s.taken h).genPrompt pb).1 ∧ r.state = .prefill
        ∧ exec (.generate h pb) s = .next (done (told (held (wake true) r) 8) fun v => (v.mapPrefix n).mirrorOpen n))
    ∧ (∀ t, s.clear 0x0303 embedChecks h pb = true → (wake true).tenant? (w16 pb 0) = some t → 4 * t.model.outDim ≤ fld pb 32 4 →
      (wake true).freeSlot g.partNo = some n → ∃ r : Req,
        own (wake true) r .embed ∧ r.embedder = w16 pb 0 ∧ r.qTok = tokenise ((wake true).tenantVocab (w16 pb 0)) r.query
        ∧ exec (.embed h pb) s = .next (done (held (wake true) r) id))
    ∧ (s.clear 0x0304 searchChecks h pb = true → bit (fld pb 6 2) 0 = true → 24 * fld pb 1 1 ≤ fld pb 32 4 → (wake false).freeSlot g.partNo = some n →
      ((wake false).nextAdm (fld pb 0 1)).2.freeSlot g.partNo = some n → ∃ r : Req,
        own ((wake false).nextAdm (fld pb 0 1)).2 r .search ∧ r.index = fld pb 0 1 ∧ r.snap = (wake false).snapOf (fld pb 0 1)
        ∧ exec (.search h pb) s =
          .next (done (held ((wake false).nextAdm (fld pb 0 1)).2 r) fun v => v.startJob n
            (words32 (dlData (s.taken h) pb 8) ((dlData (s.taken h) pb 8).length / 4))))
    ∧ (s.clear 0x0305 rerankChecks h pb = true → 8 * fld pb 3 1 ≤ fld pb 40 4 → (wake true).freeSlot g.partNo = some n → ∃ r : Req,
        own (wake true) r .rerank ∧ r.reranker = w16 pb 0 ∧ r.stage = 6 ∧ r.passages.length = fld pb 3 1
        ∧ exec (.rerank h pb) s = .next (done (held (wake true) r) fun v => v.startStage6 n))
    ∧ Sch.reset.gens = [] ∧ nextGen 0 = 1 ∧ (∀ v : BitVec 19, 1 ≤ v.toNat → v.toNat < 524287 → (nextGen v).toNat = v.toNat + 1) ∧ nextGen 524287 = 1
    ∧ (n < 8192 → ∀ v : BitVec 19, handleOf n v % 8192 = n ∧ handleOf n v / 8192 = v.toNat ∧ s.named (handleOf n 0) = none)

/-- cancel ends the request its handle names: the request completes first, with DONE_CANCELLED, also where it had ended and its completion still waits for its text
records, and the cancel's own completion follows (R221, R241); step puts its packet
at the end of its raw partition's queue (R229). -/
def Obligations.CancelAndStep : Prop :=
  ∀ (s : State) (h : Hdr) (pb : Bytes),
    let g := s.stamped h
    let w := (s.taken h).wakeCores g.partNo
    (∀ n r, s.clear 0x0306 cancelChecks h pb = true → (s.taken h).named (fld pb 0 4) = some n → w.req? n = some r →
      let e := ((w.onReq n fun x => { x with cancelled := true, buf := [], rebuild := false, fin := x.cancelFin }).dropJobsOf n)
      let c : Compl := { tag := h.tag, status := stOk, detail := 0, info := infoByte false false false e.degraded, r0 := 0, r1 := 0, r2 := 0, r3 := 0 }
      let f := if e.isHeld n then e.recast n { r with fin := r.cancelFin } else e.flushOne n
      (f.isHeld n = false → exec (.cancel h pb) s = .next ((f.completeFor g c).settle).woken)
      ∧ (f.isHeld n = true →
        exec (.cancel h pb) s = .next ((f.onQp (qpKey r.fn r.qp) fun q => { q with held := q.held ++ [(n, qpKey h.fn h.qp, c)] }).settle).woken))
    ∧ (s.clear 0x0307 stepChecks h pb = true →
      exec (.step h pb) s = .next ((w.onPart g.partNo fun x => { x with packets := x.packets ++ [{ op := 0x0307, h := g, pb := pb }] }).settle).woken)
    ∧ ∀ r : Req, ∃ d, r.cancelFin = some (stCancelled, d)

/-- Indexes are created with their granules, modified in three values, and destroyed with all they hold (R134, R135, R326); mutations queue with consecutive numbers and
complete when they are published (R148); merge marks pending buckets due (R159); a load completes once its pages are written, and the final one publishes sequence 1 (R165, R273). -/
def Obligations.IndexesAreCreatedAndChanged : Prop :=
  ∀ (s : State) (h : Hdr) (pb : Bytes),
    let u := s.taken h
    let g := s.stamped h
    let i := fld pb 0 1
    (s.clear 0x0401 indexCreateChecks h pb = true → bit (fld pb 3 1) 1 = false → bit (fld pb 3 1) 2 = false →
      exec (.indexCreate h pb) s =
        .next (((u.onRet fun r => { r with indexes := KMap.set r.indexes i (newIndex pb (words32 (dlData u pb 32) ((dlData u pb 32).length / 4))) }).hbmSize (.index i)
          (ceilDiv (indexBytes (fld pb 2 1) (fld pb 4 2) (fld pb 16 4)) Config.granule)).finish g stOk 0 0 0 0 0).woken)
    ∧ (s.clear 0x0401 indexCreateChecks h pb = true → bit (fld pb 3 1) 1 = true →
      exec (.indexModify h pb) s = .next ((u.onIndex i fun x => x.tune pb).finish g stOk 0 0 0 0 0).woken)
    ∧ (s.clear 0x0401 indexCreateChecks h pb = true → bit (fld pb 3 1) 1 = false → bit (fld pb 3 1) 2 = true →
      exec (.indexDestroy h pb) s = .next ((u.removeIndex i).finish g stOk 0 0 0 0 0).woken)
    ∧ (∀ ix ents, s.clear 0x0402 indexInsertChecks h pb = true → u.index? i = some ix → parseEnts ix.dim (fld pb 4 4) (dlData u pb 8) = some ents →
      ix.insertFit 0 ix.waiting ix.waitMud (8388608 - u.mudUsed) (tombRoom u) ents = none →
      exec (.indexInsert h pb) s = .next (u.queueMuts i g (mutCompl u g ix (cutStatus ents) (fld pb 4 4)) (ents.map (mutOf 0))).woken)
    ∧ (∀ ix, s.clear 0x0403 indexDeleteChecks h pb = true → u.index? i = some ix →
      exec (.indexDelete h pb) s =
        .next (u.queueMuts i g (mutCompl u g ix (stOk, 0) (fld pb 4 4)) ((pieces 8 (dlData u pb 8)).map fun x => delOf 0 (BitVec.ofNat 64 (leNat x)))).woken)
    ∧ (∀ ix, s.clear 0x0404 indexMergeChecks h pb = true → u.index? i = some ix →
      exec (.indexMerge h pb) s = .next ((u.each ix.pendingBuckets fun s b => s.makeDue i b).finish g stOk 0 ix.pendingBuckets.length 0 0 0).woken)
    ∧ (∀ ix ents v before, s.clear 0x0406 indexLoadChecks h pb = true → u.index? i = some ix → parseEnts ix.dim (fld pb 4 4) (dlData u pb 8) = some ents →
      u.loadAll i ix ents = some (v, before) →
      exec (.indexLoad h pb) s =
        .next ((v.onIndex i fun x => { x with loads := x.loads ++ [
          { h := g, compl := { tag := h.tag, status := (cutStatus ents).1, detail := (cutStatus ents).2, info := infoByte false false false u.degraded, r0 := 0, r1 := 0,
                               r2 := BitVec.ofNat 32 (fld pb 4 4), r3 := 0 },
            final := bit (fld pb 1 1) 0, writes := writesFrom u.cel.nextWrite v.cel.nextWrite, before := before, ids := ents.map fun e => e.id }] }).settleLoads).woken)
    ∧ (∀ (t : State) ix l rest, t.index? i = some ix → ix.loads = l :: rest →
      (t.cel.unacked l.writes = true → t.loadDone i = t)
      ∧ (t.cel.unacked l.writes = false → l.final = true →
        let v := ((t.each (l.before.filterMap fun b => b.2.ext) fun s e => s.freeExtent ix.dim e).onIndex i fun x => { x with loads := rest }).onIndex i fun x =>
          { x with loading := false, seq := 1, given := 1 }
        t.loadDone i = v.completeFor l.h { l.compl with info := l.compl.info ||| infoByte false false false v.degraded }))

/-- A mutation queue numbers its entries one by one after the last number given, the last carrying the command's completion (R148);
where an insert's text lies in the passage store is all that changes of those before. -/
def Obligations.MutationsAreNumbered : Prop :=
  ∀ (s : State) (i : Nat) (ix : Index) (h : Hdr) (c : Compl) (l : List Mutation), s.index? i = some ix → KMap.wf s.ret.indexes = true →
    let plain := fun (m : Mutation) => { m with placed := false, writes := [] }
    ∃ x, (s.queueMuts i h c l).index? i = some x ∧ x.given = ix.given + BitVec.ofNat 64 l.length ∧ x.waiting.length = ix.waiting.length + l.length
      ∧ (x.waiting.take ix.waiting.length).map plain = ix.waiting.map plain
      ∧ ∀ k (hk : k < l.length), ∃ m, x.waiting[ix.waiting.length + k]? = some m ∧ m.seq = ix.given + BitVec.ofNat 64 (k + 1) ∧ m.id = l[k].id ∧ m.insert = l[k].insert
          ∧ m.last = if k + 1 = l.length then some (h, c) else none


/-- Tables are created with their attic and HBM granules and destroyed once no gather or write is in flight (R171, R172); a write whose
shards are all here queues its entries (R187); a gather runs on its bags where its buffer holds the sums (R178). Vocabularies and grammars
are registered under a free number, and unloaded with their granules given back (R248, R251). tokenize and detokenize fill the buffer and complete with the count (R249). -/
def Obligations.TablesAndTextCommandsRun : Prop :=
  ∀ (s : State) (h : Hdr) (pb : Bytes),
    let u := s.taken h
    let g := s.stamped h
    let i := fld pb 0 1
    let d := dlData u pb 8
    let w := (u.wakeCores g.partNo).wakeDom 5
    (s.clear 0x0501 tableCreateChecks h pb = true → bit (fld pb 3 1) 1 = false →
      exec (.tableCreate h pb) s = .next ((((u.onTbl fun b => { b with tables := KMap.set b.tables i (tableAt pb) }).attSize (.table i)
        (u.tableAttic (tableAt pb))).hbmSize (.pantry i) (tableAt pb).hbm).finish g stOk 0 0 0 0 0).woken)
    ∧ (∀ t, s.clear 0x0501 tableCreateChecks h pb = true → bit (fld pb 3 1) 1 = true → KMap.wf u.tbl.tables = true → u.table? i = some t →
      let v := u.onTable i fun x => { x with destroy := some g }
      (((v.gathersOn i).isEmpty = false ∨ v.tbl.writes.any (fun w => w.table == i) = true) → exec (.tableDestroy h pb) s = .next v.woken)
      ∧ ((v.gathersOn i).isEmpty = true → v.tbl.writes.any (fun w => w.table == i) = false →
        exec (.tableDestroy h pb) s = .next ((((v.attSize (.table i) 0).hbmSize (.pantry i) 0).onTbl fun b =>
          { b with tables := KMap.erase b.tables i }).finish g stOk 0 0 0 0 0).woken))
    ∧ (∀ t, s.clear 0x0502 tableWriteChecks h pb = true → u.table? i = some t →
      (∀ e ∈ writeEntries t.width d, u.ownsShard t (t.shardOf e.row.toNat) = true) →
      exec (.tableWrite h pb) s = .next (u.openWrite
        { no := 0, table := i, cmd := some g, remote := none, count := fld pb 4 4, entries := writeEntries t.width d, waited := false, owners := [], holders := [],
          formed := none, failed := none }).woken)
    ∧ (s.clear 0x0503 tableGatherChecks h pb = true → fld pb 4 4 * (4 * (u.wakeCores g.partNo).gatherWidth i + 4) ≤ fld pb 56 4 →
      exec (.tableGather h pb) s = .next ((u.wakeCores g.partNo).startGather
        { gid := 0, table := i, pool := fld pb 1 1,
          bags := bagsOf ((pieces 4 (dlData u pb 16)).map leNat) ((pieces 16 (dlData u pb 32)).map fun o => ⟨BitVec.ofNat 64 (fld o 0 8), BitVec.ofNat 32 (fld o 8 4)⟩),
          cmd := some (g, BitVec.ofNat 64 (fld pb 48 8)), slot := none, part := g.partNo, kept := [], rows := 0, stamps := [], shards := [], far := [], sums := [], lostShards := [] }).woken)
    ∧ (∀ v, s.clear 0x0601 vocabLoadChecks h pb = true → bit (fld pb 1 1) 0 = false → KMap.get? u.sch.vocabs i = none → parseVocab d = some v →
      exec (.vocabLoad h pb) s = .next (((((u.onSch fun c => { c with vocabs := KMap.set c.vocabs i v }).hbmSize (.vocab i)
        (granOf v.len)).sysSub 0).sysAdd v.len).finish g stOk 0 v.check.toNat 0 0 0).woken)
    ∧ (∀ v, s.clear 0x0601 vocabLoadChecks h pb = true → bit (fld pb 1 1) 0 = true → KMap.get? u.sch.vocabs i = some v →
      exec (.vocabUnload h pb) s = .next ((((u.onSch fun c => { c with vocabs := KMap.erase c.vocabs i }).hbmSize (.vocab i)
        0).sysSub v.len).finish g stOk 0 0 0 0 0).woken)
    ∧ (∀ v, s.clear 0x0602 grammarLoadChecks h pb = true → bit (fld pb 1 1) 0 = false → KMap.get? u.sch.grammars i = none → parseGrammar d = some v →
      exec (.grammarLoad h pb) s = .next (((((u.onSch fun c => { c with grammars := KMap.set c.grammars i v }).hbmSize (.grammar i)
        (granOf v.len)).sysSub 0).sysAdd v.len).finish g stOk 0 v.vocabCheck.toNat 0 0 0).woken)
    ∧ (∀ v, s.clear 0x0602 grammarLoadChecks h pb = true → bit (fld pb 1 1) 0 = true → KMap.get? u.sch.grammars i = some v →
      exec (.grammarUnload h pb) s = .next ((((u.onSch fun c => { c with grammars := KMap.erase c.grammars i }).hbmSize (.grammar i)
        0).sysSub v.len).finish g stOk 0 0 0 0 0).woken)
    ∧ (∀ v, s.clear 0x0603 tokenizeChecks h pb = true → u.vocab? i = some v → d.length ≤ 131072 → 4 * (tokenise v d).length ≤ fld pb 32 4 →
      exec (.tokenize h pb) s = .next ((w.hostWrite (fld pb 24 8) (wordsBytes (tokenise v d))).finish g stOk 0 (tokenise v d).length 0 0 0).woken)
    ∧ ∀ v, s.clear 0x0604 detokenizeChecks h pb = true → u.vocab? i = some v → (detokenise v (words32 d (d.length / 4))).length ≤ fld pb 32 4 →
      exec (.detokenize h pb) s = .next ((w.hostWrite (fld pb 24 8) (detokenise v (words32 d (d.length / 4)))).finish g stOk 0
        (detokenise v (words32 d (d.length / 4))).length 0 0 0).woken

/-- part.set takes its shares and settings at once and holds its core count for the step boundaries (R213); part.regulate holds four words for the next boundary (R130);
acct.read reports a record and, where asked, zeroes it in the same action, but only where the buffer holds it (R244). -/
def Obligations.PartitionsAndAccounts : Prop :=
  ∀ (s : State) (h : Hdr) (pb : Bytes),
    let u := s.taken h
    let g := s.stamped h
    let w := u.wakeCores g.partNo
    let ten := bit (fld pb 0 1) 1
    let id := w16At pb 2
    let told := fun (v : State) (a : Acct) => ((v.hostWrite (fld pb 8 8) a.bytes).finish g stOk 0 0 0 0 0).woken
    (s.clear 0x0701 partSetChecks h pb = true →
      let x := u.part g.partNo
      exec (.partSet h pb) s = .next (((w.partShares g.partNo (x.settings pb)).onPart g.partNo fun z =>
        { (z.settings pb) with target := some (fld pb 0 1, g) }).settle).woken)
    ∧ (s.clear 0x0703 partRegulateChecks h pb = true →
      exec (.partRegulate h pb) s = .next (((w.onPart g.partNo fun x =>
        { x with regsNew := some ((List.range 4).map fun k => BitVec.ofNat 32 (fld pb (4 * k) 4)) }).settle).finish g stOk 0 0 0 0 0).woken)
    ∧ (s.clear 0x0B04 acctReadChecks h pb = true → 128 ≤ fld pb 16 4 → ten = false → bit (fld pb 0 1) 0 = false →
      exec (.acctRead h pb) s = .next (told w (w.part g.partNo).acct))
    ∧ (s.clear 0x0B04 acctReadChecks h pb = true → 128 ≤ fld pb 16 4 → ten = false → bit (fld pb 0 1) 0 = true →
      exec (.acctReadClear h pb) s = .next (told (w.onPart g.partNo fun x => { x with acct := Acct.zero }) (w.part g.partNo).acct))
    ∧ (∀ t, s.clear 0x0B04 acctReadChecks h pb = true → 128 ≤ fld pb 16 4 → ten = true → bit (fld pb 0 1) 0 = false → w.tenant? id = some t →
      exec (.acctRead h pb) s = .next (told w t.acct))
    ∧ (∀ t, s.clear 0x0B04 acctReadChecks h pb = true → 128 ≤ fld pb 16 4 → ten = true → bit (fld pb 0 1) 0 = true → w.tenant? id = some t →
      exec (.acctReadClear h pb) s = .next (told (w.onSch fun c => { c with tenants := KMap.mod c.tenants id.toNat fun t => { t with acct := Acct.zero } }) t.acct))
    ∧ (∀ a : Acct, a.bytes.length = 128 ∧ fld a.bytes 0 8 = a.qwaitSteps.toNat ∧ fld a.bytes 88 8 = a.requests.toNat ∧ fld a.bytes 96 8 = 0)
    ∧ (s.clear 0x0B04 acctReadChecks h pb = true → fld pb 16 4 < 128 → ten = false →
      exec (.acctReadClear h pb) s = .next (w.finish g stParam 8 0 0 0 128).woken)

/-- Tests and calibrations wait their turn as pieces, one at a time (R372); a piece that ends completes its command with its outcome and the records written
meanwhile (R328). maint.policy writes the two registers it masks and reports both (R296). evacuate begins an evacuation of every live request (R353). -/
def Obligations.TestsAndMaintenance : Prop :=
  ∀ (s : State) (h : Hdr) (pb : Bytes),
    let u := s.taken h
    let g := s.stamped h
    let piece := fun (calib : Bool) (op : W16) => ({ cmd := { op := op, h := g, pb := pb }, calib := calib, target := fld pb 0 1, unit := fld pb 2 2,
                                                     started := false, left := 0, records := 0 } : Piece)
    (s.clear 0x0801 (testChecks false) h pb = true →
      exec (.selftest h pb) s = .next ((u.onRas fun r => { r with pieces := r.pieces ++ [piece false 0x0801] }).startPiece (u.ras.pieces.length + 1)).woken)
    ∧ (s.clear 0x0802 (testChecks true) h pb = true →
      exec (.calibrate h pb) s = .next ((u.onRas fun r => { r with pieces := r.pieces ++ [piece true 0x0802] }).startPiece (u.ras.pieces.length + 1)).woken)
    ∧ (∀ (pass : Bool) (e : Fin 4) (col : Bool) (line : BitVec 7) (x : Piece) (rest : List Piece), s.ras.pieces = x :: rest → x.started = true → s.drained x = true →
      (pass = true → x.target = 2 → 1 < x.left →
        exec (.selftestPieceEnd pass e col line) s = .next (s.onRas fun r => { r with pieces := { x with left := x.left - 1 } :: rest }).woken)
      ∧ (∀ v out, (if pass then (s.unitPasses x, 0) else s.unitFails x e.val col line.toNat) = (v, out) → (pass = false ∨ x.target ≠ 2 ∨ x.left ≤ 1) →
        let v := v.onRas fun r => { r with pieces := rest, moduleTest := if x.target = 0xF then false else r.moduleTest }
        exec (.selftestPieceEnd pass e col line) s =
          .next (((v.finish x.cmd.h stOk 0 out (v.bbx.nextSeq.toNat - x.records) 0 0).startPiece (rest.length + 1)).settle).woken))
    ∧ (∀ x rest, s.ras.pieces = x :: rest → x.started = true → x.target ≠ 0 → x.target ≠ 2 → rest = [] → ∀ e col line, 
        exec (.selftestPieceEnd true e col line) s =
          .next (((s.onRas fun r => { r with pieces := [], moduleTest := if x.target = 0xF then false else r.moduleTest }).finish x.cmd.h stOk 0 0
            (s.bbx.nextSeq.toNat - x.records) 0 0).settle).woken)
    ∧ (s.clear 0x0803 maintPolicyChecks h pb = true →
      let a := if bit (fld pb 8 1) 0 then BitVec.ofNat 32 (fld pb 0 4) else u.cel.gcCfg
      let b := if bit (fld pb 8 1) 1 then BitVec.ofNat 32 (fld pb 4 4) else u.cel.maintCfg
      exec (.maintPolicy h pb) s = .next ((u.onCel fun c => { c with gcCfg := a, maintCfg := b }).finish g stOk 0 a.toNat b.toNat 0 0).woken)
    ∧ (s.clear 0x0804 evacuateChecks h pb = true →
      exec (.evacuate h pb) s = .next ((u.onSch fun c => { c with evac := some (some g, 0, u.liveAll) }).settle).woken)

/-- fab.lease by its OP: an acquire asks the lender for attic and waits for its grant, a release gives a window back that no page uses, an offer sets attic
aside and tells every module, a withdrawal asks every part back (R343 to R345); fab.buddy names the buddy (R350). A lease that cannot be is turned away by name. The messages of a lease do
their part at the other end: an offer is heard, an ask is granted from the largest part on offer, zero-filled, a grant maps the window, a withdrawal marks it to drain, a release gives the
granules back zero-filled, and an aligned transfer of 1 to 4 units within the window reads or writes the attic it stands for (R344); any other is answered with ERROR. -/
def Obligations.LeasesAndTheBuddy : Prop :=
  ∀ (s : State) (h : Hdr) (pb : Bytes),
    let u := s.taken h
    let g := s.stamped h
    let gib := fld pb 4 4
    let ends := fun (st : W16) => (u.finish g st 0 0 0 0 0).woken
    let routed := fun (v : State) (m : State → W16 → State) => v.each v.fab.routes fun s r => m s (BitVec.ofNat 16 r.1)
    (s.clear 0x0902 fabLeaseChecks h pb = true → fld pb 0 1 = 0 →
      (u.fab.lender (fld pb 2 2) = none → exec (.fabLeaseAcquire h pb) s = .next (ends stNotFound))
      ∧ (∀ l, u.fab.lender (fld pb 2 2) = some l → u.fab.freeWindow = none → exec (.fabLeaseAcquire h pb) s = .next (ends stNoResource))
      ∧ ∀ l w, u.fab.lender (fld pb 2 2) = some l → u.fab.freeWindow = some w →
        exec (.fabLeaseAcquire h pb) s = .next ((u.onFab fun f => { f with acquiring := f.acquiring ++ [(g, l, w)] }).send l 3 (.leaseAsk gib)).woken)
    ∧ (s.clear 0x0902 fabLeaseChecks h pb = true → fld pb 0 1 = 1 →
      (KMap.get? u.fab.windows (fld pb 1 1) = none → exec (.fabLeaseRelease h pb) s = .next (ends stNotFound))
      ∧ ∀ x, KMap.get? u.fab.windows (fld pb 1 1) = some x →
        (u.windowUsed (fld pb 1 1) = true → exec (.fabLeaseRelease h pb) s =
          .next ((u.onFab fun f => { f with windows := KMap.set f.windows (fld pb 1 1) { x with draining := true } }).finish g stBusy 0 0 0 0 0).woken)
        ∧ (u.windowUsed (fld pb 1 1) = false → exec (.fabLeaseRelease h pb) s =
          .next (((u.send x.lender 3 (.leaseRelease (fld pb 1 1))).onFab fun f => { f with windows := KMap.erase f.windows (fld pb 1 1) }).finish g stOk 0 0 0 0 0).woken))
    ∧ (s.clear 0x0902 fabLeaseChecks h pb = true → fld pb 0 1 = 2 →
      (memAttFree u < 512 * gib → exec (.fabLeaseOffer h pb) s = .next (ends stNoResource))
      ∧ (512 * gib ≤ memAttFree u → exec (.fabLeaseOffer h pb) s =
        .next ((routed ((u.onFab fun f => { f with offered := f.offered ++ [gib] }).attSize .offer (512 * sumNat (u.fab.offered ++ [gib])))
          fun v a => v.send a 3 (.leaseOffer (maxNat (u.fab.offered ++ [gib])))).finish g stOk 0 0 0 0 0).woken))
    ∧ (s.clear 0x0902 fabLeaseChecks h pb = true → fld pb 0 1 = 3 →
      (u.fab.offered = [] → u.fab.lent = [] → exec (.fabLeaseWithdraw h pb) s = .next (ends stNotFound))
      ∧ (u.fab.offered ≠ [] →
        let v := routed ((u.attSize .offer 0).onFab fun f =>
          { f with offered := [], withdrawing := f.withdrawing ++ [g] }) fun v a => v.send a 3 (.leaseOffer 0)
        exec (.fabLeaseWithdraw h pb) s = .next ((v.each v.fab.lent fun s l => s.send l.borrower 3 (.leaseWithdraw l.ref.toNat)).endWithdraw).woken))
    ∧ (∀ m : MsgHdr, s.inTurn m 2 = true →
      let b := s.took m 2
      let did := fun (t : State) => (Host.Outcome.next (t.caughtUp m 2).woken : Out)
      (∀ off units l, b.fab.lentTo m = some l → lentSpan l off.toNat units.val = true → exec (.remoteMemoryRead m off units) s =
        did (b.reply m 2 (.memData ((b.lentUnits l off.toNat units.val).flatMap fun a => Mem.readN b.mem.bytes a 4096))))
      ∧ (∀ off d l, b.fab.lentTo m = some l → d.length % 4096 = 0 → lentSpan l off.toNat (d.length / 4096) = true → exec (.remoteMemoryWrite m off d) s =
        did ((b.onMem fun x => { x with bytes := writeRuns x.bytes ((b.lentUnits l off.toNat (d.length / 4096)).zip (pieces 4096 d)) }).reply m 2 .memDone))
      ∧ (∀ off units, (∀ l, b.fab.lentTo m = some l → lentSpan l off.toNat units.val = false) → exec (.remoteMemoryRead m off units) s = did (b.reply m 2 .error))
      ∧ (∀ off d, (∀ l, b.fab.lentTo m = some l → d.length % 4096 = 0 → lentSpan l off.toNat (d.length / 4096) = false) →
        exec (.remoteMemoryWrite m off d) s = did (b.reply m 2 .error)))
    ∧ (∀ m : MsgHdr, s.inTurn m 3 = true →
      let b := s.took m 3
      let did := fun (t : State) => (Host.Outcome.next (t.caughtUp m 3).woken : Out)
      (∀ g, exec (.leaseOfferMsg m g) s = did (b.onFab fun f => { f with offers := (f.offers.filter fun o => o.1 ≠ m.src) ++ if g.toNat = 0 then [] else [(m.src, g.toNat)] }))
      ∧ (∀ g, min g.toNat (maxNat b.fab.offered) = 0 ∨ (b.fab.lentTo m).isSome = true → exec (.leaseGrantMsg m g) s = did (b.reply m 3 .error))
      ∧ (∀ g, let big := maxNat b.fab.offered
          let n := min g.toNat big
          let rest := b.fab.offered.erase big ++ if n < big then [big - n] else []
          let v := ((b.onFab fun f => { f with offered := rest, lent := f.lent ++ [{ borrower := m.src, ref := m.context, gib := n }] }).attSize .offer (512 * sumNat rest)).attSize
            (.lent m.src m.context) (512 * n)
          n ≠ 0 → b.fab.lentTo m = none →
          exec (.leaseGrantMsg m g) s = did ((v.zeroRegion (regionUnits v.mem.att (.lent m.src m.context))).reply m 3 (.leaseGrant n)))
      ∧ (∀ w, KMap.get? b.fab.windows m.context.toNat = some w → w.lender = m.src → exec (.leaseWithdrawalNotice m) s =
        did (((b.onFab fun f => { f with windows := KMap.set f.windows m.context.toNat { w with draining := true } }).dropLeaseCopies m.context.toNat).drainWindows))
      ∧ ((∀ w, KMap.get? b.fab.windows m.context.toNat = some w → w.lender ≠ m.src) → exec (.leaseWithdrawalNotice m) s = did b)
      ∧ (∀ l, b.fab.lentTo m = some l →
        let v := (b.zeroRegion (regionUnits b.mem.att (.lent l.borrower l.ref))).onFab fun f =>
          { f with lent := f.lent.filter (· ≠ l), offered := if !f.withdrawing.isEmpty then f.offered else f.offered ++ [l.gib] }
        exec (.leaseReleaseMsg m) s = did (((v.attSize (.lent l.borrower l.ref) 0).attSize .offer (512 * sumNat v.fab.offered)).endWithdraw))
      ∧ (b.fab.lentTo m = none → exec (.leaseReleaseMsg m) s = did b))
    ∧ (∀ (m : MsgHdr) (g : Byte) a, m.isReply = true → s.departed = false → s.fab.acquiring.find? (fun a => a.2.1 == m.src && m.context == BitVec.ofNat 64 a.2.2) = some a →
      let v := s.onFab fun f => { f with acquiring := f.acquiring.filter (· ≠ a) }
      (m.isError = false → exec (.leaseGrantMsg m g) s = .next ((v.onFab fun f =>
        { f with windows := KMap.set f.windows a.2.2 { lender := m.src, gib := g.toNat, draining := false } }).finish a.1 stOk 0 a.2.2 m.src.toNat g.toNat 0).woken)
      ∧ (m.isError = true → exec (.leaseGrantMsg m g) s = .next (v.finish a.1 stNotFound 0 0 0 0 0).woken))
    ∧ (s.clear 0x0903 fabBuddyChecks h pb = true →
      exec (.fabBuddy h pb) s = .next (((if w16At pb 0 = u.fab.buddy then u else u.closeMirrors).onFab fun f => { f with buddy := w16At pb 0, buddyDown := false }).finish
        g stOk 0 (w16At pb 0).toNat 0 0 0).woken)

/-- fw.stage keeps a verified image in the attic (R412); fw.commit writes it to the boot region, burns its SVN, which never goes back, and empties the stage (R413).
bbx.read reports records in SEQ order from START, at most MAX, setting READ (R377); bbx.ack unseals what was read up to its number (R376). -/
def Obligations.FirmwareAndTheBlackBox : Prop :=
  ∀ (s : State) (h : Hdr) (pb : Bytes),
    let u := s.taken h
    let g := s.stamped h
    (∀ x, s.clear 0x0A01 fwStageChecks h pb = true → fwVerify u.boot.svnFused (dlBytes u pb 0) = .inr x →
      exec (.fwStage h pb) s = .next (((if u.boot.staged.isNone then u.attSize .staging stageGranules else u).onBoot fun b =>
        { b with staged := some x }).finish g stOk 0 x.version.toNat 0 0 0).woken)
    ∧ (∀ f, s.clear 0x0A01 fwStageChecks h pb = true → fwVerify u.boot.svnFused (dlBytes u pb 0) = .inl f →
      exec (.fwStage h pb) s = .next (u.finish g f.1 f.2 0 0 0 0).woken)
    ∧ (∀ x, s.clear 0x0A02 fwCommitChecks h pb = true → u.boot.staged = some x → u.bootWritable = true → x.passes u.boot.svnFused = true → u.boot.recovery = false →
      exec (.fwCommit h pb) s = .next (((((u.onBoot fun b => { b with bootImg := some x }).onBoot fun b => { b with svnFused := max b.svnFused x.svn, staged := none }).serviceAction
        4 0 x.version.toNat).attSize .staging 0).finish g stOk 0 x.version.toNat 0 0 0).woken)
    ∧ (∀ x, s.clear 0x0A02 fwCommitChecks h pb = true → u.boot.staged = some x → u.bootWritable = true → x.passes u.boot.svnFused = false →
      exec (.fwCommit h pb) s = .next (((u.onBoot fun b => { b with bootImg := some x }).serviceAction 4 1 x.version.toNat).finish g stDevice 0 0 0 0 0).woken)
    ∧ (s.clear 0x0B01 bbxReadChecks h pb = true →
      let l := u.bbx.from_ (fld pb 0 8) (fld pb 8 4) (fld pb 12 1 == 1)
      let nx := u.bbx.nextFrom (fld pb 0 8) l
      64 * l.length ≤ fld pb 24 4 →
      exec (.bbxRead h pb) s = .next (((u.onBbx fun b => b.markRead l).hostWrite (fld pb 16 8) (l.flatMap fun r => BbxRec.bytes { r with read := true })).finish g stOk 0
        l.length (nx % 2 ^ 32) (nx / 2 ^ 32) 0).woken)
    ∧ (s.clear 0x0B02 bbxAckChecks h pb = true →
      let hit := fun (r : BbxRec) => r.sealed_ && r.read && decide (r.seq.toNat ≤ fld pb 0 8)
      let n := (u.bbx.recs.filter hit).length
      exec (.bbxAck h pb) s = .next (((u.onBbx fun b => { b with recs := b.recs.map fun r => if hit r then { r with sealed_ := false } else r, sealedN := b.sealedN - n }).serviceAction
        6 0 (fld pb 0 8)).finish g stOk 0 n 0 0 0).woken)
    ∧ ∀ r : BbxRec, r.bytes.length = 64


/-! ## Launches and transfers -/

/-- A launch starts once its layers have landed and its cores are ready (R115): each core begins its program at instruction 0 with its segments bound, its share of the
items, at most ceil(count / cores) of a group of candidates (R24, R195, R223), its semaphores 0 and the constants in its SRAM; none starts while a hold stands (R381, R395), one that
no live request is left in is passed over (R209, R242), and one without a program fails its requests. A launch ends once every core has ended, and the boundary follows the last. -/
def Obligations.LaunchesRunAndEnd : Prop :=
  ∀ (s : State) (part : PartNo),
    let p := part.val
    let x := s.part p
    let pass := fun (v : State) (run : StepRun) (rest : List Launch) =>
      (Host.Outcome.next (((((v.onPart p fun x => { x with run := some { run with launches := rest } }).streamFill p).tryBoundary p).settle).woken) : Out)
    (∀ run l rest, x.run = some run → run.launches = l :: rest → l.started = false → s.holdsLaunches = true → exec (.launchStart part) s = .next s.woken)
    ∧ (∀ run l rest, x.run = some run → run.launches = l :: rest → l.started = false → s.holdsLaunches = false →
      (s.liveSlots run l = [] → exec (.launchStart part) s = pass s run rest)
      ∧ (s.liveSlots run l ≠ [] →
        let l := { l with slots := s.liveSlots run l }
        let its := run.items.filter fun i => l.slots.contains i.slot
        (s.launchMay p l = false → exec (.launchStart part) s = .next s.woken)
        ∧ (∀ tid m g, s.launchMay p l = true → s.launchProg p l = some (tid, m, g) → (x.cores.take g.cores).all s.coreReady = true →
          let others := ((s.launchTenants l).filter fun t => t.toNat ≠ tid).map fun t => t.toNat
          ∃ free : Nat, exec (.launchStart part) s = .next (((((({ s with freeCtr := s.freeCtr + 1 } : State).each (enum (x.cores.take g.cores)) fun v y =>
            v.onCore y.2 fun k => k.begin_ g (bindSegs m g tid others) l.slots (its.flatMap (v.givenOf g.cores y.1))
              (launchWords run l g.cores y.1 free)).onMem fun y =>
            { y with bytes := (x.cores.take g.cores).foldl (fun b c => Mem.writeN b (coreBase c) (slice m.consts g.constOff g.constLen)) y.bytes }).onPart p fun x =>
            { x with run := some { run with launches := { l with started := true } :: rest } })).woken))
        ∧ (s.launchMay p l = true → s.launchProg p l = none →
          exec (.launchStart part) s = pass (s.each l.slots fun s n => s.endReq n stNotFound 0) run rest)))
    ∧ (∀ k g segs slots given words, let b := (k : Core).begin_ g segs slots given words
      b.pc = 0 ∧ b.sems = List.replicate 16 0 ∧ b.prog = g.insns ∧ b.segs = segs ∧ b.given = given ∧ b.acc = k.acc ∧ b.sc = k.sc)
    ∧ (∀ (cores pos : Nat) (it : Item), it.kind = .pairs ∨ it.kind = .heads → (s.givenOf cores pos it).length ≤ ceilDiv it.seqs cores)
    ∧ (∀ (cyc : W64) (outs : List LaunchOut), s.launchOver p = false → exec (.launchEnd part cyc outs) s = .next s.woken)
    ∧ (∀ (cyc : W64) (outs : List LaunchOut), s.launchOver p = true →
      let v := s.onPart p fun x => { x with run := x.run.map fun r => { r with launches := r.launches.drop 1, cycles := r.cycles + cyc.toNat, outs := outs ++ r.outs } }
      let w := v.each (v.part p).cores fun s c => s.onCore c fun k =>
        { k with busy := false, ended := false, prog := [], slots := [], given := [], preempt := false, held := none, atMark := none, loops := [] }
      let y := w.each (w.part p).cores fun s c => if s.underTest c then s.testMove c false else s.dueMove c false
      exec (.launchEnd part cyc outs) s = .next (((y.streamFill p).tryBoundary p).settle).woken)
    ∧ ∀ run l rest, x.run = some run → run.launches = l :: rest → l.started = true →
      (s.launchOver p = true ↔ ∀ c ∈ x.cores, (s.core c).busy = false ∨ (s.core c).ended = true)

/-- A layer that lands starts the next of the stream, and one whose frames fail is fetched once more, then recorded as an uncorrectable attic error (R112, R115); a pager transfer
completes in turn (R124); a mask that completes once its forming has begun frees a boundary that waits on it (R257); a regulated transfer starts where its bucket, refilled, holds its
tokens, or where it may borrow an idle resource, which no other partition's transfer waits on, and one of many frames starts as many as the bucket holds tokens for (R131); a closed window gives SLOWDOWN (R133). -/
def Obligations.LandingPagerAndRegulators : Prop :=
  ∀ (s : State) (part : PartNo),
    let p := part.val
    let x := s.part p
    (∀ (place : Fin 64) (l : LandSlot), x.land[place.val]? = some l → l.landed = false → x.waitsFor (.layer l.model l.layer) = false →
      let put := fun (v : LandSlot) => s.onPart p fun x => { x with land := setAt x.land place.val v }
      exec (.layerLanded part place true) s = .next ((put { l with landed := true }).streamFill p).woken
      ∧ (l.retried = false → exec (.layerLanded part place false) s = .next (put { l with retried := true }).woken)
      ∧ (l.retried = true → exec (.layerLanded part place false) s = .next ((put { l with retried := false }).frameError p [] none).woken))
    ∧ (x.pagerOps ≠ [] → x.waitsFor .pager = false → ((s.pagerDone p).part p).run = none →
      exec (.pagerTransferDone part) s = .next (((s.pagerDone p).pagerNext p).drainWindows.settle).woken)
    ∧ (∀ run, x.pagerOps ≠ [] → x.waitsFor .pager = false → ((s.pagerDone p).part p).run = some run → run.empty = true →
      exec (.pagerTransferDone part) s = .next (((s.pagerDone p).boundary p run).drainWindows.settle).woken)
    ∧ (∀ run, x.pagerOps ≠ [] → x.waitsFor .pager = false → ((s.pagerDone p).part p).run = some run → run.empty = false →
      exec (.pagerTransferDone part) s = .next (((s.pagerDone p).pagerNext p).drainWindows.settle).woken)
    ∧ (∀ (slot : SlotNo) (r : Req), s.req? slot.val = some r → s.maskBegun r slot.val = false → exec (.grammarMaskReady slot) s = .next s.woken)
    ∧ (∀ (slot : SlotNo) (r : Req), s.req? slot.val = some r → r.running = true → r.grammar.isSome = true → s.maskBegun r slot.val = true →
      exec (.grammarMaskReady slot) s = .next (((s.onReq slot.val fun x => { x with maskReady := true }).tryBoundary r.part.val).settle).woken)
    ∧ (∀ (res : Resource) (t : Nat × Transfer) (r : Regulator),
      let v := s.onPart p fun x => { x with transfers := x.transfers.filter fun t => t.1 ≠ resourceNo res || !s.transferGone p (resourceNo res) t.2 }
      let w := v.refill p (resourceNo res)
      let level := (((w.part p).regs[resourceNo res]?).getD r).tokens
      let drop := fun (y : State) => y.onPart p fun x => { x with transfers := dropFirst (fun z => z == t) x.transfers }
      let go := fun (y : State) => (match t.2.key with
        | .xfer c => y.onCore c fun k => { k with xfers := startXfer (resourceNo res) k.xfers }
        | .scan adm c => y.issueScan adm c
        | .fetch n => y.issueFetch n
        | _ => y : State)
      let frames := fun (y : State) => (match t.2.key with
        | .xfer _ => y
        | _ => (y.spend p (resourceNo res) (min t.2.units level.toNat)).onPart p fun x =>
          { x with transfers := x.transfers.map fun z => if z == t then (t.1, { t.2 with units := t.2.units - min t.2.units level.toNat }) else z } : State)
      let busy := w.sch.parts.any fun x => x.1 ≠ p && x.2.transfers.any fun t => t.1 == resourceNo res
      (v.part p).transfers.find? (fun t => t.1 == resourceNo res) = some t → (v.part p).regs[resourceNo res]? = some r →
      (r.en = false → exec (.regulatedTransferStart part res) s = .next (go (drop v)))
      ∧ (r.en = true → (t.2.units : Int) ≤ level → exec (.regulatedTransferStart part res) s = .next (go (drop (w.spend p (resourceNo res) t.2.units))))
      ∧ (r.en = true → level < (t.2.units : Int) → (r.borrow = false ∨ busy = true) → exec (.regulatedTransferStart part res) s = .next (frames w))
      ∧ (r.en = true → level < (t.2.units : Int) → r.borrow = true → busy = false → ∃ idle : Bool,
        let u : State := { w with freeCtr := w.freeCtr + 1 }
        exec (.regulatedTransferStart part res) s = .next (if idle then go (drop (u.spend p (resourceNo res) t.2.units)) else frames u)))
    ∧ (∀ obs int : W64, exec (.slowdownWindowClose part obs int) s = .next (s.onPart p fun x =>
        { x with slow := BitVec.ofNat 32 (slowdown obs.toNat int.toNat), stallObs := BitVec.ofNat 32 (min obs.toNat 0xFFFFFFFF),
                 stallInt := BitVec.ofNat 32 (min int.toNat 0xFFFFFFFF) }))
    ∧ ∀ obs int : Nat, slowdown obs 0 = 1024 ∧ (0 < int → int < obs → slowdown obs int = min 65535 (1024 * obs / (obs - int)))

/-! ## Core instructions -/

/-- An instruction issues only where it is the one at the program counter of a running core; else nothing happens (the model's choice, log entry 70). One whose
operands break a rule is a program fault (R33, R84, R85), one that must wait is held at its place, and any other is done and the next follows, by the loop stack (R94). In chained
mode it reads its operands as they stand; in interleaved mode a unit's instruction reads what the writes in flight may have made of them (R50). -/
def Obligations.InstructionsIssueInOrder : Prop :=
  ∀ r ∈ coreRows, ∀ (core : CoreNo) (w : Insn) (s : State),
    let c := core.val
    (s.issues c r.cls r.op w = false → exec (r.row core w) s = .next s.woken)
    ∧ (∀ p, (s.core c).lat = false ∨ 5 < r.cls → s.issues c r.cls r.op w = true → s.performSeen p c w = s.perform p c w)
    ∧ ∀ p, s.issues c r.cls r.op w = true → s.partOf c = some p →
      (s.performSeen p c w = .fault → exec (r.row core w) s = .next (s.programFault c).woken)
      ∧ (∀ t, s.performSeen p c w = .hold t → exec (r.row core w) s = .next (t.onCore c fun k => { k with held := some w }).woken)
      ∧ (∀ t, s.performSeen p c w = .done t → exec (r.row core w) s = .next (t.onCore c fun k => k.goto (k.pc + 1)).woken)
      ∧ ∀ t pc, s.performSeen p c w = .jump t pc → exec (r.row core w) s = .next (t.onCore c fun k => k.goto pc).woken

/-- No instruction writes memory when it issues, unless it is a program fault or an XFER that meets a frame that fails its check or an address of no memory (R106, R112): every byte
of SRAM, of the shares and of the host reads as before, and no other command's queue pair moves. What it writes is visible when it completes (R86, R90). -/
def Obligations.IssueWritesNoMemory : Prop :=
  ∀ r ∈ coreRows, ∀ (core : CoreNo) (w : Insn) (s t : State) (p : Nat),
    let u := s.seen core.val
    s.calm = true → s.issues core.val r.cls r.op w = true → s.partOf core.val = some p → s.performSeen p core.val w ≠ .fault →
    (r.cls = 1 → ∀ d, u.xferData p core.val w = some d → d.bad = none) →
    (r.cls = 1 → ∀ l, u.segSpan p core.val (xferDst (u.core core.val) w) (xferTo (u.core core.val) w) (xferLen w) = some l →
      (u.xferPlaces p core.val w ++ l).all (populated u.leaseSize) = true) →
    exec (r.row core w) s = .next t → t.mem = s.mem ∧ t.host = s.host ∧ t.porch = s.porch

/-- CTRL and MARK instructions (Table 4.11, R94, R95): what each leaves of the core's scalars, segments, loop stack and program counter; MARK keeps its number, and
where a pre-emption is asked for the core stands at it. Past the last instruction of the innermost
body the loop runs again while runs are left; elsewhere the counter goes where it is sent. -/
def Obligations.ControlInstructions : Prop :=
  (∀ (s : State) (core : CoreNo) (w : Insn) (p : Nat),
    let c := core.val
    let k := s.core c
    let f := Wd.at_ w
    let a := k.scalar (f 115 112)
    let b := k.scalar (f 111 108)
    let next := fun (g : Core → Core) => (Host.Outcome.next (((s.onCore c g).onCore c fun k => k.goto (k.pc + 1)).woken) : Out)
    let at_ := fun (pc : Nat) => (Host.Outcome.next ((s.onCore c fun k => k.goto pc).woken) : Out)
    let set := fun (v : Nat) => next fun k => { k with sc := setAt k.sc (f 119 116) (BitVec.ofNat 32 v) }
    let loops := fun (n : Nat) => (Host.Outcome.next (((s.onCore c fun k => { k with loops := (k.pc + 1, k.pc + f 63 32, n) :: k.loops }).onCore c fun x => x.goto (k.pc + 1)).woken) : Out)
    s.partOf c = some p →
    (s.issues c 7 0 w = true → exec (.nop core w) s = at_ (k.pc + 1))
    ∧ (s.issues c 7 1 w = true → exec (.loadi core w) s = set (f 95 64))
    ∧ (s.issues c 7 2 w = true → exec (.loadp core w) s = set ((k.words[f 95 64]?).getD 0).toNat)
    ∧ (s.issues c 7 3 w = true → exec (.addi core w) s = set (a + f 95 64))
    ∧ (s.issues c 7 4 w = true → exec (.ctrlAdd core w) s = set (a + b))
    ∧ (s.issues c 7 5 w = true → exec (.muli core w) s = set (a * f 95 64))
    ∧ (s.issues c 7 6 w = true → f 95 64 = 0 → exec (.loop core w) s = at_ (k.pc + 1 + f 63 32))
    ∧ (s.issues c 7 6 w = true → f 95 64 ≠ 0 → exec (.loop core w) s = loops (f 95 64))
    ∧ (s.issues c 7 7 w = true → a = 0 → exec (.loopr core w) s = at_ (k.pc + 1 + f 63 32))
    ∧ (s.issues c 7 7 w = true → a ≠ 0 → exec (.loopr core w) s = loops a)
    ∧ (s.issues c 7 8 w = true → condHolds (f 107 105) a b = true → exec (.branch core w) s = at_ ((k.pc : Int) + 1 + imm32 (f 95 64)).toNat)
    ∧ (s.issues c 7 8 w = true → condHolds (f 107 105) a b = false → exec (.branch core w) s = at_ (k.pc + 1))
    ∧ (s.issues c 7 9 w = true →
      exec (.setseg core w) s = next fun k => { k with segs := modAt k.segs (f 119 116) fun g => { g with base := g.launchBase + (a + f 95 64) % 2 ^ 32 * 4096 } })
    ∧ (s.issues c 7 10 w = true → k.drained = true → exec (.endProgram core w) s = next fun k => { k with ended := true })
    ∧ (s.issues c 7 10 w = true → k.drained = false → exec (.endProgram core w) s = .next (s.onCore c fun k => { k with held := some w }).woken)
    ∧ (s.issues c 8 0 w = true →
      exec (.mark core w) s = next fun k => { k with lastMark := (markMasks w).2.2, atMark := if k.preempt then some (markMasks w) else none }))
  ∧ (∀ (k : Core) (first last left : Nat) (l : List (Nat × Nat × Nat)), k.loops = (first, last, left + 2) :: l → 
    (k.goto (last + 1)).pc = first ∧ (k.goto (last + 1)).loops = (first, last, left + 1) :: l)
  ∧ (∀ (k : Core) (first last : Nat) (l : List (Nat × Nat × Nat)), k.loops = (first, last, 1) :: l → k.goto (last + 1) = { k with loops := l }.goto (last + 1))
  ∧ (∀ (k : Core) (pc first last left : Nat) (l : List (Nat × Nat × Nat)), k.loops = (first, last, left) :: l → pc ≠ last + 1 →
    (k.goto pc).pc = pc ∧ (k.goto pc).loops = k.loops)
  ∧ (∀ (k : Core) (pc : Nat), k.loops = [] → (k.goto pc).pc = pc ∧ (k.goto pc).loops = [])
  ∧ ∀ (k : Core) (pc : Nat), (k.goto pc).held = none ∧ (k.goto pc).sc = k.sc ∧ (k.goto pc).sems = k.sems ∧ (k.goto pc).acc = k.acc ∧ (k.goto pc).segs = k.segs

/-- SYNC instructions (R90 to R92): a signal waits for the core's earlier writes, its transfers', its units' and its passes', and is then added to its semaphore; a wait subtracts COUNT
once the semaphore holds it; the last member of a barrier completes it for all, and one that meets an arrival at the same barrier with another GROUP that concerns either of the two is a
program fault; a fence waits for everything. A semaphore that would pass 65,535 is a program fault. -/
def Obligations.SynchronisingInstructions : Prop :=
  ∀ (s : State) (core : CoreNo) (w : Insn) (p : Nat),
    let c := core.val
    let k := s.core c
    let f := Wd.at_ w
    let n := BitVec.ofNat 16 (f 109 94)
    let v := (k.sems[f 119 116]?).getD 0
    let g := BitVec.ofNat 32 (f 93 62)
    let me := s.position p c
    let others := ((List.range 32).filter fun i => g.getLsbD i).filter (· ≠ me)
    let next := fun (t : State) => (Host.Outcome.next ((t.onCore c fun k => k.goto (k.pc + 1)).woken) : Out)
    let held := fun (t : State) => (Host.Outcome.next ((t.onCore c fun k => { k with held := some w }).woken) : Out)
    s.partOf c = some p →
    (s.issues c 6 0 w = true → exec (.syncSignal core w) s = next (s.onCore c fun k =>
      { k with sigs := k.sigs ++ [{ target := if f 110 110 = 1 then me else f 115 111, sem := Fin.ofNat 16 (f 119 116), count := n,
                                    xfers := k.xfers.length, units := k.unitOps.length, passes := k.passes.length }] }))
    ∧ (s.issues c 6 1 w = true → n.toNat ≤ v.toNat → exec (.syncWait core w) s = next (s.onCore c fun k => { k with sems := setAt k.sems (f 119 116) (v - n) }))
    ∧ (s.issues c 6 1 w = true → n = 0 → exec (.syncWait core w) s = next (s.onCore c fun k => k))
    ∧ (s.issues c 6 1 w = true → v.toNat < n.toNat → exec (.syncWait core w) s = held s)
    ∧ (s.issues c 6 2 w = true → g.getLsbD me = true → s.barrierClash p c w = false → (∀ i ∈ others, s.arrival p i = some (f 61 58, g)) → exec (.syncBarrier core w) s =
      next (s.each others fun s i => match s.peerCore p i with | some d => s.onCore d fun k => { (k.goto (k.pc + 1)) with barrier := none } | none => s))
    ∧ (s.issues c 6 2 w = true → g.getLsbD me = true → s.barrierClash p c w = false → (∃ i ∈ others, s.arrival p i ≠ some (f 61 58, g)) → exec (.syncBarrier core w) s =
      held (s.onCore c fun k => { k with barrier := some (f 61 58, g) }))
    ∧ (s.issues c 6 2 w = true → (g.getLsbD me = false ∨ s.barrierClash p c w = true) → exec (.syncBarrier core w) s = .next (s.programFault c).woken)
    ∧ (s.issues c 6 3 w = true → k.drained = true → exec (.syncFence core w) s = next s)
    ∧ (s.issues c 6 3 w = true → k.drained = false → exec (.syncFence core w) s = held s)
    ∧ (∀ x rest d, k.sigs = x :: rest → x.xfers = 0 → x.units = 0 → x.passes = 0 →
      let t := s.onCore c fun k => { k with sigs := rest }
      let y := ((t.core d).sems[x.sem.val]?).getD 0
      (t.core c).held_ x.target = true → t.peerCore p x.target = some d →
      (y.toNat + x.count.toNat ≤ 65535 → exec (.signalTakeEffect core) s =
        .next (((t.onCore d fun k => { k with sems := setAt k.sems x.sem.val (y + x.count) }).tryHeld d).tryHeld c).woken)
      ∧ (65535 < y.toNat + x.count.toNat → exec (.signalTakeEffect core) s = .next (t.programFault c).woken))
    ∧ ∀ x rest, k.sigs = x :: rest → (x.xfers ≠ 0 ∨ x.units ≠ 0 ∨ x.passes ≠ 0) → exec (.signalTakeEffect core) s = .next s.woken


/-- XFER and MMA (R36, R37, R85 to R87, R110 to R112, R131, R387): an XFER takes its bytes at issue, a copy the source's, a zero fill zeros, a decompression those of its frames in
order, and goes into flight behind at most 15 others. It is charged to the regulator of the memory it touches, or waits on it, one throttle event. A destination that its segment
forbids is a program fault, and so is a source; a frame that fails is an attic error and nothing is written. An MMA adds one pass for each engine of EMASK, whose rows are each vector
against each column, raises the activity of the arrays it runs on, and waits where 8 cores have begun to ramp up in the window. In interleaved mode the operands are what the writes in
flight may have made of them. -/
def Obligations.MovesAndPasses : Prop :=
  ∀ (s : State) (core : CoreNo) (w : Insn) (p : Nat),
    let c := core.val
    let u := s.seen c
    let k := u.core c
    let go := fun (t : State) => if (s.core c).lat then t.unseen s c else t
    let next := fun (t : State) => (Host.Outcome.next (((go t).onCore c fun k => k.goto (k.pc + 1)).woken) : Out)
    let held := fun (t : State) => (Host.Outcome.next (((go t).onCore c fun k => { k with held := some w }).woken) : Out)
    let flies := fun (t : State) (runs : List (Nat × Bytes)) (waits : Option Nat) => t.onCore c fun k =>
      { k with xfers := k.xfers ++ [{ runs := runs, reads := u.xferReads p c w, sem := if Wd.at_ w 27 27 = 1 then some (Fin.ofNat 16 (Wd.at_ w 26 23)) else none, sel := false, waits := waits }] }
    let units := ceilDiv (xferLen w) 4096
    s.partOf c = some p →
    (∀ r ∈ ([⟨.xferCopy, 1, 0⟩, ⟨.xferDecompress, 1, 1⟩, ⟨.xferZeroFill, 1, 2⟩] : List CoreRow), s.issues c 1 r.op w = true →
      (∀ places d, u.segSpan p c (xferDst k w) (xferTo k w) (xferLen w) = some places → u.xferHeld p c w = false → u.xferData p c w = some d →
        ((u.xferPlaces p c w ++ places).find? fun a => !populated u.leaseSize a) = none →
        (d.bad = none → xferRes k w = none → exec (r.row core w) s = next (flies u (places.zip (pieces 64 d.bytes)) none))
        ∧ (∀ q v waits, d.bad = none → xferRes k w = some q → u.regulate p q units false (.xfer c) k.slots = (v, waits) →
          exec (r.row core w) s = next (flies v (places.zip (pieces 64 d.bytes)) (if waits then some q else none)))
        ∧ ∀ o v waits, d.bad = some o → ((xferRes k w = none ∧ v = u.frameError p k.slots (u.segPlace p c (xferSrc k w) ((xferSrc k w).base + o)) ∧ waits = none)
            ∨ ∃ q b, xferRes k w = some q ∧ waits = (if b then some q else none)
              ∧ (u.frameError p k.slots (u.segPlace p c (xferSrc k w) ((xferSrc k w).base + o))).regulate p q units false (.xfer c) k.slots = (v, b)) →
          exec (r.row core w) s = next (flies v [] waits))
      ∧ (u.segSpan p c (xferDst k w) (xferTo k w) (xferLen w) = none → exec (r.row core w) s = .next (s.programFault c).woken)
      ∧ ∀ places, u.segSpan p c (xferDst k w) (xferTo k w) (xferLen w) = some places →
        (u.xferHeld p c w = true → exec (r.row core w) s = held u)
        ∧ (u.xferHeld p c w = false → u.xferData p c w = none → exec (r.row core w) s = .next (s.programFault c).woken)
        ∧ ∀ d a, u.xferHeld p c w = false → u.xferData p c w = some d → ((u.xferPlaces p c w ++ places).find? fun a => !populated u.leaseSize a) = some a →
          exec (r.row core w) s = next (u.addrFault p c a))
    ∧ (u.xferHeld p c w = false ↔ k.xfers.length < 16 ∧ k.hazard (u.xferReads p c w) (xferWrites k c w) = false)
    ∧ (s.issues c 1 0 w = true → u.xferData p c w = (u.segRead p c (xferSrc k w) (xferFrom k w) (xferLen w)).map fun b => ⟨b, [], none⟩)
    ∧ (s.issues c 1 2 w = true → u.xferData p c w = some ⟨List.replicate (xferLen w) 0, [], none⟩)
    ∧ (s.issues c 1 1 w = true → u.xferData p c w =
      (framesRun (fun o => u.segRead p c (xferSrc k w) o 4096) (xferLen w) (xferFrom k w) (xferLen w)).map fun x => { x with bytes := slice x.bytes 0 (xferLen w) })
    ∧ (∀ (rd : Nat → Option Bytes) (fuel off n : Nat) (f : Bytes), 0 < n → rd off = some f →
      (∀ b, frameDecode f = some b → frameCheck f b = true →
        framesRun rd (fuel + 1) off n = (framesRun rd fuel (off + 4096) (n - b.length)).map fun x => ⟨b ++ x.bytes, off :: x.offs, x.bad⟩)
      ∧ ((∀ b, frameDecode f = some b → frameCheck f b = false) → framesRun rd (fuel + 1) off n = some ⟨[], [off], some off⟩))
    ∧ (∀ q r, (u.part p).regs[q]? = some r →
      let v := u.refill p q
      let level := (((v.part p).regs[q]?).getD r).tokens
      let late := v.onPart p fun x => { x with transfers := x.transfers ++ [(q, { units := units, key := .xfer c })] }
      let ten : W16 := match k.slots.head?.bind late.req? with | some q => q.tenant | none => 0xFFFF
      (r.en = false → u.regulate p q units false (.xfer c) k.slots = (u, false))
      ∧ (r.en = true → (units : Int) ≤ level → u.regulate p q units false (.xfer c) k.slots = (v.spend p q units, false))
      ∧ (r.en = true → level < (units : Int) → r.borrow = false → u.regulate p q units false (.xfer c) k.slots =
        ((late.charge p ten fun a => { a with throttle := satAdd 64 a.throttle 1 }).each k.slots fun s n => s.onReq n fun q => { q with throttled := true }, true)))
    ∧ (s.issues c 2 0 w = true → sramOk (mmaGroup w, 128) = true → k.waitsFor c [(mmaGroup w, 128)] = true → exec (.mmaPass core w) s = held u)
    ∧ (s.issues c 2 0 w = true → k.waitsFor c [(mmaGroup w, 128)] = false → u.mmaOk c w = false → exec (.mmaPass core w) s = .next (s.programFault c).woken)
    ∧ (s.issues c 2 0 w = true → k.waitsFor c [(mmaGroup w, 128)] = false → u.mmaOk c w = true →
      (k.hazard ((u.mmaReads c w).map (absRange c)) [] = true → exec (.mmaPass core w) s = held u)
      ∧ (k.hazard ((u.mmaReads c w).map (absRange c)) [] = false →
        let pass := fun (t : State) => t.onCore c fun k =>
          { k with passes := k.passes ++ (u.mmaSlots c w).map (u.mmaPass c w), activity := (u.mmaSlots c w).foldl (fun l x => setAt l (k.arrayOf x.eng) 8) k.activity }
        (u.mmaIdle c w = false → exec (.mmaPass core w) s = next (pass u))
        ∧ (u.mmaIdle c w = true → u.pwr.rampWindow < 8 → exec (.mmaPass core w) s = next (pass (u.onPwr fun x => { x with rampWindow := x.rampWindow + 1 })))
        ∧ (u.mmaIdle c w = true → 8 ≤ u.pwr.rampWindow →
          exec (.mmaPass core w) s = held (u.onPwr fun x => if x.rampWait.contains c then x else { x with rampWait := x.rampWait ++ [c] }))))
    ∧ (u.mmaActs c w).length = mmaCount k w
    ∧ ∀ x, (u.mmaPass c w x).engine = x.eng ∧ (u.mmaPass c w x).base = x.base ∧ (u.mmaPass c w x).rows.length = mmaCount k w ∧ (u.mmaCols c w x).length = 128
        ∧ ∀ j i a b, (u.mmaActs c w)[j]? = some a → (u.mmaCols c w x)[i]? = some b → ((u.mmaPass c w x).rows[j]?).bind (fun row => row[i]?) =
          some (column (KMap.getD (k.accOf x.eng) (accKey x.eng (x.base + j) i) 0) x.accum (columnSegs (mmaFmt w) x.fmt a b))

/-- SFU, VEC and SEL instructions (R63 to R89): each reads its operands at issue, in interleaved mode as the writes in flight may have made them (R50), and goes into flight with what it
will write; in chained mode it first waits for the records its operands are found through (R49). The fused form gives its function of each element, VEC
its operation element by element, SEL the first K of a row or of two lists; the statistics' feeds grow their states and a finish reads them. -/
def Obligations.VectorAndSelectInstructions : Prop :=
  ∀ (s : State) (core : CoreNo) (w : Insn) (p : Nat),
    let c := core.val
    let u := s.seen c
    let k := u.core c
    let next := fun (t : State) => (Host.Outcome.next (((if (s.core c).lat then t.unseen s c else t).onCore c fun k => k.goto (k.pc + 1)).woken) : Out)
    let found := sfuRec w = true → k.waitsFor c [(sfuPar w, 16)] = false
    let vAbs := (vecReads w).map (absRange c)
    let vGo := fun (t : State) (free : Bool) => next (t.launchUnit c false vAbs ((vecD w).runs c ((List.range (vecRows w)).map (u.vecRow c w free))))
    let sAbs := (u.sfuReads c w).map (absRange c)
    s.partOf c = some p →
    (∀ r ∈ ([⟨.vecAdd, 4, 0⟩, ⟨.vecSubtract, 4, 1⟩, ⟨.vecMultiply, 4, 2⟩, ⟨.vecMaximum, 4, 3⟩, ⟨.vecMinimum, 4, 4⟩, ⟨.vecConvert, 4, 5⟩, ⟨.vecAbsolute, 4, 6⟩] : List CoreRow),
      s.issues c 4 r.op w = true → ((vecD w).range :: vecReads w).all sramOk = true → k.hazard vAbs [absRange c (vecD w).range] = false →
      exec (r.row core w) s = vGo u false)
    ∧ (s.issues c 4 7 w = true → ((vecD w).range :: vecReads w).all sramOk = true → k.hazard vAbs [absRange c (vecD w).range] = false →
      (vecB w ≠ 2 → exec (.vecSelect core w) s = vGo u false)
      ∧ (vecB w = 2 → ∃ free : Bool, exec (.vecSelect core w) s = vGo { u with freeCtr := u.freeCtr + 1 } free))
    ∧ (∀ (op i j : Nat) (x y : W32), Wd.at_ w 123 120 = op → op < 5 → vecB w = 0 → (u.tileRow c (vecA w) i)[j]? = some x → (u.tileRow c (vecBTile w) i)[j]? = some y →
      (u.vecRow c w false i)[j]? = some (vecOp op x y))
    ∧ (∀ r ∈ ([⟨.vecAdd, 4, 0⟩, ⟨.vecSelect, 4, 7⟩] : List CoreRow), s.issues c 4 r.op w = true → ((vecD w).range :: vecReads w).all sramOk = false →
      exec (r.row core w) s = .next (s.programFault c).woken)
    ∧ (s.issues c 3 0 w = true → found → u.sfuOk c w = true → u.sfuHeld c w = false → exec (.sfuFused core w) s = next (u.launchUnit c false sAbs ((sfuTile w).runs c (u.sfuOut c w))))
    ∧ (∀ t runs, s.issues c 3 1 w = true → found → u.sfuOk c w = true → u.sfuHeld c w = false → u.feedRows c (sfuCode w) false (sfuDst w) (u.sfuFed c w) = some (t, runs) →
      exec (.sfuStatsFeed core w) s = next (t.launchUnit c false sAbs runs))
    ∧ (∀ t runs, s.issues c 3 3 w = true → found → u.sfuOk c w = true → u.sfuHeld c w = false → u.feedRows c (sfuCode w) true (sfuDst w) (u.sfuFed c w) = some (t, runs) →
      exec (.sfuStatsFirst core w) s = next (t.launchUnit c false sAbs runs))
    ∧ (sfuCols w ≤ 4096 → ∃ t runs, u.feedRows c (sfuCode w) true (sfuDst w) (u.sfuFed c w) = some (t, runs))
    ∧ (∀ t runs, s.issues c 3 2 w = true → found → u.sfuOk c w = true → u.sfuHeld c w = false →
      u.finishRows c (sfuCode w) (sfuSrc w) (sfuDst w) (List.range (sfuRows w)) = (t, runs) → exec (.sfuStatsFinish core w) s = next (t.launchUnit c false sAbs runs))
    ∧ (s.issues c 5 0 w = true → u.selWaits c w = false → u.selOk c w = true → u.selHeld c w = false →
      let big := Wd.at_ w 115 115 == 0
      exec (.selPass core w) s =
        next (u.launchUnit c true ((u.selReads c w).map (absRange c)) [(coreBase c + selDst w, selBytes big (selK w) (selTop big (selK w) (u.selEnts c w)))]))
    ∧ ∀ d a b, s.issues c 5 1 w = true → u.selWaits c w = false → u.selOk c w = true → u.selHeld c w = false → u.selList c (selSrc w) = (d, a) → u.selList c (selMask w) = (d, b) →
      exec (.selMerge core w) s =
        next (u.launchUnit c true ((u.selReads c w).map (absRange c)) [(coreBase c + selDst w, selBytes d (selK w) (selMergeList d (selK w) a b))])

/-- What completes on a core: the oldest XFER's bytes become visible and its semaphore rises (R86, R90); an engine's oldest pass adds to its accumulators (R36), but not while the
sequencer stalls (R48), and signals behind it wait for one pass less (R90); the oldest SFU, VEC or SEL instruction writes its output. The activity of an array that runs no pass, its own
engine's or a fenced partner's, falls by one (R52, R59), a droop stretches the clock and is counted once (R55, R392). A pre-empted core is saved at its MARK to its position's save area
(R95 to R97), and one that reaches none in time is a program fault (R99). -/
def Obligations.CoresCompleteAndArePreempted : Prop :=
  ∀ (s : State) (core : CoreNo),
    let c := core.val
    let k := s.core c
    let seen := fun (x : Write) => s.onMem fun m => { m with bytes := writeRuns m.bytes x.runs }
    (∀ x rest, k.xfers = x :: rest → x.waits = none →
      let t := (seen x).onCore c fun k => { k with xfers := rest, sigs := k.sigs.map fun g => { g with xfers := g.xfers - 1 } }
      (x.sem = none → exec (.xferComplete core) s = .next (t.tryHeld c).woken)
      ∧ (∀ i, x.sem = some i → ((t.core c).sems[i.val]?).getD 0 ≠ 0xFFFF →
        exec (.xferComplete core) s = .next ((t.onCore c fun k => { k with sems := setAt k.sems i.val (BitVec.ofNat 16 ((((t.core c).sems[i.val]?).getD 0).toNat + 1)) }).tryHeld c).woken)
      ∧ (∀ i, x.sem = some i → ((t.core c).sems[i.val]?).getD 0 = 0xFFFF → ∃ n : W16,
        exec (.xferComplete core) s = .next ((({ t with freeCtr := t.freeCtr + 1 } : State).onCore c fun k => { k with sems := setAt k.sems i.val n }).tryHeld c).woken))
    ∧ (∀ (e : Fin 4) x at_, k.stalls = false → k.passes.find? (fun x => x.engine == e.val) = some x → indexOf (fun x => x.engine == e.val) k.passes = some at_ →
      exec (.passLastWrite core e) s = .next ((s.onCore c fun k =>
        { k with acc := writePass k.acc x, passes := dropFirst (fun y => y.engine == e.val) k.passes,
                 sigs := k.sigs.map fun g => if at_ < g.passes then { g with passes := g.passes - 1 } else g }).tryHeld c).woken)
    ∧ (∀ e : Fin 4, k.stalls = true → exec (.passLastWrite core e) s = .next s.woken)
    ∧ (∀ x rest, k.unitOps = x :: rest →
      exec (.sfuVecSelComplete core) s =
        .next (((seen x).onCore c fun k => { k with unitOps := rest, sigs := k.sigs.map fun g => { g with units := g.units - 1 } }).tryHeld c).woken)
    ∧ (∀ e : Fin 4, k.passes.any (fun x => k.arrayOf x.engine == e.val) = true → exec (.activityDecay core e) s = .next s)
    ∧ (∀ e : Fin 4, k.passes.any (fun x => k.arrayOf x.engine == e.val) = false → ∃ lfsr : W32, exec (.activityDecay core e) s =
      .next (({ s with freeCtr := s.freeCtr + 1 } : State).onCore c fun k => { k with activity := modAt k.activity e.val (· - 1), lfsr := setAt k.lfsr e.val lfsr }))
    ∧ (k.stretched = false → s.dom (coreDom c) = .on → exec (.droopStretch core) s = .next (s.onCore c fun k => { k with stretched := true, droops := satAdd 32 k.droops 1 }))
    ∧ (k.stretched = true → exec (.droopStretch core) s = .next s)
    ∧ exec (.stretchExit core) s = .next (s.onCore c fun k => { k with stretched := false })
    ∧ (∀ p banks groups id, s.partOf c = some p → k.saveMasks = some (banks, groups, id) →
      let t := ((s.saveCore p c banks groups).zeroDead c banks groups).onCore c fun k => { k with preempt := false, atMark := none }
      let ts := dedup ((t.core c).slots.filterMap fun n => (t.req? n).map fun r => r.tenant)
      let up := fun (a : Acct) => { a with preempt := satAdd 64 a.preempt 1 }
      let u := (t.onPart p fun x => { x with acct := up x.acct }).onSch fun x => { x with tenants := ts.foldl (fun m t => KMap.mod m t.toNat fun y => { y with acct := up y.acct }) x.tenants }
      exec (.preemptSave core) s = .next (if u.underTest c then u.testMove c true else u.dueMove c true).woken)
    ∧ (∀ m, k.preempt = true → k.drained = true → k.atMark = some m → k.saveMasks = some m)
    ∧ (k.preempt = true → k.busy = true → k.atMark = none → exec (.preemptWatchdog core) s = .next (s.programFault c).woken)
    ∧ (k.preempt = false → exec (.preemptWatchdog core) s = .next s.woken)
    ∧ ∀ p, s.partOf c = some p → k.busy = true → k.ended = false → k.held = none →
      let t := ((s.faultRec 3 4 c k.pc 1 (some p) (s.stepSlots p) 0).abandonStep p).onCore c fun k => { k with dogs := k.dogs + 1 }
      let u := if 2 ≤ k.dogs + 1 then t.retireCore c else t
      exec (.sequencerWatchdog core) s = .next ((u.dueMoves (u.part p).cores).settle).woken


/-! ## Retrieval, tables and the cellar as they go on -/

/-- Stage 5 and stage 6 (R143 to R147, R166): a controller gives one of its 64 contexts to the waiting job with the lowest admission number; a page that comes up is scored and its job's
result given with the last, and one that cannot be read gives no record (R288); a passage's text is that of the exact version its candidate carries, and a candidate whose page cannot be
read, or whose version the store has not, is dropped. A mutation is published in its order (R148), once the pages of its text are acknowledged (R273), and its command completes with its last entry.
Another module's search is run on this member's own snapshot, held until its release, or turned away with ERROR, and a text fetch brings the passage's text (R346 to R348); the answers reach
the search and the request that asked. -/
def Obligations.RetrievalGoesOn : Prop :=
  ∀ (s : State) (ctrl : CtrlNo) (index : IndexNo),
    let c := ctrl.val
    let i := index.val
    (64 ≤ (s.ret.ctx[c]?).getD 0 → exec (.scanPlanDispatch ctrl) s = .next s.woken)
    ∧ (∀ j rest, (s.ret.ctx[c]?).getD 0 < 64 → sortBy (fun a b : Job => decide (a.adm.toNat < b.adm.toNat)) (s.ret.jobs.filter fun j => j.queued.contains c) = j :: rest →
      let v := (s.onRet fun r => { r with ctx := modAt r.ctx c (· + 1) }).onJob j.adm fun x => { x with queued := x.queued.filter (· ≠ c), holds := x.holds ++ [c] }
      (j.remote.isSome = true → exec (.scanPlanDispatch ctrl) s = .next (v.issueScan j.adm c).woken)
      ∧ ∀ t waits, j.remote = none → v.regulate j.part 2 (4 * (j.reads.filter fun x => x.1 == c).length) false (.scan j.adm c) j.slot.toList = (t, waits) →
        exec (.scanPlanDispatch ctrl) s = .next (if waits then t else t.issueScan j.adm c).woken)
    ∧ (∀ (adm : W64) (page : W32) (j : Job), s.job? adm = some j → j.holds.contains c = true → j.reads.contains (c, page.toNat) = true →
      (s.part j.part).waitsFor (.scan adm c) = false → s.cel.reading (pageKey c page.toNat) (.scan adm) = false →
      let ends := fun (t : State) (ok : Bool) =>
        ((((if j.remote.isSome then t else t.chargeCellar j.part j.tenant 16384).scorePage adm c page.toNat ok).dispatch c).jobResult adm).settle.woken
      (s.cel.pageReadable c page.toNat = true → exec (.scanPageScored adm ctrl page true) s = .next (ends s true))
      ∧ (s.cel.pageReadable c page.toNat = false → exec (.scanPageScored adm ctrl page true) s = .next (ends (s.noPage (pageKey c page.toNat)) false))
      ∧ exec (.scanPageScored adm ctrl page false) s = .next (ends (s.noPage (pageKey c page.toNat)) false))
    ∧ (∀ (adm : W64) (page : W32) (readable : Bool) (j : Job), s.job? adm = some j → j.reads.contains (c, page.toNat) = false →
      exec (.scanPageScored adm ctrl page readable) s = .next s.woken)
    ∧ (∀ (slot : SlotNo) (r : Req) k p ix, s.req? slot.val = some r → r.running = true → r.stage = 6 → s.nextFetch slot.val r = some (k, p) → s.index? r.index = some ix →
      let ks := ix.fetchPages p.cand.id p.cand.version
      let u := s.chargeCellar r.part.val r.tenant (16384 * ks.length)
      (∀ e, ks.find? (fun k => !s.cel.readable k) = none → ix.exact p.cand.id p.cand.version = some e →
        exec (.passageFetchDone slot true) s = .next (((u.passageText slot.val k e.text).stage6Done slot.val).settle).woken)
      ∧ (ks.find? (fun k => !s.cel.readable k) = none → ix.exact p.cand.id p.cand.version = none →
        exec (.passageFetchDone slot true) s = .next (((u.passageDrop slot.val k).stage6Done slot.val).settle).woken)
      ∧ ∀ x, ks.find? (fun k => !s.cel.readable k) = some x → ∀ readable,
        exec (.passageFetchDone slot readable) s = .next ((((u.noPage x).passageDrop slot.val k).stage6Done slot.val).settle).woken)
    ∧ (∀ ix m rest, s.index? i = some ix → ix.unloaded = false → ix.waiting = m :: rest →
      let u := s.placeText i m
      ∀ jx n more, u.index? i = some jx → jx.waiting = n :: more →
        ((n.placed = false ∨ u.cel.unacked n.writes = true) → exec (.mutationPublish index) s = .next u.woken)
        ∧ (n.placed = true → u.cel.unacked n.writes = false →
          let t := u.onIndex i fun x => { (x.apply n) with waiting := more }
          let t := if n.insert then t else t.syncHomes i [jx.homePage n.id]
          let v := ((t.onCel fun c => c.ages fun a => a.kind == .merge && a.index == i).each (jx.touched n) fun s b => match s.index? i with
            | some x => if x.dueNow b then s.makeDue i b else s
            | none => s).markCrowded
          (n.last = none → exec (.mutationPublish index) s = .next v.woken)
          ∧ ∀ h k, n.last = some (h, k) →
            exec (.mutationPublish index) s = .next (v.completeFor h { k with info := k.info ||| infoByte false false false v.degraded }).woken))
    ∧ (∀ ix, s.index? i = some ix → ix.waiting = [] → exec (.mutationPublish index) s = .next s.woken)
    ∧ (∀ m : MsgHdr, s.inTurn m 5 = true →
      let b := s.took m 5
      let tid := m.context.toNat % 64
      let did := fun (t : State) => (Host.Outcome.next (t.caughtUp m 5).woken : Out)
      (∀ q k p w f, (∀ ix, b.index? tid = some ix → ix.loading = true ∨ ix.unloaded = true ∨ 65536 ≤ b.ret.memberHolds.length ∨ q.length ≠ ix.dim) →
        exec (.shardSearchMsg m q k p w f) s = did (b.reply m 5 .shardError))
      ∧ (∀ q k p w f ix adm v, b.index? tid = some ix → ix.loading = false → ix.unloaded = false → b.ret.memberHolds.length < 65536 → q.length = ix.dim → b.nextAdm tid = (adm, v) →
        let j : Job := { adm := adm, slot := none, remote := some m, index := tid, snap := ix.seq, query := q, k := k.toNat, d := ix.dMargin,
                         p := if p.toNat = 0 then ix.pDef else p.toNat, w := w.toNat, filter := f, round := 0, plan := [], queued := [], holds := [], reads := [], lists := [], earlier := [],
                         overrun := false, unreadable := false, part := 16, tenant := 0, own := none, members := [], others := [], rounds := 0, cancelled := false, failed := [],
                         hot := v.ret.hotCfg }
        let t := v.onRet fun r => { r with jobs := r.jobs ++ [j], memberHolds := r.memberHolds ++ [(m.src, m.context, tid, ix.seq)] }
        exec (.shardSearchMsg m q k p w f) s = did (((t.planRound j 0).settleJob adm).jobResult adm))
      ∧ exec (.holdReleaseMsg m) s = did (b.onRet fun r => { r with memberHolds := r.memberHolds.filter fun h => !(h.1 == m.src && h.2.1 == m.context) }))
    ∧ (∀ (m : MsgHdr) cands rounds snap o adm j g1 g2 g3 g4 g5 g6, s.departed = false → s.sent? m 5 = some o → o.body = .shardSearch adm g1 g2 g3 g4 g5 g6 → (s.dropOut o).job? adm = some j →
      j.members.contains m.src = true →
      let v := (s.dropOut o).onJob adm fun x => { x with
        members := x.members.filter (· ≠ m.src), others := x.others ++ (if m.isError then [] else cands).map fun c => { c with member := m.src },
        rounds := max x.rounds rounds.toNat, unreadable := x.unreadable || m.isError }
      let w := match j.slot with
        | some n => v.onReq n fun r => { r with waitMembers := r.waitMembers.filter (· ≠ m.src), members := if m.isError then r.members else r.members ++ [(m.src, snap)] }
        | none => v
      exec (.shardSearchReply m cands rounds snap) s = .next ((w.jobResult adm).settle).woken)
    ∧ (∀ (m : MsgHdr) cands rounds snap, s.departed = false → s.sent? m 5 = none → exec (.shardSearchReply m cands rounds snap) s = .next s.woken)
    ∧ (∀ (m : MsgHdr) id version text, s.departed = false → m.isReply = false →
      let tid := m.context.toNat % 64
      ((∀ ix, s.index? tid = some ix → ix.exact id version = none) → exec (.textFetchMsg m id version text) s = .next (s.reply m 5 .error).woken)
      ∧ ∀ ix e, s.index? tid = some ix → ix.exact id version = some e →
        ((ix.fetchPages id version).find? (fun k => !s.cel.readable k) = none → exec (.textFetchMsg m id version text) s = .next (s.reply m 5 (.text version e.text)).woken)
        ∧ ∀ k, (ix.fetchPages id version).find? (fun k => !s.cel.readable k) = some k → exec (.textFetchMsg m id version text) s = .next ((s.noPage k).reply m 5 .error).woken)
    ∧ (∀ (m : MsgHdr) id version text o n r k, s.departed = false → m.isReply = true → s.sent? m 5 = some o →
      let v := s.dropOut o
      let hit := fun (p : Passage) => !p.fetched && !p.dropped && p.cand.member == m.src && p.cand.id == id && p.cand.version == version
      v.sch.slots.find? (fun x => x.2.running && x.2.stage == 6 && x.2.passages.any hit) = some (n, r) → indexOf hit r.passages = some k →
      exec (.textFetchMsg m id version text) s = .next ((((if m.isError then v.passageDrop n k else v.passageText n k text).stage6Done n).settle).woken))

/-- A merge whose reads are done makes its new extent of the records it keeps and the entries it folds, and writes it (R160, R161); once that is acknowledged (R273) its bucket takes the new
generation in one step and keeps the old one readable; an old generation goes once no live snapshot, scan or job reads it (R162), with its pages, its folded entries and its replica. A
replica that is written on another controller joins the table, the coolest making room (R164), and none once replication is off (R170). -/
def Obligations.MergesAndGenerations : Prop :=
  ∀ (s : State) (index : IndexNo) (bucket : BitVec 28) (ix : Index),
    let i := index.val
    let b := bucket.toNat
    let k := ix.bucket b
    s.index? i = some ix →
    (∀ aid a recs took full, s.cel.act? aid = some a → a.kind = .merge → a.index = i → a.bucket = b → a.claimed = true → a.phase = 1 → s.cel.opsOf a.aid = 0 →
      s.cel.mayOccupy a.aid (s.cel.needs a []) = true → a.aid = aid →
      ix.fold b (match k.ext with | some e => s.goodRecs ix.dim e a.bad | none => []) a.mergePoint = (recs, took, full) →
      let n := extentPages ix.dim recs.length
      let d := s.cel.newRun a.ctrl b n
      (recs = [] → exec (.activityClaim aid) s = .next (s.onCel fun c => c.onAct aid fun x => { x with phase := 2, took := took, full := full }).woken)
      ∧ (recs ≠ [] → d + n ≤ Config.dataPages s.ident.variant → exec (.activityClaim aid) s = .next (s.onCel fun c => (c.onAct aid fun x =>
        { x with phase := 2, ext := some { ctrl := a.ctrl, page := d, count := recs.length }, took := took, full := full }).writeExt s.ident.variant a d
          (pieces 16384 (recs.flatMap Rec.bytes))).woken))
    ∧ (∀ a, s.cel.acts.find? (fun a => a.kind == .merge && a.index == i && a.bucket == b && s.written a) = some a →
      let m := a.mergePoint
      let t := s.onIndex i fun x => { x with
        mud := x.mud.map fun y => if y.bucket == b && y.foldGen == 0 && decide (y.version.toNat ≤ m.toNat) && (a.took.contains y || x.dropped y.id y.version m none)
          then { y with foldGen := BitVec.ofNat 32 (k.gen + 1) } else y,
        dir := (x.setBucket b { k with ext := a.ext, gen := k.gen + 1, old := some (k.ext, k.gen, m, k.hot), hot := none, mergePoint := m, full := a.full, due := false }).dir }
      let v := t.onCel fun c => c.dropAct a.aid
      let w := v.each (v.cel.acts.filter fun y => y.kind == .replica && y.index == i && y.bucket == b) fun s y => s.endIndexAct y
      ∀ x, w.index? i = some x → exec (.mergeCommit index bucket) s =
        .next (if x.dueNow b && ((x.mudOf b).any (fun y => decide (m.toNat < y.version.toNat)) || x.tombs.any fun t => t.buckets.contains b && decide (m.toNat < t.n.toNat))
          then w.makeDue i b else w).woken)
    ∧ (s.cel.acts.find? (fun a => a.kind == .merge && a.index == i && a.bucket == b && s.written a) = none → exec (.mergeCommit index bucket) s = .next s.woken)
    ∧ (∀ e g m h, k.old = some (e, g, m, h) → ((s.snapshots i).any fun n => decide (n < m.toNat)) = true → exec (.generationRetire index bucket) s = .next s.woken)
    ∧ (∀ e g m h, k.old = some (e, g, m, h) → (∀ n ∈ s.snapshots i, m.toNat ≤ n) →
      (s.ret.jobs.any fun j => j.index == i && j.own.isNone && j.plan.any fun p => p.bucket == b && p.gen == g) = false →
      let t := (s.each (e.toList ++ h.toList) fun s x => s.freeExtent ix.dim x).onIndex i fun x => ({ x with
        mud := x.mud.filter fun y => !(y.bucket == b && y.foldGen != 0 && decide (y.foldGen.toNat ≤ g + 1)),
        dir := (x.setBucket b { x.bucket b with old := none }).dir }).retireTombs
      exec (.generationRetire index bucket) s = .next (t.cleanStore i).markCrowded.woken)
    ∧ (∀ a, s.cel.acts.find? (fun a => a.kind == .replica && a.index == i && a.bucket == b && s.written a) = some a →
      let v := s.onCel fun c => c.dropAct a.aid
      let put := fun (t : State) (e : Extent) => (Host.Outcome.next (t.onIndex i fun x => x.setBucket b { x.bucket b with hot := some e }).woken : Out)
      ((bit s.ret.hotCfg.toNat 16 = false ∨ k.hot.isSome = true) → exec (.hotReplicaCommit index bucket) s = .next (s.endIndexAct a).woken)
      ∧ ∀ e, bit s.ret.hotCfg.toNat 16 = true → k.hot = none → a.ext = some e →
        (v.replicas < 4096 → exec (.hotReplicaCommit index bucket) s = put v e)
        ∧ ∀ y, 4096 ≤ v.replicas → v.coolest = some y → exec (.hotReplicaCommit index bucket) s = put (v.dropReplica y.1 y.2) e)
    ∧ ∀ (recs : List Rec) (m : W64), (ix.fold b recs m).1.length ≤ max ix.cap recs.length

/-- A gather completes once every shard has answered (R178, R180): its sums and counts go to the buffer its command named, with the missing occurrences and lost shards counted. Candidate counts are halved
after 65,536 slices (R181). A row is formed in a spare slot and swapped in, or waits for one, and is swapped once its holders acknowledge it (R185 to R189). A row that no write has reached reads as zeros (R173).
An owner answers another module's gather with rows or with sums, or rejects it (R191), takes its updates of rows it owns (R188), and grants a replica of a row that is hot or has fewer than 8
holders (R183); a holder installs it in its pantry, unless replication is off (R184), and discards it when told. The answers reach the gather, the command and the write that asked. -/
def Obligations.TablesGoOn : Prop :=
  ∀ (s : State) (table : TableNo) (gid : W32),
    let tid := table.val
    (∀ g, s.tbl.gathers.find? (fun g => g.gid == gid) = some g → g.shards ≠ [] → exec (.gatherComplete gid) s = .next s.woken)
    ∧ (∀ g h out vecs counts missing lost, s.tbl.gathers.find? (fun g => g.gid == gid) = some g → g.shards = [] → (s.part g.part).waitsFor (.gather gid) = false →
      g.cmd = some (h, out) → s.gatherResult g = (vecs, counts, missing, lost) →
      let v := (s.onTbl fun b => { b with gathers := b.gathers.filter fun x => x.gid != gid }).countGather g
      let w := (v.hostWrite out.toNat (vecs.flatMap wordsBytes ++ counts.flatMap fun n => leBytes 4 n)).finishDeg h (decide (lost ≠ 0)) missing lost
      exec (.gatherComplete gid) s = .next (((w.reclaimAll.tryDestroy g.table).each (KMap.keys s.tbl.tables) fun s t => s.tryDestroy t).settle).woken)
    ∧ exec (.countHalving table) s = .next (s.onTable tid fun t =>
        if t.slices < 65536 then t else { t with slices := t.slices - 65536, cands := t.cands.map fun c => (c.1, c.2 / 2) }).woken
    ∧ (∀ n w t e l a p codes, s.nextWrite tid = some (n, w) → s.table? tid = some t → w.formed = none → w.entries = e :: l → t.formRow (s.formedPant tid) e = some (a, p, codes) →
      (∀ x ∈ t.holders, x.1 ≠ e.row.toNat) →
      exec (.writeEntryApply table) s =
        .next (((s.onTbl fun b => { b with writes := modAt b.writes n fun w => { w with entries := l, formed := some (e.row.toNat, a, p, codes), holders := [] } }).swapReady).settle).woken)
    ∧ (∀ n w t e l, s.nextWrite tid = some (n, w) → s.table? tid = some t → w.formed = none → w.entries = e :: l → t.formRow (s.formedPant tid) e = none → w.waited = false →
      exec (.writeEntryApply table) s =
        .next ((((s.onTbl fun b => { b with writes := modAt b.writes n fun w => { w with waited := true } }).onTbl fun b =>
          { b with reclaimWait := satAdd 32 b.reclaimWait 1 }).settle).woken))
    ∧ (∀ n w t, s.nextWrite tid = some (n, w) → s.table? tid = some t → w.formed.isSome = true → exec (.writeEntryApply table) s = .next ((s.swapReady).settle).woken)
    ∧ (∀ m : MsgHdr, s.inTurn m 4 = true →
      let b := s.took m 4
      let tid := ctxTable m
      let did := fun (t : State) => (Host.Outcome.next (t.caughtUp m 4).woken : Out)
      (∀ own pool is bags, (∀ t, b.table? tid = some t → t.ownerPools ≠ own) → exec (.gatherRequestMsg m own pool is bags) s = did (b.reply m 4 .gatherReject))
      ∧ (∀ t own pool is bags read body, b.table? tid = some t → t.ownerPools = own →
        ((own = false ∨ is ≠ []) ∧ read = is.map (fun r => r.toNat) ∧ body = .gatherRows (is.map fun r => (r, t.readRow r.toNat (t.entryOf r.toNat))))
          ∨ (own = true ∧ is = [] ∧ read = (b.rowsOf tid bags).map Prod.snd ∧ body = .gatherSums (bags.map fun l =>
            let x := poolBag (fun i => match b.idxRows tid i.toNat with | some [x] => RowVal.row (t.readRow x.2 (t.entryOf x.2)) | _ => RowVal.missing) (pool.val == 2) (b.gatherWidth tid) l
            (x.1, BitVec.ofNat 32 x.2))) →
        let v := (b.each (pieces 65536 read) fun s l => s.countRows (l.map fun r => (tid, r))).onTable tid fun t => { t with slices := t.slices + (pieces 65536 read).length }
        exec (.gatherRequestMsg m own pool is bags) s = did ((v.each (dedup read) fun s r => s.makeHot tid r).reply m 4 body))
      ∧ (∀ es t, b.table? tid = some t → (es.all fun e => t.entryOk e && b.ownsShard t (t.shardOf e.row.toNat)) = true → exec (.tableUpdateMsg m es) s = did (b.openWrite
        { no := 0, table := tid, cmd := none, remote := some m, count := es.length, entries := es, waited := false, owners := [], holders := [], formed := none, failed := none }))
      ∧ (∀ es, (∀ t, b.table? tid = some t → (es.all fun e => t.entryOk e && b.ownsShard t (t.shardOf e.row.toNat)) = false) →
        exec (.tableUpdateMsg m es) s = did (b.reply m 4 .error))
      ∧ (∀ row : W32,
        let r := row.toNat
        let formed := (enum b.tbl.writes).findSome? fun w => if w.2.table = tid then w.2.formed.bind (fun f => if f.1 = r then some (w.1, f.2.2.2) else none) else none
        let grants := fun (t : Table) => !t.ownerPools && b.ownsShard t (t.shardOf r) && (entValid (t.entryOf r) || formed.isSome)
          && (decide (thresh b.tbl.hotCfg ≤ t.countOf r) || decide ((t.holders.filter fun x => x.1 == r).length < 8))
        let v := b.onTable tid fun t => { t with holders := (t.holders.filter fun x => !(x.1 == r && x.2 == m.src)) ++ [(r, m.src)] }
        ((∀ t, b.table? tid = some t → grants t = false) → exec (.replicaRequestMsg m row) s = did (b.reply m 4 .replicaDenied))
        ∧ (∀ t, b.table? tid = some t → grants t = true →
          (formed = none → exec (.replicaRequestMsg m row) s = did (v.send m.src 4 (.replicaInstall tid r (t.readRow r (t.entryOf r)))))
          ∧ ∀ k codes, formed = some (k, codes) → exec (.replicaRequestMsg m row) s = did (v.sendRow k tid r m.src (codes.map fun c => elem32 t.fmt 0 c.toNat))))
      ∧ (∀ (row : W32) vals,
        let r := row.toNat
        ((∀ t, b.table? tid = some t → entPant (t.entryOf r) = false ∧ bit b.tbl.hotCfg.toNat 16 = false) → exec (.replicaInstallMsg m row vals) s = did (b.reply m 4 .replicaDenied))
        ∧ ∀ t v, b.table? tid = some t → (entPant (t.entryOf r) = true ∨ bit b.tbl.hotCfg.toNat 16 = true) →
          ((entPant (t.entryOf r) = true ∨ (t.freePantry (b.formedPant tid)).isSome = true ∨ t.coldest = none) ∧ v = b)
            ∨ (entPant (t.entryOf r) = false ∧ t.freePantry (b.formedPant tid) = none ∧ ∃ x, t.coldest = some x ∧ v = (b.evictRow tid x).reclaimTable tid) →
          (∀ p, ((v.table? tid).bind fun t => t.freePantry (v.formedPant tid)) = some p → exec (.replicaInstallMsg m row vals) s =
            did (((v.onTable tid fun x => { x with
              pantry := KMap.set x.pantry p (vals.map x.toCode), entries := KMap.set x.entries r (entry true true p 0),
              reclaim := x.reclaim ++ if entPant (t.entryOf r) then [(true, entPslot (t.entryOf r), x.gathers)] else [] }).reclaimTable tid).reply m 4 (.replicaAck r)))
          ∧ (((v.table? tid).bind fun t => t.freePantry (v.formedPant tid)) = none → exec (.replicaInstallMsg m row vals) s = did (v.reply m 4 .replicaDenied)))
      ∧ ∀ row : W32, exec (.replicaDiscardMsg m row) s = did ((b.onTable tid fun t =>
        if entPant (t.entryOf row.toNat) && !b.ownsShard t (t.shardOf row.toNat) then
          { t with entries := KMap.erase t.entries row.toNat, reclaim := t.reclaim ++ [(true, entPslot (t.entryOf row.toNat), t.gathers)] }
        else t).reclaimTable tid))
    ∧ (∀ (m : MsgHdr) (shard : Fin 64) rows sums o id t g1 g2 g3 g4, s.departed = false → s.sent? m 4 = some o → o.body = .gatherReq id t g1 g2 g3 g4 →
      let key := t * 64 + shard.val
      exec (.gatherReplyMsg m shard rows sums) s = .next ((s.dropOut o).onTbl fun b => { b with gathers := b.gathers.map (fun g =>
        if g.gid == id && g.shards.contains key then
          { g with shards := g.shards.filter (· ≠ key), lostShards := if m.isError then g.lostShards ++ [key] else g.lostShards,
                   far := g.far ++ rows.map fun r => (farKey t r.1.toNat, r.2), sums := g.sums ++ if sums.isEmpty then [] else [(key, sums)] }
        else g) }).woken)
    ∧ (∀ (m : MsgHdr) shard rows sums, s.departed = false → s.sent? m 4 = none → exec (.gatherReplyMsg m shard rows sums) s = .next s.woken)
    ∧ (∀ (m : MsgHdr) applied o n g1 g2, s.departed = false → s.sent? m 4 = some o → o.body = .update n g1 g2 →
      exec (.tableUpdateAck m applied) s = .next (((s.dropOut o).onTbl fun b => { b with writes := b.writes.map (fun w =>
        if w.no = n && w.owners.any (fun x => x.1 == m.src) then
          { w with owners := dropOwner m.src w.owners,
                   failed := if m.isError then (match w.owners.find? fun x => x.1 == m.src with | some x => minOpt w.failed x.2.head? | none => w.failed) else w.failed } else w) }).endWrites).woken)
    ∧ (∀ (m : MsgHdr) applied, s.departed = false → s.sent? m 4 = none → exec (.tableUpdateAck m applied) s = .next s.woken)
    ∧ (∀ (m : MsgHdr) (row : W32) v, s.departed = false → ((s.sent? m 4 = none ∧ v = s) ∨ ∃ o, s.sent? m 4 = some o ∧ v = s.dropOut o) →
      let asks := v.tbl.writes.any fun w => w.holders.any fun h => h.1 == m.src && h.2 == m.msgId
      (m.isError = true ∨ asks = true → exec (.replicaInstallAck m row) s = .next (v.holderDone m.src (ctxTable m) row.toNat m.isError).woken)
      ∧ (m.isError = false → asks = false → exec (.replicaInstallAck m row) s = .next v.woken))
    ∧ ∀ (t : Table) (pb : Bytes) (row : Nat), (tableAt pb).entries = [] ∧ (KMap.has t.entries row = false → t.readRow row (t.entryOf row) = List.replicate t.width 0)

/-- The cellar (R273 to R295): an operation that ends leaves what its result says, the die starts its next, and what it was made for goes on; a page that cannot be read at all fails its
reader (R288). Patrol reads each written block in turn (R280); an activity claims its blocks before it copies (R289), and a merge's merge point is fixed as it does (R160); a block with nothing
valid and no read outstanding is erased (R293); a die, a channel or a controller lost is recorded, its work dropped or sent elsewhere, and a die's rebuild queued (R283, R287). -/
def Obligations.CellarGoesOn : Prop :=
  ∀ (s : State) (die : DieId) (ctrl : CtrlNo),
    let d := die.no
    let v := s.ident.variant
    let t := s.onCel fun c => c.start v d
    ((t.cel.die d).running = none → ∀ r, exec (.flashOpComplete die r) s = .next t.woken)
    ∧ (∀ op r, (t.cel.die d).running = some op →
      (opFits op.kind r = false → exec (.flashOpComplete die r) s = .next t.woken)
      ∧ (opFits op.kind r = true → (∀ st e, r = .read st e → st.val ≠ 5) → exec (.flashOpComplete die r) s = .next (((t.opEnds d op r).actOn op).afterFlash).woken)
      ∧ ∀ st e, r = .read st e → opFits op.kind r = true → st.val = 5 → exec (.flashOpComplete die r) s = .next ((((t.opEnds d op r).readFails op).actOn op).afterFlash).woken)
    ∧ (∀ op aid a, (t.cel.die d).running = some op → op.kind = .erase aid → t.cel.act? aid = some a →
      let u := (t.onCel fun c => c.onDie d fun x => { x with running := none }).onCel fun c => ((c.eraseBlock v d op.block).dropAct aid).check v d (a.kind == .gc)
      exec (.flashOpComplete die (.erase true)) s = .next ((((((u.onCel fun c => c.prune d).actDone aid).onCel fun c => c.start v d).actOn op).afterFlash)).woken)
    ∧ (∀ b p, s.cel.dieLost d = false → s.cel.patrolNext d = some (b, p) → exec (.patrolRead die) s =
      .next (s.onCel fun c => (c.onDie d fun x => { x with patrolBlock := b + 1 }).queueOp v d { kind := .patrol, page := 0, block := b, place := p }).woken)
    ∧ (s.cel.dieLost d = true → exec (.patrolRead die) s = .next s.woken)
    ∧ (∀ (aid : W32) a, s.cel.act? aid = some a →
      (a.ofIndex = false → exec (.activityClaim aid) s = .next (s.claimAct aid).woken)
      ∧ (a.ofIndex = true → a.claimed = false →
        (∀ x, s.mayBegin a = true → s.chooseExtent a = some x → exec (.activityClaim aid) s =
          .next (((s.onCel fun c => c.takeClaims v x).onCel fun c => c.onAct a.aid fun y => { y with mergePoint := s.snapOf a.index }).stepIndexAct a.aid).woken)
        ∧ ((s.mayBegin a = false ∨ s.chooseExtent a = none) → exec (.activityClaim aid) s = .next (s.stepIndexAct a.aid).woken)))
    ∧ (∀ block : W16, let b := s.cel.block v d block.toNat
      (b.pages ≠ [] → b.valid = 0 → (s.cel.die d).readsOn block.toNat = 0 → b.retired = false → b.claim = none → s.cel.dieLost d = false →
        exec (.blockErase die block) s = .next (s.onCel fun c => c.eraseBlock v d block.toNat).woken)
      ∧ ((b.pages = [] ∨ b.valid ≠ 0 ∨ (s.cel.die d).readsOn block.toNat ≠ 0 ∨ b.retired = true ∨ b.claim ≠ none) → exec (.blockErase die block) s = .next s.woken))
    ∧ ((s.cel.die d).failed = false → exec (.dieFail die) s =
      .next (((((s.cellarEvent 1 (d / 64) (d / 4 % 16) (d % 4) 0xFFFFFFFF 0xFFFFFFFF).onCel fun c => c.onDie d fun x => { x with failed := true, rebuilt := false }).clearDie d).onCel fun c =>
        c.nextAct { actOf .rebuild d with urgent := true }).afterFlash).woken)
    ∧ ((s.cel.die d).failed = true → exec (.dieFail die) s = .next s.afterFlash.woken)
    ∧ ((s.cel.lostCtrl[ctrl.val]?).getD false = false → exec (.controllerLost ctrl) s =
      .next (((((s.cellarEvent 4 ctrl.val 0xFF 0xFF 0xFFFFFFFF 0xFFFFFFFF).setDom (49 + ctrl.val) .off).onCel fun c =>
        { c with lostCtrl := setAt c.lostCtrl ctrl.val true }).each (List.range 64) fun s i => s.clearDie (64 * ctrl.val + i)).afterFlash).woken)
    ∧ ((s.cel.lostCtrl[ctrl.val]?).getD false = true → exec (.controllerLost ctrl) s = .next s.afterFlash.woken)
    ∧ ∀ chan : Fin 16, KMap.has s.cel.lostChan (16 * ctrl.val + chan.val) = false →
      let t := ((s.cellarEvent 3 ctrl.val chan.val 0xFF 0xFFFFFFFF 0xFFFFFFFF).onCel fun c =>
        { c with lostChan := KMap.set c.lostChan (16 * ctrl.val + chan.val) true }).each (List.range 4) fun s i => s.clearDie (dieNo ctrl.val chan.val i)
      ((t.cel.lostChan.filter fun x => x.1 / 16 == ctrl.val).length < 16 → exec (.cellarChannelLost ctrl chan) s = .next t.afterFlash.woken)
      ∧ (16 ≤ (t.cel.lostChan.filter fun x => x.1 / 16 == ctrl.val).length → exec (.cellarChannelLost ctrl chan) s = .next (t.loseCtrl ctrl.val).afterFlash.woken)


/-! ## Faults -/

/-- Faults by class (Tables 15.1 and 15.2, R358 to R368): class 0 is counted and recorded; class 1 abandons the steps it hits, each with its record, and fences the unit; class 2 loses the
content of a page, which is re-derived, and remaps an attic line; class 3 repeats a stage; class 4 stops the partitions hit and ends their requests. A class that the table does not give the unit changes nothing. -/
def Obligations.FaultsByClass : Prop :=
  ∀ (s : State) (f : FaultReport),
    let rec_ := fun (v : State) (cls : Nat) (p : Option Nat) (slots : List Nat) => v.faultRec f.unit.code f.mech.val f.inst.toNat f.addr.toNat cls p slots 0
    let stepRec := fun (v : State) (p : Option Nat) (slots : List Nat) => v.faultRec f.unit.code f.mech.val f.unitInst f.addr.toNat 1 p slots 0
    let st := f.inst.toNat / 16
    let spent := s.ras.hbmSpent.getLsbD st || s.ras.hbmRebuild.getLsbD st
    (s.corrects f = false → exec (.faultCorrected f) s = .next s.woken)
    ∧ (s.corrects f = true →
      let v := (s.faultRec f.unit.code f.mech.val f.unitInst f.addr.toNat 0 none [] 0).onRas fun r => { r with corrected := satAdd 64 r.corrected 1 }
      (f.unit ≠ .hbm → f.unit ≠ .attic → exec (.faultCorrected f) s = .next v.woken)
      ∧ (f.unit = .hbm → exec (.faultCorrected f) s = .next (if f.lost then (v.loseHbmChannel f.inst.toNat).1 else v).woken)
      ∧ (f.unit = .attic → exec (.faultCorrected f) s = .next (v.lineError f.inst.toNat f.addr.toNat).woken))
    ∧ (stepClass f.unit = false → exec (.faultStep f) s = .next s.woken)
    ∧ (∀ p ps, stepClass f.unit = true → s.hitParts f = p :: ps → (f.unit ≠ .textEngine ∨ f.lost = true) →
      let v := (s.each (p :: ps) fun s p => stepRec s (some p) (s.stepSlots p)).each (p :: ps) fun s p => s.abandonStep p
      exec (.faultStep f) s = .next (((v.fenceUnit f).each (p :: ps) fun s p => s.dueMoves (s.part p).cores).settle).woken)
    ∧ (∀ p ps, s.hitParts f = p :: ps → f.unit = .textEngine → f.lost = false → exec (.faultStep f) s =
      .next (((s.each (p :: ps) fun s p => stepRec s (some p) []).each (p :: ps) fun s p => s.dueMoves (s.part p).cores).settle).woken)
    ∧ (stepClass f.unit = true → s.hitParts f = [] → exec (.faultStep f) s = .next (((stepRec s none []).fenceUnit f).settle).woken)
    ∧ (∀ v : State,
      let c := f.core.val
      let k := v.core c
      let errs := KMap.getD k.bankErr f.bank.toNat 0 + 1
      let col := 128 * f.engine.val + f.line.toNat
      let hits := KMap.getD k.residue col 0 + 1
      (f.unit = .engine → let w := v.onCore c fun k => { k with residue := KMap.set k.residue col hits }
        v.fenceUnit f = if hits = 3 then w.engineLineFails (4 * c + f.engine.val) true f.line.toNat 1 else w)
      ∧ (f.unit = .sram → let w := v.onCore c fun k => { k with bankErr := KMap.set k.bankErr f.bank.toNat errs }
        v.fenceUnit f = if errs = 2 then w.retireNow c else w)
      ∧ (f.unit = .sequencer → let w := v.onCore c fun k => { k with dogs := k.dogs + 1 }
        v.fenceUnit f = if k.dogs + 1 = 2 then w.retireNow c else w)
      ∧ (f.unit ≠ .engine → f.unit ≠ .sram → f.unit ≠ .sequencer → v.fenceUnit f = v))
    ∧ ((f.unit = .attic ∨ (f.unit = .hbm ∧ spent = true)) →
      let p := match f.region with | .kvPage => (s.frameOf f).map fun x => x.1 | _ => none
      let v := rec_ s 2 p (s.pageSlots f)
      let w := if f.unit = .attic then v.remapLine f.inst.toNat (v.lineOf f / 4096 * 4096) else v
      exec (.faultPage f) s = .next ((w.loseContent f).settle).woken)
    ∧ (f.unit ≠ .attic → f.unit ≠ .hbm → exec (.faultPage f) s = .next s.woken)
    ∧ (f.unit = .hbm → spent = false → exec (.faultPage f) s = .next s.woken)
    ∧ (f.unit = .mergeUnit → exec (.faultFront f) s = .next (((rec_ s 3 none [f.slot.val]).repeatFront f.slot.val).settle).woken)
    ∧ (f.unit = .scanUnit → exec (.faultFront f) s =
      let v := rec_ s 3 none [f.slot.val]
      let w := v.onRet fun r => { r with jobs := r.jobs.map fun j => if j.slot == some f.slot.val then j.unitFails (f.inst.toNat % 128) else j }
      .next (w.onReq f.slot.val fun r => if r.running then { r with replayed := true } else r).woken)
    ∧ (f.unit ≠ .mergeUnit → f.unit ≠ .scanUnit → exec (.faultFront f) s = .next s.woken)
    ∧ (f.lost = true → (f.unit = .attic ∨ (f.unit = .hbm ∧ spent = true)) → f.region ≠ .replayCopy →
      let v := (rec_ s 4 none (s.beyondSlots f)).onRas fun r =>
        { r with beyond := true, hbmLost := if f.unit == .hbm && st < 6 then r.hbmLost ||| BitVec.ofNat 6 (2 ^ st) else r.hbmLost }
      let w := v.each (KMap.keys v.sch.parts) fun s p => if f.parts.getLsbD p then s.abandonStep p else s
      (w.sch.evac = none → exec (.faultBeyondSparing f) s = .next ((w.each (s.beyondSlots f) fun s n => s.endReq n stDevice 0).settle).woken)
      ∧ (w.sch.evac.isSome = true → exec (.faultBeyondSparing f) s = .next w.settle.woken))
    ∧ (f.lost = true → (f.unit = .attic ∨ (f.unit = .hbm ∧ spent = true)) → f.region = .replayCopy →
      let v := (rec_ s 4 none [f.slot.val]).onRas fun r =>
        { r with beyond := true, hbmLost := if f.unit == .hbm && st < 6 then r.hbmLost ||| BitVec.ofNat 6 (2 ^ st) else r.hbmLost }
      exec (.faultBeyondSparing f) s = .next ((v.endReq f.slot.val stDevice 0).settle).woken)
    ∧ ((f.lost = false ∨ (f.unit ≠ .attic ∧ (f.unit = .hbm → spent = false))) → exec (.faultBeyondSparing f) s = .next s.woken)
    ∧ ∀ stack : Fin 6, exec (.hbmParityRebuildDone stack) s = .next (s.onRas fun r => if r.hbmRebuild.getLsbD stack.val
        then { r with hbmRebuild := r.hbmRebuild &&& ~~~(BitVec.ofNat 6 (2 ^ stack.val)), hbmSpent := r.hbmSpent ||| BitVec.ofNat 6 (2 ^ stack.val) } else r).woken

/-! ## The fabric -/

/-- Links, flits, addresses and routes (R329 to R339, R351): a port that comes up exchanges certificates, and carries packets once it is authenticated; a flit out of order or with a bad CRC is answered
with a NAK; a packet for another module goes out over the port of its route, its HOPS one less, once the credits for all of it are there, and is discarded without a route or once its HOPS are gone (R338); an address is probed and then held; a neighbour's table is learnt and passed on where it changes something; a message is sent at most four times (R342). -/
def Obligations.LinksAndRoutes : Prop :=
  ∀ (s : State) (port : PortNo),
    let p := port.val
    let x := s.port p
    (∀ (peer : W16) (serial : W64),
      (s.portReady p = false → exec (.portUp port peer serial) s = .next s.woken)
      ∧ (s.portReady p = true → (s.fab.valid = false ∨ peer ≠ s.fab.addr) → (s.fab.routes.length < 4095 ∨ KMap.has s.fab.routes peer.toNat = true) → ∃ nonce : Nat,
        exec (.portUp port peer serial) s = .next ((({ s with freeCtr := s.freeCtr + 1 } : State).onPort p fun x =>
          { x with up := true, auth := false, authFail := x.authFail, peer := peer, serial := serial, half := s.fab.goodLanes p == 1 }).sendPort p (.certs (BitVec.ofNat 256 nonce))).woken)
      ∧ (s.portReady p = true → s.fab.valid = true → peer = s.fab.addr → exec (.portUp port peer serial) s =
        .next (if serial.toNat < s.ident.serial.toNat then s.fabricEvent 4 p 0xFF peer serial 0 else s).woken))
    ∧ (∀ digest : BitVec 128, x.up = true → x.auth = false →
      let v := ((s.onPort p fun x => { x with auth := true }).onFab fun f => f.learn p x.peer { dest := x.peer, hops := 0 }).advertise
      exec (.linkAuthDone port true digest) s = .next (if s.fab.probing then v.sendPort p (.probe v.fab.addr v.ident.serial) else v).woken
      ∧ exec (.linkAuthDone port false digest) s = .next ((s.onPort p fun x => { x with up := false, authFail := true }).fabricEvent 3 p 0xFF x.peer x.serial digest).woken)
    ∧ (∀ lane : Fin 18, s.fab.laneFailed.getLsbD lane.val = true → exec (.laneFail lane .lostLock) s = .next s.woken)
    ∧ (∀ lane : Fin 18, exec (.laneFail lane .lostLock) s = .next (s.failLane lane.val).1.woken)
    ∧ (∀ (lane : Fin 18) (q : Nat), portOfLane lane.val = some q → exec (.laneFail lane .eighthSend) s = .next ((s.failLane lane.val).1.retrain q).woken)
    ∧ (∀ b : Bytes, x.up = true →
      let h := flitHead b
      let v := s.onPort p fun x => { x with replay := ackReplay x.replay h.ack, credits := modAt x.credits h.cvc (· + h.credits) }
      let w := fun (d : Nat) => (v.onPort p fun x => { x with rxSeq := BitVec.ofNat 12 h.seq }).onPort p fun x => { x with rxHeld := modAt x.rxHeld h.vc (· + d) }
      let d := slice b 8 244
      let dest := BitVec.ofNat 16 (fld d 0 2)
      let hops := fld d 6 1 % 64
      let way := if dest = 0 ∨ dest = 0xFFFF ∨ (s.fab.valid = true ∧ dest = s.fab.addr) then Toward.here else if hops ≤ 1 then .gone else .waiting
      let joined := fun (t : Transit) => t.port == p && t.vc == h.vc && !t.whole
      (flitOk b = false → exec (.flitReceive port b) s = .next (s.sendPort p (.nak x.rxSeq)).woken)
      ∧ (flitOk b = true → (h.kind ≠ 1 ∨ x.auth = false) → exec (.flitReceive port b) s = .next v.forward.woken)
      ∧ (flitOk b = true → h.kind = 1 → x.auth = true → h.seq ≠ (x.rxSeq.toNat + 1) % 4096 → exec (.flitReceive port b) s = .next ((v.sendPort p (.nak x.rxSeq)).forward).woken)
      ∧ (flitOk b = true → h.kind = 1 → x.auth = true → h.seq = (x.rxSeq.toNat + 1) % 4096 →
        (h.first = true → exec (.flitReceive port b) s = .next (((w 1).onFab fun f => { f with transit := f.transit ++
          [{ port := p, vc := h.vc, dest := dest, toward := way, total := ceilDiv (32 + fld d 12 4) 244,
             flits := [(true, h.last, if way = .waiting then setAt d 6 (BitVec.ofNat 8 (fld d 6 1 / 64 * 64 + (hops - 1))) else d)], whole := h.last }] }).forward).woken)
        ∧ (∀ n, h.first = false → indexOf joined s.fab.transit = some n → exec (.flitReceive port b) s =
          .next (((w 1).onFab fun f => { f with transit := modAt f.transit n fun t => { t with flits := t.flits ++ [(false, h.last, d)], whole := h.last } }).forward).woken)
        ∧ (h.first = false → indexOf joined s.fab.transit = none → exec (.flitReceive port b) s = .next (((w 1).freeFlits p h.vc 1).forward).woken)))
    ∧ (∀ n (t : Transit), s.fab.transit[n]? = some t → t.toward = .waiting →
      (KMap.get? s.fab.routes t.dest.toNat = none → s.forwardOne n =
        (s.setTransit n { t with toward := .gone, flits := t.flits.drop t.flits.length }).freeFlits t.port t.vc t.flits.length)
      ∧ ∀ r, KMap.get? s.fab.routes t.dest.toNat = some r →
        let y := s.port r.port
        let goes := y.up = true ∧ y.auth = true ∧ y.retraining = false ∧ y.replay.length < 512 ∧ t.total ≤ (y.credits[t.vc]?).getD 0
          ∧ ∀ u ∈ s.fab.transit, u.toward = .over r.port → u.vc ≠ t.vc
        (goes → let k := min t.flits.length (512 - y.replay.length)
          s.forwardOne n = (((s.setTransit n { t with toward := .over r.port, flits := t.flits.drop k }).each (t.flits.take k) fun s f => s.sendFlit r.port t.vc f).freeFlits t.port t.vc k))
        ∧ (¬ goes → s.forwardOne n = s))
    ∧ (∀ (ack : BitVec 12), x.up = true →
      let v := s.onPort p fun x => { x with replay := ackReplay x.replay ack.toNat }
      ((∀ f ∈ (v.port p).replay, f.2.1 < 7) → exec (.nakReceive port ack) s = .next ((v.resend p).forward).woken)
      ∧ ∀ f, (v.port p).replay.find? (fun f => decide (7 ≤ f.2.1)) = some f →
        let lane := ((lanesOf p)[if (v.port p).half then (indexOf v.fab.laneGood (lanesOf p)).getD 0 else f.1.toNat % 2]?).getD 0
        exec (.nakReceive port ack) s = .next ((v.failLane lane).1.retrain p).woken)
    ∧ (x.retraining = true → exec (.portRetrainDone port) s =
      .next (((s.onPort p fun x => { x with retraining := false, replay := x.replay.map fun f => (f.1, 0, f.2.2) }).resend p).forward).woken)
    ∧ (x.retraining = false → exec (.portRetrainDone port) s = .next s.woken)
    ∧ (x.up = false → (∀ b, exec (.flitReceive port b) s = .next s.woken) ∧ ∀ ack, exec (.nakReceive port ack) s = .next s.woken)
    ∧ (∀ (cand : W16) (serial : W64), x.up = true → x.auth = true →
      let v := s.floodExcept p (.probe cand serial)
      (v.fab.valid = true → v.fab.addr = cand → exec (.addressProbe port cand serial) s = .next (v.sendPort p (.probeAnswer cand)).woken)
      ∧ (v.fab.valid = false → v.fab.probing = true → v.fab.addr = cand → serial.toNat < v.ident.serial.toNat → exec (.addressProbe port cand serial) s = .next (v.probe false).woken)
      ∧ (v.fab.addr ≠ cand → exec (.addressProbe port cand serial) s = .next v.woken))
    ∧ (s.fab.probing = true → exec .addressProbeTimeout s =
      .next (((s.onFab fun f => { f with probing := false, valid := true }).onBbx fun b => { b with savedAddr := s.fab.addr }).advertise).woken)
    ∧ (∀ routes groups, x.up = true → x.auth = true →
      let v := s.onFab fun f =>
        let f := (({ dest := x.peer, hops := 0 } : RouteAdv) :: routes).foldl (fun f a => f.learn p x.peer a) f
        { f with heard := (f.heard.filter fun g => !(g.member == x.peer || groups.any fun h => h.member == g.member)) ++ (groups.filter fun g => !(f.valid && g.member == f.addr)),
                 links := KMap.set f.links x.peer.toNat ((routes.filter fun a => a.hops == 1).map fun a => a.dest) }
      exec (.routingUpdate port routes groups) s = .next (if v.fab.routes = s.fab.routes then v else v.advertise.forward).woken)
    ∧ exec .routeAdvertiseTimer s = .next s.advertise.woken
    ∧ (∀ dest : W16, KMap.has s.fab.routes dest.toNat = true → exec (.routeExpire dest) s =
      .next ((s.onFab fun f => { f with routes := KMap.erase f.routes dest.toNat, heard := f.heard.filter fun g => g.member ≠ dest }).advertise).woken)
    ∧ (∀ (reporter lost : W16), exec (.peerDownNotice reporter lost false) s = .next s.woken)
    ∧ (∀ (reporter lost : W16), s.fab.notices.contains (lost, reporter) = false →
      (let v := (s.onFab fun f => { f with notices := f.notices ++ [(lost, reporter)] }).flood (.peerDown lost true)
       KMap.getD v.fab.links lost.toNat [] = [] → exec (.peerDownNotice reporter lost true) s = .next v.woken))
    ∧ (∀ src : W16, exec (.departingNotice src) s = .next (s.declareLost src).woken)
    ∧ ∀ (dest : W16) (cls : Byte) (id : W32) (o : OutMsg), s.departed = false →
        s.fab.out.find? (fun o => o.dest == dest && o.cls.toNat == cls.toNat && o.msgId == id && !o.reply && o.port.isNone) = some o →
        (o.sends < 4 → KMap.has s.fab.routes dest.toNat = true → exec (.messageRetryTimeout dest cls id) s =
          .next (s.onFab fun f => { f with out := f.out.map fun x => if x = o then { x with sends := x.sends + 1 } else x }).woken)
        ∧ (4 ≤ o.sends → let key := streamKey dest cls.toNat
          exec (.messageRetryTimeout dest cls id) s =
            .next (((s.dropOut o).onFab fun f => { f with unreachable := if f.unreachable.contains key then f.unreachable else f.unreachable ++ [key] }).unreached o).woken)

/-- Messages (R341, R344 to R353): a stream's next message is applied, and then those that waited for it; ahead of a gap, one of an ordered class is held (at most 64) and one of an unordered class
applied and counted; one already applied is discarded, in an unordered class applied again; RESYNC sets the stream's number; a reply is applied as it comes; a module that has left takes none. A buddy
opens a mirror where its conditions hold, keeps it up and closes it (R349, R350), and a migrated request is admitted as a rebuild, waits for a completion entry, or ends as MIGRATED (R352, R353). -/
def Obligations.MessagesAct : Prop :=
  ∀ (s : State) (m : MsgHdr),
    (∀ (cls : Nat) (ordered : Bool) (i : Instr),
      let key := streamKey m.src cls
      let n := KMap.getD s.fab.rxIds key 0
      let early := s.fab.early.filter fun e => e.1 == key
      let seen := early.any fun e => e.2.1 == m.msgId
      (s.departed = true → s.receive m cls ordered i = s)
      ∧ (s.departed = false → m.isReply = true → s.receive m cls ordered i = applyMsg i s)
      ∧ (s.inTurn m cls = true → s.receive m cls ordered i = (applyMsg i (s.took m cls)).caughtUp m cls)
      ∧ (s.departed = false → m.isReply = false → m.isResync = true →
        let v := s.onFab fun f => { f with rxIds := KMap.set f.rxIds key m.msgId, early := f.early.filter fun e => e.1 ≠ key }
        s.receive m cls ordered i = (applyMsg i (v.took m cls)).caughtUp m cls)
      ∧ (s.departed = false → m.isReply = false → m.isResync = false → m.msgId ≠ n →
        (m.msgId - n < 0x80000000 → seen = false →
          (ordered = true → early.length < 64 → s.receive m cls ordered i = s.onFab fun f => { f with early := f.early ++ [(key, m.msgId, some i)] })
          ∧ (ordered = true → 64 ≤ early.length → s.receive m cls ordered i = s)
          ∧ (ordered = false → s.receive m cls ordered i = applyMsg i (s.onFab fun f => { f with early := f.early ++ [(key, m.msgId, none)] })))
        ∧ ((0x80000000 ≤ m.msgId - n ∨ seen = true) → s.receive m cls ordered i = if ordered then s else applyMsg i s))
      ∧ ∀ fuel e, (s.fab.early.find? fun e => e.1 == key && e.2.1 == n) = some e →
        let v := s.onFab fun f => { f with rxIds := KMap.set f.rxIds key (n + 1), early := f.early.filter fun x => !(x.1 == key && x.2.1 == n) }
        State.catchUp applyMsg key (fuel + 1) s = State.catchUp applyMsg key fuel (match e.2.2 with | some i => applyMsg i v | none => v))
    ∧ (let got := fun (cls : Nat) (ordered : Bool) (i : Instr) => exec i s = .next (s.receive m cls ordered i).woken
      (∀ off units, got 2 false (.remoteMemoryRead m off units)) ∧ (∀ off d, got 2 false (.remoteMemoryWrite m off d))
      ∧ (∀ g, got 3 true (.leaseOfferMsg m g)) ∧ (∀ g, got 3 true (.leaseGrantMsg m g)) ∧ got 3 true (.leaseWithdrawalNotice m) ∧ got 3 true (.leaseReleaseMsg m)
      ∧ (∀ own pool is bags, got 4 false (.gatherRequestMsg m own pool is bags)) ∧ (∀ es, got 4 true (.tableUpdateMsg m es)) ∧ (∀ r, got 4 false (.replicaRequestMsg m r))
      ∧ (∀ r v, got 4 true (.replicaInstallMsg m r v)) ∧ (∀ r, got 4 false (.replicaDiscardMsg m r))
      ∧ (∀ q k p w f, got 5 false (.shardSearchMsg m q k p w f)) ∧ got 5 false (.holdReleaseMsg m)
      ∧ (∀ d, got 6 true (.mirrorOpen m d)) ∧ (∀ t b, got 6 true (.mirrorUpdate m t b)) ∧ got 6 true (.mirrorClose m) ∧ ∀ d, got 7 true (.migrationMsg m d))
    ∧ (s.departed = true →
      (∀ sh rows sums, exec (.gatherReplyMsg m sh rows sums) s = .next s.woken) ∧ (∀ n, exec (.tableUpdateAck m n) s = .next s.woken)
      ∧ (∀ r, exec (.replicaInstallAck m r) s = .next s.woken) ∧ (∀ c r n, exec (.shardSearchReply m c r n) s = .next s.woken)
      ∧ (∀ i v t, exec (.textFetchMsg m i v t) s = .next s.woken) ∧ exec (.mirrorErrorReply m) s = .next s.woken)
    ∧ (s.departed = false → exec (.mirrorErrorReply m) s = .next (s.onReq m.context.toNat fun r => if m.src = s.fab.buddy then { r with mirrorBad := true } else r).woken)
    ∧ (let ready := fun (t : State) (d : MirrorDesc) =>
        let q := t.qp (qpKey (t.deliveryFn d.part) 0)
        (t.part d.part.val).cores ≠ [] ∧ (t.part d.part.val).raw = false ∧ (∃ x, t.tenant? d.tenant = some x ∧ bit x.mask.toNat d.part.val = true ∧ x.model.modelId = d.modelId)
          ∧ (d.grammarEn = true → KMap.has t.sch.grammars d.grammar.toNat = true) ∧ q.active = true ∧ q.en = true ∧ q.stopped = false
      let mine := fun (x : Mirror) => x.src == m.src && x.ref == m.context
      (s.inTurn m 6 = true →
        let b := s.took m 6
        let did := fun (t : State) => (Host.Outcome.next (t.caughtUp m 6).woken : Out)
        (∀ d, (8192 ≤ b.fab.mirrors.length ∨ ¬ ready b d) → exec (.mirrorOpen m d) s = did (b.reply m 6 (.mirrorError m.context.toNat)))
        ∧ (∀ d, b.fab.mirrors.length < 8192 → ready b d →
          let serials := ((List.range 8).filter fun p => (b.port p).up && (b.port p).peer == m.src).map fun p => (b.port p).serial
          exec (.mirrorOpen m d) s = did ((b.onBbx fun x => { x with sources := x.sources ++ serials.filter fun y => !(x.sources.contains y) }).onFab fun f =>
            { f with sources := if f.sources.contains m.src then f.sources else f.sources ++ [m.src],
                     mirrors := (f.mirrors.filter fun x => !mine x) ++ [{ src := m.src, ref := m.context, desc := d }] }))
        ∧ (∀ toks bytes, exec (.mirrorUpdate m toks bytes) s = did (b.onFab fun f => { f with mirrors := f.mirrors.map (fun x =>
            if mine x then { x with desc := { x.desc with tokens := x.desc.tokens ++ toks, bytes := bytes } } else x) }))
        ∧ exec (.mirrorClose m) s = did (b.onFab fun f => { f with mirrors := f.mirrors.filter fun x => !mine x }))
      ∧ (s.inTurn m 7 = true → ∀ d,
        let b := (s.took m 7).onFab fun f => { f with mirrors := f.mirrors.filter fun x => !mine x }
        let k := qpKey (b.deliveryFn d.part) 0
        let q := b.qp k
        let did := fun (t : State) => (Host.Outcome.next ((t.settle).caughtUp m 7).woken : Out)
        let full := q.active = true ∧ q.stopped = false ∧ q.cqRoom = false
        (full → exec (.migrationMsg m d) s = did (b.onFab fun f => { f with resuming := f.resuming ++ [d] }))
        ∧ (¬ full → (¬ ready b d ∨ b.freeSlot d.part.val = none) → exec (.migrationMsg m d) s = did ((b.onQp k fun q => { q with inFlight := q.inFlight + 1 }).complete k
            { tag := d.tag, status := 0x0200, detail := 0, info := infoByte false true false b.degraded, r0 := 0, r1 := 0, r2 := 0, r3 := 0 }))
        ∧ ∀ n, ¬ full → ready b d → b.freeSlot d.part.val = some n → ∀ buf out gq gst,
          let g := nextGen (KMap.getD b.sch.gens n 0)
          let gr := if d.grammarEn then KMap.get? b.sch.grammars d.grammar.toNat else none
          rederive (b.tenantVocab d.tenant) gr d.stop [] [] (match gr with | some x => x.start | none => 0) [] d.tokens = (buf, out, gq, gst) →
          let h : Hdr := { fn := b.deliveryFn d.part, qp := 0, flags := 0, part := BitVec.ofNat 8 d.part.val, tag := d.tag, paramLen := 0, rsv := 0, run := q.runs }
          let r := { newReq b h (if d.isAsk then .ask else .generate) g (List.replicate (if d.isAsk then 160 else 32) 0 ++ padTo 40 d.sampling ++ padTo 592 d.stop) with
            tenant := d.tenant, grammar := if d.grammarEn then some d.grammar.toNat else none, gState := BitVec.ofNat 16 gq, gStack := gst, prompt := d.prompt,
            emitted := d.tokens, buf := buf, issued := d.bytes.toNat, visible := d.bytes.toNat, phase := 4, stage := 9, migrated := true, rebuild := true, state := .rebuilding }
          let t := (b.onSch fun c => { c with slots := KMap.set c.slots n r, gens := KMap.set c.gens n g }).onQp k fun q => { q with inFlight := q.inFlight + 1 }
          exec (.migrationMsg m d) s = did ((((t.writeRecord n).issueText n (out.drop d.bytes.toNat)).mirrorOpen n).publishEntry n false)))


/-! ## Registers -/

/-- Register rows (R17, R123, R170, R184, R232, R296, R300, R356, R379, R396, R397): each write through the PF's BAR0 leaves what its register's access code says, with reserved bits dropped, values held at the
nearer limit, locked registers unchanged, and a count cleared by any 1; a read of a low word latches its high word. While the host does not reach the function nothing is written,
and a latching read gives all ones, as reserved space does (log entry 88). -/
def Obligations.RegisterAccesses : Prop :=
  ∀ (s : State) (v : W32) (i : IndexNo) (p : PartNo),
    let go := fun (t : State) => (Host.Outcome.next t : Out)
    (s.reaches 0 = true →
      exec (.pwrDroopCfgWrite v) s = go (s.onPwr fun w => { w with droopCfg := if w.droopCfg.getLsbD 4 then w.droopCfg else if v.toNat % 16 = 15 then keep v 0x10 ||| keep w.droopCfg 0xF else keep v 0x1F })
      ∧ exec (.memPagerCfgWrite p v) s = .next ((s.onPart p.val fun x => { x with pagerNew := some (keep v 0xFFFFFF07) }).settle).woken
      ∧ exec (.schSchedCfgWrite p v) s = .next ((s.onPart p.val fun x => { x with schedNew := some v }).settle).woken
      ∧ exec (.retHotCfgWrite v) s = go (s.onRet fun r => { r with hotCfg := keep v 0x1FFFF })
      ∧ exec (.tblHotCfgWrite v) s = go (s.onTbl fun t => { t with hotCfg := keep v 0x1FFFF })
      ∧ exec (.celGcCfgWrite v) s = go (s.onCel fun c => { c with gcCfg := v })
      ∧ exec (.celMaintCfgWrite v) s = go (s.onCel fun c => { c with maintCfg := v })
      ∧ exec (.fabShardGrpWrite i v) s = go (s.onFab fun b => { b with groups := KMap.setD b.groups i.val 0 (keep v 0x10FFF) })
      ∧ exec (.bbxTimeHiWrite v) s = go (s.onBbx fun b => { b with timeHi := v, hostTime := v ++ b.timeLo, aonCycles := 0 })
      ∧ exec (.pwrCapCfgWrite v) s = go (s.onPwr fun w => { w with capCfg := BitVec.ofNat 32 (min 900 (max 600 (v.toNat % 1024))) })
      ∧ exec (.pwrThermCfgWrite v) s = go (s.onPwr fun w => { w with thermCfg := BitVec.ofNat 32 (min 100 (max 80 (v.toNat % 256))) })
      ∧ exec (.secImgPolicyWrite v) s = go (s.onBoot fun b => if b.imgPolicy.getLsbD 17 then b else { b with imgPolicy := keep v 0x3FFFF })
      ∧ (∀ k w : Fin 16, exec (.secImgKeyWrite k w v) s = go (s.onBoot fun b => if b.imgPolicy.getLsbD 17 then b else { b with keys := KMap.setD b.keys (16 * k.val + w.val) 0 v }))
      ∧ exec (.retOvrClear i v) s = go (s.onIndex i.val fun x => { x with overruns := if v = 0 then x.overruns else 0 })
      ∧ exec (.tblReclaimWaitClear v) s = go (s.onTbl fun t => { t with reclaimWait := if v = 0 then t.reclaimWait else 0 })
      ∧ exec (.txtSampleAnomClear v) s = go (s.onSch fun c => { c with sampleAnom := if v = 0 then c.sampleAnom else 0 })
      ∧ exec (.celUncorrClear v) s = go (s.onCel fun c => { c with uncorr := if v = 0 then c.uncorr else 0 })
      ∧ exec (.bbxSealedLostClear v) s = go (s.onBbx fun b => { b with lost := if keep v 0xFFFF0000 = 0 then b.lost else 0 })
      ∧ (∀ x, s.index? i.val = some x → exec (.retSeqLoRead i) s = go ((s.onIndex i.val fun x => { x with seqHiLatch := highWord x.seq }).returns (lowWord x.seq)))
      ∧ (s.index? i.val = none → exec (.retSeqLoRead i) s = go (s.returns 0))
      ∧ exec (.schStepLoRead p) s = go ((s.onPart p.val fun x => { x with stepHiLatch := highWord x.lastStep }).returns (lowWord (s.part p.val).lastStep))
      ∧ exec .bbxSeqLoRead s = go ((s.onBbx fun b => { b with seqHiLatch := highWord b.nextSeq }).returns (lowWord s.bbx.nextSeq)))
    ∧ (s.reaches 0 = false → ∀ c ∈ ([.pwrDroopCfgWrite v, .retHotCfgWrite v, .tblHotCfgWrite v, .celGcCfgWrite v, .celMaintCfgWrite v, .fabShardGrpWrite i v, .bbxTimeHiWrite v, .pwrCapCfgWrite v,
        .pwrThermCfgWrite v, .secImgPolicyWrite v, .retOvrClear i v, .tblReclaimWaitClear v, .txtSampleAnomClear v, .celUncorrClear v, .bbxSealedLostClear v] : List Instr), exec c s = .next s)
    ∧ (s.reaches 0 = false → exec (.memPagerCfgWrite p v) s = .next s.woken ∧ exec (.schSchedCfgWrite p v) s = .next s.woken
      ∧ (∀ k w : Fin 16, exec (.secImgKeyWrite k w v) s = go s)
      ∧ ∀ c ∈ ([.retSeqLoRead i, .schStepLoRead p, .bbxSeqLoRead] : List Instr), exec c s = go (s.returns 0xFFFFFFFF))
    ∧ (∀ (fn : Fn) (off : W32) (width : BitVec 8) (x : W64), (s.reaches fn = false ∨ off.toNat % 4 ≠ 0 ∨ width ≠ 32) → exec (.regWrite fn off width x) s = .next s.woken)
    ∧ (∀ (fn : Fn) (off : W32) (x : W64), s.reaches fn = true → off.toNat % 4 = 0 →
      let w := x.setWidth 32
      exec (.regWrite fn off 32 x) s = .next (if fn = 0 then s.writePf off.toNat w else if off.toNat < 0x100000 then s.writeGlb fn off.toNat w else s).woken)
    ∧ (s.reaches 0 = true → exec (.regWrite 0 0x800004 32 (v.setWidth 64)) s = .next (s.onCel fun c => { c with gcCfg := v }).woken
      ∧ exec (.regWrite 0 0x10001C 32 (v.setWidth 64)) s = .next s.woken
      ∧ exec (.regWrite 0 0xC 32 (v.setWidth 64)) s = .next (s.onSvc fun x => { x with locate := v.getLsbD 5 }).woken)
    ∧ ∀ x : W64, highWord x ++ lowWord x = x

/-- What the registers read after reset: the values of the reset columns of Tables 2.7, 5.7 to 5.10, 6.8, 6.9, 7.3, 7.4, 9.5, 11.8 to 11.10, 15.17, 16.6 to 16.8, 17.9 to 17.12; reserved space reads all ones (R300). -/
def Obligations.RegistersAfterReset : Prop :=
  let r := fun (off : Nat) => State.reset.regRead 0 off 4
  r 0x100000 = 0x8 ∧ r 0x100300 = 0x384 ∧ r 0x100304 = 0 ∧ r 0x100308 = 0x5F ∧ r 0x200008 = 1200
  ∧ (∀ p < 16, r (0x300140 + 4 * p) = 0x078081C0 ∧ r (0x400100 + 4 * p) = 0x10301002 ∧ r (0x400140 + 4 * p) = 0x42000800 ∧ r (0x400240 + 4 * p) = 0x400
    ∧ r (0x400280 + 4 * p) = 0 ∧ r (0x4002C0 + 4 * p) = 0)
  ∧ (∀ i < 64, r (0x500200 + 4 * i) = 0 ∧ r (0x900200 + 4 * i) = 0)
  ∧ r 0x500308 = 0x10400 ∧ r 0x600000 = 0x10040 ∧ r 0x600004 = 0 ∧ r 0x70000C = 0 ∧ r 0x800004 = 0x40104800 ∧ r 0x800008 = 0x880E6C2A ∧ r 0x80000C = 0
  ∧ r 0xB00008 = 0 ∧ (∀ k < 256, r (0xB01000 + 4 * k) = 0) ∧ r 0xC00010 = 0 ∧ r 0xC00014 = 0 ∧ r 0x100004 = 0xFFFFFFFF ∧ r 0x100001 = 0xFFFFFFFF

/-- A report changes nothing but its own answer: the bytes of its OUTBUF, its completion entry, and the queue pair's own counts and interrupts. Every other byte of host memory, every byte of the
module's memories and every other piece of state stay as they were (R318, R308). -/
def Obligations.ReportsChangeNothingElse : Prop :=
  ∀ x ∈ ([(⟨.identify, 0x0101, identifyChecks⟩, 0), (⟨.tenantInfo, 0x0204, tenantInfoChecks⟩, 8), (⟨.indexInfo, 0x0405, indexInfoChecks⟩, 8), (⟨.tableInfo, 0x0504, tableInfoChecks⟩, 8),
      (⟨.fabStatus, 0x0901, fabStatusChecks⟩, 0), (⟨.sensors, 0x0B03, sensorsChecks⟩, 0)] : List (HostRow × Nat)),
    ∀ (s t : State) (h : Hdr) (pb : Bytes),
      let q := (s.taken h).qp (qpKey h.fn h.qp)
      let entry := q.runCqb.toNat + 32 * (if q.runCq = 0 then 0 else q.cqTail % q.runCq)
      s.clear x.1.op x.1.checks h pb = true → s.calm = true → Mem.wf s.host = true → exec (x.1.row h pb) s = .next t →
      { t with host := s.host, porch := { t.porch with qps := s.porch.qps, msix := s.porch.msix } } = s
      ∧ ∀ a : Nat, (∀ k < fld pb (x.2 + 8) 4, hostAddr (fld pb x.2 8 + k) ≠ a) → (∀ k < 32, hostAddr (entry + k) ≠ a) → Mem.read t.host a = Mem.read s.host a
end

