-- ==== Sys2Proof/Laws/Commands.lean ====
section
/-! SUPPORT. What a host command does once the porch has fetched it: it is left, it waits, it fails its first failing check, or its action runs. -/

namespace Sys2Proof.Machine

/-- A clear command is taken and its admission runs. -/
theorem State.fetched_clear {s : State} {op : Nat} {checks : State → Hdr → Bytes → List (Option Fail)} {h : Hdr} {pb : Bytes} {f : Hdr → State → State}
    (hc : s.clear op checks h pb = true) : s.fetched op h pb f = f (s.stamped h) (s.taken h) := by
  unfold State.clear State.admits State.takes at hc
  simp only [Bool.and_eq_true, Bool.not_eq_true'] at hc
  unfold State.fetched
  rw [if_neg, if_neg]
  · rfl
  · rw [Bool.not_eq_true]; exact hc.1.2
  · rw [hc.1.1.1.1, hc.1.1.1.2, hc.1.1.2]; simp
/-- A clear command fails no check. -/
theorem State.clear_checks {s : State} {op : Nat} {checks : State → Hdr → Bytes → List (Option Fail)} {h : Hdr} {pb : Bytes}
    (hc : s.clear op checks h pb = true) : firstFail (checks (s.taken h) (s.stamped h) pb) = none := by
  unfold State.clear at hc
  simp only [Bool.and_eq_true, Option.isNone_iff_eq_none] at hc
  exact hc.2
/-- With no failing check the action runs. -/
theorem runCmd_clear {s : State} {h : Hdr} {l : List (Option Fail)} {act : State → State} (hl : firstFail l = none) : runCmd s h l act = act s := by
  unfold runCmd; rw [hl]
/-- With a failing check the command reports it. -/
theorem runCmd_fails {s : State} {h : Hdr} {l : List (Option Fail)} {act : State → State} {f : Fail} (hl : firstFail l = some f) : runCmd s h l act = s.err h f := by
  unfold runCmd; rw [hl]
/-- A command of a partition wakes its cores first. -/
theorem runIn_clear {s : State} {h : Hdr} {text : Bool} {l : List (Option Fail)} {act : State → State} (hl : firstFail l = none) :
    runIn s h text l act = act ((s.wakeCores h.partNo).iff text fun s => s.wakeDom 5) := by
  unfold runIn; rw [runCmd_clear hl]
/-- A command the porch does not take leaves the state as it is. -/
theorem State.fetched_left {s : State} {op : Nat} {h : Hdr} {pb : Bytes} {f : Hdr → State → State} (ht : s.takes h = false) : s.fetched op h pb f = s := by
  unfold State.fetched
  rw [if_pos]
  unfold State.takes at ht
  revert ht
  cases (s.qp (qpKey h.fn h.qp)).mayFetch <;> cases s.departed <;> simp

/-- The next message of its stream is applied, and then those it had held up. -/
theorem State.receive_inTurn {s : State} {m : MsgHdr} {cls : Nat} (ordered : Bool) (i : Instr) (h : s.inTurn m cls = true) :
    s.receive m cls ordered i = (applyMsg i (s.took m cls)).caughtUp m cls := by
  unfold State.inTurn at h
  simp only [Bool.and_eq_true, Bool.not_eq_true', beq_iff_eq] at h
  obtain ⟨⟨⟨h1, h2⟩, h3⟩, h4⟩ := h
  unfold State.receive State.arrive State.caughtUp
  rw [h1, h2, h3]
  simp only [Bool.false_eq_true, if_false]
  rw [if_pos h4]

end Sys2Proof.Machine
end

