-- ==== Sys2Proof/Laws/KMap.lean ====
section
/-! SUPPORT. Laws of the finite maps: every operation keeps the strictly rising keys, and a read after a write. -/

namespace Sys2Proof.Machine

variable {α : Type}

theorem KMap.sortedFrom_mono {m : KMap α} {lo hi : Nat} (h : lo ≤ hi) (hm : KMap.sortedFrom hi m = true) : KMap.sortedFrom lo m = true := by
  cases m with
  | nil => rfl
  | cons x m =>
    simp only [KMap.sortedFrom, Bool.and_eq_true, decide_eq_true_eq] at hm ⊢
    exact ⟨le_trans h hm.1, hm.2⟩

theorem KMap.sortedFrom_set {m : KMap α} {lo k : Nat} {v : α} (hk : lo ≤ k) (hm : KMap.sortedFrom lo m = true) :
    KMap.sortedFrom lo (KMap.set m k v) = true := by
  induction m generalizing lo with
  | nil => simp [KMap.set, KMap.sortedFrom, hk]
  | cons x m ih =>
    simp only [KMap.sortedFrom, Bool.and_eq_true, decide_eq_true_eq] at hm
    simp only [KMap.set]
    split
    · rename_i h; simp only [KMap.sortedFrom, Bool.and_eq_true, decide_eq_true_eq]; exact ⟨hk, h, hm.2⟩
    · split
      · rename_i h; subst h; simp only [KMap.sortedFrom, Bool.and_eq_true, decide_eq_true_eq]; exact ⟨hk, hm.2⟩
      · simp only [KMap.sortedFrom, Bool.and_eq_true, decide_eq_true_eq]; exact ⟨hm.1, ih (by omega) hm.2⟩

theorem KMap.sortedFrom_erase {m : KMap α} {lo k : Nat} (hm : KMap.sortedFrom lo m = true) : KMap.sortedFrom lo (KMap.erase m k) = true := by
  induction m generalizing lo with
  | nil => rfl
  | cons x m ih =>
    simp only [KMap.sortedFrom, Bool.and_eq_true, decide_eq_true_eq] at hm
    simp only [KMap.erase]
    split
    · exact KMap.sortedFrom_mono (by omega) hm.2
    · simp only [KMap.sortedFrom, Bool.and_eq_true, decide_eq_true_eq]; exact ⟨hm.1, ih hm.2⟩

theorem KMap.sortedFrom_filter {m : KMap α} {lo : Nat} {f : Nat × α → Bool} (hm : KMap.sortedFrom lo m = true) :
    KMap.sortedFrom lo (m.filter f) = true := by
  induction m generalizing lo with
  | nil => rfl
  | cons x m ih =>
    simp only [KMap.sortedFrom, Bool.and_eq_true, decide_eq_true_eq] at hm
    simp only [List.filter]
    split
    · simp only [KMap.sortedFrom, Bool.and_eq_true, decide_eq_true_eq]; exact ⟨hm.1, ih hm.2⟩
    · exact KMap.sortedFrom_mono (by omega) (ih hm.2)

/-- Setting a key keeps the canonical form. -/
theorem KMap.wf_set {m : KMap α} (k : Nat) (v : α) (hm : KMap.wf m = true) : KMap.wf (KMap.set m k v) = true := KMap.sortedFrom_set (Nat.zero_le k) hm
/-- Erasing a key keeps it. -/
theorem KMap.wf_erase {m : KMap α} (k : Nat) (hm : KMap.wf m = true) : KMap.wf (KMap.erase m k) = true := KMap.sortedFrom_erase hm
/-- A selection keeps it. -/
theorem KMap.wf_filter {m : KMap α} (f : Nat × α → Bool) (hm : KMap.wf m = true) : KMap.wf (m.filter f) = true := KMap.sortedFrom_filter hm
theorem KMap.wf_setD [DecidableEq α] {m : KMap α} (k : Nat) (d v : α) (hm : KMap.wf m = true) : KMap.wf (KMap.setD m k d v) = true := by
  unfold KMap.setD; split
  · exact KMap.wf_erase k hm
  · exact KMap.wf_set k v hm

/-! Where an entry of the map comes from. -/

theorem KMap.mem_set {m : KMap α} {k : Nat} {v : α} {x : Nat × α} (h : x ∈ KMap.set m k v) : x = (k, v) ∨ x ∈ m := by
  induction m with
  | nil => simpa [KMap.set] using h
  | cons y m ih =>
    simp only [KMap.set] at h
    split at h
    · simpa using h
    · split at h
      · rcases List.mem_cons.1 h with h | h
        · exact .inl h
        · exact .inr (List.mem_cons_of_mem _ h)
      · rcases List.mem_cons.1 h with h | h
        · exact .inr (by rw [h]; exact List.mem_cons_self)
        · rcases ih h with h | h
          · exact .inl h
          · exact .inr (List.mem_cons_of_mem _ h)
theorem KMap.mem_erase {m : KMap α} {k : Nat} {x : Nat × α} (h : x ∈ KMap.erase m k) : x ∈ m := by
  induction m with
  | nil => exact h
  | cons y m ih =>
    simp only [KMap.erase] at h
    split at h
    · exact List.mem_cons_of_mem _ h
    · rcases List.mem_cons.1 h with h | h
      · rw [h]; exact List.mem_cons_self
      · exact List.mem_cons_of_mem _ (ih h)
theorem KMap.mem_setD [DecidableEq α] {m : KMap α} {k : Nat} {d v : α} {x : Nat × α} (h : x ∈ KMap.setD m k d v) : x = (k, v) ∨ x ∈ m := by
  unfold KMap.setD at h; split at h
  · exact .inr (KMap.mem_erase h)
  · exact KMap.mem_set h
theorem KMap.get?_mem {m : KMap α} {k : Nat} {v : α} (h : KMap.get? m k = some v) : (k, v) ∈ m := by
  induction m with
  | nil => cases h
  | cons y m ih =>
    simp only [KMap.get?] at h
    split at h
    · rename_i e; cases h; cases e; exact List.mem_cons_self
    · exact List.mem_cons_of_mem _ (ih h)
/-- A value read is the default or a listed one. -/
theorem KMap.getD_mem (m : KMap α) (k : Nat) (d : α) : KMap.getD m k d = d ∨ (k, KMap.getD m k d) ∈ m := by
  unfold KMap.getD
  cases h : KMap.get? m k with
  | none => exact .inl rfl
  | some v => exact .inr (KMap.get?_mem h)

/-! Reads after writes. -/

/-- A key below all listed keys is not listed. -/
theorem KMap.get?_below {m : KMap α} {lo k : Nat} (hk : k < lo) (hm : KMap.sortedFrom lo m = true) : KMap.get? m k = none := by
  induction m generalizing lo with
  | nil => rfl
  | cons y m ih =>
    simp only [KMap.sortedFrom, Bool.and_eq_true, decide_eq_true_eq] at hm
    have hne : ¬ y.1 = k := by omega
    simp only [KMap.get?, if_neg hne]
    exact ih (by omega) hm.2
@[simp] theorem KMap.get?_set_self (m : KMap α) (k : Nat) (v : α) : KMap.get? (KMap.set m k v) k = some v := by
  induction m with
  | nil => simp [KMap.set, KMap.get?]
  | cons y m ih =>
    simp only [KMap.set]
    split
    · simp [KMap.get?]
    · split
      · simp [KMap.get?]
      · rename_i h; simp only [KMap.get?, if_neg h]; exact ih
theorem KMap.get?_set_ne (m : KMap α) {k j : Nat} (v : α) (h : k ≠ j) : KMap.get? (KMap.set m k v) j = KMap.get? m j := by
  induction m with
  | nil => simp [KMap.set, KMap.get?, h]
  | cons y m ih =>
    simp only [KMap.set]
    split
    · simp [KMap.get?, h]
    · split
      · rename_i e; simp [KMap.get?, e, h]
      · simp only [KMap.get?]; rw [ih]
theorem KMap.get?_erase_ne (m : KMap α) {k j : Nat} (h : k ≠ j) : KMap.get? (KMap.erase m k) j = KMap.get? m j := by
  induction m with
  | nil => rfl
  | cons y m ih =>
    simp only [KMap.erase]
    split
    · rename_i e; simp [KMap.get?, e, h]
    · simp only [KMap.get?]; rw [ih]
theorem KMap.get?_erase_self {m : KMap α} {k : Nat} (hm : KMap.wf m = true) : KMap.get? (KMap.erase m k) k = none := by
  have aux : ∀ lo, KMap.sortedFrom lo m = true → KMap.get? (KMap.erase m k) k = none := by
    induction m with
    | nil => intros; rfl
    | cons y m ih =>
      intro lo h
      simp only [KMap.sortedFrom, Bool.and_eq_true, decide_eq_true_eq] at h
      simp only [KMap.erase]
      split
      · rename_i e; exact KMap.get?_below (by omega) h.2
      · rename_i e; simp only [KMap.get?, if_neg e]
        exact ih (KMap.sortedFrom_mono (Nat.zero_le _) h.2) _ h.2
  exact aux 0 hm
/-- What a canonical map reads after a write: the value written at that key, as before elsewhere. -/
theorem KMap.getD_setD [DecidableEq α] {m : KMap α} (hm : KMap.wf m = true) (k j : Nat) (d v : α) :
    KMap.getD (KMap.setD m k d v) j d = if k = j then v else KMap.getD m j d := by
  unfold KMap.setD KMap.getD
  by_cases e : k = j
  · subst e
    by_cases hv : v = d
    · simp [hv, KMap.get?_erase_self hm]
    · simp [hv]
  · by_cases hv : v = d
    · simp [hv, e, KMap.get?_erase_ne m e]
    · simp [hv, e, KMap.get?_set_ne m v e]

/-! ### changing every value, changing one -/

theorem KMap.sortedFrom_mapAll {m : KMap α} {lo : Nat} (f : Nat → α → α) (hm : KMap.sortedFrom lo m = true) : KMap.sortedFrom lo (KMap.mapAll m f) = true := by
  induction m generalizing lo with
  | nil => rfl
  | cons x m ih =>
    simp only [KMap.sortedFrom, Bool.and_eq_true, decide_eq_true_eq] at hm
    simp only [KMap.mapAll, List.map_cons, KMap.sortedFrom, Bool.and_eq_true, decide_eq_true_eq]
    exact ⟨hm.1, ih hm.2⟩
theorem KMap.wf_mapAll {m : KMap α} (f : Nat → α → α) (hm : KMap.wf m = true) : KMap.wf (KMap.mapAll m f) = true := KMap.sortedFrom_mapAll f hm
theorem KMap.get?_mapAll (m : KMap α) (f : Nat → α → α) (k : Nat) : KMap.get? (KMap.mapAll m f) k = (KMap.get? m k).map (f k) := by
  induction m with
  | nil => rfl
  | cons x m ih =>
    simp only [KMap.mapAll, List.map_cons, KMap.get?]
    split
    · rename_i h; simp [h]
    · exact ih
theorem KMap.getD_modD_self [DecidableEq α] {m : KMap α} (hm : KMap.wf m = true) (k : Nat) (d : α) (f : α → α) :
    KMap.getD (KMap.modD m k d f) k d = f (KMap.getD m k d) := by
  unfold KMap.modD; rw [KMap.getD_setD hm]; simp
theorem KMap.getD_modD_ne [DecidableEq α] {m : KMap α} (hm : KMap.wf m = true) {k j : Nat} (h : k ≠ j) (d : α) (f : α → α) :
    KMap.getD (KMap.modD m k d f) j d = KMap.getD m j d := by
  unfold KMap.modD; rw [KMap.getD_setD hm]; simp [h]
theorem KMap.wf_modD [DecidableEq α] {m : KMap α} (k : Nat) (d : α) (f : α → α) (hm : KMap.wf m = true) : KMap.wf (KMap.modD m k d f) = true :=
  KMap.wf_setD _ _ _ hm

end Sys2Proof.Machine
end

