-- ==== Sys2Proof/Laws/Memory.lean ====
section
/-! SUPPORT. Laws of memory by byte: every operation keeps the canonical form, and a byte reads as it was last written. -/

namespace Sys2Proof.Machine

theorem Mem.wf_iff (m : Mem) : Mem.wf m = true ↔ KMap.wf m = true ∧ ∀ c ∈ m, c.2 ≠ 0 := by
  simp [Mem.wf, List.all_eq_true]

theorem Mem.wf_write {m : Mem} (a : Nat) (b : Byte) (h : Mem.wf m = true) : Mem.wf (Mem.write m a b) = true := by
  rw [Mem.wf_iff] at h ⊢
  refine ⟨KMap.wf_setD a 0 b h.1, fun c hc => ?_⟩
  unfold Mem.write KMap.setD at hc
  split at hc
  · exact h.2 c (KMap.mem_erase hc)
  · rename_i hb
    rcases KMap.mem_set hc with rfl | hc
    · exact hb
    · exact h.2 c hc
theorem Mem.wf_filter {m : Mem} (f : Host.Cell → Bool) (h : Mem.wf m = true) : Mem.wf (m.filter f) = true := by
  rw [Mem.wf_iff] at h ⊢
  exact ⟨KMap.wf_filter f h.1, fun c hc => h.2 c (List.mem_filter.1 hc).1⟩
theorem Mem.wf_writeN {m : Mem} (a : Nat) (b : Bytes) (h : Mem.wf m = true) : Mem.wf (Mem.writeN m a b) = true := by
  induction b generalizing m a with
  | nil => exact h
  | cons x b ih => exact ih _ (Mem.wf_write a x h)
theorem Mem.wf_zero {m : Mem} (a n : Nat) (h : Mem.wf m = true) : Mem.wf (Mem.zero m a n) = true := Mem.wf_filter _ h
theorem Mem.wf_foldl {α : Type} {f : Mem → α → Mem} (hf : ∀ m x, Mem.wf m = true → Mem.wf (f m x) = true) {m : Mem} (l : List α)
    (h : Mem.wf m = true) : Mem.wf (l.foldl f m) = true := by
  induction l generalizing m with
  | nil => exact h
  | cons x l ih => exact ih (hf m x h)
theorem Mem.wf_copy {m : Mem} (a b n : Nat) (h : Mem.wf m = true) : Mem.wf (Mem.copy m a b n) = true :=
  Mem.wf_foldl (fun _ _ h => Mem.wf_write _ _ h) _ (Mem.wf_zero b n h)
theorem writeRuns_wf {m : Mem} (l : List (Nat × Bytes)) (h : Mem.wf m = true) : Mem.wf (writeRuns m l) = true :=
  Mem.wf_foldl (fun _ _ h => Mem.wf_writeN _ _ h) _ h
theorem copyRuns_wf {m : Mem} (l : List (Nat × Nat × Nat)) (h : Mem.wf m = true) : Mem.wf (copyRuns m l) = true :=
  Mem.wf_foldl (fun _ _ h => Mem.wf_copy _ _ _ h) _ h
theorem zeroRuns_wf {m : Mem} (l : List (Nat × Nat)) (h : Mem.wf m = true) : Mem.wf (zeroRuns m l) = true :=
  Mem.wf_foldl (fun _ _ h => Mem.wf_zero _ _ h) _ h
theorem hostWriteM_wf {m : Mem} (a : Nat) (b : Bytes) (h : Mem.wf m = true) : Mem.wf (hostWriteM m a b) = true := by
  induction b generalizing m a with
  | nil => exact h
  | cons x b ih => exact ih _ (Mem.wf_write _ x h)

/-- A byte reads as it was written; every other byte as before. -/
theorem Mem.read_write {m : Mem} (h : Mem.wf m = true) (a j : Nat) (b : Byte) :
    Mem.read (Mem.write m a b) j = if a = j then b else Mem.read m j := KMap.getD_setD ((Mem.wf_iff m).1 h).1 a j 0 b

/-- A write of a byte string leaves every byte outside it. -/
theorem hostWriteM_frame {m : Mem} (h : Mem.wf m = true) (a : Nat) (b : Bytes) (j : Nat) (hj : ∀ i < b.length, hostAddr (a + i) ≠ j) :
    Mem.read (hostWriteM m a b) j = Mem.read m j := by
  induction b generalizing m a with
  | nil => rfl
  | cons x b ih =>
    have h0 : hostAddr a ≠ j := by simpa using hj 0 (by simp)
    rw [hostWriteM, ih (Mem.wf_write _ _ h) (a + 1) (fun i hi => by
      have := hj (i + 1) (by simpa using hi)
      rwa [Nat.add_assoc, Nat.add_comm 1 i]), Mem.read_write h, if_neg h0]

/-- A byte string shorter than the address space reads back. -/
theorem hostWriteM_read {m : Mem} (h : Mem.wf m = true) (a : Nat) (b : Bytes) (hb : b.length ≤ 2 ^ 64) (i : Nat) (hi : i < b.length) :
    Mem.read (hostWriteM m a b) (hostAddr (a + i)) = b[i] := by
  induction b generalizing m a i with
  | nil => exact absurd hi (by simp)
  | cons x b ih =>
    have hb' : b.length < 2 ^ 64 := by simpa using hb
    cases i with
    | zero =>
      rw [hostWriteM, hostWriteM_frame (Mem.wf_write _ _ h), Mem.read_write h]
      · simp
      · intro i hi
        simp only [hostAddr, Nat.add_zero]
        omega
    | succ i =>
      have := ih (Mem.wf_write (hostAddr a) x h) (a + 1) (by omega) i (by simpa using hi)
      rw [hostWriteM]
      simpa [Nat.add_assoc, Nat.add_comm 1 i] using this

end Sys2Proof.Machine
end

