-- ==== Sys2Proof/Laws/Evolve.lean ====
section
/-! SUPPORT. What every operation keeps (Evolves), for the operations on parts of the state, the black box and the rings: the lemmas that the
operations of the families are shown by. A lemma's name is its operation's. -/

namespace Sys2Proof.Machine

variable {z s t : State}
theorem Evolves.rfl' : Evolves s s := ⟨rfl, rfl, id, id, fun _ => id, le_rfl, id, id, id⟩
theorem Evolves.trans {a b c : State} (h : Evolves a b) (g : Evolves b c) : Evolves a c :=
  ⟨g.1.trans h.1, g.2.trans h.2, g.3 ∘ h.3, g.4 ∘ h.4, fun c => g.5 c ∘ h.5 c, h.6.trans g.6, g.7 ∘ h.7, g.8 ∘ h.8, g.9 ∘ h.9⟩
/-- the fields Evolves speaks of are the same -/
theorem Evolves.same (h : Evolves z s) (h1 : t.pending = s.pending) (h2 : t.ident = s.ident) (h3 : t.host = s.host) (h4 : t.mem.bytes = s.mem.bytes)
    (h5 : t.ras.fusedOut = s.ras.fusedOut) (h6 : t.boot.svnFused = s.boot.svnFused) (h7 : t.bbx.recs = s.bbx.recs) (h7' : t.bbx.sealedN = s.bbx.sealedN) (h8 : t.porch.qps = s.porch.qps) (h9 : t.pwr = s.pwr) :
    Evolves z t := by
  refine h.trans ⟨h1, h2, by rw [h3]; exact id, by rw [h4]; exact id, by rw [h5]; exact fun _ => id, by rw [h6], ?_, ?_, ?_⟩
  · unfold Bbx.fits; rw [h7, h7']; exact id
  · unfold State.ringsFit; rw [h8]; exact id
  · unfold Pwr.bounded; rw [h9]; exact id
theorem ite_evolves {c : Prop} [Decidable c] {a b : State} (ha : c → Evolves z a) (hb : ¬ c → Evolves z b) : Evolves z (if c then a else b) := by
  split <;> simp_all

theorem onSch_evolves (f) (h : Evolves z s) : Evolves z (s.onSch f) := h.same rfl rfl rfl rfl rfl rfl rfl rfl rfl rfl
theorem onRet_evolves (f) (h : Evolves z s) : Evolves z (s.onRet f) := h.same rfl rfl rfl rfl rfl rfl rfl rfl rfl rfl
theorem onTbl_evolves (f) (h : Evolves z s) : Evolves z (s.onTbl f) := h.same rfl rfl rfl rfl rfl rfl rfl rfl rfl rfl
theorem onCel_evolves (f) (h : Evolves z s) : Evolves z (s.onCel f) := h.same rfl rfl rfl rfl rfl rfl rfl rfl rfl rfl
theorem onFab_evolves (f) (h : Evolves z s) : Evolves z (s.onFab f) := h.same rfl rfl rfl rfl rfl rfl rfl rfl rfl rfl
theorem onPwr_evolves (f) (h : Evolves z s) (hf : s.pwr.bounded → (f s.pwr).bounded) : Evolves z (s.onPwr f) :=
  h.trans ⟨rfl, rfl, id, id, fun _ => id, le_rfl, id, id, hf⟩
theorem onSvc_evolves (f) (h : Evolves z s) : Evolves z (s.onSvc f) := h.same rfl rfl rfl rfl rfl rfl rfl rfl rfl rfl
theorem onPart_evolves (p f) (h : Evolves z s) : Evolves z (s.onPart p f) := h.same rfl rfl rfl rfl rfl rfl rfl rfl rfl rfl
theorem onReq_evolves (p f) (h : Evolves z s) : Evolves z (s.onReq p f) := h.same rfl rfl rfl rfl rfl rfl rfl rfl rfl rfl
theorem onCore_evolves (p f) (h : Evolves z s) : Evolves z (s.onCore p f) := h.same rfl rfl rfl rfl rfl rfl rfl rfl rfl rfl
theorem onIndex_evolves (p f) (h : Evolves z s) : Evolves z (s.onIndex p f) := h.same rfl rfl rfl rfl rfl rfl rfl rfl rfl rfl
theorem onTable_evolves (p f) (h : Evolves z s) : Evolves z (s.onTable p f) := h.same rfl rfl rfl rfl rfl rfl rfl rfl rfl rfl
theorem onDie_evolves (p f) (h : Evolves z s) : Evolves z (s.onDie p f) := h.same rfl rfl rfl rfl rfl rfl rfl rfl rfl rfl
theorem onPort_evolves (p f) (h : Evolves z s) : Evolves z (s.onPort p f) := h.same rfl rfl rfl rfl rfl rfl rfl rfl rfl rfl
theorem setDom_evolves (p f) (h : Evolves z s) : Evolves z (s.setDom p f) := onPwr_evolves _ h fun h => h
theorem onPorch_evolves (f) (h : Evolves z s) (hf : (f s.porch).qps = s.porch.qps) : Evolves z (s.onPorch f) := h.same rfl rfl rfl rfl rfl rfl rfl rfl hf rfl
theorem onPorch_evolves' (f) (h : Evolves z s) (hf : s.ringsFit → KMap.wf (f s.porch).qps = true ∧ ∀ x ∈ (f s.porch).qps, x.2.fits) : Evolves z (s.onPorch f) :=
  h.trans ⟨rfl, rfl, id, id, fun _ => id, le_rfl, id, hf, id⟩
theorem mapAll_fits (f : Nat → Qp → Qp) (hf : ∀ k q, q.fits → (f k q).fits) (h : s.ringsFit) :
    KMap.wf (KMap.mapAll s.porch.qps f) = true ∧ ∀ x ∈ KMap.mapAll s.porch.qps f, x.2.fits := by
  refine ⟨KMap.wf_mapAll f h.1, fun x hx => ?_⟩
  obtain ⟨y, hy, rfl⟩ := List.mem_map.1 hx
  exact hf _ _ (h.2 y hy)
theorem onMem_evolves (f) (h : Evolves z s) (hf : Mem.wf s.mem.bytes = true → Mem.wf (f s.mem).bytes = true) : Evolves z (s.onMem f) :=
  h.trans ⟨rfl, rfl, id, hf, fun _ => id, le_rfl, id, id, id⟩
theorem onRas_evolves (f) (h : Evolves z s) (hf : ∀ c, s.ras.fusedOut.getLsbD c = true → (f s.ras).fusedOut.getLsbD c = true) : Evolves z (s.onRas f) :=
  h.trans ⟨rfl, rfl, id, id, hf, le_rfl, id, id, id⟩
theorem onBoot_evolves (f) (h : Evolves z s) (hf : s.boot.svnFused ≤ (f s.boot).svnFused) : Evolves z (s.onBoot f) :=
  h.trans ⟨rfl, rfl, id, id, fun _ => id, hf, id, id, id⟩
theorem onBbx_evolves (f) (h : Evolves z s) (hf : s.bbx.fits → (f s.bbx).fits) : Evolves z (s.onBbx f) :=
  h.trans ⟨rfl, rfl, id, id, fun _ => id, le_rfl, hf, id, id⟩
theorem hostWrite_evolves (a b) (h : Evolves z s) : Evolves z (s.hostWrite a b) :=
  h.trans ⟨rfl, rfl, hostWriteM_wf a b, id, fun _ => id, le_rfl, id, id, id⟩
theorem Qp.fits_reset : Qp.reset.fits := ⟨fun h => absurd h (by decide), by decide⟩
theorem State.qp_fits (h : s.ringsFit) (k : Nat) : (s.qp k).fits := by
  rcases KMap.getD_mem s.porch.qps k Qp.reset with e | e
  · unfold State.qp; rw [e]; exact Qp.fits_reset
  · exact h.2 _ e
theorem onQp_evolves' (k) (f) (h : Evolves z s) (hf : (s.qp k).fits → (f (s.qp k)).fits) : Evolves z (s.onQp k f) :=
  h.trans ⟨rfl, rfl, id, id, fun _ => id, le_rfl, id, fun hr => ⟨KMap.wf_setD _ _ _ hr.1, fun x hx => by
    rcases KMap.mem_setD hx with rfl | hx
    · exact hf (State.qp_fits hr k)
    · exact hr.2 x hx⟩, id⟩
theorem onQp_evolves (k) (f) (h : Evolves z s) (hf : ∀ q, q.fits → (f q).fits) : Evolves z (s.onQp k f) := onQp_evolves' k f h (hf _)
theorem each_evolves {α : Type} (l : List α) (f : State → α → State) (h : Evolves z s) (hf : ∀ u x, Evolves z u → Evolves z (f u x)) : Evolves z (s.each l f) := by
  unfold State.each
  induction l generalizing s with
  | nil => exact h
  | cons x l ih => exact ih (hf s x h)
theorem foldl_evolves {α : Type} (l : List α) (f : State → α → State) (h : Evolves z s) (hf : ∀ u x, Evolves z u → Evolves z (f u x)) : Evolves z (l.foldl f s) :=
  each_evolves l f h hf
theorem iff_evolves (c) (f : State → State) (h : Evolves z s) (hf : ∀ u, Evolves z u → Evolves z (f u)) : Evolves z (s.iff c f) := by
  unfold State.iff; split
  · exact hf _ h
  · exact h

/-! ### the clock's steps -/
theorem Pwr.capStep_bounded (w : Pwr) (h : w.bounded) : w.capStep.bounded := by
  obtain ⟨h1, h2, h3⟩ := h
  refine ⟨?_, h2, h3⟩
  unfold Pwr.capStep
  simp only []
  split_ifs with a b c <;> simp only [Bool.and_eq_true, decide_eq_true_eq, and_assoc] at * <;> omega
theorem Pwr.heat_bounded (w : Pwr) (t : Int) (h : w.bounded) : (w.heat t).bounded := by
  obtain ⟨h1, h2, h3⟩ := h
  refine ⟨h1, ?_, h3⟩
  unfold Pwr.heat Pwr.thermStep
  simp only []
  split_ifs <;> omega
theorem Pwr.floor_bounded {n : Nat} (w : Nat) (h : w ≤ 8) : (if n = 3 then min 8 (w + 4) else if 3 < n then min 8 (w + 2) else w) ≤ 8 := by
  split_ifs <;> omega

/-! ### the black box -/
theorem dropOldest_count (l : List BbxRec) : (dropOldest l).countP BbxRec.sealed_ = l.countP BbxRec.sealed_ := by
  induction l with
  | nil => rfl
  | cons r l ih =>
    unfold dropOldest; split
    · simp only [List.countP_cons, ih]
    · rename_i hr; simp only [List.countP_cons, hr]; simp
theorem dropOldest_length (l : List BbxRec) (h : l.countP BbxRec.sealed_ < l.length) : (dropOldest l).length + 1 = l.length := by
  induction l with
  | nil => simp at h
  | cons r l ih =>
    unfold dropOldest; split
    · rename_i hr; simp only [List.countP_cons, hr, if_true, List.length_cons] at h ⊢; have := ih (by omega); omega
    · simp
theorem unsealOldest_length (l : List BbxRec) : (unsealOldest l).length = l.length := by
  induction l with
  | nil => rfl
  | cons r l ih => unfold unsealOldest; split <;> simp [ih]
theorem unsealOldest_count (l : List BbxRec) (h : 0 < l.countP BbxRec.sealed_) : (unsealOldest l).countP BbxRec.sealed_ + 1 = l.countP BbxRec.sealed_ := by
  induction l with
  | nil => simp at h
  | cons r l ih =>
    unfold unsealOldest; split
    · rename_i hr; simp only [List.countP_cons, hr]; simp
    · rename_i hr; simp only [List.countP_cons, hr] at h ⊢; simp only [Bool.false_eq_true, if_false, Nat.add_zero] at h ⊢; exact ih h
theorem Bbx.append_fits (b : Bbx) (ty sev : Nat) (pl : Bytes) (h : b.fits) : (b.append ty sev pl).fits := by
  obtain ⟨h1, h2, h3⟩ := h
  have hc := List.countP_le_length (p := BbxRec.sealed_) (l := b.recs)
  -- the ring after the oldest unsealed record is overwritten
  have ring : ∃ r, r = (if decide (bbxCap ≤ b.recs.length) then dropOldest b.recs else b.recs) ∧ r.length + 1 ≤ 126976 ∧ r.countP BbxRec.sealed_ = b.sealedN := by
    refine ⟨_, rfl, ?_, ?_⟩
    · by_cases hf : bbxCap ≤ b.recs.length
      · have := dropOldest_length b.recs (by simp only [bbxCap] at hf; omega)
        simp only [hf, decide_true, if_true]; omega
      · simp only [hf, decide_false, Bool.false_eq_true, if_false]; simp only [bbxCap] at hf; omega
    · split
      · rw [dropOldest_count]; exact h2.symm
      · exact h2.symm
  obtain ⟨r, hr, hl, hcnt⟩ := ring
  unfold Bbx.append Bbx.fits
  simp only [← hr]
  by_cases hs : 2 ≤ sev
  · by_cases ho : 256 ≤ b.sealedN
    · have h0 := unsealOldest_count r (by omega)
      simp only [hs, ho, decide_true, Bool.and_true, Bool.not_true, Bool.and_false, if_true, Bool.false_eq_true, if_false, List.length_append, List.length_singleton,
        unsealOldest_length, List.countP_append, List.countP_singleton]
      omega
    · simp only [hs, ho, decide_true, decide_false, Bool.and_false, Bool.not_false, Bool.and_true, if_true, Bool.false_eq_true, if_false, List.length_append,
        List.length_singleton, List.countP_append, List.countP_singleton]
      omega
  · simp only [hs, decide_false, Bool.false_and, Bool.false_eq_true, if_false, List.length_append, List.length_singleton, List.countP_append, List.countP_singleton]
    omega
theorem record_evolves (ty sev : Nat) (pl : Bytes) (hs : Evolves z s) : Evolves z (s.record ty sev pl) := by
  unfold State.record
  have h := onBbx_evolves (fun b => b.append ty sev pl) hs (Bbx.append_fits s.bbx ty sev pl)
  split
  · exact onSvc_evolves _ h
  · exact h

theorem or_keeps (a b : BitVec 34) (c : Nat) (h : a.getLsbD c = true) : (a ||| b).getLsbD c = true := by rw [BitVec.getLsbD_or, h]; rfl
theorem Bbx.markRead_fits (b : Bbx) (l : List BbxRec) (h : b.fits) : (b.markRead l).fits := by
  obtain ⟨h1, h2, h3⟩ := h
  refine ⟨by simpa [Bbx.markRead] using h1, ?_, h3⟩
  show b.sealedN = (b.recs.map _).countP BbxRec.sealed_
  rw [h2, List.countP_map]
  congr 1
  funext r
  simp only [Function.comp]
  split <;> rfl
theorem count_unseal (p : BbxRec → Bool) (hp : ∀ r, p r = true → r.sealed_ = true) (l : List BbxRec) :
    (l.map fun r => if p r then { r with sealed_ := false } else r).countP BbxRec.sealed_ = l.countP BbxRec.sealed_ - (l.filter p).length ∧
      (l.filter p).length ≤ l.countP BbxRec.sealed_ := by
  induction l with
  | nil => exact ⟨rfl, le_rfl⟩
  | cons r l ih =>
    by_cases h : p r = true
    · have hr := hp r h
      simp only [List.map_cons, h, if_true, List.countP_cons, List.filter_cons, hr, List.length_cons, Bool.false_eq_true, if_false]
      omega
    · simp only [List.map_cons, h, if_false, List.countP_cons, List.filter_cons, Bool.false_eq_true]
      split <;> omega
theorem Bbx.unseal_fits (b : Bbx) (p : BbxRec → Bool) (hp : ∀ r, p r = true → r.sealed_ = true) (h : b.fits) :
    ({ b with recs := b.recs.map fun r => if p r then { r with sealed_ := false } else r, sealedN := b.sealedN - (b.recs.filter p).length } : Bbx).fits := by
  obtain ⟨h1, h2, h3⟩ := h
  obtain ⟨c1, c2⟩ := count_unseal p hp b.recs
  exact ⟨by simpa using h1, by show b.sealedN - _ = _; rw [c1, h2], by show b.sealedN - _ ≤ 256; omega⟩

/-! ### rings -/
theorem msix_evolves (k vec : Nat) (hs : Evolves z s) : Evolves z (s.msix k vec) := onPorch_evolves _ hs rfl
theorem cqIrq_evolves (k : Nat) (last : Bool) (hs : Evolves z s) : Evolves z (s.cqIrq k last) := by
  unfold State.cqIrq; simp only []
  split
  · exact msix_evolves _ _ (onQp_evolves _ _ hs fun _ h => h)
  · exact onQp_evolves _ _ hs fun _ h => h
theorem orIrq_evolves (k : Nat) (last : Bool) (hs : Evolves z s) : Evolves z (s.orIrq k last) := by
  unfold State.orIrq; simp only []
  split
  · exact msix_evolves _ _ (onQp_evolves _ _ hs fun _ h => h)
  · exact onQp_evolves _ _ hs fun _ h => h
theorem writeOr_evolves (k : Nat) (r : TextRec) (last : Bool) (hs : Evolves z s) (hf : (s.qp k).orFree = true) : Evolves z (s.writeOr k r last) := by
  unfold State.writeOr
  refine orIrq_evolves _ _ (onReq_evolves _ _ (onQp_evolves' _ _ (hostWrite_evolves _ _ hs) fun h => ?_))
  have hq : ((s.hostWrite ((s.qp k).runOrb.toNat + 64 * (if (s.qp k).runOr = 0 then 0 else (s.qp k).orTail % (s.qp k).runOr))
    (r.bytes (phaseOf (s.qp k).orTail (s.qp k).runOr))).qp k) = s.qp k := rfl
  rw [hq] at h ⊢
  simp only [Qp.orFree, decide_eq_true_eq] at hf
  exact ⟨fun ha => ⟨by have := (h.1 ha).1; simp only []; omega, by have := (h.1 ha).1; simp only []; omega⟩, h.2⟩
/-- A queue pair reads as it was changed, unless the change gives the reset value. -/
theorem State.qp_onQp_kept (s : State) (k : Nat) (f : Qp → Qp) (h : f (s.qp k) ≠ Qp.reset) : (s.onQp k f).qp k = f (s.qp k) := by
  show KMap.getD (KMap.modD s.porch.qps k Qp.reset f) k Qp.reset = _
  unfold KMap.modD KMap.setD
  have h' : ¬ f (KMap.getD s.porch.qps k Qp.reset) = Qp.reset := h
  rw [if_neg h']
  unfold KMap.getD; rw [KMap.get?_set_self]; rfl
theorem moveOverflow_evolves (k n : Nat) (hs : Evolves z s) : Evolves z (s.moveOverflow k n) := by
  induction n generalizing s with
  | zero => exact hs
  | succ n ih =>
    unfold State.moveOverflow; simp only []
    split
    · exact hs
    · rename_i r l hl
      split
      · rename_i hf
        refine ih (writeOr_evolves _ _ _ (onQp_evolves' _ _ hs fun g => ⟨g.1, ?_⟩) ?_)
        · have := g.2; rw [hl] at this; simp only [List.length_cons] at this; show l.length ≤ 32768; omega
        · have hne : ({ s.qp k with overflow := l } : Qp) ≠ Qp.reset := by
            intro e
            have e' := congrArg Qp.orFree e
            have : (s.qp k).orFree = Qp.reset.orFree := e'
            rw [hf] at this; exact absurd this (by decide)
          rw [State.qp_onQp_kept s k (fun q => { q with overflow := l }) hne]; exact hf
      · exact hs
def EvolvesCore (z : State) : CoreStep → Prop
  | .fault => True
  | .hold s | .done s | .jump s _ => Evolves z s
/-- the state an optional answer holds -/
def EvolvesOpt (z : State) : Option State → Prop
  | some s => Evolves z s
  | none => True
def EvolvesSum {α : Type} (z : State) : α ⊕ State → Prop
  | .inr s => Evolves z s
  | .inl _ => True
/-- the state a meaning answers -/
def EvolvesOut (z : State) : Out → Prop
  | .next s => Evolves z s
  | _ => True
theorem next_evolves (h : Evolves z s) : EvolvesOut z (.next s) := h
theorem of_some {o : Option State} {u : State} (e : o = some u) (h : EvolvesOpt z o) : Evolves z u := by subst e; exact h
theorem of_inr {α : Type} {o : α ⊕ State} {u : State} (e : o = .inr u) (h : EvolvesSum z o) : Evolves z u := by subst e; exact h
def EvolvesFst {α : Type} (z : State) (p : State × α) : Prop := Evolves z p.1
def EvolvesSnd {α : Type} (z : State) (p : α × State) : Prop := Evolves z p.2
theorem of_fst {α : Type} {p : State × α} {u : State} {b : α} (e : p = (u, b)) (h : EvolvesFst z p) : Evolves z u := by subst e; exact h
theorem of_snd {α : Type} {p : α × State} {u : State} {b : α} (e : p = (b, u)) (h : EvolvesSnd z p) : Evolves z u := by subst e; exact h
theorem fst_evolves {α : Type} {p : State × α} (h : EvolvesFst z p) : Evolves z p.1 := h
theorem snd_evolves {α : Type} {p : α × State} (h : EvolvesSnd z p) : Evolves z p.2 := h
theorem fresh_evolves (h : Evolves z s) : EvolvesSnd z s.fresh := Evolves.same h rfl rfl rfl rfl rfl rfl rfl rfl rfl rfl
theorem mk_evolves {sch cores ret tbl cel fab svc mgmt freeCtr} (h : Evolves z s) : Evolves z { s with sch := sch, cores := cores, ret := ret, tbl := tbl, cel := cel, fab := fab, svc := svc, mgmt := mgmt, freeCtr := freeCtr } := h.same rfl rfl rfl rfl rfl rfl rfl rfl rfl rfl
theorem of_done {c : CoreStep} {u : State} (e : c = .done u) (h : EvolvesCore z c) : Evolves z u := by subst e; exact h
theorem of_hold {c : CoreStep} {u : State} (e : c = .hold u) (h : EvolvesCore z c) : Evolves z u := by subst e; exact h
theorem of_jump {c : CoreStep} {u : State} {n : Nat} (e : c = .jump u n) (h : EvolvesCore z c) : Evolves z u := by subst e; exact h
theorem done_evolves (h : Evolves z s) : EvolvesCore z (.done s) := h
theorem hold_evolves (h : Evolves z s) : EvolvesCore z (.hold s) := h
theorem jump_evolves (n) (h : Evolves z s) : EvolvesCore z (.jump s n) := h
theorem fault_evolves : EvolvesCore z .fault := trivial
theorem some_evolves (h : Evolves z s) : EvolvesOpt z (some s) := h
theorem none_evolves : EvolvesOpt z none := trivial
theorem inr_evolves {α : Type} (h : Evolves z s) : EvolvesSum (α := α) z (.inr s) := h
theorem inl_evolves {α : Type} (x : α) : EvolvesSum z (.inl x) := trivial
theorem pair1_evolves {α : Type} (b : α) (h : Evolves z s) : EvolvesFst z (s, b) := h
theorem pair2_evolves {α : Type} (b : α) (h : Evolves z s) : EvolvesSnd z (b, s) := h
theorem getD_evolves {o : Option State} (h : EvolvesOpt z o) (hs : Evolves z s) : Evolves z (o.getD s) := by
  cases o with
  | none => exact hs
  | some u => exact h
theorem orElse_evolves {o : Option State} {f : Unit → Option State} (h : EvolvesOpt z o) (hf : EvolvesOpt z (f ())) : EvolvesOpt z (o.orElse f) := by
  cases o with
  | none => exact hf
  | some u => exact h
theorem map_evolves {α : Type} {o : Option α} {f : α → State} (h : ∀ x, Evolves z (f x)) : EvolvesOpt z (o.map f) := by
  cases o with
  | none => exact none_evolves
  | some u => exact h u
theorem issueRecords_evolves (k : Nat) (l : List TextRec) (hs : Evolves z s) : EvolvesFst z (s.issueRecords k l) := by
  induction l generalizing s with
  | nil => exact pair1_evolves _ hs
  | cons x l ih =>
    unfold State.issueRecords; simp only []
    split
    · exact pair1_evolves _ hs
    · split
      · rename_i h; exact ih (writeOr_evolves _ _ _ hs (by simp only [Bool.and_eq_true] at h; exact h.1))
      · split
        · rename_i h; exact ih (onQp_evolves' _ _ hs fun g => ⟨g.1, by simp only [List.length_append, List.length_singleton]; omega⟩)
        · exact pair1_evolves _ hs

end Sys2Proof.Machine
end

