-- ==== Sys2Proof/Laws/EvolveServing.lean ====
section
/-! SUPPORT. What every operation keeps (Evolves): the operations of the serving engine, the text engine, retrieval, the cellar and the tables. One lemma per operation, under the operation's name. -/

set_option linter.unusedTactic false
set_option linter.unreachableTactic false

namespace Sys2Proof.Machine

variable {z s : State}
/-! ## Machine/Ops.lean -/
theorem hbmSize_evolves (r : Region) (n : Nat) (hs : Evolves z s) : Evolves z (State.hbmSize s r n) := by
  unfold State.hbmSize
  repeat' first
    | with_reducible assumption
    | with_reducible apply onMem_evolves
    | exact fun h => h
    | (intro u; try intros)

theorem zeroRegion_evolves (units : List (Nat × Nat)) (hs : Evolves z s) : Evolves z (State.zeroRegion s units) := by
  unfold State.zeroRegion
  repeat' first
    | with_reducible assumption
    | with_reducible apply onMem_evolves
    | exact fun h => zeroRuns_wf _ h
    | exact fun h => h
    | (intro u; try intros)

theorem attSize_evolves (r : Region) (n : Nat) (hs : Evolves z s) : Evolves z (State.attSize s r n) := by
  unfold State.attSize
  repeat' first
    | with_reducible assumption
    | with_reducible apply onMem_evolves
    | exact fun h => h
    | (intro u; try intros)

theorem powerEvent_evolves (ev : Nat) (hs : Evolves z s) : Evolves z (State.powerEvent s ev) := by
  unfold State.powerEvent
  repeat' first
    | with_reducible assumption
    | with_reducible apply record_evolves
    | ((first | lift_lets -underBinder | skip); intro u; have hu : Evolves z u; (on_goal 1 => (dsimp only [u]; try clear u)); (on_goal 2 => clear_value u))
    | ((first | lift_lets -underBinder | skip); intro u; clear_value u)
    | split

theorem serviceAction_evolves (action : Nat) (outcome : Nat) (value : Nat) (hs : Evolves z s) : Evolves z (State.serviceAction s action outcome value) := by
  unfold State.serviceAction
  repeat' first
    | with_reducible assumption
    | with_reducible apply record_evolves

theorem fabricEvent_evolves (ev : Nat) (port : Nat) (lane : Nat) (peer : W16) (serial : W64) (digest : BitVec 128) (hs : Evolves z s) : Evolves z (State.fabricEvent s ev port lane peer serial digest) := by
  unfold State.fabricEvent
  repeat' first
    | with_reducible assumption
    | with_reducible apply record_evolves
    | split

theorem cellarEvent_evolves (ev : Nat) (ctrl : Nat) (chan : Nat) (die : Nat) (block : Nat) (page : Nat) (hs : Evolves z s) : Evolves z (State.cellarEvent s ev ctrl chan die block page) := by
  unfold State.cellarEvent
  repeat' first
    | with_reducible assumption
    | with_reducible apply record_evolves
    | split

theorem spareIn_evolves (kind : Nat) (instq3 : Nat) (replaced : Nat) (spare : Nat) (hs : Evolves z s) : Evolves z (State.spareIn s kind instq3 replaced spare) := by
  unfold State.spareIn
  repeat' first
    | with_reducible assumption
    | with_reducible apply record_evolves

theorem writeCq_evolves (k : Nat) (c : Compl) (hs : Evolves z s) : Evolves z (State.writeCq s k c) := by
  unfold State.writeCq
  repeat' first
    | with_reducible assumption
    | with_reducible apply hostWrite_evolves
    | with_reducible apply cqIrq_evolves
    | with_reducible apply onQp_evolves
    | ((first | lift_lets -underBinder | skip); intro u; have hu : Evolves z u; (on_goal 1 => (dsimp only [u]; try clear u)); (on_goal 2 => clear_value u))
    | ((first | lift_lets -underBinder | skip); intro u; clear_value u)
    | split
    | exact fun _ h => h
    | (intro u; try intros)

theorem complete_evolves (k : Nat) (c : Compl) (hs : Evolves z s) : Evolves z (State.complete s k c) := by
  unfold State.complete
  repeat' first
    | with_reducible assumption
    | with_reducible apply writeCq_evolves
    | ((first | lift_lets -underBinder | skip); intro u; have hu : Evolves z u; (on_goal 1 => (dsimp only [u]; try clear u)); (on_goal 2 => clear_value u))
    | ((first | lift_lets -underBinder | skip); intro u; clear_value u)
    | split

theorem completeFor_evolves (hq : Hdr) (c : Compl) (hs : Evolves z s) : Evolves z (State.completeFor s hq c) := by
  unfold State.completeFor
  repeat' first
    | with_reducible assumption
    | with_reducible apply complete_evolves
    | split

theorem finish_evolves (hq : Hdr) (st : W16) (detail : W16) (r0 : Nat) (r1 : Nat) (r2 : Nat) (r3 : Nat) (hs : Evolves z s) : Evolves z (State.finish s hq st detail r0 r1 r2 r3) := by
  unfold State.finish
  repeat' first
    | with_reducible assumption
    | with_reducible apply completeFor_evolves

theorem ok_evolves (hq : Hdr) (r0 : Nat) (r1 : Nat) (r2 : Nat) (r3 : Nat) (hs : Evolves z s) : Evolves z (State.ok s hq r0 r1 r2 r3) := by
  unfold State.ok
  repeat' first
    | with_reducible assumption
    | with_reducible apply finish_evolves

theorem err_evolves (hq : Hdr) (f : Fail) (hs : Evolves z s) : Evolves z (State.err s hq f) := by
  unfold State.err
  repeat' first
    | with_reducible assumption
    | with_reducible apply finish_evolves

theorem output_evolves (hq : Hdr) (pb : Bytes) (off : Nat) (b : Bytes) (r0 : Nat) (r1 : Nat) (r2 : Nat) (hs : Evolves z s) : Evolves z (State.output s hq pb off b r0 r1 r2) := by
  unfold State.output
  repeat' first
    | with_reducible assumption
    | with_reducible apply finish_evolves
    | with_reducible apply ok_evolves
    | with_reducible apply hostWrite_evolves
    | split

theorem charge_evolves (p : Nat) (tenant : W16) (f : Acct → Acct) (hs : Evolves z s) : Evolves z (State.charge s p tenant f) := by
  unfold State.charge
  repeat' first
    | with_reducible assumption
    | with_reducible apply onPart_evolves
    | with_reducible apply onSch_evolves
    | ((first | lift_lets -underBinder | skip); intro u; have hu : Evolves z u; (on_goal 1 => (dsimp only [u]; try clear u)); (on_goal 2 => clear_value u))
    | ((first | lift_lets -underBinder | skip); intro u; clear_value u)

theorem refill_evolves (p : Nat) (res : Nat) (hs : Evolves z s) : Evolves z (State.refill s p res) := by
  unfold State.refill
  repeat' first
    | with_reducible assumption
    | with_reducible apply fresh_evolves
    | with_reducible apply onPart_evolves
    | with_reducible apply pair2_evolves
    | with_reducible refine of_snd (by assumption) ?_
    | with_reducible refine snd_evolves (p := State.fresh _) ?_
    | split

theorem spend_evolves (p : Nat) (res : Nat) (units : Nat) (hs : Evolves z s) : Evolves z (State.spend s p res units) := by
  unfold State.spend
  repeat' first
    | with_reducible assumption
    | with_reducible apply onPart_evolves

theorem spendExempt_evolves (p : Nat) (res : Nat) (units : Nat) (hs : Evolves z s) : Evolves z (State.spendExempt s p res units) := by
  unfold State.spendExempt
  repeat' first
    | with_reducible assumption
    | with_reducible apply spend_evolves
    | with_reducible apply refill_evolves
    | split

theorem idleOf_evolves (p : Nat) (res : Nat) (hs : Evolves z s) : EvolvesFst z (State.idleOf s p res) := by
  unfold State.idleOf
  repeat' first
    | with_reducible assumption
    | with_reducible apply fresh_evolves
    | with_reducible apply pair1_evolves
    | with_reducible apply pair2_evolves
    | with_reducible refine of_fst (by assumption) ?_
    | with_reducible refine of_snd (by assumption) ?_
    | with_reducible refine snd_evolves (p := State.fresh _) ?_
    | split

theorem mayTransfer_evolves (p : Nat) (res : Nat) (units : Nat) (r : Regulator) (hs : Evolves z s) : EvolvesFst z (State.mayTransfer s p res units r) := by
  unfold State.mayTransfer
  repeat' first
    | with_reducible assumption
    | with_reducible apply refill_evolves
    | with_reducible apply idleOf_evolves
    | with_reducible apply pair1_evolves
    | with_reducible refine of_fst (by assumption) ?_
    | with_reducible refine fst_evolves (p := State.idleOf _ _ _) ?_
    | ((first | lift_lets -underBinder | skip); intro u; have hu : Evolves z u; (on_goal 1 => (dsimp only [u]; try clear u)); (on_goal 2 => clear_value u))
    | ((first | lift_lets -underBinder | skip); intro u; clear_value u)
    | split

theorem regulate_evolves (p : Nat) (res : Nat) (units : Nat) (exempt : Bool) (key : TransferKey) (slots : List Nat) (hs : Evolves z s) : EvolvesFst z (State.regulate s p res units exempt key slots) := by
  unfold State.regulate
  repeat' first
    | with_reducible assumption
    | with_reducible apply spendExempt_evolves
    | with_reducible apply mayTransfer_evolves
    | with_reducible apply spend_evolves
    | with_reducible apply onPart_evolves
    | with_reducible apply each_evolves
    | with_reducible apply charge_evolves
    | with_reducible apply onReq_evolves
    | with_reducible apply pair1_evolves
    | with_reducible refine of_fst (by assumption) ?_
    | with_reducible refine fst_evolves (p := State.mayTransfer _ _ _ _ _) ?_
    | ((first | lift_lets -underBinder | skip); intro u; have hu : Evolves z u; (on_goal 1 => (dsimp only [u]; try clear u)); (on_goal 2 => clear_value u))
    | ((first | lift_lets -underBinder | skip); intro u; clear_value u)
    | split
    | (intro u; try intros)

theorem publishEntry_evolves (slot : Nat) (urgent : Bool) (hs : Evolves z s) : Evolves z (State.publishEntry s slot urgent) := by
  unfold State.publishEntry
  repeat' first
    | with_reducible assumption
    | with_reducible apply onSch_evolves

theorem closeReq_evolves (slot : Nat) (hs : Evolves z s) : Evolves z (State.closeReq s slot) := by
  unfold State.closeReq
  repeat' first
    | with_reducible assumption
    | with_reducible apply publishEntry_evolves
    | with_reducible apply charge_evolves
    | with_reducible apply onReq_evolves
    | split

theorem completeAfter_evolves (k : Nat) (slot : Nat) (c : Compl) (hs : Evolves z s) : Evolves z (State.completeAfter s k slot c) := by
  unfold State.completeAfter
  repeat' first
    | with_reducible assumption
    | with_reducible apply closeReq_evolves
    | with_reducible apply onQp_evolves
    | with_reducible apply writeCq_evolves
    | ((first | lift_lets -underBinder | skip); intro u; have hu : Evolves z u; (on_goal 1 => (dsimp only [u]; try clear u)); (on_goal 2 => clear_value u))
    | ((first | lift_lets -underBinder | skip); intro u; clear_value u)
    | split
    | exact fun _ h => h
    | (intro u; try intros)

theorem releaseHeld_evolves (k : Nat) (hs : Evolves z s) : Evolves z (State.releaseHeld s k) := by
  unfold State.releaseHeld
  repeat' first
    | with_reducible assumption
    | with_reducible apply onQp_evolves
    | with_reducible apply each_evolves
    | with_reducible apply closeReq_evolves
    | with_reducible apply complete_evolves
    | ((first | lift_lets -underBinder | skip); intro u; have hu : Evolves z u; (on_goal 1 => (dsimp only [u]; try clear u)); (on_goal 2 => clear_value u))
    | ((first | lift_lets -underBinder | skip); intro u; clear_value u)
    | exact fun _ h => h
    | (intro u; try intros)

theorem send_evolves (dest cls body) (hs : Evolves z s) : Evolves z (State.send s dest cls body) := hs.same rfl rfl rfl rfl rfl rfl rfl rfl rfl rfl

theorem reply_evolves (m : MsgHdr) (cls : Nat) (body : MsgBody) (hs : Evolves z s) : Evolves z (State.reply s m cls body) := by
  unfold State.reply
  repeat' first
    | with_reducible assumption
    | with_reducible apply onFab_evolves

theorem sendPort_evolves (port : Nat) (body : MsgBody) (hs : Evolves z s) : Evolves z (State.sendPort s port body) := by
  unfold State.sendPort
  repeat' first
    | with_reducible assumption
    | with_reducible apply onFab_evolves

/-! ## Machine/Domains.lean -/
theorem wakeDom_evolves (d : Nat) (hs : Evolves z s) : Evolves z (State.wakeDom s d) := by
  unfold State.wakeDom
  repeat' first
    | with_reducible assumption
    | with_reducible apply setDom_evolves
    | with_reducible apply onPwr_evolves
    | split
    | exact fun h => h
    | (intro u; try intros)

theorem wakeCores_evolves (p : Nat) (hs : Evolves z s) : Evolves z (State.wakeCores s p) := by
  unfold State.wakeCores
  repeat' first
    | with_reducible assumption
    | with_reducible apply each_evolves
    | with_reducible apply wakeDom_evolves
    | (intro u; try intros)

theorem offCore_evolves (c : Nat) (hs : Evolves z s) : Evolves z (State.offCore s c) := by
  unfold State.offCore
  repeat' first
    | with_reducible assumption
    | with_reducible apply onPwr_evolves
    | with_reducible apply setDom_evolves
    | with_reducible apply onMem_evolves
    | with_reducible apply onCore_evolves
    | exact fun h => Mem.wf_zero _ _ h
    | ((first | lift_lets -underBinder | skip); intro u; have hu : Evolves z u; (on_goal 1 => (dsimp only [u]; try clear u)); (on_goal 2 => clear_value u))
    | ((first | lift_lets -underBinder | skip); intro u; clear_value u)
    | exact fun h => h
    | (intro u; try intros)

/-! ## Machine/CellarOps.lean -/
theorem queueRead_evolves (key : Nat) (k : OpKind) (hs : Evolves z s) : Evolves z (State.queueRead s key k) := by
  unfold State.queueRead
  repeat' first
    | with_reducible assumption
    | with_reducible apply onCel_evolves

/-! ## Machine/CellarMaint.lean -/
theorem redoIndexAct_evolves (aq2 : Activity) (hs : Evolves z s) : Evolves z (State.redoIndexAct s aq2) := by
  unfold State.redoIndexAct
  repeat' first
    | with_reducible assumption
    | with_reducible apply onCel_evolves

theorem endIndexAct_evolves (aq2 : Activity) (hs : Evolves z s) : Evolves z (State.endIndexAct s aq2) := by
  unfold State.endIndexAct
  repeat' first
    | with_reducible assumption
    | with_reducible apply onCel_evolves

theorem clearDie_evolves (die : Nat) (hs : Evolves z s) : Evolves z (State.clearDie s die) := by
  unfold State.clearDie
  repeat' first
    | with_reducible assumption
    | with_reducible apply onCel_evolves
    | with_reducible apply each_evolves
    | with_reducible apply redoIndexAct_evolves
    | ((first | lift_lets -underBinder | skip); intro u; have hu : Evolves z u; (on_goal 1 => (dsimp only [u]; try clear u)); (on_goal 2 => clear_value u))
    | ((first | lift_lets -underBinder | skip); intro u; clear_value u)
    | (intro u; try intros)

theorem failDie_evolves (die : Nat) (hs : Evolves z s) : Evolves z (State.failDie s die) := by
  unfold State.failDie
  repeat' first
    | with_reducible assumption
    | with_reducible apply onCel_evolves
    | with_reducible apply cellarEvent_evolves
    | with_reducible apply clearDie_evolves
    | ((first | lift_lets -underBinder | skip); intro u; have hu : Evolves z u; (on_goal 1 => (dsimp only [u]; try clear u)); (on_goal 2 => clear_value u))
    | ((first | lift_lets -underBinder | skip); intro u; clear_value u)
    | split

theorem loseCtrl_evolves (ctrl : Nat) (hs : Evolves z s) : Evolves z (State.loseCtrl s ctrl) := by
  unfold State.loseCtrl
  repeat' first
    | with_reducible assumption
    | with_reducible apply onCel_evolves
    | with_reducible apply setDom_evolves
    | with_reducible apply cellarEvent_evolves
    | with_reducible apply each_evolves
    | with_reducible apply clearDie_evolves
    | ((first | lift_lets -underBinder | skip); intro u; have hu : Evolves z u; (on_goal 1 => (dsimp only [u]; try clear u)); (on_goal 2 => clear_value u))
    | ((first | lift_lets -underBinder | skip); intro u; clear_value u)
    | split
    | (intro u; try intros)

theorem loseChannel_evolves (ctrl : Nat) (chan : Nat) (hs : Evolves z s) : Evolves z (State.loseChannel s ctrl chan) := by
  unfold State.loseChannel
  repeat' first
    | with_reducible assumption
    | with_reducible apply onCel_evolves
    | with_reducible apply cellarEvent_evolves
    | with_reducible apply each_evolves
    | with_reducible apply clearDie_evolves
    | with_reducible apply loseCtrl_evolves
    | ((first | lift_lets -underBinder | skip); intro u; have hu : Evolves z u; (on_goal 1 => (dsimp only [u]; try clear u)); (on_goal 2 => clear_value u))
    | ((first | lift_lets -underBinder | skip); intro u; clear_value u)
    | split
    | (intro u; try intros)

theorem retireBlock_evolves (die : Nat) (block : Nat) (hs : Evolves z s) : Evolves z (State.retireBlock s die block) := by
  unfold State.retireBlock
  repeat' first
    | with_reducible assumption
    | with_reducible apply onCel_evolves
    | with_reducible apply cellarEvent_evolves
    | with_reducible apply failDie_evolves
    | ((first | lift_lets -underBinder | skip); intro u; have hu : Evolves z u; (on_goal 1 => (dsimp only [u]; try clear u)); (on_goal 2 => clear_value u))
    | ((first | lift_lets -underBinder | skip); intro u; clear_value u)
    | split

theorem pageBad_evolves (die : Nat) (block : Nat) (page : Nat) (hs : Evolves z s) : Evolves z (State.pageBad s die block page) := by
  unfold State.pageBad
  repeat' first
    | with_reducible assumption
    | with_reducible apply onCel_evolves
    | with_reducible apply cellarEvent_evolves

theorem noPage_evolves (key : Nat) (hs : Evolves z s) : Evolves z (State.noPage s key) := by
  unfold State.noPage
  repeat' first
    | with_reducible assumption
    | with_reducible apply onCel_evolves
    | with_reducible apply cellarEvent_evolves
    | with_reducible apply pageBad_evolves
    | split

theorem decoded_evolves (die : Nat) (block : Nat) (page : Nat) (step : Nat) (errors : Nat) (hs : Evolves z s) : Evolves z (State.decoded s die block page step errors) := by
  unfold State.decoded
  repeat' first
    | with_reducible assumption
    | with_reducible apply onCel_evolves
    | with_reducible apply retireBlock_evolves
    | ((first | lift_lets -underBinder | skip); intro u; have hu : Evolves z u; (on_goal 1 => (dsimp only [u]; try clear u)); (on_goal 2 => clear_value u))
    | ((first | lift_lets -underBinder | skip); intro u; clear_value u)
    | split

theorem actDone_evolves (aid : W32) (hs : Evolves z s) : Evolves z (State.actDone s aid) := by
  unfold State.actDone
  repeat' first
    | with_reducible assumption
    | with_reducible apply onCel_evolves
    | with_reducible apply cellarEvent_evolves
    | ((first | lift_lets -underBinder | skip); intro u; have hu : Evolves z u; (on_goal 1 => (dsimp only [u]; try clear u)); (on_goal 2 => clear_value u))
    | ((first | lift_lets -underBinder | skip); intro u; clear_value u)
    | split

theorem claimAct_evolves (aid : W32) (hs : Evolves z s) : Evolves z (State.claimAct s aid) := by
  unfold State.claimAct
  repeat' first
    | with_reducible assumption
    | with_reducible apply onCel_evolves
    | with_reducible apply actDone_evolves
    | ((first | lift_lets -underBinder | skip); intro u; have hu : Evolves z u; (on_goal 1 => (dsimp only [u]; try clear u)); (on_goal 2 => clear_value u))
    | ((first | lift_lets -underBinder | skip); intro u; clear_value u)
    | split

theorem programFails_evolves (die : Nat) (block : Option Nat) (op : FlashOp) (hs : Evolves z s) : Evolves z (State.programFails s die block op) := by
  unfold State.programFails
  repeat' first
    | with_reducible assumption
    | with_reducible apply retireBlock_evolves
    | with_reducible apply onCel_evolves
    | ((first | lift_lets -underBinder | skip); intro u; have hu : Evolves z u; (on_goal 1 => (dsimp only [u]; try clear u)); (on_goal 2 => clear_value u))
    | ((first | lift_lets -underBinder | skip); intro u; clear_value u)
    | split

theorem opEnds_evolves (die : Nat) (op : FlashOp) (r : FlashResult) (hs : Evolves z s) : Evolves z (State.opEnds s die op r) := by
  unfold State.opEnds
  repeat' first
    | with_reducible assumption
    | with_reducible apply onCel_evolves
    | with_reducible apply decoded_evolves
    | with_reducible apply pageBad_evolves
    | with_reducible apply programFails_evolves
    | with_reducible apply retireBlock_evolves
    | with_reducible apply actDone_evolves
    | ((first | lift_lets -underBinder | skip); intro u; have hu : Evolves z u; (on_goal 1 => (dsimp only [u]; try clear u)); (on_goal 2 => clear_value u))
    | ((first | lift_lets -underBinder | skip); intro u; clear_value u)
    | split

/-! ## Machine/Retrieval.lean -/
theorem writeExtent_evolves (bucket : Nat) (dim : Nat) (l : List Rec) (skip : Option Nat) (hs : Evolves z s) : EvolvesFst z (State.writeExtent s bucket dim l skip) := by
  unfold State.writeExtent
  repeat' first
    | with_reducible assumption
    | with_reducible apply onCel_evolves
    | with_reducible apply pair1_evolves
    | with_reducible refine of_fst (by assumption) ?_
    | ((first | lift_lets -underBinder | skip); intro u; have hu : Evolves z u; (on_goal 1 => (dsimp only [u]; try clear u)); (on_goal 2 => clear_value u))
    | ((first | lift_lets -underBinder | skip); intro u; clear_value u)
    | split

theorem freeExtent_evolves (dim : Nat) (e : Extent) (hs : Evolves z s) : Evolves z (State.freeExtent s dim e) := by
  unfold State.freeExtent
  repeat' first
    | with_reducible assumption
    | with_reducible apply onCel_evolves

theorem markCrowded_evolves  (hs : Evolves z s) : Evolves z (State.markCrowded s) := by
  unfold State.markCrowded
  repeat' first
    | with_reducible assumption
    | with_reducible apply onCel_evolves

theorem nextAct_evolves (aq2 : Activity) (hs : Evolves z s) : Evolves z (State.nextAct s aq2) := by
  unfold State.nextAct
  repeat' first
    | with_reducible assumption
    | with_reducible apply onCel_evolves

theorem makeDue_evolves (i : Nat) (b : Nat) (hs : Evolves z s) : Evolves z (State.makeDue s i b) := by
  unfold State.makeDue
  repeat' first
    | with_reducible assumption
    | with_reducible apply nextAct_evolves
    | with_reducible apply onIndex_evolves
    | ((first | lift_lets -underBinder | skip); intro u; have hu : Evolves z u; (on_goal 1 => (dsimp only [u]; try clear u)); (on_goal 2 => clear_value u))
    | ((first | lift_lets -underBinder | skip); intro u; clear_value u)
    | split

theorem syncHome_evolves (i : Nat) (home : Nat) (hs : Evolves z s) : EvolvesOpt z (State.syncHome s i home) := by
  unfold State.syncHome
  repeat' first
    | with_reducible assumption
    | with_reducible apply onIndex_evolves
    | with_reducible apply onCel_evolves
    | with_reducible exact none_evolves
    | with_reducible apply some_evolves
    | with_reducible refine of_some (by assumption) ?_
    | ((first | lift_lets -underBinder | skip); intro u; have hu : Evolves z u; (on_goal 1 => (dsimp only [u]; try clear u)); (on_goal 2 => clear_value u))
    | ((first | lift_lets -underBinder | skip); intro u; clear_value u)
    | split

theorem syncHomes_evolves (i : Nat) (homes : List Nat) (hs : Evolves z s) : Evolves z (State.syncHomes s i homes) := by
  unfold State.syncHomes
  repeat' first
    | with_reducible assumption
    | with_reducible apply each_evolves
    | with_reducible apply syncHome_evolves
    | with_reducible exact none_evolves
    | with_reducible apply some_evolves
    | with_reducible refine of_some (by assumption) ?_
    | with_reducible apply getD_evolves
    | (intro u; try intros)

theorem onJob_evolves (adm : W64) (f : Job → Job) (hs : Evolves z s) : Evolves z (State.onJob s adm f) := by
  unfold State.onJob
  repeat' first
    | with_reducible assumption
    | with_reducible apply onRet_evolves
    | split

theorem heat_evolves (i : Nat) (cfg : W32) (b : Nat) (hs : Evolves z s) : Evolves z (State.heat s i cfg b) := by
  unfold State.heat
  repeat' first
    | with_reducible assumption
    | with_reducible apply nextAct_evolves
    | ((first | lift_lets -underBinder | skip); intro u; have hu : Evolves z u; (on_goal 1 => (dsimp only [u]; try clear u)); (on_goal 2 => clear_value u))
    | ((first | lift_lets -underBinder | skip); intro u; clear_value u)
    | split

theorem sweepLeaving_evolves  (hs : Evolves z s) : Evolves z (State.sweepLeaving s) := by
  unfold State.sweepLeaving
  repeat' first
    | with_reducible assumption
    | with_reducible apply onRet_evolves
    | with_reducible apply each_evolves
    | with_reducible apply freeExtent_evolves
    | ((first | lift_lets -underBinder | skip); intro u; have hu : Evolves z u; (on_goal 1 => (dsimp only [u]; try clear u)); (on_goal 2 => clear_value u))
    | ((first | lift_lets -underBinder | skip); intro u; clear_value u)
    | (intro u; try intros)

theorem planRound_evolves (j : Job) (r : Nat) (hs : Evolves z s) : Evolves z (State.planRound s j r) := by
  unfold State.planRound
  repeat' first
    | with_reducible assumption
    | with_reducible apply onJob_evolves
    | with_reducible apply onIndex_evolves
    | with_reducible apply sweepLeaving_evolves
    | with_reducible apply each_evolves
    | with_reducible apply heat_evolves
    | ((first | lift_lets -underBinder | skip); intro u; have hu : Evolves z u; (on_goal 1 => (dsimp only [u]; try clear u)); (on_goal 2 => clear_value u))
    | ((first | lift_lets -underBinder | skip); intro u; clear_value u)
    | split
    | (intro u; try intros)

theorem mergeRound_evolves (adm : W64) (hs : Evolves z s) : Evolves z (State.mergeRound s adm) := by
  unfold State.mergeRound
  repeat' first
    | with_reducible assumption
    | with_reducible apply each_evolves
    | with_reducible apply onJob_evolves
    | with_reducible apply onIndex_evolves
    | with_reducible apply onReq_evolves
    | with_reducible apply planRound_evolves
    | ((first | lift_lets -underBinder | skip); intro u; have hu : Evolves z u; (on_goal 1 => (dsimp only [u]; try clear u)); (on_goal 2 => clear_value u))
    | ((first | lift_lets -underBinder | skip); intro u; clear_value u)
    | split
    | (intro u; try intros)

theorem settleJob_evolves (adm : W64) (hs : Evolves z s) : Evolves z (State.settleJob s adm) := by
  unfold State.settleJob
  repeat' first
    | with_reducible assumption
    | with_reducible apply mergeRound_evolves
    | ((first | lift_lets -underBinder | skip); intro u; have hu : Evolves z u; (on_goal 1 => (dsimp only [u]; try clear u)); (on_goal 2 => clear_value u))
    | ((first | lift_lets -underBinder | skip); intro u; clear_value u)

theorem issueScan_evolves (adm : W64) (ctrl : Nat) (hs : Evolves z s) : Evolves z (State.issueScan s adm ctrl) := by
  unfold State.issueScan
  repeat' first
    | with_reducible assumption
    | with_reducible apply each_evolves
    | with_reducible apply queueRead_evolves
    | split
    | (intro u; try intros)

theorem dispatch_evolves (ctrl : Nat) (hs : Evolves z s) : Evolves z (State.dispatch s ctrl) := by
  unfold State.dispatch
  repeat' first
    | with_reducible assumption
    | with_reducible apply onRet_evolves
    | with_reducible apply onJob_evolves
    | with_reducible apply regulate_evolves
    | with_reducible apply issueScan_evolves
    | with_reducible apply pair1_evolves
    | with_reducible refine of_fst (by assumption) ?_
    | with_reducible refine fst_evolves (p := State.regulate _ _ _ _ _ _ _) ?_
    | ((first | lift_lets -underBinder | skip); intro u; have hu : Evolves z u; (on_goal 1 => (dsimp only [u]; try clear u)); (on_goal 2 => clear_value u))
    | ((first | lift_lets -underBinder | skip); intro u; clear_value u)
    | split

theorem scorePage_evolves (adm : W64) (ctrl : Nat) (page : Nat) (readable : Bool) (hs : Evolves z s) : Evolves z (State.scorePage s adm ctrl page readable) := by
  unfold State.scorePage
  repeat' first
    | with_reducible assumption
    | with_reducible apply onJob_evolves
    | with_reducible apply onRet_evolves
    | with_reducible apply settleJob_evolves
    | ((first | lift_lets -underBinder | skip); intro u; have hu : Evolves z u; (on_goal 1 => (dsimp only [u]; try clear u)); (on_goal 2 => clear_value u))
    | ((first | lift_lets -underBinder | skip); intro u; clear_value u)
    | split

theorem sweepLeft_evolves  (hs : Evolves z s) : Evolves z (State.sweepLeft s) := by
  unfold State.sweepLeft
  repeat' first
    | with_reducible assumption
    | with_reducible apply onRet_evolves
    | ((first | lift_lets -underBinder | skip); intro u; have hu : Evolves z u; (on_goal 1 => (dsimp only [u]; try clear u)); (on_goal 2 => clear_value u))
    | ((first | lift_lets -underBinder | skip); intro u; clear_value u)
    | split

theorem dropJob_evolves (adm : W64) (hs : Evolves z s) : Evolves z (State.dropJob s adm) := by
  unfold State.dropJob
  repeat' first
    | with_reducible assumption
    | with_reducible apply onRet_evolves
    | with_reducible apply onPart_evolves
    | with_reducible apply sweepLeaving_evolves
    | with_reducible apply sweepLeft_evolves
    | with_reducible apply onCel_evolves
    | ((first | lift_lets -underBinder | skip); intro u; have hu : Evolves z u; (on_goal 1 => (dsimp only [u]; try clear u)); (on_goal 2 => clear_value u))
    | ((first | lift_lets -underBinder | skip); intro u; clear_value u)
    | split

theorem dropJobsOf_evolves (slot : Nat) (hs : Evolves z s) : Evolves z (State.dropJobsOf s slot) := by
  unfold State.dropJobsOf
  repeat' first
    | with_reducible assumption
    | with_reducible apply each_evolves
    | with_reducible apply dropJob_evolves
    | (intro u; try intros)

/-! ## Machine/TableOps.lean -/
theorem evictRow_evolves (tid : Nat) (row : Nat) (hs : Evolves z s) : Evolves z (State.evictRow s tid row) := by
  unfold State.evictRow
  repeat' first
    | with_reducible assumption
    | with_reducible apply onTable_evolves
    | ((first | lift_lets -underBinder | skip); intro u; have hu : Evolves z u; (on_goal 1 => (dsimp only [u]; try clear u)); (on_goal 2 => clear_value u))
    | ((first | lift_lets -underBinder | skip); intro u; clear_value u)
    | split

theorem fillHot_evolves (tid : Nat) (aq3 : Nat) (hs : Evolves z s) : Evolves z (State.fillHot s tid aq3) := by
  induction aq3 generalizing tid s with
  | zero =>
    unfold State.fillHot
    repeat' first
      | with_reducible assumption
      | with_reducible apply onTable_evolves
      | ((first | lift_lets -underBinder | skip); intro u; have hu : Evolves z u; (on_goal 1 => (dsimp only [u]; try clear u)); (on_goal 2 => clear_value u))
      | ((first | lift_lets -underBinder | skip); intro u; clear_value u)
      | split
  | succ n ih =>
    unfold State.fillHot
    repeat' first
      | with_reducible assumption
      | with_reducible apply onTable_evolves
      | with_reducible apply ih
      | ((first | lift_lets -underBinder | skip); intro u; have hu : Evolves z u; (on_goal 1 => (dsimp only [u]; try clear u)); (on_goal 2 => clear_value u))
      | ((first | lift_lets -underBinder | skip); intro u; clear_value u)
      | split

theorem reclaimTable_evolves (tid : Nat) (hs : Evolves z s) : Evolves z (State.reclaimTable s tid) := by
  unfold State.reclaimTable
  repeat' first
    | with_reducible assumption
    | with_reducible apply onTable_evolves
    | with_reducible apply fillHot_evolves
    | ((first | lift_lets -underBinder | skip); intro u; have hu : Evolves z u; (on_goal 1 => (dsimp only [u]; try clear u)); (on_goal 2 => clear_value u))
    | ((first | lift_lets -underBinder | skip); intro u; clear_value u)
    | split

theorem reclaimAll_evolves  (hs : Evolves z s) : Evolves z (State.reclaimAll s) := by
  unfold State.reclaimAll
  repeat' first
    | with_reducible assumption
    | with_reducible apply each_evolves
    | with_reducible apply reclaimTable_evolves
    | (intro u; try intros)

theorem makeHot_evolves (tid : Nat) (row : Nat) (hs : Evolves z s) : Evolves z (State.makeHot s tid row) := by
  unfold State.makeHot
  repeat' first
    | with_reducible assumption
    | with_reducible apply send_evolves
    | with_reducible apply evictRow_evolves
    | with_reducible apply reclaimTable_evolves
    | with_reducible apply onTable_evolves
    | ((first | lift_lets -underBinder | skip); intro u; have hu : Evolves z u; (on_goal 1 => (dsimp only [u]; try clear u)); (on_goal 2 => clear_value u))
    | ((first | lift_lets -underBinder | skip); intro u; clear_value u)
    | split

theorem chargeRows_evolves (g : Gather) (res : Nat) (hs : Evolves z s) : Evolves z (State.chargeRows s g res) := by
  unfold State.chargeRows
  repeat' first
    | with_reducible assumption
    | with_reducible apply regulate_evolves
    | with_reducible apply pair1_evolves
    | with_reducible refine of_fst (by assumption) ?_
    | with_reducible refine fst_evolves (p := State.regulate _ _ _ _ _ _ _) ?_
    | ((first | lift_lets -underBinder | skip); intro u; have hu : Evolves z u; (on_goal 1 => (dsimp only [u]; try clear u)); (on_goal 2 => clear_value u))
    | ((first | lift_lets -underBinder | skip); intro u; clear_value u)
    | split

theorem startGather_evolves (g : Gather) (hs : Evolves z s) : Evolves z (State.startGather s g) := by
  unfold State.startGather
  repeat' first
    | with_reducible assumption
    | with_reducible apply each_evolves
    | with_reducible apply onTable_evolves
    | with_reducible apply onTbl_evolves
    | with_reducible apply chargeRows_evolves
    | with_reducible apply send_evolves
    | ((first | lift_lets -underBinder | skip); intro u; have hu : Evolves z u; (on_goal 1 => (dsimp only [u]; try clear u)); (on_goal 2 => clear_value u))
    | ((first | lift_lets -underBinder | skip); intro u; clear_value u)
    | split
    | (intro u; try intros)

theorem countRows_evolves (rows : List (Nat × Nat)) (hs : Evolves z s) : Evolves z (State.countRows s rows) := by
  unfold State.countRows
  repeat' first
    | with_reducible assumption
    | with_reducible apply each_evolves
    | with_reducible apply onTable_evolves
    | (intro u; try intros)

theorem countGather_evolves (g : Gather) (hs : Evolves z s) : Evolves z (State.countGather s g) := by
  unfold State.countGather
  repeat' first
    | with_reducible assumption
    | with_reducible apply each_evolves
    | with_reducible apply countRows_evolves
    | with_reducible apply onTable_evolves
    | with_reducible apply makeHot_evolves
    | ((first | lift_lets -underBinder | skip); intro u; have hu : Evolves z u; (on_goal 1 => (dsimp only [u]; try clear u)); (on_goal 2 => clear_value u))
    | ((first | lift_lets -underBinder | skip); intro u; clear_value u)
    | split
    | (intro u; try intros)

theorem finishDeg_evolves (hq : Hdr) (deg : Bool) (r0 : Nat) (r1 : Nat) (hs : Evolves z s) : Evolves z (State.finishDeg s hq deg r0 r1) := by
  unfold State.finishDeg
  repeat' first
    | with_reducible assumption
    | with_reducible apply completeFor_evolves

theorem swapRow_evolves (tid : Nat) (row : Nat) (aq4 : Nat) (p : Option Nat) (codes : List W32) (hs : Evolves z s) : Evolves z (State.swapRow s tid row aq4 p codes) := by
  unfold State.swapRow
  repeat' first
    | with_reducible assumption
    | with_reducible apply reclaimTable_evolves
    | with_reducible apply onTable_evolves
    | ((first | lift_lets -underBinder | skip); intro u; have hu : Evolves z u; (on_goal 1 => (dsimp only [u]; try clear u)); (on_goal 2 => clear_value u))
    | ((first | lift_lets -underBinder | skip); intro u; clear_value u)
    | split

/-! ## Machine/Requests.lean -/
theorem writeRecord_evolves (slot : Nat) (hs : Evolves z s) : Evolves z (State.writeRecord s slot) := by
  unfold State.writeRecord
  repeat' first
    | with_reducible assumption
    | with_reducible apply onReq_evolves
    | with_reducible apply fresh_evolves
    | with_reducible apply spendExempt_evolves
    | with_reducible apply pair2_evolves
    | with_reducible refine of_snd (by assumption) ?_
    | with_reducible refine snd_evolves (p := State.fresh _) ?_
    | ((first | lift_lets -underBinder | skip); intro u; have hu : Evolves z u; (on_goal 1 => (dsimp only [u]; try clear u)); (on_goal 2 => clear_value u))
    | ((first | lift_lets -underBinder | skip); intro u; clear_value u)
    | split

theorem mirrorOpen_evolves (slot : Nat) (hs : Evolves z s) : Evolves z (State.mirrorOpen s slot) := by
  unfold State.mirrorOpen
  repeat' first
    | with_reducible assumption
    | with_reducible apply onReq_evolves
    | with_reducible apply send_evolves
    | split

theorem mirrorTokens_evolves (slot : Nat) (toks : List W32) (hs : Evolves z s) : Evolves z (State.mirrorTokens s slot toks) := by
  unfold State.mirrorTokens
  repeat' first
    | with_reducible assumption
    | with_reducible apply send_evolves
    | split

theorem mirrorClose_evolves (slot : Nat) (hs : Evolves z s) : Evolves z (State.mirrorClose s slot) := by
  unfold State.mirrorClose
  repeat' first
    | with_reducible assumption
    | with_reducible apply onReq_evolves
    | with_reducible apply send_evolves
    | split

theorem issueText_evolves (slot : Nat) (b : Bytes) (hs : Evolves z s) : Evolves z (State.issueText s slot b) := by
  unfold State.issueText
  repeat' first
    | with_reducible assumption
    | with_reducible apply onReq_evolves
    | with_reducible apply issueRecords_evolves
    | with_reducible apply pair1_evolves
    | with_reducible refine of_fst (by assumption) ?_
    | with_reducible refine fst_evolves (p := State.issueRecords _ _ _) ?_
    | ((first | lift_lets -underBinder | skip); intro u; have hu : Evolves z u; (on_goal 1 => (dsimp only [u]; try clear u)); (on_goal 2 => clear_value u))
    | ((first | lift_lets -underBinder | skip); intro u; clear_value u)
    | split

theorem chargeWait_evolves (slot : Nat) (hs : Evolves z s) : Evolves z (State.chargeWait s slot) := by
  unfold State.chargeWait
  repeat' first
    | with_reducible assumption
    | with_reducible apply fresh_evolves
    | with_reducible apply onReq_evolves
    | with_reducible apply charge_evolves
    | with_reducible apply pair2_evolves
    | with_reducible refine of_snd (by assumption) ?_
    | with_reducible refine snd_evolves (p := State.fresh _) ?_
    | split

theorem releaseMembers_evolves (slot : Nat) (hs : Evolves z s) : Evolves z (State.releaseMembers s slot) := by
  unfold State.releaseMembers
  repeat' first
    | with_reducible assumption
    | with_reducible apply onReq_evolves
    | with_reducible apply each_evolves
    | with_reducible apply send_evolves
    | split
    | (intro u; try intros)

theorem dropFetches_evolves (slot : Nat) (hs : Evolves z s) : Evolves z (State.dropFetches s slot) := by
  unfold State.dropFetches
  repeat' first
    | with_reducible assumption
    | with_reducible apply onCel_evolves
    | with_reducible apply onPart_evolves
    | ((first | lift_lets -underBinder | skip); intro u; have hu : Evolves z u; (on_goal 1 => (dsimp only [u]; try clear u)); (on_goal 2 => clear_value u))
    | ((first | lift_lets -underBinder | skip); intro u; clear_value u)
    | split

theorem flushOne_evolves (slot : Nat) (hs : Evolves z s) : Evolves z (State.flushOne s slot) := by
  unfold State.flushOne
  repeat' first
    | with_reducible assumption
    | with_reducible apply chargeWait_evolves
    | with_reducible apply completeAfter_evolves
    | with_reducible apply mirrorClose_evolves
    | with_reducible apply releaseMembers_evolves
    | with_reducible apply dropFetches_evolves
    | with_reducible apply dropJobsOf_evolves
    | ((first | lift_lets -underBinder | skip); intro u; have hu : Evolves z u; (on_goal 1 => (dsimp only [u]; try clear u)); (on_goal 2 => clear_value u))
    | ((first | lift_lets -underBinder | skip); intro u; clear_value u)
    | split

theorem flushEnded_evolves  (hs : Evolves z s) : Evolves z (State.flushEnded s) := by
  unfold State.flushEnded
  repeat' first
    | with_reducible assumption
    | with_reducible apply each_evolves
    | with_reducible apply flushOne_evolves
    | (intro u; try intros)

theorem endReq_evolves (slot : Nat) (st : W16) (detail : W16) (hs : Evolves z s) : Evolves z (State.endReq s slot st detail) := by
  unfold State.endReq
  repeat' first
    | with_reducible assumption
    | with_reducible apply onReq_evolves
    | split

theorem endGen_evolves (slot : Nat) (st : W16) (hs : Evolves z s) : Evolves z (State.endGen s slot st) := by
  unfold State.endGen
  repeat' first
    | with_reducible assumption
    | with_reducible apply onReq_evolves
    | split

theorem okCode_evolves (slot : Nat) (c : W16) (hs : Evolves z s) : Evolves z (State.okCode s slot c) := by
  unfold State.okCode
  repeat' first
    | with_reducible assumption
    | with_reducible apply onReq_evolves
    | split

theorem killReq_evolves (slot : Nat) (hs : Evolves z s) : Evolves z (State.killReq s slot) := by
  unfold State.killReq
  repeat' first
    | with_reducible assumption
    | with_reducible apply onReq_evolves
    | with_reducible apply releaseMembers_evolves
    | with_reducible apply dropFetches_evolves
    | with_reducible apply dropJobsOf_evolves
    | with_reducible apply mirrorClose_evolves
    | split

theorem killWhere_evolves (p : Nat → Req → Bool) (hs : Evolves z s) : Evolves z (State.killWhere s p) := by
  unfold State.killWhere
  repeat' first
    | with_reducible assumption
    | with_reducible apply each_evolves
    | with_reducible apply killReq_evolves
    | (intro u; try intros)

theorem onPages_evolves (p : Nat) (f : KvPage → KvPage) (hs : Evolves z s) : Evolves z (State.onPages s p f) := by
  unfold State.onPages
  repeat' first
    | with_reducible assumption
    | with_reducible apply each_evolves
    | with_reducible apply onReq_evolves
    | (intro u; try intros)

theorem markShared_evolves (p : Nat) (hs : Evolves z s) : Evolves z (State.markShared s p) := by
  unfold State.markShared
  repeat' first
    | with_reducible assumption
    | with_reducible apply onPages_evolves

theorem unevict_evolves (p : Nat) (frames : List Nat) (hs : Evolves z s) : Evolves z (State.unevict s p frames) := by
  unfold State.unevict
  repeat' first
    | with_reducible assumption
    | with_reducible apply onPages_evolves
    | split

theorem readyPages_evolves (slot : Nat) (lo : Nat) (hi : Nat) (hs : Evolves z s) : EvolvesOpt z (State.readyPages s slot lo hi) := by
  unfold State.readyPages
  repeat' first
    | with_reducible assumption
    | with_reducible apply onMem_evolves
    | with_reducible apply onPart_evolves
    | with_reducible apply unevict_evolves
    | with_reducible apply markShared_evolves
    | with_reducible apply onReq_evolves
    | with_reducible exact none_evolves
    | with_reducible apply some_evolves
    | with_reducible refine of_some (by assumption) ?_
    | exact fun h => copyRuns_wf _ h
    | ((first | lift_lets -underBinder | skip); intro u; have hu : Evolves z u; (on_goal 1 => (dsimp only [u]; try clear u)); (on_goal 2 => clear_value u))
    | ((first | lift_lets -underBinder | skip); intro u; clear_value u)
    | split
    | exact fun h => h
    | (intro u; try intros)

theorem mapPrefix_evolves (slot : Nat) (hs : Evolves z s) : Evolves z (State.mapPrefix s slot) := by
  unfold State.mapPrefix
  repeat' first
    | with_reducible assumption
    | with_reducible apply onMem_evolves
    | with_reducible apply onPart_evolves
    | with_reducible apply onReq_evolves
    | with_reducible apply unevict_evolves
    | with_reducible apply markShared_evolves
    | exact fun h => copyRuns_wf _ h
    | exact fun h => Mem.wf_foldl (fun _ _ h => Mem.wf_copy _ _ _ h) _ h
    | ((first | lift_lets -underBinder | skip); intro u; have hu : Evolves z u; (on_goal 1 => (dsimp only [u]; try clear u)); (on_goal 2 => clear_value u))
    | ((first | lift_lets -underBinder | skip); intro u; clear_value u)
    | split
    | exact fun h => h
    | (intro u; try intros)

theorem releaseReq_evolves (slot : Nat) (hs : Evolves z s) : Evolves z (State.releaseReq s slot) := by
  unfold State.releaseReq
  repeat' first
    | with_reducible assumption
    | with_reducible apply onPart_evolves
    | with_reducible apply onTbl_evolves
    | with_reducible apply markShared_evolves
    | with_reducible apply onSch_evolves
    | ((first | lift_lets -underBinder | skip); intro u; have hu : Evolves z u; (on_goal 1 => (dsimp only [u]; try clear u)); (on_goal 2 => clear_value u))
    | ((first | lift_lets -underBinder | skip); intro u; clear_value u)
    | split

theorem packReq_evolves (slot : Nat) (hs : Evolves z s) : Evolves z (State.packReq s slot) := by
  unfold State.packReq
  repeat' first
    | with_reducible assumption
    | with_reducible apply endReq_evolves
    | with_reducible apply onReq_evolves
    | with_reducible apply okCode_evolves
    | with_reducible apply hostWrite_evolves
    | with_reducible apply mirrorOpen_evolves
    | with_reducible apply mapPrefix_evolves
    | with_reducible apply writeRecord_evolves
    | ((first | lift_lets -underBinder | skip); intro u; have hu : Evolves z u; (on_goal 1 => (dsimp only [u]; try clear u)); (on_goal 2 => clear_value u))
    | ((first | lift_lets -underBinder | skip); intro u; clear_value u)
    | split

theorem selectFinal_evolves (slot : Nat) (off : Bool) (nFinal : Nat) (hs : Evolves z s) : Evolves z (State.selectFinal s slot off nFinal) := by
  unfold State.selectFinal
  repeat' first
    | with_reducible assumption
    | with_reducible apply writeRecord_evolves
    | with_reducible apply onReq_evolves
    | with_reducible apply okCode_evolves
    | with_reducible apply packReq_evolves
    | with_reducible apply hostWrite_evolves
    | with_reducible apply endReq_evolves
    | ((first | lift_lets -underBinder | skip); intro u; have hu : Evolves z u; (on_goal 1 => (dsimp only [u]; try clear u)); (on_goal 2 => clear_value u))
    | ((first | lift_lets -underBinder | skip); intro u; clear_value u)
    | split

theorem stage7Done_evolves (slot : Nat) (hs : Evolves z s) : Evolves z (State.stage7Done s slot) := by
  unfold State.stage7Done
  repeat' first
    | with_reducible assumption
    | with_reducible apply selectFinal_evolves
    | with_reducible apply onReq_evolves
    | ((first | lift_lets -underBinder | skip); intro u; have hu : Evolves z u; (on_goal 1 => (dsimp only [u]; try clear u)); (on_goal 2 => clear_value u))
    | ((first | lift_lets -underBinder | skip); intro u; clear_value u)
    | split

theorem startStage7_evolves (slot : Nat) (hs : Evolves z s) : Evolves z (State.startStage7 s slot) := by
  unfold State.startStage7
  repeat' first
    | with_reducible assumption
    | with_reducible apply packReq_evolves
    | with_reducible apply onReq_evolves
    | with_reducible apply okCode_evolves
    | with_reducible apply selectFinal_evolves
    | with_reducible apply each_evolves
    | with_reducible apply startGather_evolves
    | with_reducible apply endReq_evolves
    | ((first | lift_lets -underBinder | skip); intro u; have hu : Evolves z u; (on_goal 1 => (dsimp only [u]; try clear u)); (on_goal 2 => clear_value u))
    | ((first | lift_lets -underBinder | skip); intro u; clear_value u)
    | split
    | (intro u; try intros)

theorem stage6Done_evolves (slot : Nat) (hs : Evolves z s) : Evolves z (State.stage6Done s slot) := by
  unfold State.stage6Done
  repeat' first
    | with_reducible assumption
    | with_reducible apply packReq_evolves
    | with_reducible apply startStage7_evolves
    | split

theorem passageText_evolves (slot : Nat) (i : Nat) (text : Bytes) (hs : Evolves z s) : Evolves z (State.passageText s slot i text) := by
  unfold State.passageText
  repeat' first
    | with_reducible assumption
    | with_reducible apply onReq_evolves
    | ((first | lift_lets -underBinder | skip); intro u; have hu : Evolves z u; (on_goal 1 => (dsimp only [u]; try clear u)); (on_goal 2 => clear_value u))
    | ((first | lift_lets -underBinder | skip); intro u; clear_value u)
    | split

theorem passageDrop_evolves (slot : Nat) (i : Nat) (hs : Evolves z s) : Evolves z (State.passageDrop s slot i) := by
  unfold State.passageDrop
  repeat' first
    | with_reducible assumption
    | with_reducible apply onReq_evolves

theorem issueFetch_evolves (slot : Nat) (hs : Evolves z s) : Evolves z (State.issueFetch s slot) := by
  unfold State.issueFetch
  repeat' first
    | with_reducible assumption
    | with_reducible apply each_evolves
    | with_reducible apply queueRead_evolves
    | split
    | (intro u; try intros)

theorem startStage6_evolves (slot : Nat) (hs : Evolves z s) : Evolves z (State.startStage6 s slot) := by
  unfold State.startStage6
  repeat' first
    | with_reducible assumption
    | with_reducible apply onReq_evolves
    | with_reducible apply each_evolves
    | with_reducible apply send_evolves
    | with_reducible apply dropFetches_evolves
    | with_reducible apply regulate_evolves
    | with_reducible apply issueFetch_evolves
    | with_reducible apply stage6Done_evolves
    | with_reducible apply pair1_evolves
    | with_reducible refine of_fst (by assumption) ?_
    | with_reducible refine fst_evolves (p := State.regulate _ _ _ _ _ _ _) ?_
    | ((first | lift_lets -underBinder | skip); intro u; have hu : Evolves z u; (on_goal 1 => (dsimp only [u]; try clear u)); (on_goal 2 => clear_value u))
    | ((first | lift_lets -underBinder | skip); intro u; clear_value u)
    | split
    | (intro u; try intros)

theorem afterRetrieval_evolves (slot : Nat) (cands : List Cand) (rounds : Nat) (short : W16) (degr : Bool) (hs : Evolves z s) : Evolves z (State.afterRetrieval s slot cands rounds short degr) := by
  unfold State.afterRetrieval
  repeat' first
    | with_reducible assumption
    | with_reducible apply onReq_evolves
    | with_reducible apply okCode_evolves
    | with_reducible apply writeRecord_evolves
    | with_reducible apply packReq_evolves
    | with_reducible apply startStage6_evolves
    | with_reducible apply hostWrite_evolves
    | with_reducible apply endReq_evolves
    | ((first | lift_lets -underBinder | skip); intro u; have hu : Evolves z u; (on_goal 1 => (dsimp only [u]; try clear u)); (on_goal 2 => clear_value u))
    | ((first | lift_lets -underBinder | skip); intro u; clear_value u)
    | split

theorem jobResult_evolves (adm : W64) (hs : Evolves z s) : Evolves z (State.jobResult s adm) := by
  unfold State.jobResult
  repeat' first
    | with_reducible assumption
    | with_reducible apply dropJob_evolves
    | with_reducible apply reply_evolves
    | with_reducible apply afterRetrieval_evolves
    | ((first | lift_lets -underBinder | skip); intro u; have hu : Evolves z u; (on_goal 1 => (dsimp only [u]; try clear u)); (on_goal 2 => clear_value u))
    | ((first | lift_lets -underBinder | skip); intro u; clear_value u)
    | split

theorem startJob_evolves (slot : Nat) (q : List W32) (hs : Evolves z s) : Evolves z (State.startJob s slot q) := by
  unfold State.startJob
  repeat' first
    | with_reducible assumption
    | with_reducible apply onReq_evolves
    | with_reducible apply charge_evolves
    | with_reducible apply afterRetrieval_evolves
    | with_reducible apply onRet_evolves
    | with_reducible apply each_evolves
    | with_reducible apply send_evolves
    | with_reducible apply jobResult_evolves
    | with_reducible apply settleJob_evolves
    | with_reducible apply planRound_evolves
    | ((first | lift_lets -underBinder | skip); intro u; have hu : Evolves z u; (on_goal 1 => (dsimp only [u]; try clear u)); (on_goal 2 => clear_value u))
    | ((first | lift_lets -underBinder | skip); intro u; clear_value u)
    | split
    | (intro u; try intros)

theorem dropItems_evolves (slot : Nat) (hs : Evolves z s) : Evolves z (State.dropItems s slot) := by
  unfold State.dropItems
  repeat' first
    | with_reducible assumption
    | with_reducible apply onPart_evolves
    | split

theorem repeatFront_evolves (slot : Nat) (hs : Evolves z s) : Evolves z (State.repeatFront s slot) := by
  unfold State.repeatFront
  repeat' first
    | with_reducible assumption
    | with_reducible apply dropItems_evolves
    | with_reducible apply onReq_evolves
    | with_reducible apply dropJobsOf_evolves
    | with_reducible apply startJob_evolves
    | with_reducible apply onTbl_evolves
    | with_reducible apply startStage6_evolves
    | ((first | lift_lets -underBinder | skip); intro u; have hu : Evolves z u; (on_goal 1 => (dsimp only [u]; try clear u)); (on_goal 2 => clear_value u))
    | ((first | lift_lets -underBinder | skip); intro u; clear_value u)
    | split

theorem rebuildReq_evolves (slot : Nat) (hs : Evolves z s) : Evolves z (State.rebuildReq s slot) := by
  unfold State.rebuildReq
  repeat' first
    | with_reducible assumption
    | with_reducible apply onReq_evolves
    | with_reducible apply startStage6_evolves
    | ((first | lift_lets -underBinder | skip); intro u; have hu : Evolves z u; (on_goal 1 => (dsimp only [u]; try clear u)); (on_goal 2 => clear_value u))
    | ((first | lift_lets -underBinder | skip); intro u; clear_value u)
    | split

theorem finishText_evolves (slot : Nat) (out : Bytes) (st : W16) (hs : Evolves z s) : Evolves z (State.finishText s slot out st) := by
  unfold State.finishText
  repeat' first
    | with_reducible assumption
    | with_reducible apply endGen_evolves
    | with_reducible apply onReq_evolves
    | with_reducible apply issueText_evolves

theorem takeToken_evolves (slot : Nat) (xq3 : Nat) (hs : Evolves z s) : Evolves z (State.takeToken s slot xq3) := by
  unfold State.takeToken
  repeat' first
    | with_reducible assumption
    | with_reducible apply writeRecord_evolves
    | with_reducible apply onReq_evolves
    | with_reducible apply charge_evolves
    | with_reducible apply finishText_evolves
    | with_reducible apply issueText_evolves
    | with_reducible apply mirrorTokens_evolves
    | ((first | lift_lets -underBinder | skip); intro u; have hu : Evolves z u; (on_goal 1 => (dsimp only [u]; try clear u)); (on_goal 2 => clear_value u))
    | ((first | lift_lets -underBinder | skip); intro u; clear_value u)
    | split

theorem sampleReq_evolves (slot : Nat) (logits : List W32) (hs : Evolves z s) : Evolves z (State.sampleReq s slot logits) := by
  unfold State.sampleReq
  repeat' first
    | with_reducible assumption
    | with_reducible apply endGen_evolves
    | with_reducible apply onSch_evolves
    | with_reducible apply takeToken_evolves
    | ((first | lift_lets -underBinder | skip); intro u; have hu : Evolves z u; (on_goal 1 => (dsimp only [u]; try clear u)); (on_goal 2 => clear_value u))
    | ((first | lift_lets -underBinder | skip); intro u; clear_value u)
    | split

/-! ## Machine/Steps.lean -/
theorem setW_evolves (p : Nat) (hs : Evolves z s) : Evolves z (State.setW s p) := by
  unfold State.setW
  repeat' first
    | with_reducible assumption
    | with_reducible apply onPart_evolves

theorem pagerStart_evolves (p : Nat) (fetch : Bool) (toAttic : Bool) (slot : Nat) (cls : Nat) (hs : Evolves z s) : Evolves z (State.pagerStart s p fetch toAttic slot cls) := by
  unfold State.pagerStart
  repeat' first
    | with_reducible assumption
    | with_reducible apply onPart_evolves

theorem startEvict_evolves (p : Nat) (keep : List Nat) (slot : Nat) (cls : Nat) (hs : Evolves z s) : Evolves z (State.startEvict s p keep slot cls) := by
  unfold State.startEvict
  repeat' first
    | with_reducible assumption
    | with_reducible apply pagerStart_evolves
    | with_reducible apply onPages_evolves
    | ((first | lift_lets -underBinder | skip); intro u; have hu : Evolves z u; (on_goal 1 => (dsimp only [u]; try clear u)); (on_goal 2 => clear_value u))
    | ((first | lift_lets -underBinder | skip); intro u; clear_value u)
    | split

theorem pagerPick_evolves (p : Nat) (hs : Evolves z s) : Evolves z (State.pagerPick s p) := by
  unfold State.pagerPick
  simp only []
  split
  · exact onPart_evolves _ _ hs
  · refine getD_evolves (orElse_evolves ?_ (orElse_evolves ?_ (orElse_evolves ?_ ?_))) (onPart_evolves _ _ hs)
    all_goals
      repeat' first
        | with_reducible exact none_evolves
        | with_reducible apply some_evolves
        | with_reducible apply map_evolves
        | with_reducible apply pagerStart_evolves
        | with_reducible apply startEvict_evolves
        | with_reducible apply onPart_evolves
        | with_reducible assumption
        | intro x
        | split

theorem pagerNext_evolves (p : Nat) (hs : Evolves z s) : Evolves z (State.pagerNext s p) := by
  unfold State.pagerNext
  repeat' first
    | with_reducible assumption
    | with_reducible apply pagerPick_evolves
    | with_reducible apply onPart_evolves
    | with_reducible apply each_evolves
    | with_reducible apply spend_evolves
    | with_reducible apply regulate_evolves
    | with_reducible apply pair1_evolves
    | with_reducible refine of_fst (by assumption) ?_
    | with_reducible refine fst_evolves (p := State.regulate _ _ _ _ _ _ _) ?_
    | ((first | lift_lets -underBinder | skip); intro u; have hu : Evolves z u; (on_goal 1 => (dsimp only [u]; try clear u)); (on_goal 2 => clear_value u))
    | ((first | lift_lets -underBinder | skip); intro u; clear_value u)
    | split
    | (intro u; try intros)

theorem fetchFrame_evolves (p : Nat) (k : Nat) (hs : Evolves z s) : Evolves z (State.fetchFrame s p k) := by
  unfold State.fetchFrame
  repeat' first
    | with_reducible assumption
    | with_reducible apply onPart_evolves
    | with_reducible apply onMem_evolves
    | with_reducible apply onPages_evolves
    | exact fun h => copyRuns_wf _ h
    | ((first | lift_lets -underBinder | skip); intro u; have hu : Evolves z u; (on_goal 1 => (dsimp only [u]; try clear u)); (on_goal 2 => clear_value u))
    | ((first | lift_lets -underBinder | skip); intro u; clear_value u)
    | split
    | exact fun h => h
    | (intro u; try intros)

theorem respill_evolves (p : Nat) (k : Nat) (hit : KvPage → Bool) (hs : Evolves z s) : Evolves z (State.respill s p k hit) := by
  unfold State.respill
  repeat' first
    | with_reducible assumption
    | with_reducible apply onPages_evolves
    | split

theorem evictFrame_evolves (p : Nat) (k : Nat) (hs : Evolves z s) : Evolves z (State.evictFrame s p k) := by
  unfold State.evictFrame
  repeat' first
    | with_reducible assumption
    | with_reducible apply respill_evolves
    | with_reducible apply onPart_evolves
    | with_reducible apply onMem_evolves
    | with_reducible apply unevict_evolves
    | exact fun h => copyRuns_wf _ h
    | ((first | lift_lets -underBinder | skip); intro u; have hu : Evolves z u; (on_goal 1 => (dsimp only [u]; try clear u)); (on_goal 2 => clear_value u))
    | ((first | lift_lets -underBinder | skip); intro u; clear_value u)
    | split
    | exact fun h => h
    | (intro u; try intros)

theorem unlease_evolves (p : Nat) (k : Nat) (hs : Evolves z s) : Evolves z (State.unlease s p k) := by
  unfold State.unlease
  repeat' first
    | with_reducible assumption
    | with_reducible apply onPart_evolves
    | with_reducible apply respill_evolves
    | with_reducible apply onMem_evolves
    | exact fun h => copyRuns_wf _ h
    | ((first | lift_lets -underBinder | skip); intro u; have hu : Evolves z u; (on_goal 1 => (dsimp only [u]; try clear u)); (on_goal 2 => clear_value u))
    | ((first | lift_lets -underBinder | skip); intro u; clear_value u)
    | split
    | exact fun h => h
    | (intro u; try intros)

theorem pagerDone_evolves (p : Nat) (hs : Evolves z s) : Evolves z (State.pagerDone s p) := by
  unfold State.pagerDone
  repeat' first
    | with_reducible assumption
    | with_reducible apply onPart_evolves
    | with_reducible apply unevict_evolves
    | with_reducible apply each_evolves
    | with_reducible apply fetchFrame_evolves
    | with_reducible apply unlease_evolves
    | with_reducible apply evictFrame_evolves
    | with_reducible apply markShared_evolves
    | with_reducible apply onReq_evolves
    | ((first | lift_lets -underBinder | skip); intro u; have hu : Evolves z u; (on_goal 1 => (dsimp only [u]; try clear u)); (on_goal 2 => clear_value u))
    | ((first | lift_lets -underBinder | skip); intro u; clear_value u)
    | split
    | (intro u; try intros)

theorem dropVictim_evolves (p : Nat) (keep : List Nat) (hs : Evolves z s) : EvolvesOpt z (State.dropVictim s p keep) := by
  unfold State.dropVictim
  repeat' first
    | with_reducible assumption
    | with_reducible apply unevict_evolves
    | with_reducible apply onPart_evolves
    | with_reducible apply onReq_evolves
    | with_reducible apply markShared_evolves
    | with_reducible apply charge_evolves
    | with_reducible exact none_evolves
    | with_reducible apply some_evolves
    | with_reducible refine of_some (by assumption) ?_
    | ((first | lift_lets -underBinder | skip); intro u; have hu : Evolves z u; (on_goal 1 => (dsimp only [u]; try clear u)); (on_goal 2 => clear_value u))
    | ((first | lift_lets -underBinder | skip); intro u; clear_value u)
    | split

theorem forceReady_evolves (p : Nat) (keep : List Nat) (slot : Nat) (r : Req) (n : Nat) (hs : Evolves z s) : EvolvesFst z (State.forceReady s p keep slot r n) := by
  induction n generalizing s with
  | zero => exact pair1_evolves _ hs
  | succ n ih =>
    unfold State.forceReady
    split
    · exact pair1_evolves _ (of_some ‹_› (readyPages_evolves _ _ _ hs))
    · split
      · exact ih (of_some ‹_› (dropVictim_evolves _ _ hs))
      · exact pair1_evolves _ hs

theorem readyDecode_evolves (p : Nat) (keep : List Nat) (slot : Nat) (r : Req) (hs : Evolves z s) : EvolvesFst z (State.readyDecode s p keep slot r) := by
  unfold State.readyDecode
  repeat' first
    | with_reducible assumption
    | with_reducible apply readyPages_evolves
    | with_reducible apply forceReady_evolves
    | with_reducible apply endReq_evolves
    | with_reducible exact none_evolves
    | with_reducible apply some_evolves
    | with_reducible apply pair1_evolves
    | with_reducible refine of_some (by assumption) ?_
    | with_reducible refine of_fst (by assumption) ?_
    | with_reducible refine fst_evolves (p := State.forceReady _ _ _ _ _ _) ?_
    | split

theorem pickDecode_evolves (p n : Nat) (acc : List Item) (l : List (Nat × Req)) (hs : Evolves z s) : EvolvesFst z (State.pickDecode s p n acc l) := by
  induction l generalizing n acc s with
  | nil => unfold State.pickDecode; exact pair1_evolves _ hs
  | cons y l ih =>
    cases n with
    | zero => exact pair1_evolves _ hs
    | succ n =>
      unfold State.pickDecode
      split
      · exact ih _ _ hs
      · split
        · exact ih _ _ hs
        · split
          · exact ih _ _ (onReq_evolves _ _ (of_fst ‹_› (readyDecode_evolves _ _ _ _ hs)))
          · exact ih _ _ (onReq_evolves _ _ (of_fst ‹_› (readyDecode_evolves _ _ _ _ hs)))

theorem readyItem_evolves (it : Item) (hs : Evolves z s) : EvolvesOpt z (State.readyItem s it) := by
  unfold State.readyItem
  repeat' first
    | with_reducible assumption
    | with_reducible apply onReq_evolves
    | with_reducible apply onPart_evolves
    | with_reducible apply markShared_evolves
    | with_reducible apply each_evolves
    | with_reducible apply readyPages_evolves
    | with_reducible exact none_evolves
    | with_reducible apply some_evolves
    | with_reducible refine of_some (by assumption) ?_
    | ((first | lift_lets -underBinder | skip); intro u; have hu : Evolves z u; (on_goal 1 => (dsimp only [u]; try clear u)); (on_goal 2 => clear_value u))
    | ((first | lift_lets -underBinder | skip); intro u; clear_value u)
    | split
    | (intro u; try intros)

theorem placeWork_evolves (p : Nat) (cfg : W32) (step : List Item) (overN : Bool) (w : Work) (l : List Item) {r} (e : State.placeWork s p cfg step overN w l = some r)
    (hs : Evolves z s) : Evolves z r.1 := by
  induction l with
  | nil => cases e
  | cons it l ih =>
    unfold State.placeWork at e
    simp only [] at e
    split at e
    · exact ih e
    · split at e
      · split at e
        · cases e; exact of_some ‹_› (readyItem_evolves _ hs)
        · cases e
      · exact ih e

theorem placeAll_evolves (p : Nat) (cfg : W32) (step : List Item) (overN : Bool) (l : List Work) (hs : Evolves z s) : EvolvesFst z (State.placeAll s p cfg step overN l) := by
  induction l generalizing s step overN with
  | nil => exact pair1_evolves _ hs
  | cons w l ih =>
    unfold State.placeAll
    split
    · exact ih _ _ hs
    · split
      · rename_i e; exact ih _ _ (placeWork_evolves _ _ _ _ _ _ e hs)
      · exact ih _ _ hs

theorem compose_evolves (p : Nat) (hs : Evolves z s) : EvolvesFst z (State.compose s p) := by
  unfold State.compose
  repeat' first
    | with_reducible assumption
    | with_reducible apply pickDecode_evolves
    | with_reducible apply placeAll_evolves
    | with_reducible apply pair1_evolves
    | with_reducible refine of_fst (by assumption) ?_
    | with_reducible refine fst_evolves (p := State.pickDecode _ _ _ _ _) ?_
    | with_reducible refine fst_evolves (p := State.placeAll _ _ _ _ _ _) ?_
    | ((first | lift_lets -underBinder | skip); intro u; have hu : Evolves z u; (on_goal 1 => (dsimp only [u]; try clear u)); (on_goal 2 => clear_value u))
    | ((first | lift_lets -underBinder | skip); intro u; clear_value u)
    | split

theorem streamFill_evolves (p : Nat) (hs : Evolves z s) : Evolves z (State.streamFill s p) := by
  unfold State.streamFill
  repeat' first
    | with_reducible assumption
    | with_reducible apply onPart_evolves
    | with_reducible apply each_evolves
    | with_reducible apply regulate_evolves
    | with_reducible apply pair1_evolves
    | with_reducible refine of_fst (by assumption) ?_
    | with_reducible refine fst_evolves (p := State.regulate _ _ _ _ _ _ _) ?_
    | ((first | lift_lets -underBinder | skip); intro u; have hu : Evolves z u; (on_goal 1 => (dsimp only [u]; try clear u)); (on_goal 2 => clear_value u))
    | ((first | lift_lets -underBinder | skip); intro u; clear_value u)
    | split
    | (intro u; try intros)

theorem startStep_evolves (p : Nat) (items : List Item) (packet : Option (Cmd × Nat × Nat)) (hs : Evolves z s) : Evolves z (State.startStep s p items packet) := by
  unfold State.startStep
  repeat' first
    | with_reducible assumption
    | with_reducible apply each_evolves
    | with_reducible apply endReq_evolves
    | with_reducible apply ok_evolves
    | with_reducible apply onPart_evolves
    | with_reducible apply wakeDom_evolves
    | with_reducible apply wakeCores_evolves
    | with_reducible apply onReq_evolves
    | with_reducible apply chargeWait_evolves
    | with_reducible apply streamFill_evolves
    | ((first | lift_lets -underBinder | skip); intro u; have hu : Evolves z u; (on_goal 1 => (dsimp only [u]; try clear u)); (on_goal 2 => clear_value u))
    | ((first | lift_lets -underBinder | skip); intro u; clear_value u)
    | split
    | (intro u; try intros)

theorem readyAll_evolves (p : Nat) (keep : List Nat) (l : List Item) (hs : Evolves z s) : EvolvesFst z (State.readyAll s p keep l) := by
  induction l generalizing s with
  | nil => exact pair1_evolves _ hs
  | cons it l ih =>
    have key : ∀ q, q = (match it.kind, s.req? it.slot with
        | .decode, some r => s.readyDecode p keep it.slot r
        | _, _ => match s.readyItem it with | some s => (s, true) | none => (s, false)) → EvolvesFst z q := by
      rintro _ rfl
      split
      · exact readyDecode_evolves _ _ _ _ hs
      · split
        · exact pair1_evolves _ (of_some ‹_› (readyItem_evolves _ hs))
        · exact pair1_evolves _ hs
    unfold State.readyAll
    split
    · exact ih (of_fst ‹_› (key _ rfl))
    · exact pair1_evolves _ (of_fst ‹_› (key _ rfl))

theorem nextPacket_evolves (p : Nat) (aq3 : Nat) (hs : Evolves z s) : Evolves z (State.nextPacket s p aq3) := by
  induction aq3 generalizing p s with
  | zero =>
    unfold State.nextPacket
    repeat' first
      | with_reducible assumption
      | with_reducible apply onPart_evolves
      | with_reducible apply err_evolves
      | with_reducible apply ok_evolves
      | with_reducible apply readyAll_evolves
      | with_reducible apply startStep_evolves
      | with_reducible apply pair1_evolves
      | with_reducible refine of_fst (by assumption) ?_
      | with_reducible refine fst_evolves (p := State.readyAll _ _ _ _) ?_
      | ((first | lift_lets -underBinder | skip); intro u; have hv : ∀ a, Evolves z a → Evolves z (u a); (on_goal 1 => (dsimp only [u]; clear u)); (on_goal 2 => clear_value u))
      | with_reducible apply hv
      | ((first | lift_lets -underBinder | skip); intro u; have hu : Evolves z u; (on_goal 1 => (dsimp only [u]; try clear u)); (on_goal 2 => clear_value u))
      | ((first | lift_lets -underBinder | skip); intro u; clear_value u)
      | split
      | (intro u; try intros)
  | succ n ih =>
    unfold State.nextPacket
    repeat' first
      | with_reducible assumption
      | with_reducible apply onPart_evolves
      | with_reducible apply err_evolves
      | with_reducible apply ok_evolves
      | with_reducible apply readyAll_evolves
      | with_reducible apply startStep_evolves
      | with_reducible apply pair1_evolves
      | with_reducible refine of_fst (by assumption) ?_
      | with_reducible refine fst_evolves (p := State.readyAll _ _ _ _) ?_
      | with_reducible apply ih
      | ((first | lift_lets -underBinder | skip); intro u; have hv : ∀ a, Evolves z a → Evolves z (u a); (on_goal 1 => (dsimp only [u]; clear u)); (on_goal 2 => clear_value u))
      | with_reducible apply hv
      | ((first | lift_lets -underBinder | skip); intro u; have hu : Evolves z u; (on_goal 1 => (dsimp only [u]; try clear u)); (on_goal 2 => clear_value u))
      | ((first | lift_lets -underBinder | skip); intro u; clear_value u)
      | split
      | (intro u; try intros)

theorem applyCores_evolves (p : Nat) (hs : Evolves z s) : Evolves z (State.applyCores s p) := by
  unfold State.applyCores
  repeat' first
    | with_reducible assumption
    | with_reducible apply each_evolves
    | with_reducible apply offCore_evolves
    | with_reducible apply hbmSize_evolves
    | with_reducible apply onPart_evolves
    | with_reducible apply wakeDom_evolves
    | with_reducible apply ok_evolves
    | ((first | lift_lets -underBinder | skip); intro u; have hu : Evolves z u; (on_goal 1 => (dsimp only [u]; try clear u)); (on_goal 2 => clear_value u))
    | ((first | lift_lets -underBinder | skip); intro u; clear_value u)
    | split
    | (intro u; try intros)

theorem chargeTokens_evolves (p : Nat) (r : Req) (it : Item) (hs : Evolves z s) : Evolves z (State.chargeTokens s p r it) := by
  unfold State.chargeTokens
  repeat' first
    | with_reducible assumption
    | with_reducible apply charge_evolves
    | split

theorem applyItem_evolves (p : Nat) (outs : List LaunchOut) (it : Item) (hs : Evolves z s) : Evolves z (State.applyItem s p outs it) := by
  unfold State.applyItem
  repeat' first
    | with_reducible assumption
    | with_reducible apply chargeTokens_evolves
    | with_reducible apply fresh_evolves
    | with_reducible apply onReq_evolves
    | with_reducible apply hostWrite_evolves
    | with_reducible apply endReq_evolves
    | with_reducible apply startJob_evolves
    | with_reducible apply stage7Done_evolves
    | with_reducible apply sampleReq_evolves
    | with_reducible apply pair2_evolves
    | with_reducible refine of_snd (by assumption) ?_
    | with_reducible refine snd_evolves (p := State.fresh _) ?_
    | ((first | lift_lets -underBinder | skip); intro u; have hu : Evolves z u; (on_goal 1 => (dsimp only [u]; try clear u)); (on_goal 2 => clear_value u))
    | ((first | lift_lets -underBinder | skip); intro u; clear_value u)
    | split

theorem evacPart_evolves (p : Nat) (hs : Evolves z s) : Evolves z (State.evacPart s p) := by
  unfold State.evacPart
  repeat' first
    | with_reducible assumption
    | with_reducible apply each_evolves
    | with_reducible apply send_evolves
    | with_reducible apply onQp_evolves
    | with_reducible apply onReq_evolves
    | with_reducible apply onSvc_evolves
    | with_reducible apply onSch_evolves
    | ((first | lift_lets -underBinder | skip); intro u; have hu : Evolves z u; (on_goal 1 => (dsimp only [u]; try clear u)); (on_goal 2 => clear_value u))
    | ((first | lift_lets -underBinder | skip); intro u; clear_value u)
    | split
    | exact fun _ h => h
    | (intro u; try intros)

theorem evacEnd_evolves  (hs : Evolves z s) : Evolves z (State.evacEnd s) := by
  unfold State.evacEnd
  repeat' first
    | with_reducible assumption
    | with_reducible apply ok_evolves
    | with_reducible apply serviceAction_evolves
    | with_reducible apply onSch_evolves
    | split

theorem releaseAndApply_evolves (p : Nat) (free : List Nat) (hs : Evolves z s) : Evolves z (State.releaseAndApply s p free) := by
  unfold State.releaseAndApply
  repeat' first
    | with_reducible assumption
    | with_reducible apply each_evolves
    | with_reducible apply releaseReq_evolves
    | with_reducible apply onPart_evolves
    | with_reducible apply markShared_evolves
    | with_reducible apply applyCores_evolves
    | with_reducible apply setW_evolves
    | ((first | lift_lets -underBinder | skip); intro u; have hu : Evolves z u; (on_goal 1 => (dsimp only [u]; try clear u)); (on_goal 2 => clear_value u))
    | ((first | lift_lets -underBinder | skip); intro u; clear_value u)
    | (intro u; try intros)

theorem nextStepOf_evolves (p : Nat) (atBoundary : Bool) (hs : Evolves z s) : Evolves z (State.nextStepOf s p atBoundary) := by
  unfold State.nextStepOf
  repeat' first
    | with_reducible assumption
    | with_reducible apply pagerNext_evolves
    | with_reducible apply placeAll_evolves
    | with_reducible apply compose_evolves
    | with_reducible apply onPart_evolves
    | with_reducible apply startStep_evolves
    | with_reducible apply nextPacket_evolves
    | with_reducible apply pair1_evolves
    | with_reducible refine of_fst (by assumption) ?_
    | with_reducible refine fst_evolves (p := State.placeAll _ _ _ _ _ _) ?_
    | with_reducible refine fst_evolves (p := State.compose _ _) ?_
    | ((first | lift_lets -underBinder | skip); intro u; have hu : Evolves z u; (on_goal 1 => (dsimp only [u]; try clear u)); (on_goal 2 => clear_value u))
    | ((first | lift_lets -underBinder | skip); intro u; clear_value u)
    | split

theorem advanceAges_evolves (p : Nat) (items : List Item) (hs : Evolves z s) : Evolves z (State.advanceAges s p items) := by
  unfold State.advanceAges
  repeat' first
    | with_reducible assumption
    | with_reducible apply each_evolves
    | with_reducible apply onReq_evolves
    | with_reducible apply charge_evolves
    | ((first | lift_lets -underBinder | skip); intro u; have hu : Evolves z u; (on_goal 1 => (dsimp only [u]; try clear u)); (on_goal 2 => clear_value u))
    | ((first | lift_lets -underBinder | skip); intro u; clear_value u)
    | split
    | (intro u; try intros)

theorem publishPart_evolves (p : Nat) (slots : List Nat) (hs : Evolves z s) : Evolves z (State.publishPart s p slots) := by
  unfold State.publishPart
  repeat' first
    | with_reducible assumption
    | with_reducible apply each_evolves
    | with_reducible apply publishEntry_evolves
    | ((first | lift_lets -underBinder | skip); intro u; have hu : Evolves z u; (on_goal 1 => (dsimp only [u]; try clear u)); (on_goal 2 => clear_value u))
    | ((first | lift_lets -underBinder | skip); intro u; clear_value u)
    | (intro u; try intros)

theorem boundary_evolves (p : Nat) (run : StepRun) (hs : Evolves z s) : Evolves z (State.boundary s p run) := by
  unfold State.boundary
  repeat' first
    | with_reducible assumption
    | with_reducible apply onPart_evolves
    | with_reducible apply each_evolves
    | with_reducible apply applyItem_evolves
    | with_reducible apply flushEnded_evolves
    | with_reducible apply ok_evolves
    | with_reducible apply evacPart_evolves
    | with_reducible apply releaseAndApply_evolves
    | with_reducible apply advanceAges_evolves
    | with_reducible apply evacEnd_evolves
    | with_reducible apply publishPart_evolves
    | with_reducible apply nextStepOf_evolves
    | ((first | lift_lets -underBinder | skip); intro u; have hu : Evolves z u; (on_goal 1 => (dsimp only [u]; try clear u)); (on_goal 2 => clear_value u))
    | ((first | lift_lets -underBinder | skip); intro u; clear_value u)
    | split
    | (intro u; try intros)

theorem tryBoundary_evolves (p : Nat) (hs : Evolves z s) : Evolves z (State.tryBoundary s p) := by
  unfold State.tryBoundary
  repeat' first
    | with_reducible assumption
    | with_reducible apply boundary_evolves
    | split

theorem settlePart_evolves (p : Nat) (hs : Evolves z s) : Evolves z (State.settlePart s p) := by
  unfold State.settlePart
  repeat' first
    | with_reducible assumption
    | with_reducible apply publishPart_evolves
    | with_reducible apply flushEnded_evolves
    | with_reducible apply nextStepOf_evolves
    | with_reducible apply releaseAndApply_evolves
    | with_reducible apply evacPart_evolves
    | split

theorem settle_evolves  (hs : Evolves z s) : Evolves z (State.settle s) := by
  unfold State.settle
  repeat' first
    | with_reducible assumption
    | with_reducible apply each_evolves
    | with_reducible apply settlePart_evolves
    | with_reducible apply evacEnd_evolves
    | with_reducible apply flushEnded_evolves
    | ((first | lift_lets -underBinder | skip); intro u; have hu : Evolves z u; (on_goal 1 => (dsimp only [u]; try clear u)); (on_goal 2 => clear_value u))
    | ((first | lift_lets -underBinder | skip); intro u; clear_value u)
    | (intro u; try intros)

/-! ## Machine/Operands.lean -/
theorem runCmd_evolves (hq : Hdr) (checks : List (Option Fail)) (act : State → State) (hact : ∀ u, Evolves z u → Evolves z (act u)) (hs : Evolves z s) : Evolves z (runCmd s hq checks act) := by
  unfold runCmd
  repeat' first
    | with_reducible assumption
    | with_reducible apply err_evolves
    | apply hact
    | split
    | (intro u; try intros)

theorem runIn_evolves (hq : Hdr) (text : Bool) (checks : List (Option Fail)) (act : State → State) (hact : ∀ u, Evolves z u → Evolves z (act u)) (hs : Evolves z s) : Evolves z (runIn s hq text checks act) := by
  unfold runIn
  repeat' first
    | with_reducible assumption
    | with_reducible apply runCmd_evolves
    | with_reducible apply iff_evolves
    | with_reducible apply wakeCores_evolves
    | with_reducible apply wakeDom_evolves
    | apply hact
    | (intro u; try intros)

theorem fetched_evolves (op : Nat) (hq : Hdr) (pb : Bytes) (f : Hdr → State → State) (hf : ∀ v0 u, Evolves z u → Evolves z (f v0 u)) (hs : Evolves z s) : Evolves z (State.fetched s op hq pb f) := by
  unfold State.fetched
  repeat' first
    | with_reducible assumption
    | with_reducible apply onQp_evolves
    | with_reducible apply onPorch_evolves
    | apply hf
    | ((first | lift_lets -underBinder | skip); intro u; have hu : Evolves z u; (on_goal 1 => (dsimp only [u]; try clear u)); (on_goal 2 => clear_value u))
    | ((first | lift_lets -underBinder | skip); intro u; clear_value u)
    | split
    | exact fun _ h => h
    | with_reducible rfl
    | (intro u; try intros)

/-! ## Machine/Images.lean -/
theorem sysAdd_evolves (n : Nat) (hs : Evolves z s) : Evolves z (State.sysAdd s n) := by
  unfold State.sysAdd
  repeat' first
    | with_reducible assumption
    | with_reducible apply onCel_evolves

theorem sysSub_evolves (n : Nat) (hs : Evolves z s) : Evolves z (State.sysSub s n) := by
  unfold State.sysSub
  repeat' first
    | with_reducible assumption
    | with_reducible apply onCel_evolves

end Sys2Proof.Machine
end

