-- ==== Sys2Proof/Laws/EvolveCommands.lean ====
section
/-! SUPPORT. What every operation keeps (Evolves): the host commands of serving, retrieval, tables, text and partitions, and the fabric and spares. One lemma per operation, under the operation's name. -/

set_option linter.unusedTactic false
set_option linter.unreachableTactic false

namespace Sys2Proof.Machine

variable {z s : State}
/-! ## Machine/AdminCmds.lean -/
theorem admitIdentify_evolves (hq : Hdr) (pb : Bytes) (hs : Evolves z s) : Evolves z (State.admitIdentify s hq pb) := by
  unfold State.admitIdentify
  repeat' first
    | with_reducible assumption
    | with_reducible apply runCmd_evolves
    | with_reducible apply output_evolves
    | (intro u; try intros)

theorem admitTenantLoad_evolves (hq : Hdr) (pb : Bytes) (hs : Evolves z s) : Evolves z (State.admitTenantLoad s hq pb) := by
  unfold State.admitTenantLoad
  repeat' first
    | with_reducible assumption
    | with_reducible apply runCmd_evolves
    | with_reducible apply err_evolves
    | with_reducible apply sysAdd_evolves
    | with_reducible apply onSch_evolves
    | with_reducible apply each_evolves
    | with_reducible apply streamFill_evolves
    | with_reducible apply setW_evolves
    | with_reducible apply ok_evolves
    | ((first | lift_lets -underBinder | skip); intro u; have hu : Evolves z u; (on_goal 1 => (dsimp only [u]; try clear u)); (on_goal 2 => clear_value u))
    | ((first | lift_lets -underBinder | skip); intro u; clear_value u)
    | split
    | (intro u; try intros)

theorem admitBaseLoad_evolves (hq : Hdr) (pb : Bytes) (hs : Evolves z s) : Evolves z (State.admitBaseLoad s hq pb) := by
  unfold State.admitBaseLoad
  repeat' first
    | with_reducible assumption
    | with_reducible apply runCmd_evolves
    | with_reducible apply err_evolves
    | with_reducible apply onSch_evolves
    | with_reducible apply hbmSize_evolves
    | with_reducible apply attSize_evolves
    | with_reducible apply ok_evolves
    | with_reducible apply sysAdd_evolves
    | ((first | lift_lets -underBinder | skip); intro u; have hu : Evolves z u; (on_goal 1 => (dsimp only [u]; try clear u)); (on_goal 2 => clear_value u))
    | ((first | lift_lets -underBinder | skip); intro u; clear_value u)
    | split
    | (intro u; try intros)

theorem admitTenantUnload_evolves (hq : Hdr) (pb : Bytes) (hs : Evolves z s) : Evolves z (State.admitTenantUnload s hq pb) := by
  unfold State.admitTenantUnload
  repeat' first
    | with_reducible assumption
    | with_reducible apply runCmd_evolves
    | with_reducible apply err_evolves
    | with_reducible apply hbmSize_evolves
    | with_reducible apply attSize_evolves
    | with_reducible apply ok_evolves
    | with_reducible apply sysSub_evolves
    | with_reducible apply onSch_evolves
    | with_reducible apply each_evolves
    | with_reducible apply setW_evolves
    | ((first | lift_lets -underBinder | skip); intro u; have hu : Evolves z u; (on_goal 1 => (dsimp only [u]; try clear u)); (on_goal 2 => clear_value u))
    | ((first | lift_lets -underBinder | skip); intro u; clear_value u)
    | split
    | (intro u; try intros)

theorem admitTenantInfo_evolves (hq : Hdr) (pb : Bytes) (hs : Evolves z s) : Evolves z (State.admitTenantInfo s hq pb) := by
  unfold State.admitTenantInfo
  repeat' first
    | with_reducible assumption
    | with_reducible apply runCmd_evolves
    | with_reducible apply output_evolves
    | with_reducible apply err_evolves
    | ((first | lift_lets -underBinder | skip); intro u; have hu : Evolves z u; (on_goal 1 => (dsimp only [u]; try clear u)); (on_goal 2 => clear_value u))
    | ((first | lift_lets -underBinder | skip); intro u; clear_value u)
    | split
    | (intro u; try intros)

/-! ## Machine/RequestCmds.lean -/
theorem takeSlot_evolves (hq : Hdr) (kind : ReqKind) (pb : Bytes) (handleAddr : Nat) (f : Req → Req) (go : State → Nat → State) (hgo : ∀ u v1, Evolves z u → Evolves z (go u v1)) (hs : Evolves z s) : Evolves z (State.takeSlot s hq kind pb handleAddr f go) := by
  unfold State.takeSlot
  repeat' first
    | with_reducible assumption
    | with_reducible apply err_evolves
    | with_reducible apply onSch_evolves
    | with_reducible apply hostWrite_evolves
    | with_reducible apply settle_evolves
    | with_reducible apply publishEntry_evolves
    | with_reducible apply writeRecord_evolves
    | apply hgo
    | ((first | lift_lets -underBinder | skip); intro u; have hu : Evolves z u; (on_goal 1 => (dsimp only [u]; try clear u)); (on_goal 2 => clear_value u))
    | ((first | lift_lets -underBinder | skip); intro u; clear_value u)
    | split
    | (intro u; try intros)

theorem nextAdm_evolves (i : Nat) (hs : Evolves z s) : EvolvesSnd z (State.nextAdm s i) := by
  unfold State.nextAdm
  repeat' first
    | with_reducible assumption
    | with_reducible apply onCel_evolves
    | with_reducible apply onRet_evolves
    | with_reducible apply pair2_evolves
    | with_reducible refine of_snd (by assumption) ?_
    | split

theorem admitAsk_evolves (hq : Hdr) (pb : Bytes) (hs : Evolves z s) : Evolves z (State.admitAsk s hq pb) := by
  unfold State.admitAsk
  repeat' first
    | with_reducible assumption
    | with_reducible apply runIn_evolves
    | with_reducible apply err_evolves
    | with_reducible apply nextAdm_evolves
    | with_reducible apply takeSlot_evolves
    | with_reducible apply pair2_evolves
    | with_reducible refine of_snd (by assumption) ?_
    | with_reducible refine snd_evolves (p := State.nextAdm _ _) ?_
    | ((first | lift_lets -underBinder | skip); intro u; have hu : Evolves z u; (on_goal 1 => (dsimp only [u]; try clear u)); (on_goal 2 => clear_value u))
    | ((first | lift_lets -underBinder | skip); intro u; clear_value u)
    | split
    | (intro u; try intros)

theorem admitGenerate_evolves (hq : Hdr) (pb : Bytes) (hs : Evolves z s) : Evolves z (State.admitGenerate s hq pb) := by
  unfold State.admitGenerate
  repeat' first
    | with_reducible assumption
    | with_reducible apply runIn_evolves
    | with_reducible apply takeSlot_evolves
    | with_reducible apply mirrorOpen_evolves
    | with_reducible apply mapPrefix_evolves
    | ((first | lift_lets -underBinder | skip); intro u; have hu : Evolves z u; (on_goal 1 => (dsimp only [u]; try clear u)); (on_goal 2 => clear_value u))
    | ((first | lift_lets -underBinder | skip); intro u; clear_value u)
    | split
    | (intro u; try intros)

theorem admitEmbed_evolves (hq : Hdr) (pb : Bytes) (hs : Evolves z s) : Evolves z (State.admitEmbed s hq pb) := by
  unfold State.admitEmbed
  repeat' first
    | with_reducible assumption
    | with_reducible apply runIn_evolves
    | with_reducible apply finish_evolves
    | with_reducible apply takeSlot_evolves
    | ((first | lift_lets -underBinder | skip); intro u; have hu : Evolves z u; (on_goal 1 => (dsimp only [u]; try clear u)); (on_goal 2 => clear_value u))
    | ((first | lift_lets -underBinder | skip); intro u; clear_value u)
    | split
    | (intro u; try intros)

theorem admitSearch_evolves (hq : Hdr) (pb : Bytes) (hs : Evolves z s) : Evolves z (State.admitSearch s hq pb) := by
  unfold State.admitSearch
  repeat' first
    | with_reducible assumption
    | with_reducible apply runIn_evolves
    | with_reducible apply finish_evolves
    | with_reducible apply err_evolves
    | with_reducible apply nextAdm_evolves
    | with_reducible apply takeSlot_evolves
    | with_reducible apply startJob_evolves
    | with_reducible apply pair2_evolves
    | with_reducible refine of_snd (by assumption) ?_
    | with_reducible refine snd_evolves (p := State.nextAdm _ _) ?_
    | ((first | lift_lets -underBinder | skip); intro u; have hu : Evolves z u; (on_goal 1 => (dsimp only [u]; try clear u)); (on_goal 2 => clear_value u))
    | ((first | lift_lets -underBinder | skip); intro u; clear_value u)
    | split
    | (intro u; try intros)

theorem admitRerank_evolves (hq : Hdr) (pb : Bytes) (hs : Evolves z s) : Evolves z (State.admitRerank s hq pb) := by
  unfold State.admitRerank
  repeat' first
    | with_reducible assumption
    | with_reducible apply runIn_evolves
    | with_reducible apply finish_evolves
    | with_reducible apply takeSlot_evolves
    | with_reducible apply startStage6_evolves
    | ((first | lift_lets -underBinder | skip); intro u; have hu : Evolves z u; (on_goal 1 => (dsimp only [u]; try clear u)); (on_goal 2 => clear_value u))
    | ((first | lift_lets -underBinder | skip); intro u; clear_value u)
    | split
    | (intro u; try intros)

theorem recast_evolves (n : Nat) (r : Req) (hs : Evolves z s) : Evolves z (State.recast s n r) := by
  unfold State.recast
  repeat' first
    | with_reducible assumption
    | with_reducible apply onQp_evolves
    | split
    | exact fun _ h => h
    | (intro u; try intros)

theorem admitCancel_evolves (hq : Hdr) (pb : Bytes) (hs : Evolves z s) : Evolves z (State.admitCancel s hq pb) := by
  unfold State.admitCancel
  repeat' first
    | with_reducible assumption
    | with_reducible apply runIn_evolves
    | with_reducible apply err_evolves
    | with_reducible apply onReq_evolves
    | with_reducible apply dropJobsOf_evolves
    | with_reducible apply recast_evolves
    | with_reducible apply flushOne_evolves
    | with_reducible apply onQp_evolves
    | with_reducible apply completeFor_evolves
    | with_reducible apply settle_evolves
    | ((first | lift_lets -underBinder | skip); intro u; have hu : Evolves z u; (on_goal 1 => (dsimp only [u]; try clear u)); (on_goal 2 => clear_value u))
    | ((first | lift_lets -underBinder | skip); intro u; clear_value u)
    | split
    | exact fun _ h => h
    | (intro u; try intros)

theorem admitStep_evolves (hq : Hdr) (pb : Bytes) (hs : Evolves z s) : Evolves z (State.admitStep s hq pb) := by
  unfold State.admitStep
  repeat' first
    | with_reducible assumption
    | with_reducible apply runIn_evolves
    | with_reducible apply settle_evolves
    | with_reducible apply onPart_evolves
    | (intro u; try intros)

/-! ## Machine/IndexCmds.lean -/
theorem endRemoteJobs_evolves (i : Nat) (hs : Evolves z s) : Evolves z (State.endRemoteJobs s i) := by
  unfold State.endRemoteJobs
  repeat' first
    | with_reducible assumption
    | with_reducible apply each_evolves
    | with_reducible apply dropJob_evolves
    | with_reducible apply reply_evolves
    | ((first | lift_lets -underBinder | skip); intro u; have hu : Evolves z u; (on_goal 1 => (dsimp only [u]; try clear u)); (on_goal 2 => clear_value u))
    | ((first | lift_lets -underBinder | skip); intro u; clear_value u)
    | split
    | (intro u; try intros)

theorem removeIndex_evolves (i : Nat) (hs : Evolves z s) : Evolves z (State.removeIndex s i) := by
  unfold State.removeIndex
  repeat' first
    | with_reducible assumption
    | with_reducible apply endRemoteJobs_evolves
    | with_reducible apply each_evolves
    | with_reducible apply freeExtent_evolves
    | with_reducible apply onCel_evolves
    | with_reducible apply endIndexAct_evolves
    | with_reducible apply hbmSize_evolves
    | with_reducible apply markCrowded_evolves
    | with_reducible apply onRet_evolves
    | ((first | lift_lets -underBinder | skip); intro u; have hu : Evolves z u; (on_goal 1 => (dsimp only [u]; try clear u)); (on_goal 2 => clear_value u))
    | ((first | lift_lets -underBinder | skip); intro u; clear_value u)
    | split
    | (intro u; try intros)

theorem admitIndexCreate_evolves (hq : Hdr) (pb : Bytes) (hs : Evolves z s) : Evolves z (State.admitIndexCreate s hq pb) := by
  unfold State.admitIndexCreate
  repeat' first
    | with_reducible assumption
    | with_reducible apply runCmd_evolves
    | with_reducible apply hbmSize_evolves
    | with_reducible apply onRet_evolves
    | with_reducible apply onIndex_evolves
    | with_reducible apply removeIndex_evolves
    | with_reducible apply ok_evolves
    | ((first | lift_lets -underBinder | skip); intro u; have hu : Evolves z u; (on_goal 1 => (dsimp only [u]; try clear u)); (on_goal 2 => clear_value u))
    | ((first | lift_lets -underBinder | skip); intro u; clear_value u)
    | split
    | (intro u; try intros)

theorem placeText_evolves (i : Nat) (m : Mutation) (hs : Evolves z s) : Evolves z (State.placeText s i m) := by
  unfold State.placeText
  simp only []
  split
  · exact hs
  · split
    · exact hs
    · split
      · exact onIndex_evolves _ _ (of_some ‹_› (syncHome_evolves _ _ (onIndex_evolves _ _ hs)))
      · exact hs

theorem queueMuts_evolves (i : Nat) (hq : Hdr) (c : Compl) (l : List Mutation) (hs : Evolves z s) : Evolves z (State.queueMuts s i hq c l) := by
  unfold State.queueMuts
  repeat' first
    | with_reducible assumption
    | with_reducible apply onIndex_evolves
    | with_reducible apply each_evolves
    | with_reducible apply placeText_evolves
    | ((first | lift_lets -underBinder | skip); intro u; have hu : Evolves z u; (on_goal 1 => (dsimp only [u]; try clear u)); (on_goal 2 => clear_value u))
    | ((first | lift_lets -underBinder | skip); intro u; clear_value u)
    | split
    | (intro u; try intros)

theorem admitIndexInsert_evolves (hq : Hdr) (pb : Bytes) (hs : Evolves z s) : Evolves z (State.admitIndexInsert s hq pb) := by
  unfold State.admitIndexInsert
  repeat' first
    | with_reducible assumption
    | with_reducible apply runCmd_evolves
    | with_reducible apply makeDue_evolves
    | with_reducible apply err_evolves
    | with_reducible apply queueMuts_evolves
    | ((first | lift_lets -underBinder | skip); intro u; have hu : Evolves z u; (on_goal 1 => (dsimp only [u]; try clear u)); (on_goal 2 => clear_value u))
    | ((first | lift_lets -underBinder | skip); intro u; clear_value u)
    | split
    | (intro u; try intros)

theorem admitIndexDelete_evolves (hq : Hdr) (pb : Bytes) (hs : Evolves z s) : Evolves z (State.admitIndexDelete s hq pb) := by
  unfold State.admitIndexDelete
  repeat' first
    | with_reducible assumption
    | with_reducible apply runCmd_evolves
    | with_reducible apply queueMuts_evolves
    | with_reducible apply err_evolves
    | ((first | lift_lets -underBinder | skip); intro u; have hu : Evolves z u; (on_goal 1 => (dsimp only [u]; try clear u)); (on_goal 2 => clear_value u))
    | ((first | lift_lets -underBinder | skip); intro u; clear_value u)
    | split
    | (intro u; try intros)

theorem publish_evolves (i : Nat) (hs : Evolves z s) : Evolves z (State.publish s i) := by
  unfold State.publish
  repeat' first
    | with_reducible assumption
    | with_reducible apply placeText_evolves
    | with_reducible apply onIndex_evolves
    | with_reducible apply syncHomes_evolves
    | with_reducible apply each_evolves
    | with_reducible apply onCel_evolves
    | with_reducible apply makeDue_evolves
    | with_reducible apply markCrowded_evolves
    | with_reducible apply completeFor_evolves
    | ((first | lift_lets -underBinder | skip); intro u; have hu : Evolves z u; (on_goal 1 => (dsimp only [u]; try clear u)); (on_goal 2 => clear_value u))
    | ((first | lift_lets -underBinder | skip); intro u; clear_value u)
    | split
    | (intro u; try intros)

theorem admitIndexMerge_evolves (hq : Hdr) (pb : Bytes) (hs : Evolves z s) : Evolves z (State.admitIndexMerge s hq pb) := by
  unfold State.admitIndexMerge
  repeat' first
    | with_reducible assumption
    | with_reducible apply runCmd_evolves
    | with_reducible apply ok_evolves
    | with_reducible apply each_evolves
    | with_reducible apply makeDue_evolves
    | ((first | lift_lets -underBinder | skip); intro u; have hu : Evolves z u; (on_goal 1 => (dsimp only [u]; try clear u)); (on_goal 2 => clear_value u))
    | ((first | lift_lets -underBinder | skip); intro u; clear_value u)
    | split
    | (intro u; try intros)

theorem admitIndexInfo_evolves (hq : Hdr) (pb : Bytes) (hs : Evolves z s) : Evolves z (State.admitIndexInfo s hq pb) := by
  unfold State.admitIndexInfo
  repeat' first
    | with_reducible assumption
    | with_reducible apply runCmd_evolves
    | with_reducible apply output_evolves
    | with_reducible apply err_evolves
    | ((first | lift_lets -underBinder | skip); intro u; have hu : Evolves z u; (on_goal 1 => (dsimp only [u]; try clear u)); (on_goal 2 => clear_value u))
    | ((first | lift_lets -underBinder | skip); intro u; clear_value u)
    | split
    | (intro u; try intros)

theorem optFold_evolves {α β : Type} (l : List α) (f : Option (State × β) → α → Option (State × β)) (o : Option (State × β)) (h : ∀ r, o = some r → Evolves z r.1)
    (hf : ∀ o x, (∀ r, o = some r → Evolves z r.1) → ∀ r, f o x = some r → Evolves z r.1) : ∀ r, l.foldl f o = some r → Evolves z r.1 := by
  induction l generalizing o with
  | nil => exact h
  | cons x l ih => exact ih _ (hf o x h)
theorem loadBuckets_evolves (i : Nat) (ix : Index) (ents : List InsEnt) {r} (e : State.loadBuckets s i ix ents = some r) (hs : Evolves z s) : Evolves z r.1 := by
  unfold State.loadBuckets at e
  refine optFold_evolves _ _ _ (fun r h => by cases h; exact hs) (fun o b ho r h => ?_) r e
  cases o with
  | none => cases h
  | some q =>
    have hq := ho q rfl
    simp only [Option.bind_some] at h
    split at h
    all_goals
      split at h
      · cases h
      · split at h
        · cases h; exact onIndex_evolves _ _ (of_fst ‹_› (writeExtent_evolves _ _ _ _ hq))
        · cases h

theorem homeFold_evolves (i : Nat) (l : List Nat) (o : Option State) (h : EvolvesOpt z o) :
    EvolvesOpt z (l.foldl (fun (st : Option State) h => st.bind fun s => s.syncHome i h) o) := by
  induction l generalizing o with
  | nil => exact h
  | cons x l ih =>
    refine ih _ ?_
    cases o with
    | none => exact none_evolves
    | some u => exact syncHome_evolves _ _ h
theorem loadAll_evolves (i : Nat) (ix : Index) (ents : List InsEnt) {r} (e : State.loadAll s i ix ents = some r) (hs : Evolves z s) : Evolves z r.1 := by
  unfold State.loadAll at e
  obtain ⟨q, hq, e⟩ := Option.bind_eq_some_iff.1 e
  obtain ⟨u, hu, rfl⟩ := Option.map_eq_some_iff.1 e
  exact of_some hu (homeFold_evolves _ _ _ (some_evolves (onIndex_evolves _ _ (loadBuckets_evolves _ _ _ hq hs))))

theorem loadDone_evolves (i : Nat) (hs : Evolves z s) : Evolves z (State.loadDone s i) := by
  unfold State.loadDone
  repeat' first
    | with_reducible assumption
    | with_reducible apply each_evolves
    | with_reducible apply freeExtent_evolves
    | with_reducible apply onIndex_evolves
    | with_reducible apply completeFor_evolves
    | ((first | lift_lets -underBinder | skip); intro u; have hu : Evolves z u; (on_goal 1 => (dsimp only [u]; try clear u)); (on_goal 2 => clear_value u))
    | ((first | lift_lets -underBinder | skip); intro u; clear_value u)
    | split
    | (intro u; try intros)

theorem settleLoads_evolves  (hs : Evolves z s) : Evolves z (State.settleLoads s) := by
  unfold State.settleLoads
  repeat' first
    | with_reducible assumption
    | with_reducible apply each_evolves
    | with_reducible apply loadDone_evolves
    | (intro u; try intros)

theorem undoLoad_evolves (i : Nat) (l : Load) (hs : Evolves z s) : Evolves z (State.undoLoad s i l) := by
  unfold State.undoLoad
  repeat' first
    | with_reducible assumption
    | with_reducible apply each_evolves
    | with_reducible apply freeExtent_evolves
    | with_reducible apply onIndex_evolves
    | ((first | lift_lets -underBinder | skip); intro u; have hu : Evolves z u; (on_goal 1 => (dsimp only [u]; try clear u)); (on_goal 2 => clear_value u))
    | ((first | lift_lets -underBinder | skip); intro u; clear_value u)
    | split
    | (intro u; try intros)

theorem admitIndexLoad_evolves (hq : Hdr) (pb : Bytes) (hs : Evolves z s) : Evolves z (State.admitIndexLoad s hq pb) := by
  unfold State.admitIndexLoad
  repeat' first
    | with_reducible assumption
    | with_reducible apply runCmd_evolves
    | with_reducible apply err_evolves
    | with_reducible apply settleLoads_evolves
    | with_reducible apply onIndex_evolves
    | exact loadAll_evolves _ _ _ (by assumption) (by assumption)
    | ((first | lift_lets -underBinder | skip); intro u; have hu : Evolves z u; (on_goal 1 => (dsimp only [u]; try clear u)); (on_goal 2 => clear_value u))
    | ((first | lift_lets -underBinder | skip); intro u; clear_value u)
    | split
    | (intro u; try intros)

theorem getDone_evolves (g : Get) (hs : Evolves z s) : Evolves z (State.getDone s g) := by
  unfold State.getDone
  repeat' first
    | with_reducible assumption
    | with_reducible apply onRet_evolves
    | with_reducible apply err_evolves
    | with_reducible apply noPage_evolves
    | with_reducible apply output_evolves
    | ((first | lift_lets -underBinder | skip); intro u; have hu : Evolves z u; (on_goal 1 => (dsimp only [u]; try clear u)); (on_goal 2 => clear_value u))
    | ((first | lift_lets -underBinder | skip); intro u; clear_value u)
    | split

theorem settleGets_evolves  (hs : Evolves z s) : Evolves z (State.settleGets s) := by
  unfold State.settleGets
  repeat' first
    | with_reducible assumption
    | with_reducible apply each_evolves
    | with_reducible apply getDone_evolves
    | (intro u; try intros)

theorem admitPassageGet_evolves (hq : Hdr) (pb : Bytes) (hs : Evolves z s) : Evolves z (State.admitPassageGet s hq pb) := by
  unfold State.admitPassageGet
  repeat' first
    | with_reducible assumption
    | with_reducible apply runCmd_evolves
    | with_reducible apply onRet_evolves
    | with_reducible apply getDone_evolves
    | with_reducible apply each_evolves
    | with_reducible apply queueRead_evolves
    | with_reducible apply err_evolves
    | ((first | lift_lets -underBinder | skip); intro u; have hu : Evolves z u; (on_goal 1 => (dsimp only [u]; try clear u)); (on_goal 2 => clear_value u))
    | ((first | lift_lets -underBinder | skip); intro u; clear_value u)
    | split
    | (intro u; try intros)

/-! ## Machine/TableCmds.lean -/
theorem tryDestroy_evolves (tid : Nat) (hs : Evolves z s) : Evolves z (State.tryDestroy s tid) := by
  unfold State.tryDestroy
  repeat' first
    | with_reducible assumption
    | with_reducible apply hbmSize_evolves
    | with_reducible apply attSize_evolves
    | with_reducible apply ok_evolves
    | with_reducible apply onTbl_evolves
    | ((first | lift_lets -underBinder | skip); intro u; have hu : Evolves z u; (on_goal 1 => (dsimp only [u]; try clear u)); (on_goal 2 => clear_value u))
    | ((first | lift_lets -underBinder | skip); intro u; clear_value u)
    | split

theorem admitTableCreate_evolves (hq : Hdr) (pb : Bytes) (hs : Evolves z s) : Evolves z (State.admitTableCreate s hq pb) := by
  unfold State.admitTableCreate
  repeat' first
    | with_reducible assumption
    | with_reducible apply runCmd_evolves
    | with_reducible apply ok_evolves
    | with_reducible apply hbmSize_evolves
    | with_reducible apply attSize_evolves
    | with_reducible apply onTbl_evolves
    | with_reducible apply tryDestroy_evolves
    | with_reducible apply onTable_evolves
    | ((first | lift_lets -underBinder | skip); intro u; have hu : Evolves z u; (on_goal 1 => (dsimp only [u]; try clear u)); (on_goal 2 => clear_value u))
    | ((first | lift_lets -underBinder | skip); intro u; clear_value u)
    | split
    | (intro u; try intros)

theorem endWrites_evolves  (hs : Evolves z s) : Evolves z (State.endWrites s) := by
  unfold State.endWrites
  repeat' first
    | with_reducible assumption
    | with_reducible apply onTbl_evolves
    | with_reducible apply each_evolves
    | with_reducible apply err_evolves
    | with_reducible apply ok_evolves
    | with_reducible apply reply_evolves
    | with_reducible apply tryDestroy_evolves
    | ((first | lift_lets -underBinder | skip); intro u; have hu : Evolves z u; (on_goal 1 => (dsimp only [u]; try clear u)); (on_goal 2 => clear_value u))
    | ((first | lift_lets -underBinder | skip); intro u; clear_value u)
    | split
    | (intro u; try intros)

theorem openWrite_evolves (w : TWrite) (hs : Evolves z s) : Evolves z (State.openWrite s w) := by
  unfold State.openWrite
  repeat' first
    | with_reducible assumption
    | with_reducible apply endWrites_evolves
    | with_reducible apply onTbl_evolves

theorem admitTableWrite_evolves (hq : Hdr) (pb : Bytes) (hs : Evolves z s) : Evolves z (State.admitTableWrite s hq pb) := by
  unfold State.admitTableWrite
  repeat' first
    | with_reducible assumption
    | with_reducible apply runCmd_evolves
    | with_reducible apply err_evolves
    | with_reducible apply each_evolves
    | with_reducible apply send_evolves
    | with_reducible apply openWrite_evolves
    | ((first | lift_lets -underBinder | skip); intro u; have hu : Evolves z u; (on_goal 1 => (dsimp only [u]; try clear u)); (on_goal 2 => clear_value u))
    | ((first | lift_lets -underBinder | skip); intro u; clear_value u)
    | split
    | (intro u; try intros)

theorem admitTableGather_evolves (hq : Hdr) (pb : Bytes) (hs : Evolves z s) : Evolves z (State.admitTableGather s hq pb) := by
  unfold State.admitTableGather
  repeat' first
    | with_reducible assumption
    | with_reducible apply runIn_evolves
    | with_reducible apply finish_evolves
    | with_reducible apply startGather_evolves
    | ((first | lift_lets -underBinder | skip); intro u; have hu : Evolves z u; (on_goal 1 => (dsimp only [u]; try clear u)); (on_goal 2 => clear_value u))
    | ((first | lift_lets -underBinder | skip); intro u; clear_value u)
    | split
    | (intro u; try intros)

theorem admitTableInfo_evolves (hq : Hdr) (pb : Bytes) (hs : Evolves z s) : Evolves z (State.admitTableInfo s hq pb) := by
  unfold State.admitTableInfo
  repeat' first
    | with_reducible assumption
    | with_reducible apply runCmd_evolves
    | with_reducible apply output_evolves
    | with_reducible apply err_evolves
    | ((first | lift_lets -underBinder | skip); intro u; have hu : Evolves z u; (on_goal 1 => (dsimp only [u]; try clear u)); (on_goal 2 => clear_value u))
    | ((first | lift_lets -underBinder | skip); intro u; clear_value u)
    | split
    | (intro u; try intros)

/-! ## Machine/TextCmds.lean -/
theorem admitVocabLoad_evolves (hq : Hdr) (pb : Bytes) (hs : Evolves z s) : Evolves z (State.admitVocabLoad s hq pb) := by
  unfold State.admitVocabLoad
  repeat' first
    | with_reducible assumption
    | with_reducible apply runCmd_evolves
    | with_reducible apply ok_evolves
    | with_reducible apply sysSub_evolves
    | with_reducible apply hbmSize_evolves
    | with_reducible apply onSch_evolves
    | with_reducible apply err_evolves
    | with_reducible apply sysAdd_evolves
    | ((first | lift_lets -underBinder | skip); intro u; have hu : Evolves z u; (on_goal 1 => (dsimp only [u]; try clear u)); (on_goal 2 => clear_value u))
    | ((first | lift_lets -underBinder | skip); intro u; clear_value u)
    | split
    | (intro u; try intros)

theorem admitGrammarLoad_evolves (hq : Hdr) (pb : Bytes) (hs : Evolves z s) : Evolves z (State.admitGrammarLoad s hq pb) := by
  unfold State.admitGrammarLoad
  repeat' first
    | with_reducible assumption
    | with_reducible apply runCmd_evolves
    | with_reducible apply ok_evolves
    | with_reducible apply sysSub_evolves
    | with_reducible apply hbmSize_evolves
    | with_reducible apply onSch_evolves
    | with_reducible apply err_evolves
    | with_reducible apply sysAdd_evolves
    | ((first | lift_lets -underBinder | skip); intro u; have hu : Evolves z u; (on_goal 1 => (dsimp only [u]; try clear u)); (on_goal 2 => clear_value u))
    | ((first | lift_lets -underBinder | skip); intro u; clear_value u)
    | split
    | (intro u; try intros)

theorem admitTokenize_evolves (hq : Hdr) (pb : Bytes) (hs : Evolves z s) : Evolves z (State.admitTokenize s hq pb) := by
  unfold State.admitTokenize
  repeat' first
    | with_reducible assumption
    | with_reducible apply runIn_evolves
    | with_reducible apply finish_evolves
    | with_reducible apply hostWrite_evolves
    | ((first | lift_lets -underBinder | skip); intro u; have hu : Evolves z u; (on_goal 1 => (dsimp only [u]; try clear u)); (on_goal 2 => clear_value u))
    | ((first | lift_lets -underBinder | skip); intro u; clear_value u)
    | split
    | (intro u; try intros)

theorem admitDetokenize_evolves (hq : Hdr) (pb : Bytes) (hs : Evolves z s) : Evolves z (State.admitDetokenize s hq pb) := by
  unfold State.admitDetokenize
  repeat' first
    | with_reducible assumption
    | with_reducible apply runIn_evolves
    | with_reducible apply output_evolves
    | ((first | lift_lets -underBinder | skip); intro u; have hu : Evolves z u; (on_goal 1 => (dsimp only [u]; try clear u)); (on_goal 2 => clear_value u))
    | ((first | lift_lets -underBinder | skip); intro u; clear_value u)
    | (intro u; try intros)

/-! ## Machine/PartCmds.lean -/
theorem partShares_evolves (p : Nat) (y : Part) (hs : Evolves z s) : Evolves z (State.partShares s p y) := by
  unfold State.partShares
  repeat' first
    | with_reducible assumption
    | with_reducible apply each_evolves
    | with_reducible apply hbmSize_evolves
    | with_reducible apply attSize_evolves
    | ((first | lift_lets -underBinder | skip); intro u; have hu : Evolves z u; (on_goal 1 => (dsimp only [u]; try clear u)); (on_goal 2 => clear_value u))
    | ((first | lift_lets -underBinder | skip); intro u; clear_value u)
    | (intro u; try intros)

theorem admitPartSet_evolves (hq : Hdr) (pb : Bytes) (hs : Evolves z s) : Evolves z (State.admitPartSet s hq pb) := by
  unfold State.admitPartSet
  repeat' first
    | with_reducible assumption
    | with_reducible apply runIn_evolves
    | with_reducible apply settle_evolves
    | with_reducible apply onPart_evolves
    | with_reducible apply partShares_evolves
    | ((first | lift_lets -underBinder | skip); intro u; have hu : Evolves z u; (on_goal 1 => (dsimp only [u]; try clear u)); (on_goal 2 => clear_value u))
    | ((first | lift_lets -underBinder | skip); intro u; clear_value u)
    | (intro u; try intros)

theorem admitPartStats_evolves (hq : Hdr) (pb : Bytes) (hs : Evolves z s) : Evolves z (State.admitPartStats s hq pb) := by
  unfold State.admitPartStats
  repeat' first
    | with_reducible assumption
    | with_reducible apply runIn_evolves
    | with_reducible apply output_evolves
    | (intro u; try intros)

theorem admitPartRegulate_evolves (hq : Hdr) (pb : Bytes) (hs : Evolves z s) : Evolves z (State.admitPartRegulate s hq pb) := by
  unfold State.admitPartRegulate
  repeat' first
    | with_reducible assumption
    | with_reducible apply runIn_evolves
    | with_reducible apply ok_evolves
    | with_reducible apply settle_evolves
    | with_reducible apply onPart_evolves
    | ((first | lift_lets -underBinder | skip); intro u; have hu : Evolves z u; (on_goal 1 => (dsimp only [u]; try clear u)); (on_goal 2 => clear_value u))
    | ((first | lift_lets -underBinder | skip); intro u; clear_value u)
    | (intro u; try intros)

theorem acctOut_evolves (hq : Hdr) (pb : Bytes) (clear : State → State) (aq5 : Acct) (hclear : ∀ u, Evolves z u → Evolves z (clear u)) (hs : Evolves z s) : Evolves z (State.acctOut s hq pb clear aq5) := by
  unfold State.acctOut
  repeat' first
    | with_reducible assumption
    | with_reducible apply output_evolves
    | with_reducible apply iff_evolves
    | apply hclear
    | (intro u; try intros)

theorem admitAcctRead_evolves (hq : Hdr) (pb : Bytes) (hs : Evolves z s) : Evolves z (State.admitAcctRead s hq pb) := by
  unfold State.admitAcctRead
  repeat' first
    | with_reducible assumption
    | with_reducible apply runIn_evolves
    | with_reducible apply acctOut_evolves
    | with_reducible apply onSch_evolves
    | with_reducible apply err_evolves
    | with_reducible apply onPart_evolves
    | ((first | lift_lets -underBinder | skip); intro u; have hu : Evolves z u; (on_goal 1 => (dsimp only [u]; try clear u)); (on_goal 2 => clear_value u))
    | ((first | lift_lets -underBinder | skip); intro u; clear_value u)
    | split
    | (intro u; try intros)

/-! ## Machine/FabOps.lean -/
theorem flood_evolves (b : MsgBody) (hs : Evolves z s) : Evolves z (State.flood s b) := by
  unfold State.flood
  repeat' first
    | with_reducible assumption
    | with_reducible apply each_evolves
    | with_reducible apply sendPort_evolves
    | (intro u; try intros)

theorem floodExcept_evolves (q : Nat) (b : MsgBody) (hs : Evolves z s) : Evolves z (State.floodExcept s q b) := by
  unfold State.floodExcept
  repeat' first
    | with_reducible assumption
    | with_reducible apply each_evolves
    | with_reducible apply sendPort_evolves
    | (intro u; try intros)

theorem advertise_evolves  (hs : Evolves z s) : Evolves z (State.advertise s) := by
  unfold State.advertise
  repeat' first
    | with_reducible assumption
    | with_reducible apply each_evolves
    | with_reducible apply sendPort_evolves
    | with_reducible apply onFab_evolves
    | ((first | lift_lets -underBinder | skip); intro u; have hu : Evolves z u; (on_goal 1 => (dsimp only [u]; try clear u)); (on_goal 2 => clear_value u))
    | ((first | lift_lets -underBinder | skip); intro u; clear_value u)
    | split
    | (intro u; try intros)

theorem closePort_evolves (p : Nat) (hs : Evolves z s) : Evolves z (State.closePort s p) := by
  unfold State.closePort
  repeat' first
    | with_reducible assumption
    | with_reducible apply onPort_evolves
    | with_reducible apply advertise_evolves
    | with_reducible apply onFab_evolves
    | ((first | lift_lets -underBinder | skip); intro u; have hu : Evolves z u; (on_goal 1 => (dsimp only [u]; try clear u)); (on_goal 2 => clear_value u))
    | ((first | lift_lets -underBinder | skip); intro u; clear_value u)
    | split

theorem portDown_evolves (p : Nat) (idle : Bool) (hs : Evolves z s) : Evolves z (State.portDown s p idle) := by
  unfold State.portDown
  repeat' first
    | with_reducible assumption
    | with_reducible apply flood_evolves
    | with_reducible apply fabricEvent_evolves
    | with_reducible apply closePort_evolves
    | ((first | lift_lets -underBinder | skip); intro u; have hu : Evolves z u; (on_goal 1 => (dsimp only [u]; try clear u)); (on_goal 2 => clear_value u))
    | ((first | lift_lets -underBinder | skip); intro u; clear_value u)
    | split

theorem halfOff_evolves (half : Nat) (hs : Evolves z s) : Evolves z (State.halfOff s half) := by
  unfold State.halfOff
  repeat' first
    | with_reducible assumption
    | with_reducible apply setDom_evolves
    | split

theorem failLane_evolves (l : Nat) (hs : Evolves z s) : EvolvesFst z (State.failLane s l) := by
  unfold State.failLane
  repeat' first
    | with_reducible assumption
    | with_reducible apply onFab_evolves
    | with_reducible apply fabricEvent_evolves
    | with_reducible apply halfOff_evolves
    | with_reducible apply spareIn_evolves
    | with_reducible apply onPort_evolves
    | with_reducible apply portDown_evolves
    | with_reducible apply pair1_evolves
    | with_reducible refine of_fst (by assumption) ?_
    | ((first | lift_lets -underBinder | skip); intro u; have hu : Evolves z u; (on_goal 1 => (dsimp only [u]; try clear u)); (on_goal 2 => clear_value u))
    | ((first | lift_lets -underBinder | skip); intro u; clear_value u)
    | split

theorem probe_evolves (saved : Bool) (hs : Evolves z s) : Evolves z (State.probe s saved) := by
  unfold State.probe
  repeat' first
    | with_reducible assumption
    | with_reducible apply flood_evolves
    | with_reducible apply onFab_evolves
    | ((first | lift_lets -underBinder | skip); intro u; have hu : Evolves z u; (on_goal 1 => (dsimp only [u]; try clear u)); (on_goal 2 => clear_value u))
    | ((first | lift_lets -underBinder | skip); intro u; clear_value u)
    | split

theorem endWithdraw_evolves  (hs : Evolves z s) : Evolves z (State.endWithdraw s) := by
  unfold State.endWithdraw
  repeat' first
    | with_reducible assumption
    | with_reducible apply each_evolves
    | with_reducible apply ok_evolves
    | with_reducible apply onFab_evolves
    | split
    | (intro u; try intros)

theorem reclaimLent_evolves (l : Lent) (hs : Evolves z s) : Evolves z (State.reclaimLent s l) := by
  unfold State.reclaimLent
  repeat' first
    | with_reducible assumption
    | with_reducible apply zeroRegion_evolves
    | with_reducible apply onFab_evolves
    | with_reducible apply attSize_evolves
    | with_reducible apply endWithdraw_evolves
    | ((first | lift_lets -underBinder | skip); intro u; have hu : Evolves z u; (on_goal 1 => (dsimp only [u]; try clear u)); (on_goal 2 => clear_value u))
    | ((first | lift_lets -underBinder | skip); intro u; clear_value u)
    | split

theorem dropLeaseCopies_evolves (w : Nat) (hs : Evolves z s) : Evolves z (State.dropLeaseCopies s w) := by
  unfold State.dropLeaseCopies
  repeat' first
    | with_reducible assumption
    | with_reducible apply each_evolves
    | with_reducible apply onPages_evolves
    | with_reducible apply onPart_evolves
    | ((first | lift_lets -underBinder | skip); intro u; have hu : Evolves z u; (on_goal 1 => (dsimp only [u]; try clear u)); (on_goal 2 => clear_value u))
    | ((first | lift_lets -underBinder | skip); intro u; clear_value u)
    | split
    | (intro u; try intros)

theorem windowLost_evolves (w : Nat) (hs : Evolves z s) : Evolves z (State.windowLost s w) := by
  unfold State.windowLost
  repeat' first
    | with_reducible assumption
    | with_reducible apply each_evolves
    | with_reducible apply onReq_evolves
    | with_reducible apply dropLeaseCopies_evolves
    | with_reducible apply onPart_evolves
    | with_reducible apply onFab_evolves
    | ((first | lift_lets -underBinder | skip); intro u; have hu : Evolves z u; (on_goal 1 => (dsimp only [u]; try clear u)); (on_goal 2 => clear_value u))
    | ((first | lift_lets -underBinder | skip); intro u; clear_value u)
    | split
    | (intro u; try intros)

theorem drainWindows_evolves  (hs : Evolves z s) : Evolves z (State.drainWindows s) := by
  unfold State.drainWindows
  repeat' first
    | with_reducible assumption
    | with_reducible apply each_evolves
    | with_reducible apply onFab_evolves
    | with_reducible apply send_evolves
    | (intro u; try intros)

theorem dropOut_evolves (o : OutMsg) (hs : Evolves z s) : Evolves z (State.dropOut s o) := by
  unfold State.dropOut
  repeat' first
    | with_reducible assumption
    | with_reducible apply onFab_evolves

theorem took_evolves (m : MsgHdr) (cls : Nat) (hs : Evolves z s) : Evolves z (State.took s m cls) := by
  unfold State.took
  repeat' first
    | with_reducible assumption
    | with_reducible apply onFab_evolves

theorem catchUp_evolves (apply : Instr → State → State) (key : Nat) (aq3 : Nat) (happly : ∀ v0 u, Evolves z u → Evolves z (apply v0 u)) (hs : Evolves z s) : Evolves z (State.catchUp apply key aq3 s) := by
  induction aq3 generalizing apply key s with
  | zero =>
    unfold State.catchUp
    repeat' first
      | with_reducible assumption
      | with_reducible apply onFab_evolves
      | apply happly
      | ((first | lift_lets -underBinder | skip); intro u; have hu : Evolves z u; (on_goal 1 => (dsimp only [u]; try clear u)); (on_goal 2 => clear_value u))
      | ((first | lift_lets -underBinder | skip); intro u; clear_value u)
      | split
      | (intro u; try intros)
  | succ n ih =>
    unfold State.catchUp
    repeat' first
      | with_reducible assumption
      | with_reducible apply onFab_evolves
      | apply happly
      | with_reducible apply ih
      | ((first | lift_lets -underBinder | skip); intro u; have hu : Evolves z u; (on_goal 1 => (dsimp only [u]; try clear u)); (on_goal 2 => clear_value u))
      | ((first | lift_lets -underBinder | skip); intro u; clear_value u)
      | split
      | (intro u; try intros)

theorem arrive_evolves (m : MsgHdr) (cls : Nat) (ordered : Bool) (i : Instr) (apply : Instr → State → State) (happly : ∀ v0 u, Evolves z u → Evolves z (apply v0 u)) (hs : Evolves z s) : Evolves z (State.arrive s m cls ordered i apply) := by
  unfold State.arrive
  repeat' first
    | with_reducible assumption
    | with_reducible apply onFab_evolves
    | with_reducible apply catchUp_evolves
    | with_reducible apply took_evolves
    | apply happly
    | ((first | lift_lets -underBinder | skip); intro u; have hu : Evolves z u; (on_goal 1 => (dsimp only [u]; try clear u)); (on_goal 2 => clear_value u))
    | ((first | lift_lets -underBinder | skip); intro u; clear_value u)
    | split
    | (intro u; try intros)

theorem resume_evolves (d : MirrorDesc) (hs : Evolves z s) : Evolves z (State.resume s d) := by
  unfold State.resume
  repeat' first
    | with_reducible assumption
    | with_reducible apply onFab_evolves
    | with_reducible apply onSch_evolves
    | with_reducible apply onQp_evolves
    | with_reducible apply publishEntry_evolves
    | with_reducible apply mirrorOpen_evolves
    | with_reducible apply issueText_evolves
    | with_reducible apply writeRecord_evolves
    | with_reducible apply complete_evolves
    | ((first | lift_lets -underBinder | skip); intro u; have hu : Evolves z u; (on_goal 1 => (dsimp only [u]; try clear u)); (on_goal 2 => clear_value u))
    | ((first | lift_lets -underBinder | skip); intro u; clear_value u)
    | split
    | exact fun _ h => h
    | (intro u; try intros)

theorem resumeWaiting_evolves  (hs : Evolves z s) : Evolves z (State.resumeWaiting s) := by
  unfold State.resumeWaiting
  repeat' first
    | with_reducible assumption
    | with_reducible apply each_evolves
    | with_reducible apply onFab_evolves
    | with_reducible apply resume_evolves
    | ((first | lift_lets -underBinder | skip); intro u; have hu : Evolves z u; (on_goal 1 => (dsimp only [u]; try clear u)); (on_goal 2 => clear_value u))
    | ((first | lift_lets -underBinder | skip); intro u; clear_value u)
    | (intro u; try intros)

theorem declareLost_evolves (src : W16) (hs : Evolves z s) : Evolves z (State.declareLost s src) := by
  unfold State.declareLost
  repeat' first
    | with_reducible assumption
    | with_reducible apply fabricEvent_evolves
    | with_reducible apply onRet_evolves
    | with_reducible apply each_evolves
    | with_reducible apply reclaimLent_evolves
    | with_reducible apply onFab_evolves
    | with_reducible apply settle_evolves
    | with_reducible apply resume_evolves
    | ((first | lift_lets -underBinder | skip); intro u; have hu : Evolves z u; (on_goal 1 => (dsimp only [u]; try clear u)); (on_goal 2 => clear_value u))
    | ((first | lift_lets -underBinder | skip); intro u; clear_value u)
    | split
    | (intro u; try intros)

theorem buddyLost_evolves  (hs : Evolves z s) : Evolves z (State.buddyLost s) := by
  unfold State.buddyLost
  repeat' first
    | with_reducible assumption
    | with_reducible apply onSch_evolves
    | with_reducible apply onFab_evolves

theorem closeMirrors_evolves  (hs : Evolves z s) : Evolves z (State.closeMirrors s) := by
  unfold State.closeMirrors
  repeat' first
    | with_reducible assumption
    | with_reducible apply each_evolves
    | with_reducible apply mirrorClose_evolves
    | (intro u; try intros)

theorem stopAll_evolves (hs : Evolves z s) : Evolves z (State.stopAll s) := by
  unfold State.stopAll
  exact onRet_evolves _ (onFab_evolves _ (onPorch_evolves' _ (onSch_evolves _ hs) (mapAll_fits (fun _ q => { q with held := [], overflow := [] }) fun _ q g => ⟨g.1, Nat.zero_le _⟩)))

/-! ## Machine/FabricLinks.lean -/
theorem linkUp_evolves (p : Nat) (peer : W16) (serial : W64) (hs : Evolves z s) : Evolves z (State.linkUp s p peer serial) := by
  unfold State.linkUp
  repeat' first
    | with_reducible assumption
    | with_reducible apply fabricEvent_evolves
    | with_reducible apply fresh_evolves
    | with_reducible apply sendPort_evolves
    | with_reducible apply onPort_evolves
    | with_reducible apply pair2_evolves
    | with_reducible refine of_snd (by assumption) ?_
    | with_reducible refine snd_evolves (p := State.fresh _) ?_
    | split

theorem authDone_evolves (p : Nat) (ok : Bool) (digest : BitVec 128) (hs : Evolves z s) : Evolves z (State.authDone s p ok digest) := by
  unfold State.authDone
  repeat' first
    | with_reducible assumption
    | with_reducible apply iff_evolves
    | with_reducible apply advertise_evolves
    | with_reducible apply onFab_evolves
    | with_reducible apply onPort_evolves
    | with_reducible apply sendPort_evolves
    | with_reducible apply fabricEvent_evolves
    | ((first | lift_lets -underBinder | skip); intro u; have hu : Evolves z u; (on_goal 1 => (dsimp only [u]; try clear u)); (on_goal 2 => clear_value u))
    | ((first | lift_lets -underBinder | skip); intro u; clear_value u)
    | split
    | (intro u; try intros)

theorem retrain_evolves (p : Nat) (hs : Evolves z s) : Evolves z (State.retrain s p) := by
  unfold State.retrain
  repeat' first
    | with_reducible assumption
    | with_reducible apply onPort_evolves
    | split

theorem freeFlits_evolves (p : Nat) (vc : Nat) (n : Nat) (hs : Evolves z s) : Evolves z (State.freeFlits s p vc n) := by
  unfold State.freeFlits
  repeat' first
    | with_reducible assumption
    | with_reducible apply sendPort_evolves
    | with_reducible apply onPort_evolves
    | split

theorem sendFlit_evolves (q : Nat) (vc : Nat) (f : Bool × Bool × Bytes) (hs : Evolves z s) : Evolves z (State.sendFlit s q vc f) := by
  unfold State.sendFlit
  repeat' first
    | with_reducible assumption
    | with_reducible apply sendPort_evolves
    | with_reducible apply onPort_evolves
    | ((first | lift_lets -underBinder | skip); intro u; have hu : Evolves z u; (on_goal 1 => (dsimp only [u]; try clear u)); (on_goal 2 => clear_value u))
    | ((first | lift_lets -underBinder | skip); intro u; clear_value u)

theorem setTransit_evolves (i : Nat) (tq : Transit) (hs : Evolves z s) : Evolves z (State.setTransit s i tq) := by
  unfold State.setTransit
  repeat' first
    | with_reducible assumption
    | with_reducible apply onFab_evolves

theorem drainTransit_evolves (i : Nat) (tq : Transit) (hs : Evolves z s) : Evolves z (State.drainTransit s i tq) := by
  unfold State.drainTransit
  repeat' first
    | with_reducible assumption
    | with_reducible apply setTransit_evolves
    | with_reducible apply each_evolves
    | with_reducible apply sendFlit_evolves
    | with_reducible apply freeFlits_evolves
    | ((first | lift_lets -underBinder | skip); intro u; have hu : Evolves z u; (on_goal 1 => (dsimp only [u]; try clear u)); (on_goal 2 => clear_value u))
    | ((first | lift_lets -underBinder | skip); intro u; clear_value u)
    | split
    | (intro u; try intros)

theorem forwardOne_evolves (i : Nat) (hs : Evolves z s) : Evolves z (State.forwardOne s i) := by
  unfold State.forwardOne
  repeat' first
    | with_reducible assumption
    | with_reducible apply drainTransit_evolves
    | ((first | lift_lets -underBinder | skip); intro u; have hu : Evolves z u; (on_goal 1 => (dsimp only [u]; try clear u)); (on_goal 2 => clear_value u))
    | ((first | lift_lets -underBinder | skip); intro u; clear_value u)
    | split

theorem forward_evolves  (hs : Evolves z s) : Evolves z (State.forward s) := by
  unfold State.forward
  repeat' first
    | with_reducible assumption
    | with_reducible apply onFab_evolves
    | with_reducible apply each_evolves
    | with_reducible apply forwardOne_evolves
    | (intro u; try intros)

theorem takeFlit_evolves (p : Nat) (hq : FlitHead) (d : Bytes) (hs : Evolves z s) : Evolves z (State.takeFlit s p hq d) := by
  unfold State.takeFlit
  repeat' first
    | with_reducible assumption
    | with_reducible apply onPort_evolves
    | with_reducible apply onFab_evolves
    | with_reducible apply freeFlits_evolves
    | ((first | lift_lets -underBinder | skip); intro u; have hu : Evolves z u; (on_goal 1 => (dsimp only [u]; try clear u)); (on_goal 2 => clear_value u))
    | ((first | lift_lets -underBinder | skip); intro u; clear_value u)
    | split

theorem flitIn_evolves (p : Nat) (b : Bytes) (hs : Evolves z s) : Evolves z (State.flitIn s p b) := by
  unfold State.flitIn
  repeat' first
    | with_reducible assumption
    | with_reducible apply sendPort_evolves
    | with_reducible apply onPort_evolves
    | with_reducible apply forward_evolves
    | with_reducible apply takeFlit_evolves
    | ((first | lift_lets -underBinder | skip); intro u; have hu : Evolves z u; (on_goal 1 => (dsimp only [u]; try clear u)); (on_goal 2 => clear_value u))
    | ((first | lift_lets -underBinder | skip); intro u; clear_value u)
    | split

theorem resend_evolves (p : Nat) (hs : Evolves z s) : Evolves z (State.resend s p) := by
  unfold State.resend
  repeat' first
    | with_reducible assumption
    | with_reducible apply onPort_evolves
    | with_reducible apply each_evolves
    | with_reducible apply sendPort_evolves
    | ((first | lift_lets -underBinder | skip); intro u; have hu : Evolves z u; (on_goal 1 => (dsimp only [u]; try clear u)); (on_goal 2 => clear_value u))
    | ((first | lift_lets -underBinder | skip); intro u; clear_value u)
    | (intro u; try intros)

theorem nakIn_evolves (p : Nat) (ack : BitVec 12) (hs : Evolves z s) : Evolves z (State.nakIn s p ack) := by
  unfold State.nakIn
  repeat' first
    | with_reducible assumption
    | with_reducible apply onPort_evolves
    | with_reducible apply forward_evolves
    | with_reducible apply resend_evolves
    | with_reducible apply retrain_evolves
    | with_reducible apply failLane_evolves
    | with_reducible apply pair1_evolves
    | with_reducible refine of_fst (by assumption) ?_
    | with_reducible refine fst_evolves (p := State.failLane _ _) ?_
    | ((first | lift_lets -underBinder | skip); intro u; have hu : Evolves z u; (on_goal 1 => (dsimp only [u]; try clear u)); (on_goal 2 => clear_value u))
    | ((first | lift_lets -underBinder | skip); intro u; clear_value u)
    | split

theorem probeIn_evolves (p : Nat) (cand : W16) (serial : W64) (hs : Evolves z s) : Evolves z (State.probeIn s p cand serial) := by
  unfold State.probeIn
  repeat' first
    | with_reducible assumption
    | with_reducible apply floodExcept_evolves
    | with_reducible apply sendPort_evolves
    | with_reducible apply probe_evolves
    | ((first | lift_lets -underBinder | skip); intro u; have hu : Evolves z u; (on_goal 1 => (dsimp only [u]; try clear u)); (on_goal 2 => clear_value u))
    | ((first | lift_lets -underBinder | skip); intro u; clear_value u)
    | split

theorem routesIn_evolves (p : Nat) (routes : List RouteAdv) (groups : List GroupAdv) (hs : Evolves z s) : Evolves z (State.routesIn s p routes groups) := by
  unfold State.routesIn
  repeat' first
    | with_reducible assumption
    | with_reducible apply onFab_evolves
    | with_reducible apply forward_evolves
    | with_reducible apply advertise_evolves
    | ((first | lift_lets -underBinder | skip); intro u; have hu : Evolves z u; (on_goal 1 => (dsimp only [u]; try clear u)); (on_goal 2 => clear_value u))
    | ((first | lift_lets -underBinder | skip); intro u; clear_value u)
    | split

theorem peerDown_evolves (reporter : W16) (lost : W16) (idle : Bool) (hs : Evolves z s) : Evolves z (State.peerDown s reporter lost idle) := by
  unfold State.peerDown
  repeat' first
    | with_reducible assumption
    | with_reducible apply flood_evolves
    | with_reducible apply onFab_evolves
    | with_reducible apply declareLost_evolves
    | ((first | lift_lets -underBinder | skip); intro u; have hu : Evolves z u; (on_goal 1 => (dsimp only [u]; try clear u)); (on_goal 2 => clear_value u))
    | ((first | lift_lets -underBinder | skip); intro u; clear_value u)
    | split

/-! ## Machine/Messages.lean -/
theorem memRead_evolves (m : MsgHdr) (off : Nat) (units : Nat) (hs : Evolves z s) : Evolves z (State.memRead s m off units) := by
  unfold State.memRead
  repeat' first
    | with_reducible assumption
    | with_reducible apply reply_evolves
    | split

theorem memWrite_evolves (m : MsgHdr) (off : Nat) (d : Bytes) (hs : Evolves z s) : Evolves z (State.memWrite s m off d) := by
  unfold State.memWrite
  repeat' first
    | with_reducible assumption
    | with_reducible apply reply_evolves
    | with_reducible apply onMem_evolves
    | exact fun h => writeRuns_wf _ h
    | exact fun h => Mem.wf_writeN _ _ h
    | split
    | exact fun h => h
    | (intro u; try intros)

theorem offerIn_evolves (m : MsgHdr) (gib : Nat) (hs : Evolves z s) : Evolves z (State.offerIn s m gib) := by
  unfold State.offerIn
  repeat' first
    | with_reducible assumption
    | with_reducible apply onFab_evolves
    | split

theorem askIn_evolves (m : MsgHdr) (gib : Nat) (hs : Evolves z s) : Evolves z (State.askIn s m gib) := by
  unfold State.askIn
  repeat' first
    | with_reducible assumption
    | with_reducible apply reply_evolves
    | with_reducible apply onFab_evolves
    | with_reducible apply attSize_evolves
    | with_reducible apply zeroRegion_evolves
    | ((first | lift_lets -underBinder | skip); intro u; have hu : Evolves z u; (on_goal 1 => (dsimp only [u]; try clear u)); (on_goal 2 => clear_value u))
    | ((first | lift_lets -underBinder | skip); intro u; clear_value u)
    | split

theorem grantIn_evolves (m : MsgHdr) (gib : Nat) (hs : Evolves z s) : Evolves z (State.grantIn s m gib) := by
  unfold State.grantIn
  repeat' first
    | with_reducible assumption
    | with_reducible apply onFab_evolves
    | with_reducible apply err_evolves
    | with_reducible apply ok_evolves
    | ((first | lift_lets -underBinder | skip); intro u; have hu : Evolves z u; (on_goal 1 => (dsimp only [u]; try clear u)); (on_goal 2 => clear_value u))
    | ((first | lift_lets -underBinder | skip); intro u; clear_value u)
    | split

theorem withdrawIn_evolves (m : MsgHdr) (hs : Evolves z s) : Evolves z (State.withdrawIn s m) := by
  unfold State.withdrawIn
  repeat' first
    | with_reducible assumption
    | with_reducible apply drainWindows_evolves
    | with_reducible apply dropLeaseCopies_evolves
    | with_reducible apply onFab_evolves
    | split

theorem releaseIn_evolves (m : MsgHdr) (hs : Evolves z s) : Evolves z (State.releaseIn s m) := by
  unfold State.releaseIn
  repeat' first
    | with_reducible assumption
    | with_reducible apply reclaimLent_evolves
    | split

theorem gatherIn_evolves (m : MsgHdr) (pools : Bool) (pool : Nat) (rows : List W64) (bags : List (List Occ)) (hs : Evolves z s) : Evolves z (State.gatherIn s m pools pool rows bags) := by
  unfold State.gatherIn
  repeat' first
    | with_reducible assumption
    | with_reducible apply reply_evolves
    | with_reducible apply each_evolves
    | with_reducible apply countRows_evolves
    | with_reducible apply onTable_evolves
    | with_reducible apply makeHot_evolves
    | ((first | lift_lets -underBinder | skip); intro u; have hu : Evolves z u; (on_goal 1 => (dsimp only [u]; try clear u)); (on_goal 2 => clear_value u))
    | ((first | lift_lets -underBinder | skip); intro u; clear_value u)
    | split
    | (intro u; try intros)

theorem rowsIn_evolves (m : MsgHdr) (rows : List (W64 × List W32)) (sums : List (List W32 × W32)) (shard : Nat) (hs : Evolves z s) : Evolves z (State.rowsIn s m rows sums shard) := by
  unfold State.rowsIn
  repeat' first
    | with_reducible assumption
    | with_reducible apply onTbl_evolves
    | with_reducible apply dropOut_evolves
    | ((first | lift_lets -underBinder | skip); intro u; have hu : Evolves z u; (on_goal 1 => (dsimp only [u]; try clear u)); (on_goal 2 => clear_value u))
    | ((first | lift_lets -underBinder | skip); intro u; clear_value u)
    | split

theorem updateIn_evolves (m : MsgHdr) (es : List WriteEntry) (hs : Evolves z s) : Evolves z (State.updateIn s m es) := by
  unfold State.updateIn
  repeat' first
    | with_reducible assumption
    | with_reducible apply reply_evolves
    | with_reducible apply openWrite_evolves
    | split

theorem updateAckIn_evolves (m : MsgHdr) (hs : Evolves z s) : Evolves z (State.updateAckIn s m) := by
  unfold State.updateAckIn
  repeat' first
    | with_reducible assumption
    | with_reducible apply dropOut_evolves
    | with_reducible apply endWrites_evolves
    | with_reducible apply onTbl_evolves
    | ((first | lift_lets -underBinder | skip); intro u; have hu : Evolves z u; (on_goal 1 => (dsimp only [u]; try clear u)); (on_goal 2 => clear_value u))
    | ((first | lift_lets -underBinder | skip); intro u; clear_value u)
    | split

theorem sendRow_evolves (i : Nat) (tid : Nat) (row : Nat) (hq : W16) (vals : List W32) (hs : Evolves z s) : Evolves z (State.sendRow s i tid row hq vals) := by
  unfold State.sendRow
  repeat' first
    | with_reducible assumption
    | with_reducible apply onTbl_evolves
    | with_reducible apply send_evolves
    | ((first | lift_lets -underBinder | skip); intro u; have hu : Evolves z u; (on_goal 1 => (dsimp only [u]; try clear u)); (on_goal 2 => clear_value u))
    | ((first | lift_lets -underBinder | skip); intro u; clear_value u)

theorem replicaAskIn_evolves (m : MsgHdr) (row : Nat) (hs : Evolves z s) : Evolves z (State.replicaAskIn s m row) := by
  unfold State.replicaAskIn
  repeat' first
    | with_reducible assumption
    | with_reducible apply reply_evolves
    | with_reducible apply onTable_evolves
    | with_reducible apply sendRow_evolves
    | with_reducible apply send_evolves
    | ((first | lift_lets -underBinder | skip); intro u; have hu : Evolves z u; (on_goal 1 => (dsimp only [u]; try clear u)); (on_goal 2 => clear_value u))
    | ((first | lift_lets -underBinder | skip); intro u; clear_value u)
    | split

theorem installIn_evolves (m : MsgHdr) (row : Nat) (vals : List W32) (hs : Evolves z s) : Evolves z (State.installIn s m row vals) := by
  unfold State.installIn
  repeat' first
    | with_reducible assumption
    | with_reducible apply reply_evolves
    | with_reducible apply reclaimTable_evolves
    | with_reducible apply evictRow_evolves
    | with_reducible apply onTable_evolves
    | ((first | lift_lets -underBinder | skip); intro u; have hu : Evolves z u; (on_goal 1 => (dsimp only [u]; try clear u)); (on_goal 2 => clear_value u))
    | ((first | lift_lets -underBinder | skip); intro u; clear_value u)
    | split

theorem discardIn_evolves (m : MsgHdr) (row : Nat) (hs : Evolves z s) : Evolves z (State.discardIn s m row) := by
  unfold State.discardIn
  repeat' first
    | with_reducible assumption
    | with_reducible apply reclaimTable_evolves
    | with_reducible apply onTable_evolves
    | ((first | lift_lets -underBinder | skip); intro u; have hu : Evolves z u; (on_goal 1 => (dsimp only [u]; try clear u)); (on_goal 2 => clear_value u))
    | ((first | lift_lets -underBinder | skip); intro u; clear_value u)
    | split

theorem swapReady_evolves  (hs : Evolves z s) : Evolves z (State.swapReady s) := by
  unfold State.swapReady
  repeat' first
    | with_reducible assumption
    | with_reducible apply each_evolves
    | with_reducible apply swapRow_evolves
    | with_reducible apply endWrites_evolves
    | with_reducible apply onTbl_evolves
    | ((first | lift_lets -underBinder | skip); intro u; have hu : Evolves z u; (on_goal 1 => (dsimp only [u]; try clear u)); (on_goal 2 => clear_value u))
    | ((first | lift_lets -underBinder | skip); intro u; clear_value u)
    | split
    | (intro u; try intros)

theorem holderDone_evolves (src : W16) (tid : Nat) (row : Nat) (dropped : Bool) (hs : Evolves z s) : Evolves z (State.holderDone s src tid row dropped) := by
  unfold State.holderDone
  repeat' first
    | with_reducible assumption
    | with_reducible apply onTbl_evolves
    | with_reducible apply each_evolves
    | with_reducible apply onTable_evolves
    | with_reducible apply send_evolves
    | with_reducible apply swapReady_evolves
    | ((first | lift_lets -underBinder | skip); intro u; have hu : Evolves z u; (on_goal 1 => (dsimp only [u]; try clear u)); (on_goal 2 => clear_value u))
    | ((first | lift_lets -underBinder | skip); intro u; clear_value u)
    | split
    | (intro u; try intros)

theorem installAckIn_evolves (m : MsgHdr) (row : Nat) (hs : Evolves z s) : Evolves z (State.installAckIn s m row) := by
  unfold State.installAckIn
  repeat' first
    | with_reducible assumption
    | with_reducible apply dropOut_evolves
    | with_reducible apply holderDone_evolves
    | ((first | lift_lets -underBinder | skip); intro u; have hu : Evolves z u; (on_goal 1 => (dsimp only [u]; try clear u)); (on_goal 2 => clear_value u))
    | ((first | lift_lets -underBinder | skip); intro u; clear_value u)
    | split

theorem searchIn_evolves (m : MsgHdr) (q : List W32) (k : Nat) (p : Nat) (w : Nat) (f : List FilterTerm) (hs : Evolves z s) : Evolves z (State.searchIn s m q k p w f) := by
  unfold State.searchIn
  repeat' first
    | with_reducible assumption
    | with_reducible apply reply_evolves
    | with_reducible apply nextAdm_evolves
    | with_reducible apply onRet_evolves
    | with_reducible apply jobResult_evolves
    | with_reducible apply settleJob_evolves
    | with_reducible apply planRound_evolves
    | with_reducible apply pair2_evolves
    | with_reducible refine of_snd (by assumption) ?_
    | with_reducible refine snd_evolves (p := State.nextAdm _ _) ?_
    | ((first | lift_lets -underBinder | skip); intro u; have hu : Evolves z u; (on_goal 1 => (dsimp only [u]; try clear u)); (on_goal 2 => clear_value u))
    | ((first | lift_lets -underBinder | skip); intro u; clear_value u)
    | split

theorem memberDone_evolves (adm : W64) (src : W16) (cands : List Cand) (rounds : Nat) (snap : W64) (lost : Bool) (hs : Evolves z s) : Evolves z (State.memberDone s adm src cands rounds snap lost) := by
  unfold State.memberDone
  repeat' first
    | with_reducible assumption
    | with_reducible apply onJob_evolves
    | with_reducible apply onReq_evolves
    | with_reducible apply settle_evolves
    | with_reducible apply jobResult_evolves
    | ((first | lift_lets -underBinder | skip); intro u; have hu : Evolves z u; (on_goal 1 => (dsimp only [u]; try clear u)); (on_goal 2 => clear_value u))
    | ((first | lift_lets -underBinder | skip); intro u; clear_value u)
    | split

theorem searchReplyIn_evolves (m : MsgHdr) (cands : List Cand) (rounds : Nat) (snap : W64) (hs : Evolves z s) : Evolves z (State.searchReplyIn s m cands rounds snap) := by
  unfold State.searchReplyIn
  repeat' first
    | with_reducible assumption
    | with_reducible apply memberDone_evolves
    | with_reducible apply dropOut_evolves
    | split

theorem textIn_evolves (m : MsgHdr) (id : W64) (version : W64) (text : Bytes) (hs : Evolves z s) : Evolves z (State.textIn s m id version text) := by
  unfold State.textIn
  repeat' first
    | with_reducible assumption
    | with_reducible apply dropOut_evolves
    | with_reducible apply settle_evolves
    | with_reducible apply stage6Done_evolves
    | with_reducible apply passageDrop_evolves
    | with_reducible apply passageText_evolves
    | with_reducible apply reply_evolves
    | with_reducible apply noPage_evolves
    | ((first | lift_lets -underBinder | skip); intro u; have hu : Evolves z u; (on_goal 1 => (dsimp only [u]; try clear u)); (on_goal 2 => clear_value u))
    | ((first | lift_lets -underBinder | skip); intro u; clear_value u)
    | split

theorem holdIn_evolves (m : MsgHdr) (hs : Evolves z s) : Evolves z (State.holdIn s m) := by
  unfold State.holdIn
  repeat' first
    | with_reducible assumption
    | with_reducible apply onRet_evolves

theorem mirrorOpenIn_evolves (m : MsgHdr) (d : MirrorDesc) (hs : Evolves z s) : Evolves z (State.mirrorOpenIn s m d) := by
  unfold State.mirrorOpenIn
  repeat' first
    | with_reducible assumption
    | with_reducible apply reply_evolves
    | with_reducible apply onFab_evolves
    | with_reducible apply onBbx_evolves
    | ((first | lift_lets -underBinder | skip); intro u; have hu : Evolves z u; (on_goal 1 => (dsimp only [u]; try clear u)); (on_goal 2 => clear_value u))
    | ((first | lift_lets -underBinder | skip); intro u; clear_value u)
    | split
    | exact fun h => h
    | (intro u; try intros)

theorem mirrorUpdateIn_evolves (m : MsgHdr) (toks : List W32) (bytes : W32) (hs : Evolves z s) : Evolves z (State.mirrorUpdateIn s m toks bytes) := by
  unfold State.mirrorUpdateIn
  repeat' first
    | with_reducible assumption
    | with_reducible apply onFab_evolves
    | ((first | lift_lets -underBinder | skip); intro u; have hu : Evolves z u; (on_goal 1 => (dsimp only [u]; try clear u)); (on_goal 2 => clear_value u))
    | ((first | lift_lets -underBinder | skip); intro u; clear_value u)
    | split

theorem mirrorCloseIn_evolves (m : MsgHdr) (hs : Evolves z s) : Evolves z (State.mirrorCloseIn s m) := by
  unfold State.mirrorCloseIn
  repeat' first
    | with_reducible assumption
    | with_reducible apply onFab_evolves

theorem migrateIn_evolves (m : MsgHdr) (d : MirrorDesc) (hs : Evolves z s) : Evolves z (State.migrateIn s m d) := by
  unfold State.migrateIn
  repeat' first
    | with_reducible assumption
    | with_reducible apply settle_evolves
    | with_reducible apply resume_evolves
    | with_reducible apply mirrorCloseIn_evolves

theorem applyMsg_evolves (aq1 : Instr) (hs : Evolves z s) : Evolves z (applyMsg aq1 s) := by
  unfold applyMsg
  repeat' first
    | with_reducible assumption
    | with_reducible apply offerIn_evolves
    | with_reducible apply grantIn_evolves
    | with_reducible apply askIn_evolves
    | with_reducible apply withdrawIn_evolves
    | with_reducible apply releaseIn_evolves
    | with_reducible apply memRead_evolves
    | with_reducible apply memWrite_evolves
    | with_reducible apply gatherIn_evolves
    | with_reducible apply updateIn_evolves
    | with_reducible apply replicaAskIn_evolves
    | with_reducible apply installIn_evolves
    | with_reducible apply discardIn_evolves
    | with_reducible apply searchIn_evolves
    | with_reducible apply holdIn_evolves
    | with_reducible apply mirrorOpenIn_evolves
    | with_reducible apply mirrorUpdateIn_evolves
    | with_reducible apply mirrorCloseIn_evolves
    | with_reducible apply migrateIn_evolves
    | split

theorem caughtUp_evolves (m : MsgHdr) (cls : Nat) (hs : Evolves z s) : Evolves z (State.caughtUp s m cls) := by
  unfold State.caughtUp
  repeat' first
    | with_reducible assumption
    | with_reducible apply catchUp_evolves
    | with_reducible apply applyMsg_evolves
    | (intro u; try intros)

theorem receive_evolves (m : MsgHdr) (cls : Nat) (ordered : Bool) (i : Instr) (hs : Evolves z s) : Evolves z (State.receive s m cls ordered i) := by
  unfold State.receive
  repeat' first
    | with_reducible assumption
    | with_reducible apply applyMsg_evolves
    | with_reducible apply arrive_evolves
    | split
    | (intro u; try intros)

theorem answered_evolves (f : State → State) (hf : ∀ u, Evolves z u → Evolves z (f u)) (hs : Evolves z s) : Evolves z (State.answered s f) := by
  unfold State.answered
  repeat' first
    | with_reducible assumption
    | apply hf
    | split
    | (intro u; try intros)

theorem unreached_evolves (o : OutMsg) (hs : Evolves z s) : Evolves z (State.unreached s o) := by
  unfold State.unreached
  repeat' first
    | with_reducible assumption
    | with_reducible apply onTbl_evolves
    | with_reducible apply endWrites_evolves
    | with_reducible apply holderDone_evolves
    | with_reducible apply memberDone_evolves
    | with_reducible apply settle_evolves
    | with_reducible apply stage6Done_evolves
    | with_reducible apply passageDrop_evolves
    | with_reducible apply buddyLost_evolves
    | with_reducible apply err_evolves
    | with_reducible apply onFab_evolves
    | with_reducible apply reclaimLent_evolves
    | with_reducible apply windowLost_evolves
    | ((first | lift_lets -underBinder | skip); intro u; have hu : Evolves z u; (on_goal 1 => (dsimp only [u]; try clear u)); (on_goal 2 => clear_value u))
    | ((first | lift_lets -underBinder | skip); intro u; clear_value u)
    | split

theorem retry_evolves (dest : W16) (cls : Nat) (id : W32) (hs : Evolves z s) : Evolves z (State.retry s dest cls id) := by
  unfold State.retry
  repeat' first
    | with_reducible assumption
    | with_reducible apply onFab_evolves
    | with_reducible apply unreached_evolves
    | with_reducible apply dropOut_evolves
    | ((first | lift_lets -underBinder | skip); intro u; have hu : Evolves z u; (on_goal 1 => (dsimp only [u]; try clear u)); (on_goal 2 => clear_value u))
    | ((first | lift_lets -underBinder | skip); intro u; clear_value u)
    | split

/-! ## Machine/Spares.lean -/
theorem faultRec_evolves (unit : Nat) (mech : Nat) (instq4 : Nat) (addr : Nat) (cls : Nat) (p : Option Nat) (slots : List Nat) (mark : Nat) (hs : Evolves z s) : Evolves z (State.faultRec s unit mech instq4 addr cls p slots mark) := by
  unfold State.faultRec
  repeat' first
    | with_reducible assumption
    | with_reducible apply record_evolves
    | ((first | lift_lets -underBinder | skip); intro u; have hu : Evolves z u; (on_goal 1 => (dsimp only [u]; try clear u)); (on_goal 2 => clear_value u))
    | ((first | lift_lets -underBinder | skip); intro u; clear_value u)
    | split

theorem losePages_evolves (p : Nat) (hit : Nat → KvPage → Bool) (hs : Evolves z s) : Evolves z (State.losePages s p hit) := by
  unfold State.losePages
  repeat' first
    | with_reducible assumption
    | with_reducible apply each_evolves
    | with_reducible apply markShared_evolves
    | with_reducible apply onReq_evolves
    | with_reducible apply onPart_evolves
    | ((first | lift_lets -underBinder | skip); intro u; have hu : Evolves z u; (on_goal 1 => (dsimp only [u]; try clear u)); (on_goal 2 => clear_value u))
    | ((first | lift_lets -underBinder | skip); intro u; clear_value u)
    | split
    | (intro u; try intros)

theorem redo_evolves (p : Nat) (it : Item) (hs : Evolves z s) : Evolves z (State.redo s p it) := by
  unfold State.redo
  repeat' first
    | with_reducible assumption
    | with_reducible apply onReq_evolves
    | with_reducible apply repeatFront_evolves
    | with_reducible apply losePages_evolves
    | with_reducible apply rebuildReq_evolves
    | ((first | lift_lets -underBinder | skip); intro u; have hu : Evolves z u; (on_goal 1 => (dsimp only [u]; try clear u)); (on_goal 2 => clear_value u))
    | ((first | lift_lets -underBinder | skip); intro u; clear_value u)
    | split

theorem abandonStep_evolves (p : Nat) (hs : Evolves z s) : Evolves z (State.abandonStep s p) := by
  unfold State.abandonStep
  repeat' first
    | with_reducible assumption
    | with_reducible apply onPart_evolves
    | with_reducible apply each_evolves
    | with_reducible apply onCore_evolves
    | with_reducible apply redo_evolves
    | ((first | lift_lets -underBinder | skip); intro u; have hu : Evolves z u; (on_goal 1 => (dsimp only [u]; try clear u)); (on_goal 2 => clear_value u))
    | ((first | lift_lets -underBinder | skip); intro u; clear_value u)
    | split
    | (intro u; try intros)

theorem replaceCore_evolves (aq2 : Nat) (b : Nat) (hs : Evolves z s) : Evolves z (State.replaceCore s aq2 b) := by
  unfold State.replaceCore
  repeat' first
    | with_reducible assumption
    | with_reducible apply onSch_evolves
    | split

theorem moveCore_evolves (a b : Nat) (st : BitVec 3) (carry : Bool) (hs : Evolves z s) : Evolves z (State.moveCore s a b st carry) := by
  unfold State.moveCore
  extract_lets s1 ka kb s2 s3 s4 s5
  have h2 : Evolves z s2 := replaceCore_evolves _ _ (spareIn_evolves _ _ _ _ hs)
  have h3 : Evolves z s3 := by
    dsimp only [s3]
    split
    · refine onMem_evolves _ (mk_evolves h2) fun h => ?_
      exact Mem.wf_zero _ _ (Mem.wf_copy _ _ _ h)
    · exact h2
  have h5 : Evolves z s5 := offCore_evolves _ (onCore_evolves _ _ (onCore_evolves _ _ h3))
  split
  · exact wakeDom_evolves _ h5
  · exact h5

theorem retireCore_evolves (c : Nat) (hs : Evolves z s) : Evolves z (State.retireCore s c) := by
  unfold State.retireCore
  repeat' first
    | with_reducible assumption
    | with_reducible apply moveCore_evolves
    | with_reducible apply onPart_evolves
    | with_reducible apply hbmSize_evolves
    | with_reducible apply offCore_evolves
    | with_reducible apply onCore_evolves
    | ((first | lift_lets -underBinder | skip); intro u; have hu : Evolves z u; (on_goal 1 => (dsimp only [u]; try clear u)); (on_goal 2 => clear_value u))
    | ((first | lift_lets -underBinder | skip); intro u; clear_value u)
    | split

theorem retireNow_evolves (c : Nat) (hs : Evolves z s) : Evolves z (State.retireNow s c) := by
  unfold State.retireNow
  repeat' first
    | with_reducible assumption
    | with_reducible apply retireCore_evolves
    | with_reducible apply abandonStep_evolves
    | split

theorem fence_evolves (c : Nat) (e : Nat) (hs : Evolves z s) : Evolves z (State.fence s c e) := by
  unfold State.fence
  repeat' first
    | with_reducible assumption
    | with_reducible apply retireNow_evolves
    | with_reducible apply onCore_evolves
    | split

theorem dueMove_evolves (c : Nat) (carry : Bool) (hs : Evolves z s) : Evolves z (State.dueMove s c carry) := by
  unfold State.dueMove
  repeat' first
    | with_reducible assumption
    | with_reducible apply onCore_evolves
    | with_reducible apply moveCore_evolves
    | with_reducible apply each_evolves
    | with_reducible apply fence_evolves
    | ((first | lift_lets -underBinder | skip); intro u; have hu : Evolves z u; (on_goal 1 => (dsimp only [u]; try clear u)); (on_goal 2 => clear_value u))
    | ((first | lift_lets -underBinder | skip); intro u; clear_value u)
    | split
    | (intro u; try intros)

theorem dueMoves_evolves (cs : List Nat) (hs : Evolves z s) : Evolves z (State.dueMoves s cs) := by
  unfold State.dueMoves
  repeat' first
    | with_reducible assumption
    | with_reducible apply each_evolves
    | with_reducible apply dueMove_evolves
    | (intro u; try intros)

theorem awaitRepair_evolves (eng : Nat) (isCol : Bool) (line : Nat) (cause : Nat) (hs : Evolves z s) : Evolves z (State.awaitRepair s eng isCol line cause) := by
  unfold State.awaitRepair
  repeat' first
    | with_reducible assumption
    | with_reducible apply onRas_evolves
    | with_reducible apply record_evolves
    | ((first | lift_lets -underBinder | skip); intro u; have hu : Evolves z u; (on_goal 1 => (dsimp only [u]; try clear u)); (on_goal 2 => clear_value u))
    | ((first | lift_lets -underBinder | skip); intro u; clear_value u)
    | split
    | exact fun _ h => h
    | (intro u; try intros)

theorem engineLineFails_evolves (eng : Nat) (isCol : Bool) (line : Nat) (cause : Nat) (hs : Evolves z s) : Evolves z (State.engineLineFails s eng isCol line cause) := by
  unfold State.engineLineFails
  repeat' first
    | with_reducible assumption
    | with_reducible apply dueMove_evolves
    | with_reducible apply awaitRepair_evolves

theorem loseGranule_evolves (r : Region) (g : Nat) (first : Nat) (hs : Evolves z s) : Evolves z (State.loseGranule s r g first) := by
  unfold State.loseGranule
  repeat' first
    | with_reducible assumption
    | with_reducible apply onPages_evolves
    | with_reducible apply onPart_evolves
    | with_reducible apply losePages_evolves
    | with_reducible apply onTable_evolves
    | with_reducible apply each_evolves
    | with_reducible apply send_evolves
    | with_reducible apply onFab_evolves
    | ((first | lift_lets -underBinder | skip); intro u; have hu : Evolves z u; (on_goal 1 => (dsimp only [u]; try clear u)); (on_goal 2 => clear_value u))
    | ((first | lift_lets -underBinder | skip); intro u; clear_value u)
    | split
    | (intro u; try intros)

theorem remapLine_evolves (pkg : Nat) (addr : Nat) (hs : Evolves z s) : Evolves z (State.remapLine s pkg addr) := by
  unfold State.remapLine
  repeat' first
    | with_reducible assumption
    | with_reducible apply onRas_evolves
    | with_reducible apply spareIn_evolves
    | with_reducible apply loseGranule_evolves
    | with_reducible apply onMem_evolves
    | ((first | lift_lets -underBinder | skip); intro u; have hu : Evolves z u; (on_goal 1 => (dsimp only [u]; try clear u)); (on_goal 2 => clear_value u))
    | ((first | lift_lets -underBinder | skip); intro u; clear_value u)
    | split
    | exact fun _ h => h
    | exact fun h => h
    | (intro u; try intros)

theorem frameError_evolves (p : Nat) (slots : List Nat) (place : Option Nat) (hs : Evolves z s) : Evolves z (State.frameError s p slots place) := by
  unfold State.frameError
  repeat' first
    | with_reducible assumption
    | with_reducible apply fresh_evolves
    | with_reducible apply faultRec_evolves
    | with_reducible apply remapLine_evolves
    | with_reducible apply pair2_evolves
    | with_reducible refine of_snd (by assumption) ?_
    | with_reducible refine snd_evolves (p := State.fresh _) ?_
    | ((first | lift_lets -underBinder | skip); intro u; have hu : Evolves z u; (on_goal 1 => (dsimp only [u]; try clear u)); (on_goal 2 => clear_value u))
    | ((first | lift_lets -underBinder | skip); intro u; clear_value u)
    | split

theorem addrFault_evolves (p : Nat) (c : Nat) (addr : Nat) (hs : Evolves z s) : Evolves z (State.addrFault s p c addr) := by
  unfold State.addrFault
  repeat' first
    | with_reducible assumption
    | with_reducible apply faultRec_evolves
    | with_reducible apply settle_evolves
    | with_reducible apply dueMoves_evolves
    | with_reducible apply abandonStep_evolves
    | ((first | lift_lets -underBinder | skip); intro u; have hu : Evolves z u; (on_goal 1 => (dsimp only [u]; try clear u)); (on_goal 2 => clear_value u))
    | ((first | lift_lets -underBinder | skip); intro u; clear_value u)

theorem loseHbmChannel_evolves (ch : Nat) (hs : Evolves z s) : EvolvesFst z (State.loseHbmChannel s ch) := by
  unfold State.loseHbmChannel
  repeat' first
    | with_reducible assumption
    | with_reducible apply spareIn_evolves
    | with_reducible apply onRas_evolves
    | with_reducible apply pair1_evolves
    | with_reducible refine of_fst (by assumption) ?_
    | ((first | lift_lets -underBinder | skip); intro u; have hu : Evolves z u; (on_goal 1 => (dsimp only [u]; try clear u)); (on_goal 2 => clear_value u))
    | ((first | lift_lets -underBinder | skip); intro u; clear_value u)
    | split
    | exact fun _ h => h
    | (intro u; try intros)

end Sys2Proof.Machine
end

