-- ==== Sys2Proof/Laws/EvolveStart.lean ====
section
/-! SUPPORT. What every operation keeps (Evolves): tests, start-up, the porch and the rows of the host commands and of the fabric. One lemma per operation, under the operation's name. -/

set_option linter.unusedTactic false
set_option linter.unreachableTactic false

namespace Sys2Proof.Machine

variable {z s : State}
/-! ## Machine/MaintCmds.lean -/
theorem drainUnit_evolves (xq2 : Piece) (hs : Evolves z s) : EvolvesFst z (State.drainUnit s xq2) := by
  unfold State.drainUnit
  repeat' first
    | with_reducible assumption
    | with_reducible apply wakeDom_evolves
    | with_reducible apply onCore_evolves
    | with_reducible apply moveCore_evolves
    | with_reducible apply flood_evolves
    | with_reducible apply closePort_evolves
    | with_reducible apply onRas_evolves
    | with_reducible apply pair1_evolves
    | with_reducible refine of_fst (by assumption) ?_
    | ((first | lift_lets -underBinder | skip); intro u; have hu : Evolves z u; (on_goal 1 => (dsimp only [u]; try clear u)); (on_goal 2 => clear_value u))
    | ((first | lift_lets -underBinder | skip); intro u; clear_value u)
    | split
    | exact fun _ h => h
    | (intro u; try intros)

theorem startPiece_evolves (aq2 : Nat) (hs : Evolves z s) : Evolves z (State.startPiece s aq2) := by
  induction aq2 generalizing s with
  | zero =>
    unfold State.startPiece
    repeat' first
      | with_reducible assumption
      | with_reducible apply err_evolves
      | with_reducible apply onRas_evolves
      | with_reducible apply drainUnit_evolves
      | with_reducible apply pair1_evolves
      | with_reducible refine of_fst (by assumption) ?_
      | with_reducible refine fst_evolves (p := State.drainUnit _ _) ?_
      | ((first | lift_lets -underBinder | skip); intro u; have hu : Evolves z u; (on_goal 1 => (dsimp only [u]; try clear u)); (on_goal 2 => clear_value u))
      | ((first | lift_lets -underBinder | skip); intro u; clear_value u)
      | split
      | exact fun _ h => h
      | (intro u; try intros)
  | succ n ih =>
    unfold State.startPiece
    repeat' first
      | with_reducible assumption
      | with_reducible apply err_evolves
      | with_reducible apply onRas_evolves
      | with_reducible apply drainUnit_evolves
      | with_reducible apply pair1_evolves
      | with_reducible refine of_fst (by assumption) ?_
      | with_reducible refine fst_evolves (p := State.drainUnit _ _) ?_
      | with_reducible apply ih
      | ((first | lift_lets -underBinder | skip); intro u; have hu : Evolves z u; (on_goal 1 => (dsimp only [u]; try clear u)); (on_goal 2 => clear_value u))
      | ((first | lift_lets -underBinder | skip); intro u; clear_value u)
      | split
      | exact fun _ h => h
      | (intro u; try intros)

theorem admitTest_evolves (calib : Bool) (hq : Hdr) (pb : Bytes) (hs : Evolves z s) : Evolves z (State.admitTest calib s hq pb) := by
  unfold State.admitTest
  repeat' first
    | with_reducible assumption
    | with_reducible apply runCmd_evolves
    | with_reducible apply startPiece_evolves
    | with_reducible apply onRas_evolves
    | ((first | lift_lets -underBinder | skip); intro u; have hu : Evolves z u; (on_goal 1 => (dsimp only [u]; try clear u)); (on_goal 2 => clear_value u))
    | ((first | lift_lets -underBinder | skip); intro u; clear_value u)
    | split
    | exact fun _ h => h
    | (intro u; try intros)

theorem unitFails_evolves (xq2 : Piece) (engine : Nat) (isCol : Bool) (line : Nat) (hs : Evolves z s) : EvolvesFst z (State.unitFails s xq2 engine isCol line) := by
  unfold State.unitFails
  repeat' first
    | with_reducible assumption
    | with_reducible apply awaitRepair_evolves
    | with_reducible apply offCore_evolves
    | with_reducible apply fence_evolves
    | with_reducible apply onCore_evolves
    | with_reducible apply loseHbmChannel_evolves
    | with_reducible apply remapLine_evolves
    | with_reducible apply loseChannel_evolves
    | with_reducible apply failLane_evolves
    | with_reducible apply pair1_evolves
    | with_reducible refine of_fst (by assumption) ?_
    | with_reducible refine fst_evolves (p := State.loseHbmChannel _ _) ?_
    | with_reducible refine fst_evolves (p := State.failLane _ _) ?_
    | ((first | lift_lets -underBinder | skip); intro u; have hu : Evolves z u; (on_goal 1 => (dsimp only [u]; try clear u)); (on_goal 2 => clear_value u))
    | ((first | lift_lets -underBinder | skip); intro u; clear_value u)
    | split

theorem unitPasses_evolves (xq2 : Piece) (hs : Evolves z s) : Evolves z (State.unitPasses s xq2) := by
  unfold State.unitPasses
  repeat' first
    | with_reducible assumption
    | with_reducible apply offCore_evolves
    | with_reducible apply onCore_evolves
    | split

theorem pieceEnd_evolves (pass : Bool) (engine : Nat) (isCol : Bool) (line : Nat) (hs : Evolves z s) : Evolves z (State.pieceEnd s pass engine isCol line) := by
  unfold State.pieceEnd
  repeat' first
    | with_reducible assumption
    | with_reducible apply onRas_evolves
    | with_reducible apply unitPasses_evolves
    | with_reducible apply unitFails_evolves
    | with_reducible apply ok_evolves
    | with_reducible apply settle_evolves
    | with_reducible apply startPiece_evolves
    | with_reducible apply pair1_evolves
    | with_reducible refine of_fst (by assumption) ?_
    | with_reducible refine fst_evolves (p := State.unitFails _ _ _ _ _) ?_
    | ((first | lift_lets -underBinder | skip); intro u; have hu : Evolves z u; (on_goal 1 => (dsimp only [u]; try clear u)); (on_goal 2 => clear_value u))
    | ((first | lift_lets -underBinder | skip); intro u; clear_value u)
    | split
    | exact fun _ h => h
    | (intro u; try intros)

theorem admitMaintPolicy_evolves (hq : Hdr) (pb : Bytes) (hs : Evolves z s) : Evolves z (State.admitMaintPolicy s hq pb) := by
  unfold State.admitMaintPolicy
  repeat' first
    | with_reducible assumption
    | with_reducible apply runCmd_evolves
    | with_reducible apply onCel_evolves
    | with_reducible apply ok_evolves
    | ((first | lift_lets -underBinder | skip); intro u; have hu : Evolves z u; (on_goal 1 => (dsimp only [u]; try clear u)); (on_goal 2 => clear_value u))
    | ((first | lift_lets -underBinder | skip); intro u; clear_value u)
    | split
    | (intro u; try intros)

theorem admitEvacuate_evolves (hq : Hdr) (pb : Bytes) (hs : Evolves z s) : Evolves z (State.admitEvacuate s hq pb) := by
  unfold State.admitEvacuate
  repeat' first
    | with_reducible assumption
    | with_reducible apply runCmd_evolves
    | with_reducible apply settle_evolves
    | with_reducible apply onSch_evolves
    | (intro u; try intros)

/-! ## Machine/Start.lean -/
theorem dropWrites_evolves  (hs : Evolves z s) : Evolves z (State.dropWrites s) := by
  unfold State.dropWrites
  repeat' first
    | with_reducible assumption
    | with_reducible apply each_evolves
    | with_reducible apply undoLoad_evolves
    | with_reducible apply onCel_evolves
    | ((first | lift_lets -underBinder | skip); intro u; have hu : Evolves z u; (on_goal 1 => (dsimp only [u]; try clear u)); (on_goal 2 => clear_value u))
    | ((first | lift_lets -underBinder | skip); intro u; clear_value u)
    | split
    | (intro u; try intros)

theorem dropReplicas_evolves  (hs : Evolves z s) : Evolves z (State.dropReplicas s) := by
  unfold State.dropReplicas
  repeat' first
    | with_reducible assumption
    | with_reducible apply each_evolves
    | with_reducible apply freeExtent_evolves
    | split
    | (intro u; try intros)

theorem moduleReset_evolves (hs : Evolves z s) : Evolves z (State.moduleReset s) :=
  (dropWrites_evolves (dropReplicas_evolves hs)).trans ⟨rfl, rfl, id, fun _ => rfl, fun _ => id, le_rfl, id, fun _ => ⟨rfl, fun _ hx => absurd hx List.not_mem_nil⟩,
    fun _ => ⟨Nat.zero_le _, Nat.zero_le _, Nat.zero_le _⟩⟩

theorem bootRec_evolves (step : Nat) (outcome : Nat) (path : Nat) (fails : Nat) (units : Nat) (aon : W32) (hs : Evolves z s) : Evolves z (State.bootRec s step outcome path fails units aon) := by
  unfold State.bootRec
  repeat' first
    | with_reducible assumption
    | with_reducible apply record_evolves
    | split

theorem burn_evolves (aq2 : Nat × Bool × Nat) (hs : Evolves z s) : Evolves z (State.burn s aq2) := by
  unfold State.burn
  repeat' first
    | with_reducible assumption
    | with_reducible apply onRas_evolves
    | with_reducible apply spareIn_evolves
    | exact fun c h => or_keeps _ _ c h
    | ((first | lift_lets -underBinder | skip); intro u; have hu : Evolves z u; (on_goal 1 => (dsimp only [u]; try clear u)); (on_goal 2 => clear_value u))
    | ((first | lift_lets -underBinder | skip); intro u; clear_value u)
    | split
    | exact fun _ h => h
    | (intro u; try intros)

theorem conflicts_evolves  (hs : Evolves z s) : Evolves z (State.conflicts s) := by
  unfold State.conflicts
  repeat' first
    | with_reducible assumption
    | with_reducible apply each_evolves
    | with_reducible apply record_evolves
    | ((first | lift_lets -underBinder | skip); intro u; have hu : Evolves z u; (on_goal 1 => (dsimp only [u]; try clear u)); (on_goal 2 => clear_value u))
    | ((first | lift_lets -underBinder | skip); intro u; clear_value u)
    | (intro u; try intros)

theorem applyFuses_evolves (field : Bool) (hs : Evolves z s) : Evolves z (State.applyFuses s field) := by
  unfold State.applyFuses
  repeat' first
    | with_reducible assumption
    | with_reducible apply onRas_evolves
    | ((first | lift_lets -underBinder | skip); intro u; have hu : Evolves z u; (on_goal 1 => (dsimp only [u]; try clear u)); (on_goal 2 => clear_value u))
    | ((first | lift_lets -underBinder | skip); intro u; clear_value u)
    | split
    | exact fun _ h => h
    | (intro u; try intros)

theorem assignCores_evolves  (hs : Evolves z s) : Evolves z (State.assignCores s) := by
  unfold State.assignCores
  repeat' first
    | with_reducible assumption
    | with_reducible apply each_evolves
    | with_reducible apply onCore_evolves
    | ((first | lift_lets -underBinder | skip); intro u; have hu : Evolves z u; (on_goal 1 => (dsimp only [u]; try clear u)); (on_goal 2 => clear_value u))
    | ((first | lift_lets -underBinder | skip); intro u; clear_value u)
    | split
    | (intro u; try intros)

theorem fenceAll_evolves (es : List Nat) (hs : Evolves z s) : Evolves z (State.fenceAll s es) := by
  unfold State.fenceAll
  repeat' first
    | with_reducible assumption
    | with_reducible apply each_evolves
    | with_reducible apply onCore_evolves
    | split
    | (intro u; try intros)

theorem fuseLoad_evolves (path : Option Nat) (hs : Evolves z s) : Evolves z (State.fuseLoad s path) := by
  unfold State.fuseLoad
  repeat' first
    | with_reducible assumption
    | with_reducible apply conflicts_evolves
    | with_reducible apply assignCores_evolves
    | with_reducible apply applyFuses_evolves
    | with_reducible apply each_evolves
    | with_reducible apply burn_evolves
    | with_reducible apply fenceAll_evolves
    | ((first | lift_lets -underBinder | skip); intro u; have hu : Evolves z u; (on_goal 1 => (dsimp only [u]; try clear u)); (on_goal 2 => clear_value u))
    | ((first | lift_lets -underBinder | skip); intro u; clear_value u)
    | split
    | (intro u; try intros)

theorem coreTest_evolves (units : Nat) (fuse : Bool) (hs : Evolves z s) : Evolves z (State.coreTest s units fuse) := by
  unfold State.coreTest
  repeat' first
    | with_reducible assumption
    | with_reducible apply each_evolves
    | with_reducible apply awaitRepair_evolves
    | with_reducible apply fenceAll_evolves
    | with_reducible apply onRas_evolves
    | with_reducible apply onCore_evolves
    | exact fun c h => or_keeps _ _ c h
    | ((first | lift_lets -underBinder | skip); intro u; have hu : Evolves z u; (on_goal 1 => (dsimp only [u]; try clear u)); (on_goal 2 => clear_value u))
    | ((first | lift_lets -underBinder | skip); intro u; clear_value u)
    | split
    | exact fun _ h => h
    | (intro u; try intros)

theorem domsOn_evolves (l : List Nat) (hs : Evolves z s) : Evolves z (State.domsOn s l) := by
  unfold State.domsOn
  repeat' first
    | with_reducible assumption
    | with_reducible apply each_evolves
    | with_reducible apply setDom_evolves
    | (intro u; try intros)

theorem stepWork_evolves (i : Nat) (path : Nat) (units : Nat) (hs : Evolves z s) : Evolves z (State.stepWork s i path units) := by
  unfold State.stepWork
  repeat' first
    | with_reducible assumption
    | with_reducible apply fuseLoad_evolves
    | with_reducible apply coreTest_evolves
    | with_reducible apply onBoot_evolves
    | with_reducible apply onPorch_evolves
    | with_reducible apply probe_evolves
    | with_reducible apply onCel_evolves
    | with_reducible apply each_evolves
    | with_reducible apply setDom_evolves
    | with_reducible apply onRet_evolves
    | with_reducible apply syncHomes_evolves
    | with_reducible apply hbmSize_evolves
    | with_reducible apply publish_evolves
    | ((first | lift_lets -underBinder | skip); intro u; have hu : Evolves z u; (on_goal 1 => (dsimp only [u]; try clear u)); (on_goal 2 => clear_value u))
    | ((first | lift_lets -underBinder | skip); intro u; clear_value u)
    | split
    | with_reducible rfl
    | exact Nat.le_refl _
    | (intro u; try intros)

theorem stepSkipped_evolves (i : Nat) (units : Nat) (hs : Evolves z s) : Evolves z (State.stepSkipped s i units) := by
  unfold State.stepSkipped
  repeat' first
    | with_reducible assumption
    | with_reducible apply onBoot_evolves
    | with_reducible apply fuseLoad_evolves
    | with_reducible apply coreTest_evolves
    | with_reducible apply setDom_evolves
    | ((first | lift_lets -underBinder | skip); intro u; have hu : Evolves z u; (on_goal 1 => (dsimp only [u]; try clear u)); (on_goal 2 => clear_value u))
    | ((first | lift_lets -underBinder | skip); intro u; clear_value u)
    | split
    | exact Nat.le_refl _

theorem beginStep_evolves (aq2 : Nat) (aq3 : Nat) (hs : Evolves z s) : Evolves z (State.beginStep s aq2 aq3) := by
  induction aq2 generalizing aq3 s with
  | zero =>
    unfold State.beginStep
    repeat' first
      | with_reducible assumption
      | with_reducible apply onBoot_evolves
      | with_reducible apply domsOn_evolves
      | with_reducible apply onCel_evolves
      | with_reducible apply stepSkipped_evolves
      | with_reducible apply bootRec_evolves
      | ((first | lift_lets -underBinder | skip); intro u; have hu : Evolves z u; (on_goal 1 => (dsimp only [u]; try clear u)); (on_goal 2 => clear_value u))
      | ((first | lift_lets -underBinder | skip); intro u; clear_value u)
      | split
      | exact Nat.le_refl _
  | succ n ih =>
    unfold State.beginStep
    repeat' first
      | with_reducible assumption
      | with_reducible apply onBoot_evolves
      | with_reducible apply domsOn_evolves
      | with_reducible apply onCel_evolves
      | with_reducible apply stepSkipped_evolves
      | with_reducible apply bootRec_evolves
      | with_reducible apply ih
      | ((first | lift_lets -underBinder | skip); intro u; have hu : Evolves z u; (on_goal 1 => (dsimp only [u]; try clear u)); (on_goal 2 => clear_value u))
      | ((first | lift_lets -underBinder | skip); intro u; clear_value u)
      | split
      | exact Nat.le_refl _

theorem recover_evolves  (hs : Evolves z s) : Evolves z (State.recover s) := by
  unfold State.recover
  repeat' first
    | with_reducible assumption
    | with_reducible apply onBoot_evolves
    | with_reducible apply serviceAction_evolves
    | with_reducible apply onPorch_evolves
    | with_reducible apply domsOn_evolves
    | ((first | lift_lets -underBinder | skip); intro u; have hu : Evolves z u; (on_goal 1 => (dsimp only [u]; try clear u)); (on_goal 2 => clear_value u))
    | ((first | lift_lets -underBinder | skip); intro u; clear_value u)
    | with_reducible rfl
    | exact Nat.le_refl _

theorem bootRom_evolves (romOk : Bool) (readable : Bool) (buttonHeld : Bool) (hs : Evolves z s) : Evolves z (State.bootRom s romOk readable buttonHeld) := by
  unfold State.bootRom
  repeat' first
    | with_reducible assumption
    | with_reducible apply onBbx_evolves
    | with_reducible apply onBoot_evolves
    | with_reducible apply setDom_evolves
    | with_reducible apply onSvc_evolves
    | with_reducible apply recover_evolves
    | with_reducible apply beginStep_evolves
    | ((first | lift_lets -underBinder | skip); intro u; have hu : Evolves z u; (on_goal 1 => (dsimp only [u]; try clear u)); (on_goal 2 => clear_value u))
    | ((first | lift_lets -underBinder | skip); intro u; clear_value u)
    | split
    | exact fun h => h
    | exact Nat.le_refl _
    | (intro u; try intros)

theorem stepEnd_evolves (ok : Bool) (units : Nat) (aon : W32) (hs : Evolves z s) : Evolves z (State.stepEnd s ok units aon) := by
  unfold State.stepEnd
  repeat' first
    | with_reducible assumption
    | with_reducible apply beginStep_evolves
    | with_reducible apply onBoot_evolves
    | with_reducible apply bootRec_evolves
    | with_reducible apply stepWork_evolves
    | with_reducible apply bootRom_evolves
    | with_reducible apply stepSkipped_evolves
    | ((first | lift_lets -underBinder | skip); intro u; have hv : ∀ a, Evolves z a → Evolves z (u a); (on_goal 1 => (dsimp only [u]; clear u)); (on_goal 2 => clear_value u))
    | with_reducible apply hv
    | ((first | lift_lets -underBinder | skip); intro u; have hu : Evolves z u; (on_goal 1 => (dsimp only [u]; try clear u)); (on_goal 2 => clear_value u))
    | ((first | lift_lets -underBinder | skip); intro u; clear_value u)
    | split
    | exact Nat.le_refl _
    | (intro u; try intros)

theorem powerUp_evolves  (hs : Evolves z s) : Evolves z (State.powerUp s) := by
  unfold State.powerUp
  repeat' first
    | with_reducible assumption
    | with_reducible apply domsOn_evolves
    | with_reducible apply onPwr_evolves
    | split
    | exact fun h => h
    | (intro u; try intros)

theorem powerDown_evolves  (hs : Evolves z s) : Evolves z (State.powerDown s) := by
  unfold State.powerDown
  repeat' first
    | with_reducible assumption
    | with_reducible apply moduleReset_evolves
    | with_reducible apply onPwr_evolves
    | ((first | lift_lets -underBinder | skip); intro u; have hu : Evolves z u; (on_goal 1 => (dsimp only [u]; try clear u)); (on_goal 2 => clear_value u))
    | ((first | lift_lets -underBinder | skip); intro u; clear_value u)
    | exact fun h => h
    | (intro u; try intros)

theorem execPerstAssert_evolves  (hs : Evolves z s) : EvolvesOut z (execPerstAssert s) := by
  unfold execPerstAssert
  repeat' first
    | with_reducible assumption
    | with_reducible apply onPwr_evolves
    | with_reducible apply moduleReset_evolves
    | with_reducible apply killWhere_evolves
    | with_reducible apply next_evolves
    | ((first | lift_lets -underBinder | skip); intro u; have hu : Evolves z u; (on_goal 1 => (dsimp only [u]; try clear u)); (on_goal 2 => clear_value u))
    | ((first | lift_lets -underBinder | skip); intro u; clear_value u)
    | split
    | exact fun h => h
    | (intro u; try intros)

theorem execResetRelease_evolves (romOk : Bool) (readable : Bool) (buttonHeld : Bool) (hs : Evolves z s) : EvolvesOut z (execResetRelease romOk readable buttonHeld s) := by
  unfold execResetRelease
  repeat' first
    | with_reducible assumption
    | with_reducible apply onPwr_evolves
    | with_reducible apply bootRom_evolves
    | with_reducible apply onSvc_evolves
    | with_reducible apply next_evolves
    | ((first | lift_lets -underBinder | skip); intro u; have hu : Evolves z u; (on_goal 1 => (dsimp only [u]; try clear u)); (on_goal 2 => clear_value u))
    | ((first | lift_lets -underBinder | skip); intro u; clear_value u)
    | split
    | exact fun h => h
    | (intro u; try intros)

theorem execBootStepEnd_evolves (ok : Bool) (units : W64) (aon : W32) (hs : Evolves z s) : EvolvesOut z (execBootStepEnd ok units aon s) := by
  unfold execBootStepEnd
  repeat' first
    | with_reducible assumption
    | with_reducible apply stepEnd_evolves
    | with_reducible apply next_evolves

theorem execPowerOn_evolves (mv : W32) (hs : Evolves z s) : EvolvesOut z (execPowerOn mv s) := by
  unfold execPowerOn
  repeat' first
    | with_reducible assumption
    | with_reducible apply onPwr_evolves
    | with_reducible apply powerUp_evolves
    | with_reducible apply next_evolves
    | ((first | lift_lets -underBinder | skip); intro u; have hu : Evolves z u; (on_goal 1 => (dsimp only [u]; try clear u)); (on_goal 2 => clear_value u))
    | ((first | lift_lets -underBinder | skip); intro u; clear_value u)
    | split
    | exact fun h => h
    | (intro u; try intros)

theorem execAlwaysOnPowerLoss_evolves  (hs : Evolves z s) : EvolvesOut z (execAlwaysOnPowerLoss s) := by
  unfold execAlwaysOnPowerLoss
  repeat' first
    | with_reducible assumption
    | with_reducible apply powerDown_evolves
    | with_reducible apply stopAll_evolves
    | with_reducible apply onPwr_evolves
    | with_reducible apply onFab_evolves
    | with_reducible apply onRas_evolves
    | with_reducible apply onSvc_evolves
    | with_reducible apply onMem_evolves
    | with_reducible apply next_evolves
    | ((first | lift_lets -underBinder | skip); intro u; have hu : Evolves z u; (on_goal 1 => (dsimp only [u]; try clear u)); (on_goal 2 => clear_value u))
    | ((first | lift_lets -underBinder | skip); intro u; clear_value u)
    | exact fun _ h => h
    | exact fun h => h
    | (intro u; try intros)

/-! ## Machine/FabCmds.lean -/
theorem admitFabStatus_evolves (hq : Hdr) (pb : Bytes) (hs : Evolves z s) : Evolves z (State.admitFabStatus s hq pb) := by
  unfold State.admitFabStatus
  repeat' first
    | with_reducible assumption
    | with_reducible apply runCmd_evolves
    | with_reducible apply output_evolves
    | (intro u; try intros)

theorem leaseAcquire_evolves (hq : Hdr) (target : Nat) (gib : Nat) (hs : Evolves z s) : Evolves z (State.leaseAcquire s hq target gib) := by
  unfold State.leaseAcquire
  repeat' first
    | with_reducible assumption
    | with_reducible apply err_evolves
    | with_reducible apply onFab_evolves
    | with_reducible apply send_evolves
    | ((first | lift_lets -underBinder | skip); intro u; have hu : Evolves z u; (on_goal 1 => (dsimp only [u]; try clear u)); (on_goal 2 => clear_value u))
    | ((first | lift_lets -underBinder | skip); intro u; clear_value u)
    | split

theorem leaseRelease_evolves (hq : Hdr) (w : Nat) (hs : Evolves z s) : Evolves z (State.leaseRelease s hq w) := by
  unfold State.leaseRelease
  repeat' first
    | with_reducible assumption
    | with_reducible apply err_evolves
    | with_reducible apply onFab_evolves
    | with_reducible apply ok_evolves
    | with_reducible apply send_evolves
    | split

theorem leaseOffer_evolves (hq : Hdr) (gib : Nat) (hs : Evolves z s) : Evolves z (State.leaseOffer s hq gib) := by
  unfold State.leaseOffer
  repeat' first
    | with_reducible assumption
    | with_reducible apply err_evolves
    | with_reducible apply onFab_evolves
    | with_reducible apply attSize_evolves
    | with_reducible apply ok_evolves
    | with_reducible apply each_evolves
    | with_reducible apply send_evolves
    | ((first | lift_lets -underBinder | skip); intro u; have hu : Evolves z u; (on_goal 1 => (dsimp only [u]; try clear u)); (on_goal 2 => clear_value u))
    | ((first | lift_lets -underBinder | skip); intro u; clear_value u)
    | split
    | (intro u; try intros)

theorem leaseWithdraw_evolves (hq : Hdr) (hs : Evolves z s) : Evolves z (State.leaseWithdraw s hq) := by
  unfold State.leaseWithdraw
  repeat' first
    | with_reducible assumption
    | with_reducible apply err_evolves
    | with_reducible apply attSize_evolves
    | with_reducible apply onFab_evolves
    | with_reducible apply each_evolves
    | with_reducible apply send_evolves
    | with_reducible apply endWithdraw_evolves
    | ((first | lift_lets -underBinder | skip); intro u; have hu : Evolves z u; (on_goal 1 => (dsimp only [u]; try clear u)); (on_goal 2 => clear_value u))
    | ((first | lift_lets -underBinder | skip); intro u; clear_value u)
    | split
    | (intro u; try intros)

theorem admitFabLease_evolves (hq : Hdr) (pb : Bytes) (hs : Evolves z s) : Evolves z (State.admitFabLease s hq pb) := by
  unfold State.admitFabLease
  repeat' first
    | with_reducible assumption
    | with_reducible apply runCmd_evolves
    | with_reducible apply leaseAcquire_evolves
    | with_reducible apply leaseRelease_evolves
    | with_reducible apply leaseOffer_evolves
    | with_reducible apply leaseWithdraw_evolves
    | ((first | lift_lets -underBinder | skip); intro u; have hu : Evolves z u; (on_goal 1 => (dsimp only [u]; try clear u)); (on_goal 2 => clear_value u))
    | ((first | lift_lets -underBinder | skip); intro u; clear_value u)
    | split
    | (intro u; try intros)

theorem admitFabBuddy_evolves (hq : Hdr) (pb : Bytes) (hs : Evolves z s) : Evolves z (State.admitFabBuddy s hq pb) := by
  unfold State.admitFabBuddy
  repeat' first
    | with_reducible assumption
    | with_reducible apply runCmd_evolves
    | with_reducible apply closeMirrors_evolves
    | with_reducible apply ok_evolves
    | with_reducible apply onFab_evolves
    | ((first | lift_lets -underBinder | skip); intro u; have hu : Evolves z u; (on_goal 1 => (dsimp only [u]; try clear u)); (on_goal 2 => clear_value u))
    | ((first | lift_lets -underBinder | skip); intro u; clear_value u)
    | split
    | (intro u; try intros)

/-! ## Machine/FwCmds.lean -/
theorem stage_evolves (img : Bytes) (hs : Evolves z s) : EvolvesSum z (State.stage s img) := by
  unfold State.stage
  repeat' first
    | with_reducible assumption
    | with_reducible apply attSize_evolves
    | with_reducible apply onBoot_evolves
    | with_reducible exact inl_evolves _
    | with_reducible apply inr_evolves
    | with_reducible refine of_inr (by assumption) ?_
    | ((first | lift_lets -underBinder | skip); intro u; have hu : Evolves z u; (on_goal 1 => (dsimp only [u]; try clear u)); (on_goal 2 => clear_value u))
    | ((first | lift_lets -underBinder | skip); intro u; clear_value u)
    | split
    | exact Nat.le_refl _

theorem admitFwStage_evolves (hq : Hdr) (pb : Bytes) (hs : Evolves z s) : Evolves z (State.admitFwStage s hq pb) := by
  unfold State.admitFwStage
  repeat' first
    | with_reducible assumption
    | with_reducible apply runCmd_evolves
    | with_reducible apply stage_evolves
    | with_reducible apply err_evolves
    | with_reducible apply ok_evolves
    | with_reducible exact inl_evolves _
    | with_reducible apply inr_evolves
    | with_reducible refine of_inr (by assumption) ?_
    | split
    | (intro u; try intros)

theorem admitFwCommit_evolves (hq : Hdr) (pb : Bytes) (hs : Evolves z s) : Evolves z (State.admitFwCommit s hq pb) := by
  unfold State.admitFwCommit
  repeat' first
    | with_reducible assumption
    | with_reducible apply runCmd_evolves
    | with_reducible apply err_evolves
    | with_reducible apply onBoot_evolves
    | with_reducible apply serviceAction_evolves
    | with_reducible apply ok_evolves
    | with_reducible apply attSize_evolves
    | with_reducible apply bootRom_evolves
    | with_reducible apply moduleReset_evolves
    | exact Nat.le_max_left _ _
    | ((first | lift_lets -underBinder | skip); intro u; have hu : Evolves z u; (on_goal 1 => (dsimp only [u]; try clear u)); (on_goal 2 => clear_value u))
    | ((first | lift_lets -underBinder | skip); intro u; clear_value u)
    | split
    | exact Nat.le_refl _
    | (intro u; try intros)

theorem admitAttest_evolves (hq : Hdr) (pb : Bytes) (hs : Evolves z s) : Evolves z (State.admitAttest s hq pb) := by
  unfold State.admitAttest
  repeat' first
    | with_reducible assumption
    | with_reducible apply runCmd_evolves
    | with_reducible apply fresh_evolves
    | with_reducible apply output_evolves
    | with_reducible apply pair2_evolves
    | with_reducible refine of_snd (by assumption) ?_
    | with_reducible refine snd_evolves (p := State.fresh _) ?_
    | ((first | lift_lets -underBinder | skip); intro u; have hu : Evolves z u; (on_goal 1 => (dsimp only [u]; try clear u)); (on_goal 2 => clear_value u))
    | ((first | lift_lets -underBinder | skip); intro u; clear_value u)
    | split
    | (intro u; try intros)

theorem admitBbxRead_evolves (hq : Hdr) (pb : Bytes) (hs : Evolves z s) : Evolves z (State.admitBbxRead s hq pb) := by
  unfold State.admitBbxRead
  repeat' first
    | with_reducible assumption
    | with_reducible apply runCmd_evolves
    | with_reducible apply onBbx_evolves
    | with_reducible apply output_evolves
    | exact Bbx.markRead_fits _ _
    | ((first | lift_lets -underBinder | skip); intro u; have hu : Evolves z u; (on_goal 1 => (dsimp only [u]; try clear u)); (on_goal 2 => clear_value u))
    | ((first | lift_lets -underBinder | skip); intro u; clear_value u)
    | split
    | exact fun h => h
    | (intro u; try intros)

theorem admitBbxAck_evolves (hq : Hdr) (pb : Bytes) (hs : Evolves z s) : Evolves z (State.admitBbxAck s hq pb) := by
  unfold State.admitBbxAck
  repeat' first
    | with_reducible assumption
    | with_reducible apply runCmd_evolves
    | with_reducible apply onBbx_evolves
    | with_reducible apply ok_evolves
    | with_reducible apply serviceAction_evolves
    | exact Bbx.unseal_fits _ _ fun r h => by simp only [Bool.and_eq_true] at h; exact h.1.1
    | ((first | lift_lets -underBinder | skip); intro u; have hu : Evolves z u; (on_goal 1 => (dsimp only [u]; try clear u)); (on_goal 2 => clear_value u))
    | ((first | lift_lets -underBinder | skip); intro u; clear_value u)
    | split
    | exact fun h => h
    | (intro u; try intros)

theorem admitSensors_evolves (hq : Hdr) (pb : Bytes) (hs : Evolves z s) : Evolves z (State.admitSensors s hq pb) := by
  unfold State.admitSensors
  repeat' first
    | with_reducible assumption
    | with_reducible apply runCmd_evolves
    | with_reducible apply output_evolves
    | (intro u; try intros)

/-! ## Machine/Admit.lean -/
theorem command_evolves (op : Nat) (hq : Hdr) (pb : Bytes) (hs : Evolves z s) : Evolves z (State.command s op hq pb) := by
  unfold State.command
  repeat' first
    | with_reducible assumption
    | with_reducible apply admitIdentify_evolves
    | with_reducible apply admitTenantLoad_evolves
    | with_reducible apply admitTenantUnload_evolves
    | with_reducible apply admitBaseLoad_evolves
    | with_reducible apply admitTenantInfo_evolves
    | with_reducible apply admitAsk_evolves
    | with_reducible apply admitGenerate_evolves
    | with_reducible apply admitEmbed_evolves
    | with_reducible apply admitSearch_evolves
    | with_reducible apply admitRerank_evolves
    | with_reducible apply admitCancel_evolves
    | with_reducible apply admitStep_evolves
    | with_reducible apply admitIndexCreate_evolves
    | with_reducible apply admitIndexInsert_evolves
    | with_reducible apply admitIndexDelete_evolves
    | with_reducible apply admitIndexMerge_evolves
    | with_reducible apply admitIndexInfo_evolves
    | with_reducible apply admitIndexLoad_evolves
    | with_reducible apply admitPassageGet_evolves
    | with_reducible apply admitTableCreate_evolves
    | with_reducible apply admitTableWrite_evolves
    | with_reducible apply admitTableGather_evolves
    | with_reducible apply admitTableInfo_evolves
    | with_reducible apply admitVocabLoad_evolves
    | with_reducible apply admitGrammarLoad_evolves
    | with_reducible apply admitTokenize_evolves
    | with_reducible apply admitDetokenize_evolves
    | with_reducible apply admitPartSet_evolves
    | with_reducible apply admitPartStats_evolves
    | with_reducible apply admitPartRegulate_evolves
    | with_reducible apply admitTest_evolves
    | with_reducible apply admitMaintPolicy_evolves
    | with_reducible apply admitEvacuate_evolves
    | with_reducible apply admitFabStatus_evolves
    | with_reducible apply admitFabLease_evolves
    | with_reducible apply admitFabBuddy_evolves
    | with_reducible apply admitFwStage_evolves
    | with_reducible apply admitFwCommit_evolves
    | with_reducible apply admitAttest_evolves
    | with_reducible apply admitBbxRead_evolves
    | with_reducible apply admitBbxAck_evolves
    | with_reducible apply admitSensors_evolves
    | with_reducible apply admitAcctRead_evolves
    | with_reducible apply err_evolves
    | split

theorem wake_evolves (aq2 : Nat) (hs : Evolves z s) : Evolves z (State.wake s aq2) := by
  induction aq2 generalizing s with
  | zero =>
    unfold State.wake
    repeat' first
      | with_reducible assumption
      | with_reducible apply onPorch_evolves
      | with_reducible apply command_evolves
      | ((first | lift_lets -underBinder | skip); intro u; have hu : Evolves z u; (on_goal 1 => (dsimp only [u]; try clear u)); (on_goal 2 => clear_value u))
      | ((first | lift_lets -underBinder | skip); intro u; clear_value u)
      | split
      | with_reducible rfl
  | succ n ih =>
    unfold State.wake
    repeat' first
      | with_reducible assumption
      | with_reducible apply onPorch_evolves
      | with_reducible apply command_evolves
      | with_reducible apply ih
      | ((first | lift_lets -underBinder | skip); intro u; have hu : Evolves z u; (on_goal 1 => (dsimp only [u]; try clear u)); (on_goal 2 => clear_value u))
      | ((first | lift_lets -underBinder | skip); intro u; clear_value u)
      | split
      | with_reducible rfl

theorem wakeUnits_evolves  (hs : Evolves z s) : Evolves z (State.wakeUnits s) := by
  unfold State.wakeUnits
  repeat' first
    | with_reducible assumption
    | with_reducible apply setDom_evolves
    | ((first | lift_lets -underBinder | skip); intro u; have hu : Evolves z u; (on_goal 1 => (dsimp only [u]; try clear u)); (on_goal 2 => clear_value u))
    | ((first | lift_lets -underBinder | skip); intro u; clear_value u)
    | split

theorem wokenState_evolves  (hs : Evolves z s) : Evolves z (State.woken s) := by
  unfold State.woken
  repeat' first
    | with_reducible assumption
    | with_reducible apply resumeWaiting_evolves
    | with_reducible apply wakeUnits_evolves
    | with_reducible apply wake_evolves
    | ((first | lift_lets -underBinder | skip); intro u; have hu : Evolves z u; (on_goal 1 => (dsimp only [u]; try clear u)); (on_goal 2 => clear_value u))
    | ((first | lift_lets -underBinder | skip); intro u; clear_value u)
    | split

theorem woken_evolves (hs : Evolves z s) : EvolvesOut z (woken s) := wokenState_evolves hs

theorem fetchNext_evolves (fn : Fn) (qp : QpNo) (hs : Evolves z s) : Evolves z (State.fetchNext s fn qp) := by
  unfold State.fetchNext
  repeat' first
    | with_reducible assumption
    | with_reducible apply onQp_evolves
    | with_reducible apply fetched_evolves
    | with_reducible apply command_evolves
    | ((first | lift_lets -underBinder | skip); intro u; have hu : Evolves z u; (on_goal 1 => (dsimp only [u]; try clear u)); (on_goal 2 => clear_value u))
    | ((first | lift_lets -underBinder | skip); intro u; clear_value u)
    | split
    | exact fun _ h => h
    | (intro u; try intros)

/-! ## Machine/CommandRows.lean -/
theorem execIdentify_evolves (hq : Hdr) (pb : Bytes) (hs : Evolves z s) : EvolvesOut z (execIdentify hq pb s) := by
  unfold execIdentify
  repeat' first
    | with_reducible assumption
    | with_reducible apply woken_evolves
    | with_reducible apply fetched_evolves
    | with_reducible apply admitIdentify_evolves
    | (intro u; try intros)

theorem execTenantLoad_evolves (hq : Hdr) (pb : Bytes) (hs : Evolves z s) : EvolvesOut z (execTenantLoad hq pb s) := by
  unfold execTenantLoad
  repeat' first
    | with_reducible assumption
    | with_reducible apply woken_evolves
    | with_reducible apply fetched_evolves
    | with_reducible apply admitTenantLoad_evolves
    | (intro u; try intros)

theorem execTenantUnload_evolves (hq : Hdr) (pb : Bytes) (hs : Evolves z s) : EvolvesOut z (execTenantUnload hq pb s) := by
  unfold execTenantUnload
  repeat' first
    | with_reducible assumption
    | with_reducible apply woken_evolves
    | with_reducible apply fetched_evolves
    | with_reducible apply admitTenantUnload_evolves
    | (intro u; try intros)

theorem execBaseUnload_evolves (hq : Hdr) (pb : Bytes) (hs : Evolves z s) : EvolvesOut z (execBaseUnload hq pb s) := by
  unfold execBaseUnload
  repeat' first
    | with_reducible assumption
    | with_reducible apply woken_evolves
    | with_reducible apply fetched_evolves
    | with_reducible apply admitTenantUnload_evolves
    | (intro u; try intros)

theorem execBaseLoad_evolves (hq : Hdr) (pb : Bytes) (hs : Evolves z s) : EvolvesOut z (execBaseLoad hq pb s) := by
  unfold execBaseLoad
  repeat' first
    | with_reducible assumption
    | with_reducible apply woken_evolves
    | with_reducible apply fetched_evolves
    | with_reducible apply admitBaseLoad_evolves
    | (intro u; try intros)

theorem execTenantInfo_evolves (hq : Hdr) (pb : Bytes) (hs : Evolves z s) : EvolvesOut z (execTenantInfo hq pb s) := by
  unfold execTenantInfo
  repeat' first
    | with_reducible assumption
    | with_reducible apply woken_evolves
    | with_reducible apply fetched_evolves
    | with_reducible apply admitTenantInfo_evolves
    | (intro u; try intros)

theorem execAsk_evolves (hq : Hdr) (pb : Bytes) (hs : Evolves z s) : EvolvesOut z (execAsk hq pb s) := by
  unfold execAsk
  repeat' first
    | with_reducible assumption
    | with_reducible apply woken_evolves
    | with_reducible apply fetched_evolves
    | with_reducible apply admitAsk_evolves
    | (intro u; try intros)

theorem execGenerate_evolves (hq : Hdr) (pb : Bytes) (hs : Evolves z s) : EvolvesOut z (execGenerate hq pb s) := by
  unfold execGenerate
  repeat' first
    | with_reducible assumption
    | with_reducible apply woken_evolves
    | with_reducible apply fetched_evolves
    | with_reducible apply admitGenerate_evolves
    | (intro u; try intros)

theorem execEmbed_evolves (hq : Hdr) (pb : Bytes) (hs : Evolves z s) : EvolvesOut z (execEmbed hq pb s) := by
  unfold execEmbed
  repeat' first
    | with_reducible assumption
    | with_reducible apply woken_evolves
    | with_reducible apply fetched_evolves
    | with_reducible apply admitEmbed_evolves
    | (intro u; try intros)

theorem execSearch_evolves (hq : Hdr) (pb : Bytes) (hs : Evolves z s) : EvolvesOut z (execSearch hq pb s) := by
  unfold execSearch
  repeat' first
    | with_reducible assumption
    | with_reducible apply woken_evolves
    | with_reducible apply fetched_evolves
    | with_reducible apply admitSearch_evolves
    | (intro u; try intros)

theorem execRerank_evolves (hq : Hdr) (pb : Bytes) (hs : Evolves z s) : EvolvesOut z (execRerank hq pb s) := by
  unfold execRerank
  repeat' first
    | with_reducible assumption
    | with_reducible apply woken_evolves
    | with_reducible apply fetched_evolves
    | with_reducible apply admitRerank_evolves
    | (intro u; try intros)

theorem execCancel_evolves (hq : Hdr) (pb : Bytes) (hs : Evolves z s) : EvolvesOut z (execCancel hq pb s) := by
  unfold execCancel
  repeat' first
    | with_reducible assumption
    | with_reducible apply woken_evolves
    | with_reducible apply fetched_evolves
    | with_reducible apply admitCancel_evolves
    | (intro u; try intros)

theorem execStep_evolves (hq : Hdr) (pb : Bytes) (hs : Evolves z s) : EvolvesOut z (execStep hq pb s) := by
  unfold execStep
  repeat' first
    | with_reducible assumption
    | with_reducible apply woken_evolves
    | with_reducible apply fetched_evolves
    | with_reducible apply admitStep_evolves
    | (intro u; try intros)

theorem execIndexCreate_evolves (hq : Hdr) (pb : Bytes) (hs : Evolves z s) : EvolvesOut z (execIndexCreate hq pb s) := by
  unfold execIndexCreate
  repeat' first
    | with_reducible assumption
    | with_reducible apply woken_evolves
    | with_reducible apply fetched_evolves
    | with_reducible apply admitIndexCreate_evolves
    | (intro u; try intros)

theorem execIndexModify_evolves (hq : Hdr) (pb : Bytes) (hs : Evolves z s) : EvolvesOut z (execIndexModify hq pb s) := by
  unfold execIndexModify
  repeat' first
    | with_reducible assumption
    | with_reducible apply woken_evolves
    | with_reducible apply fetched_evolves
    | with_reducible apply admitIndexCreate_evolves
    | (intro u; try intros)

theorem execIndexDestroy_evolves (hq : Hdr) (pb : Bytes) (hs : Evolves z s) : EvolvesOut z (execIndexDestroy hq pb s) := by
  unfold execIndexDestroy
  repeat' first
    | with_reducible assumption
    | with_reducible apply woken_evolves
    | with_reducible apply fetched_evolves
    | with_reducible apply admitIndexCreate_evolves
    | (intro u; try intros)

theorem execIndexInsert_evolves (hq : Hdr) (pb : Bytes) (hs : Evolves z s) : EvolvesOut z (execIndexInsert hq pb s) := by
  unfold execIndexInsert
  repeat' first
    | with_reducible assumption
    | with_reducible apply woken_evolves
    | with_reducible apply fetched_evolves
    | with_reducible apply admitIndexInsert_evolves
    | (intro u; try intros)

theorem execIndexDelete_evolves (hq : Hdr) (pb : Bytes) (hs : Evolves z s) : EvolvesOut z (execIndexDelete hq pb s) := by
  unfold execIndexDelete
  repeat' first
    | with_reducible assumption
    | with_reducible apply woken_evolves
    | with_reducible apply fetched_evolves
    | with_reducible apply admitIndexDelete_evolves
    | (intro u; try intros)

theorem execIndexMerge_evolves (hq : Hdr) (pb : Bytes) (hs : Evolves z s) : EvolvesOut z (execIndexMerge hq pb s) := by
  unfold execIndexMerge
  repeat' first
    | with_reducible assumption
    | with_reducible apply woken_evolves
    | with_reducible apply fetched_evolves
    | with_reducible apply admitIndexMerge_evolves
    | (intro u; try intros)

theorem execIndexInfo_evolves (hq : Hdr) (pb : Bytes) (hs : Evolves z s) : EvolvesOut z (execIndexInfo hq pb s) := by
  unfold execIndexInfo
  repeat' first
    | with_reducible assumption
    | with_reducible apply woken_evolves
    | with_reducible apply fetched_evolves
    | with_reducible apply admitIndexInfo_evolves
    | (intro u; try intros)

theorem execIndexLoad_evolves (hq : Hdr) (pb : Bytes) (hs : Evolves z s) : EvolvesOut z (execIndexLoad hq pb s) := by
  unfold execIndexLoad
  repeat' first
    | with_reducible assumption
    | with_reducible apply woken_evolves
    | with_reducible apply fetched_evolves
    | with_reducible apply admitIndexLoad_evolves
    | (intro u; try intros)

theorem execPassageGet_evolves (hq : Hdr) (pb : Bytes) (hs : Evolves z s) : EvolvesOut z (execPassageGet hq pb s) := by
  unfold execPassageGet
  repeat' first
    | with_reducible assumption
    | with_reducible apply woken_evolves
    | with_reducible apply fetched_evolves
    | with_reducible apply admitPassageGet_evolves
    | (intro u; try intros)

theorem execTableCreate_evolves (hq : Hdr) (pb : Bytes) (hs : Evolves z s) : EvolvesOut z (execTableCreate hq pb s) := by
  unfold execTableCreate
  repeat' first
    | with_reducible assumption
    | with_reducible apply woken_evolves
    | with_reducible apply fetched_evolves
    | with_reducible apply admitTableCreate_evolves
    | (intro u; try intros)

theorem execTableDestroy_evolves (hq : Hdr) (pb : Bytes) (hs : Evolves z s) : EvolvesOut z (execTableDestroy hq pb s) := by
  unfold execTableDestroy
  repeat' first
    | with_reducible assumption
    | with_reducible apply woken_evolves
    | with_reducible apply fetched_evolves
    | with_reducible apply admitTableCreate_evolves
    | (intro u; try intros)

theorem execTableWrite_evolves (hq : Hdr) (pb : Bytes) (hs : Evolves z s) : EvolvesOut z (execTableWrite hq pb s) := by
  unfold execTableWrite
  repeat' first
    | with_reducible assumption
    | with_reducible apply woken_evolves
    | with_reducible apply fetched_evolves
    | with_reducible apply admitTableWrite_evolves
    | (intro u; try intros)

theorem execTableGather_evolves (hq : Hdr) (pb : Bytes) (hs : Evolves z s) : EvolvesOut z (execTableGather hq pb s) := by
  unfold execTableGather
  repeat' first
    | with_reducible assumption
    | with_reducible apply woken_evolves
    | with_reducible apply fetched_evolves
    | with_reducible apply admitTableGather_evolves
    | (intro u; try intros)

theorem execTableInfo_evolves (hq : Hdr) (pb : Bytes) (hs : Evolves z s) : EvolvesOut z (execTableInfo hq pb s) := by
  unfold execTableInfo
  repeat' first
    | with_reducible assumption
    | with_reducible apply woken_evolves
    | with_reducible apply fetched_evolves
    | with_reducible apply admitTableInfo_evolves
    | (intro u; try intros)

theorem execVocabLoad_evolves (hq : Hdr) (pb : Bytes) (hs : Evolves z s) : EvolvesOut z (execVocabLoad hq pb s) := by
  unfold execVocabLoad
  repeat' first
    | with_reducible assumption
    | with_reducible apply woken_evolves
    | with_reducible apply fetched_evolves
    | with_reducible apply admitVocabLoad_evolves
    | (intro u; try intros)

theorem execVocabUnload_evolves (hq : Hdr) (pb : Bytes) (hs : Evolves z s) : EvolvesOut z (execVocabUnload hq pb s) := by
  unfold execVocabUnload
  repeat' first
    | with_reducible assumption
    | with_reducible apply woken_evolves
    | with_reducible apply fetched_evolves
    | with_reducible apply admitVocabLoad_evolves
    | (intro u; try intros)

theorem execGrammarLoad_evolves (hq : Hdr) (pb : Bytes) (hs : Evolves z s) : EvolvesOut z (execGrammarLoad hq pb s) := by
  unfold execGrammarLoad
  repeat' first
    | with_reducible assumption
    | with_reducible apply woken_evolves
    | with_reducible apply fetched_evolves
    | with_reducible apply admitGrammarLoad_evolves
    | (intro u; try intros)

theorem execGrammarUnload_evolves (hq : Hdr) (pb : Bytes) (hs : Evolves z s) : EvolvesOut z (execGrammarUnload hq pb s) := by
  unfold execGrammarUnload
  repeat' first
    | with_reducible assumption
    | with_reducible apply woken_evolves
    | with_reducible apply fetched_evolves
    | with_reducible apply admitGrammarLoad_evolves
    | (intro u; try intros)

theorem execTokenize_evolves (hq : Hdr) (pb : Bytes) (hs : Evolves z s) : EvolvesOut z (execTokenize hq pb s) := by
  unfold execTokenize
  repeat' first
    | with_reducible assumption
    | with_reducible apply woken_evolves
    | with_reducible apply fetched_evolves
    | with_reducible apply admitTokenize_evolves
    | (intro u; try intros)

theorem execDetokenize_evolves (hq : Hdr) (pb : Bytes) (hs : Evolves z s) : EvolvesOut z (execDetokenize hq pb s) := by
  unfold execDetokenize
  repeat' first
    | with_reducible assumption
    | with_reducible apply woken_evolves
    | with_reducible apply fetched_evolves
    | with_reducible apply admitDetokenize_evolves
    | (intro u; try intros)

theorem execPartSet_evolves (hq : Hdr) (pb : Bytes) (hs : Evolves z s) : EvolvesOut z (execPartSet hq pb s) := by
  unfold execPartSet
  repeat' first
    | with_reducible assumption
    | with_reducible apply woken_evolves
    | with_reducible apply fetched_evolves
    | with_reducible apply admitPartSet_evolves
    | (intro u; try intros)

theorem execPartStats_evolves (hq : Hdr) (pb : Bytes) (hs : Evolves z s) : EvolvesOut z (execPartStats hq pb s) := by
  unfold execPartStats
  repeat' first
    | with_reducible assumption
    | with_reducible apply woken_evolves
    | with_reducible apply fetched_evolves
    | with_reducible apply admitPartStats_evolves
    | (intro u; try intros)

theorem execPartRegulate_evolves (hq : Hdr) (pb : Bytes) (hs : Evolves z s) : EvolvesOut z (execPartRegulate hq pb s) := by
  unfold execPartRegulate
  repeat' first
    | with_reducible assumption
    | with_reducible apply woken_evolves
    | with_reducible apply fetched_evolves
    | with_reducible apply admitPartRegulate_evolves
    | (intro u; try intros)

theorem execSelftest_evolves (hq : Hdr) (pb : Bytes) (hs : Evolves z s) : EvolvesOut z (execSelftest hq pb s) := by
  unfold execSelftest
  repeat' first
    | with_reducible assumption
    | with_reducible apply woken_evolves
    | with_reducible apply fetched_evolves
    | with_reducible apply admitTest_evolves
    | (intro u; try intros)

theorem execCalibrate_evolves (hq : Hdr) (pb : Bytes) (hs : Evolves z s) : EvolvesOut z (execCalibrate hq pb s) := by
  unfold execCalibrate
  repeat' first
    | with_reducible assumption
    | with_reducible apply woken_evolves
    | with_reducible apply fetched_evolves
    | with_reducible apply admitTest_evolves
    | (intro u; try intros)

theorem execMaintPolicy_evolves (hq : Hdr) (pb : Bytes) (hs : Evolves z s) : EvolvesOut z (execMaintPolicy hq pb s) := by
  unfold execMaintPolicy
  repeat' first
    | with_reducible assumption
    | with_reducible apply woken_evolves
    | with_reducible apply fetched_evolves
    | with_reducible apply admitMaintPolicy_evolves
    | (intro u; try intros)

theorem execEvacuate_evolves (hq : Hdr) (pb : Bytes) (hs : Evolves z s) : EvolvesOut z (execEvacuate hq pb s) := by
  unfold execEvacuate
  repeat' first
    | with_reducible assumption
    | with_reducible apply woken_evolves
    | with_reducible apply fetched_evolves
    | with_reducible apply admitEvacuate_evolves
    | (intro u; try intros)

theorem execFabStatus_evolves (hq : Hdr) (pb : Bytes) (hs : Evolves z s) : EvolvesOut z (execFabStatus hq pb s) := by
  unfold execFabStatus
  repeat' first
    | with_reducible assumption
    | with_reducible apply woken_evolves
    | with_reducible apply fetched_evolves
    | with_reducible apply admitFabStatus_evolves
    | (intro u; try intros)

theorem execFabLeaseAcquire_evolves (hq : Hdr) (pb : Bytes) (hs : Evolves z s) : EvolvesOut z (execFabLeaseAcquire hq pb s) := by
  unfold execFabLeaseAcquire
  repeat' first
    | with_reducible assumption
    | with_reducible apply woken_evolves
    | with_reducible apply fetched_evolves
    | with_reducible apply admitFabLease_evolves
    | (intro u; try intros)

theorem execFabLeaseRelease_evolves (hq : Hdr) (pb : Bytes) (hs : Evolves z s) : EvolvesOut z (execFabLeaseRelease hq pb s) := by
  unfold execFabLeaseRelease
  repeat' first
    | with_reducible assumption
    | with_reducible apply woken_evolves
    | with_reducible apply fetched_evolves
    | with_reducible apply admitFabLease_evolves
    | (intro u; try intros)

theorem execFabLeaseOffer_evolves (hq : Hdr) (pb : Bytes) (hs : Evolves z s) : EvolvesOut z (execFabLeaseOffer hq pb s) := by
  unfold execFabLeaseOffer
  repeat' first
    | with_reducible assumption
    | with_reducible apply woken_evolves
    | with_reducible apply fetched_evolves
    | with_reducible apply admitFabLease_evolves
    | (intro u; try intros)

theorem execFabLeaseWithdraw_evolves (hq : Hdr) (pb : Bytes) (hs : Evolves z s) : EvolvesOut z (execFabLeaseWithdraw hq pb s) := by
  unfold execFabLeaseWithdraw
  repeat' first
    | with_reducible assumption
    | with_reducible apply woken_evolves
    | with_reducible apply fetched_evolves
    | with_reducible apply admitFabLease_evolves
    | (intro u; try intros)

theorem execFabBuddy_evolves (hq : Hdr) (pb : Bytes) (hs : Evolves z s) : EvolvesOut z (execFabBuddy hq pb s) := by
  unfold execFabBuddy
  repeat' first
    | with_reducible assumption
    | with_reducible apply woken_evolves
    | with_reducible apply fetched_evolves
    | with_reducible apply admitFabBuddy_evolves
    | (intro u; try intros)

theorem execFwStage_evolves (hq : Hdr) (pb : Bytes) (hs : Evolves z s) : EvolvesOut z (execFwStage hq pb s) := by
  unfold execFwStage
  repeat' first
    | with_reducible assumption
    | with_reducible apply woken_evolves
    | with_reducible apply fetched_evolves
    | with_reducible apply admitFwStage_evolves
    | (intro u; try intros)

theorem execFwCommit_evolves (hq : Hdr) (pb : Bytes) (hs : Evolves z s) : EvolvesOut z (execFwCommit hq pb s) := by
  unfold execFwCommit
  repeat' first
    | with_reducible assumption
    | with_reducible apply woken_evolves
    | with_reducible apply fetched_evolves
    | with_reducible apply admitFwCommit_evolves
    | (intro u; try intros)

theorem execAttest_evolves (hq : Hdr) (pb : Bytes) (hs : Evolves z s) : EvolvesOut z (execAttest hq pb s) := by
  unfold execAttest
  repeat' first
    | with_reducible assumption
    | with_reducible apply woken_evolves
    | with_reducible apply fetched_evolves
    | with_reducible apply admitAttest_evolves
    | (intro u; try intros)

theorem execBbxRead_evolves (hq : Hdr) (pb : Bytes) (hs : Evolves z s) : EvolvesOut z (execBbxRead hq pb s) := by
  unfold execBbxRead
  repeat' first
    | with_reducible assumption
    | with_reducible apply woken_evolves
    | with_reducible apply fetched_evolves
    | with_reducible apply admitBbxRead_evolves
    | (intro u; try intros)

theorem execBbxAck_evolves (hq : Hdr) (pb : Bytes) (hs : Evolves z s) : EvolvesOut z (execBbxAck hq pb s) := by
  unfold execBbxAck
  repeat' first
    | with_reducible assumption
    | with_reducible apply woken_evolves
    | with_reducible apply fetched_evolves
    | with_reducible apply admitBbxAck_evolves
    | (intro u; try intros)

theorem execSensors_evolves (hq : Hdr) (pb : Bytes) (hs : Evolves z s) : EvolvesOut z (execSensors hq pb s) := by
  unfold execSensors
  repeat' first
    | with_reducible assumption
    | with_reducible apply woken_evolves
    | with_reducible apply fetched_evolves
    | with_reducible apply admitSensors_evolves
    | (intro u; try intros)

theorem execAcctRead_evolves (hq : Hdr) (pb : Bytes) (hs : Evolves z s) : EvolvesOut z (execAcctRead hq pb s) := by
  unfold execAcctRead
  repeat' first
    | with_reducible assumption
    | with_reducible apply woken_evolves
    | with_reducible apply fetched_evolves
    | with_reducible apply admitAcctRead_evolves
    | (intro u; try intros)

theorem execAcctReadClear_evolves (hq : Hdr) (pb : Bytes) (hs : Evolves z s) : EvolvesOut z (execAcctReadClear hq pb s) := by
  unfold execAcctReadClear
  repeat' first
    | with_reducible assumption
    | with_reducible apply woken_evolves
    | with_reducible apply fetched_evolves
    | with_reducible apply admitAcctRead_evolves
    | (intro u; try intros)

theorem execSelftestPieceEnd_evolves (pass : Bool) (engine : Fin 4) (isCol : Bool) (line : BitVec 7) (hs : Evolves z s) : EvolvesOut z (execSelftestPieceEnd pass engine isCol line s) := by
  unfold execSelftestPieceEnd
  repeat' first
    | with_reducible assumption
    | with_reducible apply woken_evolves
    | with_reducible apply pieceEnd_evolves

/-! ## Machine/FabricRows.lean -/
theorem execPortUp_evolves (port : PortNo) (peer : W16) (serial : W64) (hs : Evolves z s) : EvolvesOut z (execPortUp port peer serial s) := by
  unfold execPortUp
  repeat' first
    | with_reducible assumption
    | with_reducible apply woken_evolves
    | with_reducible apply linkUp_evolves

theorem execLinkAuthDone_evolves (port : PortNo) (ok : Bool) (digest : BitVec 128) (hs : Evolves z s) : EvolvesOut z (execLinkAuthDone port ok digest s) := by
  unfold execLinkAuthDone
  repeat' first
    | with_reducible assumption
    | with_reducible apply woken_evolves
    | with_reducible apply authDone_evolves

theorem execLaneFail_evolves (lane : Fin 18) (reason : LaneReason) (hs : Evolves z s) : EvolvesOut z (execLaneFail lane reason s) := by
  unfold execLaneFail
  repeat' first
    | with_reducible assumption
    | with_reducible apply woken_evolves
    | with_reducible apply retrain_evolves
    | with_reducible apply failLane_evolves
    | with_reducible apply pair1_evolves
    | with_reducible refine of_fst (by assumption) ?_
    | with_reducible refine fst_evolves (p := State.failLane _ _) ?_
    | split

theorem execFlitReceive_evolves (port : PortNo) (flit : Bytes) (hs : Evolves z s) : EvolvesOut z (execFlitReceive port flit s) := by
  unfold execFlitReceive
  repeat' first
    | with_reducible assumption
    | with_reducible apply woken_evolves
    | with_reducible apply flitIn_evolves

theorem execNakReceive_evolves (port : PortNo) (ack : BitVec 12) (hs : Evolves z s) : EvolvesOut z (execNakReceive port ack s) := by
  unfold execNakReceive
  repeat' first
    | with_reducible assumption
    | with_reducible apply woken_evolves
    | with_reducible apply nakIn_evolves

theorem execPortRetrainDone_evolves (port : PortNo) (hs : Evolves z s) : EvolvesOut z (execPortRetrainDone port s) := by
  unfold execPortRetrainDone
  repeat' first
    | with_reducible assumption
    | with_reducible apply woken_evolves
    | with_reducible apply forward_evolves
    | with_reducible apply resend_evolves
    | with_reducible apply onPort_evolves
    | split

theorem execAddressProbe_evolves (port : PortNo) (cand : W16) (serial : W64) (hs : Evolves z s) : EvolvesOut z (execAddressProbe port cand serial s) := by
  unfold execAddressProbe
  repeat' first
    | with_reducible assumption
    | with_reducible apply woken_evolves
    | with_reducible apply probeIn_evolves

theorem execAddressProbeTimeout_evolves  (hs : Evolves z s) : EvolvesOut z (execAddressProbeTimeout s) := by
  unfold execAddressProbeTimeout
  repeat' first
    | with_reducible assumption
    | with_reducible apply woken_evolves
    | with_reducible apply advertise_evolves
    | with_reducible apply onBbx_evolves
    | with_reducible apply onFab_evolves
    | split
    | exact fun h => h
    | (intro u; try intros)

theorem execRoutingUpdate_evolves (port : PortNo) (routes : List RouteAdv) (groups : List GroupAdv) (hs : Evolves z s) : EvolvesOut z (execRoutingUpdate port routes groups s) := by
  unfold execRoutingUpdate
  repeat' first
    | with_reducible assumption
    | with_reducible apply woken_evolves
    | with_reducible apply routesIn_evolves

theorem execRouteAdvertiseTimer_evolves  (hs : Evolves z s) : EvolvesOut z (execRouteAdvertiseTimer s) := by
  unfold execRouteAdvertiseTimer
  repeat' first
    | with_reducible assumption
    | with_reducible apply woken_evolves
    | with_reducible apply advertise_evolves

theorem execRouteExpire_evolves (dest : W16) (hs : Evolves z s) : EvolvesOut z (execRouteExpire dest s) := by
  unfold execRouteExpire
  repeat' first
    | with_reducible assumption
    | with_reducible apply woken_evolves
    | with_reducible apply advertise_evolves
    | with_reducible apply onFab_evolves
    | split

theorem execPeerDownNotice_evolves (reporter : W16) (lost : W16) (electricalIdle : Bool) (hs : Evolves z s) : EvolvesOut z (execPeerDownNotice reporter lost electricalIdle s) := by
  unfold execPeerDownNotice
  repeat' first
    | with_reducible assumption
    | with_reducible apply woken_evolves
    | with_reducible apply peerDown_evolves

theorem execDepartingNotice_evolves (src : W16) (hs : Evolves z s) : EvolvesOut z (execDepartingNotice src s) := by
  unfold execDepartingNotice
  repeat' first
    | with_reducible assumption
    | with_reducible apply woken_evolves
    | with_reducible apply declareLost_evolves

theorem execRemoteMemoryRead_evolves (m : MsgHdr) (offset : W64) (units : Fin 5) (hs : Evolves z s) : EvolvesOut z (execRemoteMemoryRead m offset units s) := by
  unfold execRemoteMemoryRead
  repeat' first
    | with_reducible assumption
    | with_reducible apply woken_evolves
    | with_reducible apply receive_evolves

theorem execRemoteMemoryWrite_evolves (m : MsgHdr) (offset : W64) (data : Bytes) (hs : Evolves z s) : EvolvesOut z (execRemoteMemoryWrite m offset data s) := by
  unfold execRemoteMemoryWrite
  repeat' first
    | with_reducible assumption
    | with_reducible apply woken_evolves
    | with_reducible apply receive_evolves

theorem execLeaseOfferMsg_evolves (m : MsgHdr) (gib : Byte) (hs : Evolves z s) : EvolvesOut z (execLeaseOfferMsg m gib s) := by
  unfold execLeaseOfferMsg
  repeat' first
    | with_reducible assumption
    | with_reducible apply woken_evolves
    | with_reducible apply receive_evolves

theorem execLeaseGrantMsg_evolves (m : MsgHdr) (gib : Byte) (hs : Evolves z s) : EvolvesOut z (execLeaseGrantMsg m gib s) := by
  unfold execLeaseGrantMsg
  repeat' first
    | with_reducible assumption
    | with_reducible apply woken_evolves
    | with_reducible apply receive_evolves

theorem execLeaseWithdrawalNotice_evolves (m : MsgHdr) (hs : Evolves z s) : EvolvesOut z (execLeaseWithdrawalNotice m s) := by
  unfold execLeaseWithdrawalNotice
  repeat' first
    | with_reducible assumption
    | with_reducible apply woken_evolves
    | with_reducible apply receive_evolves

theorem execLeaseReleaseMsg_evolves (m : MsgHdr) (hs : Evolves z s) : EvolvesOut z (execLeaseReleaseMsg m s) := by
  unfold execLeaseReleaseMsg
  repeat' first
    | with_reducible assumption
    | with_reducible apply woken_evolves
    | with_reducible apply receive_evolves

theorem execGatherRequestMsg_evolves (m : MsgHdr) (ownerPools : Bool) (pool : Fin 3) (indices : List W64) (bags : List (List Occ)) (hs : Evolves z s) : EvolvesOut z (execGatherRequestMsg m ownerPools pool indices bags s) := by
  unfold execGatherRequestMsg
  repeat' first
    | with_reducible assumption
    | with_reducible apply woken_evolves
    | with_reducible apply receive_evolves

theorem execGatherReplyMsg_evolves (m : MsgHdr) (shard : Fin 64) (rows : List (W64 × List W32)) (sums : List (List W32 × W32)) (hs : Evolves z s) : EvolvesOut z (execGatherReplyMsg m shard rows sums s) := by
  unfold execGatherReplyMsg
  repeat' first
    | with_reducible assumption
    | with_reducible apply woken_evolves
    | with_reducible apply answered_evolves
    | with_reducible apply rowsIn_evolves
    | (intro u; try intros)

theorem execTableUpdateMsg_evolves (m : MsgHdr) (entries : List WriteEntry) (hs : Evolves z s) : EvolvesOut z (execTableUpdateMsg m entries s) := by
  unfold execTableUpdateMsg
  repeat' first
    | with_reducible assumption
    | with_reducible apply woken_evolves
    | with_reducible apply receive_evolves

theorem execTableUpdateAck_evolves (m : MsgHdr) (appliedq2 : W32) (hs : Evolves z s) : EvolvesOut z (execTableUpdateAck m appliedq2 s) := by
  unfold execTableUpdateAck
  repeat' first
    | with_reducible assumption
    | with_reducible apply woken_evolves
    | with_reducible apply answered_evolves
    | with_reducible apply updateAckIn_evolves
    | (intro u; try intros)

theorem execReplicaRequestMsg_evolves (m : MsgHdr) (row : W32) (hs : Evolves z s) : EvolvesOut z (execReplicaRequestMsg m row s) := by
  unfold execReplicaRequestMsg
  repeat' first
    | with_reducible assumption
    | with_reducible apply woken_evolves
    | with_reducible apply receive_evolves

theorem execReplicaInstallMsg_evolves (m : MsgHdr) (row : W32) (values : List W32) (hs : Evolves z s) : EvolvesOut z (execReplicaInstallMsg m row values s) := by
  unfold execReplicaInstallMsg
  repeat' first
    | with_reducible assumption
    | with_reducible apply woken_evolves
    | with_reducible apply receive_evolves

theorem execReplicaInstallAck_evolves (m : MsgHdr) (row : W32) (hs : Evolves z s) : EvolvesOut z (execReplicaInstallAck m row s) := by
  unfold execReplicaInstallAck
  repeat' first
    | with_reducible assumption
    | with_reducible apply woken_evolves
    | with_reducible apply answered_evolves
    | with_reducible apply installAckIn_evolves
    | (intro u; try intros)

theorem execReplicaDiscardMsg_evolves (m : MsgHdr) (row : W32) (hs : Evolves z s) : EvolvesOut z (execReplicaDiscardMsg m row s) := by
  unfold execReplicaDiscardMsg
  repeat' first
    | with_reducible assumption
    | with_reducible apply woken_evolves
    | with_reducible apply receive_evolves

theorem execShardSearchMsg_evolves (m : MsgHdr) (query : List W32) (k : Byte) (p : W16) (w : Byte) (filter : List FilterTerm) (hs : Evolves z s) : EvolvesOut z (execShardSearchMsg m query k p w filter s) := by
  unfold execShardSearchMsg
  repeat' first
    | with_reducible assumption
    | with_reducible apply woken_evolves
    | with_reducible apply receive_evolves

theorem execShardSearchReply_evolves (m : MsgHdr) (cands : List Cand) (rounds : Byte) (snapshot : W64) (hs : Evolves z s) : EvolvesOut z (execShardSearchReply m cands rounds snapshot s) := by
  unfold execShardSearchReply
  repeat' first
    | with_reducible assumption
    | with_reducible apply woken_evolves
    | with_reducible apply answered_evolves
    | with_reducible apply searchReplyIn_evolves
    | (intro u; try intros)

theorem execTextFetchMsg_evolves (m : MsgHdr) (id : W64) (version : W64) (text : Bytes) (hs : Evolves z s) : EvolvesOut z (execTextFetchMsg m id version text s) := by
  unfold execTextFetchMsg
  repeat' first
    | with_reducible assumption
    | with_reducible apply woken_evolves
    | with_reducible apply answered_evolves
    | with_reducible apply textIn_evolves
    | (intro u; try intros)

theorem execHoldReleaseMsg_evolves (m : MsgHdr) (hs : Evolves z s) : EvolvesOut z (execHoldReleaseMsg m s) := by
  unfold execHoldReleaseMsg
  repeat' first
    | with_reducible assumption
    | with_reducible apply woken_evolves
    | with_reducible apply receive_evolves

theorem execMirrorOpen_evolves (m : MsgHdr) (d : MirrorDesc) (hs : Evolves z s) : EvolvesOut z (execMirrorOpen m d s) := by
  unfold execMirrorOpen
  repeat' first
    | with_reducible assumption
    | with_reducible apply woken_evolves
    | with_reducible apply receive_evolves

theorem execMirrorUpdate_evolves (m : MsgHdr) (tokens : List W32) (bytes : W32) (hs : Evolves z s) : EvolvesOut z (execMirrorUpdate m tokens bytes s) := by
  unfold execMirrorUpdate
  repeat' first
    | with_reducible assumption
    | with_reducible apply woken_evolves
    | with_reducible apply receive_evolves

theorem execMirrorClose_evolves (m : MsgHdr) (hs : Evolves z s) : EvolvesOut z (execMirrorClose m s) := by
  unfold execMirrorClose
  repeat' first
    | with_reducible assumption
    | with_reducible apply woken_evolves
    | with_reducible apply receive_evolves

theorem execMirrorErrorReply_evolves (m : MsgHdr) (hs : Evolves z s) : EvolvesOut z (execMirrorErrorReply m s) := by
  unfold execMirrorErrorReply
  repeat' first
    | with_reducible assumption
    | with_reducible apply woken_evolves
    | with_reducible apply answered_evolves
    | with_reducible apply onReq_evolves
    | split
    | (intro u; try intros)

theorem execMigrationMsg_evolves (m : MsgHdr) (d : MirrorDesc) (hs : Evolves z s) : EvolvesOut z (execMigrationMsg m d s) := by
  unfold execMigrationMsg
  repeat' first
    | with_reducible assumption
    | with_reducible apply woken_evolves
    | with_reducible apply receive_evolves

theorem execMessageRetryTimeout_evolves (dest : W16) (cls : Byte) (msgId : W32) (hs : Evolves z s) : EvolvesOut z (execMessageRetryTimeout dest cls msgId s) := by
  unfold execMessageRetryTimeout
  repeat' first
    | with_reducible assumption
    | with_reducible apply woken_evolves
    | with_reducible apply answered_evolves
    | with_reducible apply retry_evolves
    | (intro u; try intros)

/-! ## Machine/Porch.lean -/
theorem stopQp_evolves (k : Nat) (hs : Evolves z s) : Evolves z (State.stopQp s k) := by
  unfold State.stopQp
  exact each_evolves _ _ (killWhere_evolves _ (onQp_evolves _ _ (onPorch_evolves' _ hs (mapAll_fits (fun _ q => { q with held := q.held.filter fun e => e.2.1 ≠ k })
    fun _ _ g => g)) fun _ g => ⟨g.1, Nat.zero_le _⟩)) fun _ _ h => complete_evolves _ _ h

theorem dmaFails_evolves (k : Nat) (hs : Evolves z s) : Evolves z (State.dmaFails s k) := by
  unfold State.dmaFails
  repeat' first
    | with_reducible assumption
    | with_reducible apply settle_evolves
    | with_reducible apply stopQp_evolves
    | with_reducible apply onQp_evolves
    | split
    | exact fun _ h => h
    | (intro u; try intros)

theorem badDoorbell_evolves (k : Nat) (rule : Bool) (hs : Evolves z s) : Evolves z (State.badDoorbell s k rule) := by
  unfold State.badDoorbell
  repeat' first
    | with_reducible assumption
    | with_reducible apply onQp_evolves
    | with_reducible apply settle_evolves
    | with_reducible apply stopQp_evolves
    | ((first | lift_lets -underBinder | skip); intro u; have hu : Evolves z u; (on_goal 1 => (dsimp only [u]; try clear u)); (on_goal 2 => clear_value u))
    | ((first | lift_lets -underBinder | skip); intro u; clear_value u)
    | split
    | exact fun _ h => h
    | (intro u; try intros)

theorem sqTail_evolves (fn : Fn) (qp : QpNo) (v : Nat) (hs : Evolves z s) : Evolves z (State.sqTail s fn qp v) := by
  unfold State.sqTail
  repeat' first
    | with_reducible assumption
    | with_reducible apply badDoorbell_evolves
    | with_reducible apply onQp_evolves
    | ((first | lift_lets -underBinder | skip); intro u; have hu : Evolves z u; (on_goal 1 => (dsimp only [u]; try clear u)); (on_goal 2 => clear_value u))
    | ((first | lift_lets -underBinder | skip); intro u; clear_value u)
    | split
    | exact fun _ h => h
    | (intro u; try intros)

theorem cqHead_evolves (fn : Fn) (qp : QpNo) (v : Nat) (hs : Evolves z s) : Evolves z (State.cqHead s fn qp v) := by
  unfold State.cqHead
  repeat' first
    | with_reducible assumption
    | with_reducible apply badDoorbell_evolves
    | with_reducible apply onQp_evolves
    | ((first | lift_lets -underBinder | skip); intro u; have hu : Evolves z u; (on_goal 1 => (dsimp only [u]; try clear u)); (on_goal 2 => clear_value u))
    | ((first | lift_lets -underBinder | skip); intro u; clear_value u)
    | split
    | exact fun _ h => h
    | (intro u; try intros)

theorem orHead_evolves (fn : Fn) (qp : QpNo) (v : Nat) (hs : Evolves z s) : Evolves z (State.orHead s fn qp v) := by
  unfold State.orHead
  simp only []
  split
  · exact hs
  · split
    · exact badDoorbell_evolves _ _ hs
    · split
      · exact badDoorbell_evolves _ _ hs
      · rename_i h
        simp only [Bool.or_eq_true, decide_eq_true_eq, not_or, not_le, not_lt] at h
        refine settle_evolves (releaseHeld_evolves _ (moveOverflow_evolves _ _ (onQp_evolves' _ _ hs fun g => ⟨fun ha => ?_, g.2⟩)))
        have := g.1 ha
        exact ⟨by simp only []; omega, by simp only []; omega⟩

theorem enableQp_evolves (fn : Fn) (qp : QpNo) (v : W32) (hs : Evolves z s) : Evolves z (State.enableQp s fn qp v) := by
  unfold State.enableQp
  repeat' first
    | with_reducible assumption
    | with_reducible apply onQp_evolves
    | with_reducible apply iff_evolves
    | with_reducible apply hbmSize_evolves
    | exact fun _ g => ⟨g.1, g.2⟩
    | exact fun _ _ => ⟨fun _ => ⟨Nat.le_refl _, Nat.two_pow_pos _⟩, Nat.zero_le _⟩
    | ((first | lift_lets -underBinder | skip); intro u; have hu : Evolves z u; (on_goal 1 => (dsimp only [u]; try clear u)); (on_goal 2 => clear_value u))
    | ((first | lift_lets -underBinder | skip); intro u; clear_value u)
    | split
    | exact fun _ h => h
    | (intro u; try intros)

theorem disableQp_evolves (fn : Fn) (qp : QpNo) (v : W32) (hs : Evolves z s) : Evolves z (State.disableQp s fn qp v) := by
  unfold State.disableQp
  repeat' first
    | with_reducible assumption
    | with_reducible apply onQp_evolves
    | ((first | lift_lets -underBinder | skip); intro u; have hu : Evolves z u; (on_goal 1 => (dsimp only [u]; try clear u)); (on_goal 2 => clear_value u))
    | ((first | lift_lets -underBinder | skip); intro u; clear_value u)
    | split
    | exact fun _ h => h
    | (intro u; try intros)

theorem freeStore_evolves (k : Nat) (hs : Evolves z s) : Evolves z (State.freeStore s k) := by
  unfold State.freeStore
  repeat' first
    | with_reducible assumption
    | with_reducible apply hbmSize_evolves
    | with_reducible apply onQp_evolves
    | split
    | exact fun _ h => h
    | (intro u; try intros)

theorem drainEnd_evolves (k : Nat) (hs : Evolves z s) : Evolves z (State.drainEnd s k) := by
  unfold State.drainEnd
  repeat' first
    | with_reducible assumption
    | with_reducible apply onQp_evolves
    | with_reducible apply freeStore_evolves
    | exact fun _ g => ⟨fun h => Bool.noConfusion h, g.2⟩
    | split
    | exact fun _ h => h
    | (intro u; try intros)

theorem resetQps_evolves (fn : Fn) (hs : Evolves z s) : Evolves z (State.resetQps s fn) := by
  unfold State.resetQps
  lift_lets -underBinder
  intro b
  have hb : Evolves z b := by
    dsimp only [b]
    with_reducible apply each_evolves
    · exact hs
    · intro u i hu
      with_reducible apply onQp_evolves
      · with_reducible apply freeStore_evolves
        exact hu
      · exact fun _ _ => ⟨fun h => Bool.noConfusion h, Nat.zero_le _⟩
  clear_value b
  exact onPorch_evolves' _ hb (mapAll_fits (fun _ q => { q with held := q.held.filter fun e => e.2.1 / 64 ≠ fn.val }) fun _ _ g => g)

theorem flr_evolves (fn : Fn) (hs : Evolves z s) : Evolves z (State.flr s fn) := settle_evolves (resetQps_evolves fn (killWhere_evolves _ hs))

theorem Qp.stop_fits (q : Qp) (g : q.fits) : q.stop.fits := by
  unfold Qp.stop; split
  · exact ⟨g.1, Nat.zero_le _⟩
  · exact g
theorem linkLost_evolves (hs : Evolves z s) : Evolves z (State.linkLost s) :=
  settle_evolves (onPorch_evolves' _ (killWhere_evolves _ hs) (mapAll_fits (fun _ q => q.stop) fun _ q g => Qp.stop_fits q g))

theorem execSqTailDoorbell_evolves (fn : Fn) (qp : QpNo) (v : W32) (hs : Evolves z s) : EvolvesOut z (execSqTailDoorbell fn qp v s) := by
  unfold execSqTailDoorbell
  repeat' first
    | with_reducible assumption
    | with_reducible apply woken_evolves
    | with_reducible apply sqTail_evolves

theorem execCqHeadDoorbell_evolves (fn : Fn) (qp : QpNo) (v : W32) (hs : Evolves z s) : EvolvesOut z (execCqHeadDoorbell fn qp v s) := by
  unfold execCqHeadDoorbell
  repeat' first
    | with_reducible assumption
    | with_reducible apply woken_evolves
    | with_reducible apply cqHead_evolves

theorem execOrHeadDoorbell_evolves (fn : Fn) (qp : QpNo) (v : W32) (hs : Evolves z s) : EvolvesOut z (execOrHeadDoorbell fn qp v s) := by
  unfold execOrHeadDoorbell
  repeat' first
    | with_reducible assumption
    | with_reducible apply woken_evolves
    | with_reducible apply orHead_evolves

theorem execQpEnable_evolves (fn : Fn) (qp : QpNo) (v : W32) (hs : Evolves z s) : EvolvesOut z (execQpEnable fn qp v s) := by
  unfold execQpEnable
  repeat' first
    | with_reducible assumption
    | with_reducible apply woken_evolves
    | with_reducible apply enableQp_evolves

theorem execQpDisable_evolves (fn : Fn) (qp : QpNo) (v : W32) (hs : Evolves z s) : EvolvesOut z (execQpDisable fn qp v s) := by
  unfold execQpDisable
  repeat' first
    | with_reducible assumption
    | with_reducible apply woken_evolves
    | with_reducible apply disableQp_evolves

theorem execQpDrainEnd_evolves (fn : Fn) (qp : QpNo) (hs : Evolves z s) : EvolvesOut z (execQpDrainEnd fn qp s) := by
  unfold execQpDrainEnd
  repeat' first
    | with_reducible assumption
    | with_reducible apply woken_evolves
    | with_reducible apply drainEnd_evolves

theorem execRingDmaFailure_evolves (fn : Fn) (qp : QpNo) (hs : Evolves z s) : EvolvesOut z (execRingDmaFailure fn qp s) := by
  unfold execRingDmaFailure
  repeat' first
    | with_reducible assumption
    | with_reducible apply woken_evolves
    | with_reducible apply dmaFails_evolves

theorem execCommandFetch_evolves (fn : Fn) (qp : QpNo) (hs : Evolves z s) : EvolvesOut z (execCommandFetch fn qp s) := by
  unfold execCommandFetch
  repeat' first
    | with_reducible assumption
    | with_reducible apply woken_evolves
    | with_reducible apply fetchNext_evolves

theorem execFunctionLevelReset_evolves (fn : Fn) (hs : Evolves z s) : EvolvesOut z (execFunctionLevelReset fn s) := by
  unfold execFunctionLevelReset
  repeat' first
    | with_reducible assumption
    | with_reducible apply woken_evolves
    | with_reducible apply flr_evolves

theorem execLinkLoss_evolves  (hs : Evolves z s) : EvolvesOut z (execLinkLoss s) := by
  unfold execLinkLoss
  repeat' first
    | with_reducible assumption
    | with_reducible apply woken_evolves
    | with_reducible apply linkLost_evolves

theorem execConfigRequest_evolves (vfs : Option (Fin 17)) (hs : Evolves z s) : EvolvesOut z (execConfigRequest vfs s) := by
  unfold execConfigRequest
  repeat' first
    | with_reducible assumption
    | with_reducible apply onPorch_evolves
    | with_reducible apply next_evolves
    | split
    | with_reducible rfl

end Sys2Proof.Machine
end

