-- ==== Sys2Proof/Laws/EvolveEvents.lean ====
section
/-! SUPPORT. What every operation keeps (Evolves): core programs, launches, retrieval, gathers, faults, power, service and the register rows. One lemma per operation, under the operation's name. -/

set_option linter.unusedTactic false
set_option linter.unreachableTactic false

namespace Sys2Proof.Machine

variable {z s : State}
/-! ## Machine/CoreOps.lean -/
theorem programFault_evolves (c : Nat) (hs : Evolves z s) : Evolves z (State.programFault s c) := by
  unfold State.programFault
  repeat' first
    | with_reducible assumption
    | with_reducible apply faultRec_evolves
    | with_reducible apply each_evolves
    | with_reducible apply endReq_evolves
    | with_reducible apply onPart_evolves
    | with_reducible apply onCore_evolves
    | with_reducible apply ok_evolves
    | with_reducible apply settle_evolves
    | with_reducible apply dueMoves_evolves
    | ((first | lift_lets -underBinder | skip); intro u; have hu : Evolves z u; (on_goal 1 => (dsimp only [u]; try clear u)); (on_goal 2 => clear_value u))
    | ((first | lift_lets -underBinder | skip); intro u; clear_value u)
    | split
    | (intro u; try intros)

/-! ## Machine/CoreUnits.lean -/
theorem xfer_evolves (p : Nat) (c : Nat) (w : Insn) (hs : Evolves z s) : EvolvesCore z (State.xfer s p c w) := by
  unfold State.xfer
  repeat' first
    | with_reducible assumption
    | with_reducible apply addrFault_evolves
    | with_reducible apply frameError_evolves
    | with_reducible apply regulate_evolves
    | with_reducible apply onCore_evolves
    | with_reducible apply done_evolves
    | with_reducible apply hold_evolves
    | with_reducible exact fault_evolves
    | with_reducible apply pair1_evolves
    | refine of_done (by assumption) ?_
    | refine of_hold (by assumption) ?_
    | refine of_jump (by assumption) ?_
    | with_reducible refine of_fst (by assumption) ?_
    | with_reducible refine fst_evolves (p := State.regulate _ _ _ _ _ _ _) ?_
    | ((first | lift_lets -underBinder | skip); intro u; have hu : Evolves z u; (on_goal 1 => (dsimp only [u]; try clear u)); (on_goal 2 => clear_value u))
    | ((first | lift_lets -underBinder | skip); intro u; clear_value u)
    | split

theorem mma_evolves (pq2 : Nat) (c : Nat) (w : Insn) (hs : Evolves z s) : EvolvesCore z (State.mma s pq2 c w) := by
  unfold State.mma
  repeat' first
    | with_reducible assumption
    | with_reducible apply onPwr_evolves
    | with_reducible apply onCore_evolves
    | with_reducible apply done_evolves
    | with_reducible apply hold_evolves
    | with_reducible exact fault_evolves
    | refine of_done (by assumption) ?_
    | refine of_hold (by assumption) ?_
    | refine of_jump (by assumption) ?_
    | ((first | lift_lets -underBinder | skip); intro u; have hu : Evolves z u; (on_goal 1 => (dsimp only [u]; try clear u)); (on_goal 2 => clear_value u))
    | ((first | lift_lets -underBinder | skip); intro u; clear_value u)
    | split
    | exact fun h => h
    | (intro u; try intros)

theorem rowState_evolves (c : Nat) (code : Nat) (addr : Nat) (hs : Evolves z s) : EvolvesFst z (State.rowState s c code addr) := by
  unfold State.rowState
  repeat' first
    | with_reducible assumption
    | with_reducible apply fresh_evolves
    | with_reducible apply pair1_evolves
    | with_reducible apply pair2_evolves
    | with_reducible refine of_fst (by assumption) ?_
    | with_reducible refine of_snd (by assumption) ?_
    | with_reducible refine snd_evolves (p := State.fresh _) ?_
    | split

theorem launchUnit_evolves (c : Nat) (sel : Bool) (reads : List (Nat × Nat)) (runs : List (Nat × Bytes)) (hs : Evolves z s) : Evolves z (State.launchUnit s c sel reads runs) := by
  unfold State.launchUnit
  repeat' first
    | with_reducible assumption
    | with_reducible apply onCore_evolves

theorem feedRows_evolves (c code : Nat) (first : Bool) (base : Nat) (l : List (Nat × List W32)) {r} (e : State.feedRows s c code first base l = some r)
    (hs : Evolves z s) : Evolves z r.1 := by
  induction l generalizing s r with
  | nil => cases e; exact hs
  | cons y l ih =>
    unfold State.feedRows at e
    simp only [] at e
    have h1 : Evolves z (if first = true then (s, 0, false, List.replicate 256 (laneInit code)) else s.rowState c code (base + y.1 * statSize code)).1 := by
      split
      · exact hs
      · exact rowState_evolves _ _ _ hs
    generalize (if first = true then (s, 0, false, List.replicate 256 (laneInit code)) else s.rowState c code (base + y.1 * statSize code)) = q at e h1
    obtain ⟨s1, n, nan, ls⟩ := q
    simp only [] at e
    split at e
    · cases e
    · split at e
      · cases e
      · rename_i e2
        have h2 := ih e2 (onCore_evolves _ _ h1)
        cases e; exact h2

theorem finishRows_evolves (c code src dst : Nat) (l : List Nat) (hs : Evolves z s) : EvolvesFst z (State.finishRows s c code src dst l) := by
  induction l generalizing s with
  | nil => exact pair1_evolves _ hs
  | cons i l ih =>
    unfold State.finishRows
    exact pair1_evolves _ (ih (rowState_evolves _ _ _ hs))

theorem sfu_evolves (pq2 : Nat) (c : Nat) (w : Insn) (hs : Evolves z s) : EvolvesCore z (State.sfu s pq2 c w) := by
  unfold State.sfu
  repeat' first
    | with_reducible assumption
    | with_reducible apply finishRows_evolves
    | with_reducible apply launchUnit_evolves
    | with_reducible apply done_evolves
    | with_reducible apply hold_evolves
    | with_reducible exact fault_evolves
    | with_reducible apply pair1_evolves
    | refine of_done (by assumption) ?_
    | refine of_hold (by assumption) ?_
    | refine of_jump (by assumption) ?_
    | with_reducible refine of_fst (by assumption) ?_
    | with_reducible refine fst_evolves (p := State.finishRows _ _ _ _ _ _) ?_
    | exact feedRows_evolves _ _ _ _ _ (by assumption) hs
    | ((first | lift_lets -underBinder | skip); intro u; have hu : Evolves z u; (on_goal 1 => (dsimp only [u]; try clear u)); (on_goal 2 => clear_value u))
    | ((first | lift_lets -underBinder | skip); intro u; clear_value u)
    | split

theorem vec_evolves (pq2 : Nat) (c : Nat) (w : Insn) (hs : Evolves z s) : EvolvesCore z (State.vec s pq2 c w) := by
  unfold State.vec
  repeat' first
    | with_reducible assumption
    | with_reducible apply fresh_evolves
    | with_reducible apply launchUnit_evolves
    | with_reducible apply done_evolves
    | with_reducible apply hold_evolves
    | with_reducible exact fault_evolves
    | with_reducible apply pair2_evolves
    | refine of_done (by assumption) ?_
    | refine of_hold (by assumption) ?_
    | refine of_jump (by assumption) ?_
    | with_reducible refine of_snd (by assumption) ?_
    | with_reducible refine snd_evolves (p := State.fresh _) ?_
    | ((first | lift_lets -underBinder | skip); intro u; have hu : Evolves z u; (on_goal 1 => (dsimp only [u]; try clear u)); (on_goal 2 => clear_value u))
    | ((first | lift_lets -underBinder | skip); intro u; clear_value u)
    | split

theorem sel_evolves (pq2 : Nat) (c : Nat) (w : Insn) (hs : Evolves z s) : EvolvesCore z (State.sel s pq2 c w) := by
  unfold State.sel
  repeat' first
    | with_reducible assumption
    | with_reducible apply launchUnit_evolves
    | with_reducible apply done_evolves
    | with_reducible apply hold_evolves
    | with_reducible exact fault_evolves
    | refine of_done (by assumption) ?_
    | refine of_hold (by assumption) ?_
    | refine of_jump (by assumption) ?_
    | ((first | lift_lets -underBinder | skip); intro u; have hu : Evolves z u; (on_goal 1 => (dsimp only [u]; try clear u)); (on_goal 2 => clear_value u))
    | ((first | lift_lets -underBinder | skip); intro u; clear_value u)
    | split

/-! ## Machine/CoreSeq.lean -/
theorem signal_evolves (p : Nat) (c : Nat) (w : Insn) (hs : Evolves z s) : EvolvesCore z (State.signal s p c w) := by
  unfold State.signal
  repeat' first
    | with_reducible assumption
    | with_reducible apply onCore_evolves
    | with_reducible apply done_evolves
    | refine of_done (by assumption) ?_
    | refine of_hold (by assumption) ?_
    | refine of_jump (by assumption) ?_
    | ((first | lift_lets -underBinder | skip); intro u; have hu : Evolves z u; (on_goal 1 => (dsimp only [u]; try clear u)); (on_goal 2 => clear_value u))
    | ((first | lift_lets -underBinder | skip); intro u; clear_value u)
    | split

theorem wait_evolves (pq2 : Nat) (c : Nat) (w : Insn) (hs : Evolves z s) : EvolvesCore z (State.wait s pq2 c w) := by
  unfold State.wait
  repeat' first
    | with_reducible assumption
    | with_reducible apply onCore_evolves
    | with_reducible apply done_evolves
    | with_reducible apply hold_evolves
    | refine of_done (by assumption) ?_
    | refine of_hold (by assumption) ?_
    | refine of_jump (by assumption) ?_
    | ((first | lift_lets -underBinder | skip); intro u; have hu : Evolves z u; (on_goal 1 => (dsimp only [u]; try clear u)); (on_goal 2 => clear_value u))
    | ((first | lift_lets -underBinder | skip); intro u; clear_value u)
    | split

theorem barrier_evolves (p : Nat) (c : Nat) (w : Insn) (hs : Evolves z s) : EvolvesCore z (State.barrier s p c w) := by
  unfold State.barrier
  repeat' first
    | with_reducible assumption
    | with_reducible apply each_evolves
    | with_reducible apply onCore_evolves
    | with_reducible apply done_evolves
    | with_reducible apply hold_evolves
    | with_reducible exact fault_evolves
    | refine of_done (by assumption) ?_
    | refine of_hold (by assumption) ?_
    | refine of_jump (by assumption) ?_
    | ((first | lift_lets -underBinder | skip); intro u; have hu : Evolves z u; (on_goal 1 => (dsimp only [u]; try clear u)); (on_goal 2 => clear_value u))
    | ((first | lift_lets -underBinder | skip); intro u; clear_value u)
    | split
    | (intro u; try intros)

theorem fenceSync_evolves (pq2 : Nat) (c : Nat) (wq4 : Insn) (hs : Evolves z s) : EvolvesCore z (State.fenceSync s pq2 c wq4) := by
  unfold State.fenceSync
  repeat' first
    | with_reducible assumption
    | with_reducible apply done_evolves
    | with_reducible apply hold_evolves
    | refine of_done (by assumption) ?_
    | refine of_hold (by assumption) ?_
    | refine of_jump (by assumption) ?_
    | split

theorem loopCtrl_evolves (c : Nat) (n : Nat) (len : Nat) (hs : Evolves z s) : EvolvesCore z (State.loopCtrl s c n len) := by
  unfold State.loopCtrl
  repeat' first
    | with_reducible assumption
    | with_reducible apply onCore_evolves
    | with_reducible apply jump_evolves
    | refine of_done (by assumption) ?_
    | refine of_hold (by assumption) ?_
    | refine of_jump (by assumption) ?_
    | ((first | lift_lets -underBinder | skip); intro u; have hu : Evolves z u; (on_goal 1 => (dsimp only [u]; try clear u)); (on_goal 2 => clear_value u))
    | ((first | lift_lets -underBinder | skip); intro u; clear_value u)
    | split

theorem setScalar_evolves (c : Nat) (r : Nat) (v : Nat) (hs : Evolves z s) : EvolvesCore z (State.setScalar s c r v) := by
  unfold State.setScalar
  repeat' first
    | with_reducible assumption
    | with_reducible apply onCore_evolves
    | with_reducible apply done_evolves
    | refine of_done (by assumption) ?_
    | refine of_hold (by assumption) ?_
    | refine of_jump (by assumption) ?_

theorem ctrl_evolves (pq2 : Nat) (c : Nat) (w : Insn) (hs : Evolves z s) : EvolvesCore z (State.ctrl s pq2 c w) := by
  unfold State.ctrl
  repeat' first
    | with_reducible assumption
    | with_reducible apply setScalar_evolves
    | with_reducible apply loopCtrl_evolves
    | with_reducible apply onCore_evolves
    | with_reducible apply done_evolves
    | with_reducible apply hold_evolves
    | with_reducible apply jump_evolves
    | with_reducible exact fault_evolves
    | refine of_done (by assumption) ?_
    | refine of_hold (by assumption) ?_
    | refine of_jump (by assumption) ?_
    | ((first | lift_lets -underBinder | skip); intro u; have hu : Evolves z u; (on_goal 1 => (dsimp only [u]; try clear u)); (on_goal 2 => clear_value u))
    | ((first | lift_lets -underBinder | skip); intro u; clear_value u)
    | split

theorem markInsn_evolves (pq2 : Nat) (c : Nat) (w : Insn) (hs : Evolves z s) : EvolvesCore z (State.markInsn s pq2 c w) := by
  unfold State.markInsn
  repeat' first
    | with_reducible assumption
    | with_reducible apply onCore_evolves
    | with_reducible apply done_evolves
    | refine of_done (by assumption) ?_
    | refine of_hold (by assumption) ?_
    | refine of_jump (by assumption) ?_
    | split

theorem perform_evolves (p : Nat) (c : Nat) (w : Insn) (hs : Evolves z s) : EvolvesCore z (State.perform s p c w) := by
  unfold State.perform
  repeat' first
    | with_reducible assumption
    | with_reducible apply xfer_evolves
    | with_reducible apply mma_evolves
    | with_reducible apply sfu_evolves
    | with_reducible apply vec_evolves
    | with_reducible apply sel_evolves
    | with_reducible apply signal_evolves
    | with_reducible apply wait_evolves
    | with_reducible apply barrier_evolves
    | with_reducible apply fenceSync_evolves
    | with_reducible apply ctrl_evolves
    | with_reducible apply markInsn_evolves
    | with_reducible exact fault_evolves
    | refine of_done (by assumption) ?_
    | refine of_hold (by assumption) ?_
    | refine of_jump (by assumption) ?_
    | split

theorem after_evolves (c : Nat) (w : Insn) {x : CoreStep} (hx : EvolvesCore z x) (hs : Evolves z s) : Evolves z (State.after s c w x) := by
  unfold State.after
  split
  · exact programFault_evolves _ hs
  · exact onCore_evolves _ _ hx
  · exact onCore_evolves _ _ hx
  · exact onCore_evolves _ _ hx

theorem seen_evolves (c : Nat) (hs : Evolves z s) : Evolves z (State.seen s c) := by
  unfold State.seen
  repeat' first
    | with_reducible assumption
    | with_reducible apply fresh_evolves
    | with_reducible apply onMem_evolves
    | with_reducible apply onCore_evolves
    | with_reducible apply pair2_evolves
    | with_reducible refine of_snd (by assumption) ?_
    | with_reducible refine snd_evolves (p := State.fresh _) ?_
    | exact fun h => writeRuns_wf _ h
    | ((first | lift_lets -underBinder | skip); intro u; have hu : Evolves z u; (on_goal 1 => (dsimp only [u]; try clear u)); (on_goal 2 => clear_value u))
    | ((first | lift_lets -underBinder | skip); intro u; clear_value u)
    | split
    | exact fun h => h
    | (intro u; try intros)

theorem unseen_evolves (c : Nat) {t : State} (ht : Evolves z t) (hs : Evolves z s) : Evolves z (State.unseen t s c) := by
  unfold State.unseen
  exact onCore_evolves _ _ ⟨ht.pending, ht.ident, ht.host, hs.bytes, ht.fuses, ht.svn, ht.box, ht.rings, ht.power⟩

theorem performSeen_evolves (p : Nat) (c : Nat) (w : Insn) (hs : Evolves z s) : EvolvesCore z (State.performSeen s p c w) := by
  unfold State.performSeen
  split
  · exact perform_evolves _ _ _ hs
  · have h := perform_evolves p c w (seen_evolves c hs)
    split
    · exact fault_evolves
    · exact hold_evolves (unseen_evolves _ (of_hold ‹_› h) hs)
    · exact done_evolves (unseen_evolves _ (of_done ‹_› h) hs)
    · exact jump_evolves _ (unseen_evolves _ (of_jump ‹_› h) hs)

theorem run_evolves (c : Nat) (w : Insn) (hs : Evolves z s) : Evolves z (State.run s c w) := by
  unfold State.run
  split
  · exact after_evolves _ _ (performSeen_evolves _ _ _ hs) hs
  · exact hs

theorem issue_evolves (c : Nat) (cls : Nat) (op : Nat) (w : Insn) (hs : Evolves z s) : Evolves z (State.issue s c cls op w) := by
  unfold State.issue
  repeat' first
    | with_reducible assumption
    | with_reducible apply run_evolves
    | split

theorem tryHeld_evolves (c : Nat) (hs : Evolves z s) : Evolves z (State.tryHeld s c) := by
  unfold State.tryHeld
  repeat' first
    | with_reducible assumption
    | with_reducible apply run_evolves
    | split

theorem xferDone_evolves (c : Nat) (hs : Evolves z s) : Evolves z (State.xferDone s c) := by
  unfold State.xferDone
  repeat' first
    | with_reducible assumption
    | with_reducible apply onMem_evolves
    | with_reducible apply onCore_evolves
    | with_reducible apply fresh_evolves
    | with_reducible apply tryHeld_evolves
    | with_reducible apply pair2_evolves
    | with_reducible refine of_snd (by assumption) ?_
    | with_reducible refine snd_evolves (p := State.fresh _) ?_
    | exact fun h => writeRuns_wf _ h
    | exact fun h => Mem.wf_foldl (fun _ _ h => Mem.wf_writeN _ _ h) _ h
    | ((first | lift_lets -underBinder | skip); intro u; have hu : Evolves z u; (on_goal 1 => (dsimp only [u]; try clear u)); (on_goal 2 => clear_value u))
    | ((first | lift_lets -underBinder | skip); intro u; clear_value u)
    | split
    | exact fun h => h
    | (intro u; try intros)

theorem unitDone_evolves (c : Nat) (hs : Evolves z s) : Evolves z (State.unitDone s c) := by
  unfold State.unitDone
  repeat' first
    | with_reducible assumption
    | with_reducible apply onMem_evolves
    | with_reducible apply tryHeld_evolves
    | with_reducible apply onCore_evolves
    | exact fun h => writeRuns_wf _ h
    | exact fun h => Mem.wf_foldl (fun _ _ h => Mem.wf_writeN _ _ h) _ h
    | ((first | lift_lets -underBinder | skip); intro u; have hu : Evolves z u; (on_goal 1 => (dsimp only [u]; try clear u)); (on_goal 2 => clear_value u))
    | ((first | lift_lets -underBinder | skip); intro u; clear_value u)
    | split
    | exact fun h => h
    | (intro u; try intros)

theorem passDone_evolves (c : Nat) (e : Nat) (hs : Evolves z s) : Evolves z (State.passDone s c e) := by
  unfold State.passDone
  repeat' first
    | with_reducible assumption
    | with_reducible apply tryHeld_evolves
    | with_reducible apply onCore_evolves
    | ((first | lift_lets -underBinder | skip); intro u; have hu : Evolves z u; (on_goal 1 => (dsimp only [u]; try clear u)); (on_goal 2 => clear_value u))
    | ((first | lift_lets -underBinder | skip); intro u; clear_value u)
    | split

theorem signalDone_evolves (c : Nat) (hs : Evolves z s) : Evolves z (State.signalDone s c) := by
  unfold State.signalDone
  repeat' first
    | with_reducible assumption
    | with_reducible apply onCore_evolves
    | with_reducible apply programFault_evolves
    | with_reducible apply tryHeld_evolves
    | ((first | lift_lets -underBinder | skip); intro u; have hu : Evolves z u; (on_goal 1 => (dsimp only [u]; try clear u)); (on_goal 2 => clear_value u))
    | ((first | lift_lets -underBinder | skip); intro u; clear_value u)
    | split

theorem zeroDead_evolves (c : Nat) (banks : BitVec 48) (groups : BitVec 32) (hs : Evolves z s) : Evolves z (State.zeroDead s c banks groups) := by
  unfold State.zeroDead
  repeat' first
    | with_reducible assumption
    | with_reducible apply onMem_evolves
    | with_reducible apply onCore_evolves
    | exact fun h => Mem.wf_zero _ _ h
    | exact fun h => Mem.wf_foldl (fun _ _ h => Mem.wf_zero _ _ h) _ h
    | ((first | lift_lets -underBinder | skip); intro u; have hu : Evolves z u; (on_goal 1 => (dsimp only [u]; try clear u)); (on_goal 2 => clear_value u))
    | ((first | lift_lets -underBinder | skip); intro u; clear_value u)
    | exact fun h => h
    | (intro u; try intros)

theorem saveCore_evolves (p : Nat) (c : Nat) (banks : BitVec 48) (groups : BitVec 32) (hs : Evolves z s) : Evolves z (State.saveCore s p c banks groups) := by
  unfold State.saveCore
  repeat' first
    | with_reducible assumption
    | with_reducible apply onMem_evolves
    | with_reducible apply spendExempt_evolves
    | exact fun h => writeRuns_wf _ h
    | exact fun h => copyRuns_wf _ h
    | exact fun h => zeroRuns_wf _ h
    | exact fun h => writeRuns_wf _ (zeroRuns_wf _ (copyRuns_wf _ h))
    | ((first | lift_lets -underBinder | skip); intro u; have hu : Evolves z u; (on_goal 1 => (dsimp only [u]; try clear u)); (on_goal 2 => clear_value u))
    | ((first | lift_lets -underBinder | skip); intro u; clear_value u)
    | exact fun h => h
    | (intro u; try intros)

theorem testMove_evolves (c : Nat) (carry : Bool) (hs : Evolves z s) : Evolves z (State.testMove s c carry) := by
  unfold State.testMove
  repeat' first
    | with_reducible assumption
    | with_reducible apply wakeDom_evolves
    | with_reducible apply moveCore_evolves
    | split

theorem preemptSave_evolves (c : Nat) (hs : Evolves z s) : Evolves z (State.preemptSave s c) := by
  unfold State.preemptSave
  repeat' first
    | with_reducible assumption
    | with_reducible apply zeroDead_evolves
    | with_reducible apply saveCore_evolves
    | with_reducible apply onCore_evolves
    | with_reducible apply onPart_evolves
    | with_reducible apply onSch_evolves
    | with_reducible apply testMove_evolves
    | with_reducible apply dueMove_evolves
    | ((first | lift_lets -underBinder | skip); intro u; have hu : Evolves z u; (on_goal 1 => (dsimp only [u]; try clear u)); (on_goal 2 => clear_value u))
    | ((first | lift_lets -underBinder | skip); intro u; clear_value u)
    | split

theorem execXferCopy_evolves (core : CoreNo) (w : Insn) (hs : Evolves z s) : EvolvesOut z (execXferCopy core w s) := by
  unfold execXferCopy
  repeat' first
    | with_reducible assumption
    | with_reducible apply woken_evolves
    | with_reducible apply issue_evolves

theorem execXferDecompress_evolves (core : CoreNo) (w : Insn) (hs : Evolves z s) : EvolvesOut z (execXferDecompress core w s) := by
  unfold execXferDecompress
  repeat' first
    | with_reducible assumption
    | with_reducible apply woken_evolves
    | with_reducible apply issue_evolves

theorem execXferZeroFill_evolves (core : CoreNo) (w : Insn) (hs : Evolves z s) : EvolvesOut z (execXferZeroFill core w s) := by
  unfold execXferZeroFill
  repeat' first
    | with_reducible assumption
    | with_reducible apply woken_evolves
    | with_reducible apply issue_evolves

theorem execMmaPass_evolves (core : CoreNo) (w : Insn) (hs : Evolves z s) : EvolvesOut z (execMmaPass core w s) := by
  unfold execMmaPass
  repeat' first
    | with_reducible assumption
    | with_reducible apply woken_evolves
    | with_reducible apply issue_evolves

theorem execSfuFused_evolves (core : CoreNo) (w : Insn) (hs : Evolves z s) : EvolvesOut z (execSfuFused core w s) := by
  unfold execSfuFused
  repeat' first
    | with_reducible assumption
    | with_reducible apply woken_evolves
    | with_reducible apply issue_evolves

theorem execSfuStatsFeed_evolves (core : CoreNo) (w : Insn) (hs : Evolves z s) : EvolvesOut z (execSfuStatsFeed core w s) := by
  unfold execSfuStatsFeed
  repeat' first
    | with_reducible assumption
    | with_reducible apply woken_evolves
    | with_reducible apply issue_evolves

theorem execSfuStatsFinish_evolves (core : CoreNo) (w : Insn) (hs : Evolves z s) : EvolvesOut z (execSfuStatsFinish core w s) := by
  unfold execSfuStatsFinish
  repeat' first
    | with_reducible assumption
    | with_reducible apply woken_evolves
    | with_reducible apply issue_evolves

theorem execSfuStatsFirst_evolves (core : CoreNo) (w : Insn) (hs : Evolves z s) : EvolvesOut z (execSfuStatsFirst core w s) := by
  unfold execSfuStatsFirst
  repeat' first
    | with_reducible assumption
    | with_reducible apply woken_evolves
    | with_reducible apply issue_evolves

theorem execVecAdd_evolves (core : CoreNo) (w : Insn) (hs : Evolves z s) : EvolvesOut z (execVecAdd core w s) := by
  unfold execVecAdd
  repeat' first
    | with_reducible assumption
    | with_reducible apply woken_evolves
    | with_reducible apply issue_evolves

theorem execVecSubtract_evolves (core : CoreNo) (w : Insn) (hs : Evolves z s) : EvolvesOut z (execVecSubtract core w s) := by
  unfold execVecSubtract
  repeat' first
    | with_reducible assumption
    | with_reducible apply woken_evolves
    | with_reducible apply issue_evolves

theorem execVecMultiply_evolves (core : CoreNo) (w : Insn) (hs : Evolves z s) : EvolvesOut z (execVecMultiply core w s) := by
  unfold execVecMultiply
  repeat' first
    | with_reducible assumption
    | with_reducible apply woken_evolves
    | with_reducible apply issue_evolves

theorem execVecMaximum_evolves (core : CoreNo) (w : Insn) (hs : Evolves z s) : EvolvesOut z (execVecMaximum core w s) := by
  unfold execVecMaximum
  repeat' first
    | with_reducible assumption
    | with_reducible apply woken_evolves
    | with_reducible apply issue_evolves

theorem execVecMinimum_evolves (core : CoreNo) (w : Insn) (hs : Evolves z s) : EvolvesOut z (execVecMinimum core w s) := by
  unfold execVecMinimum
  repeat' first
    | with_reducible assumption
    | with_reducible apply woken_evolves
    | with_reducible apply issue_evolves

theorem execVecConvert_evolves (core : CoreNo) (w : Insn) (hs : Evolves z s) : EvolvesOut z (execVecConvert core w s) := by
  unfold execVecConvert
  repeat' first
    | with_reducible assumption
    | with_reducible apply woken_evolves
    | with_reducible apply issue_evolves

theorem execVecAbsolute_evolves (core : CoreNo) (w : Insn) (hs : Evolves z s) : EvolvesOut z (execVecAbsolute core w s) := by
  unfold execVecAbsolute
  repeat' first
    | with_reducible assumption
    | with_reducible apply woken_evolves
    | with_reducible apply issue_evolves

theorem execVecSelect_evolves (core : CoreNo) (w : Insn) (hs : Evolves z s) : EvolvesOut z (execVecSelect core w s) := by
  unfold execVecSelect
  repeat' first
    | with_reducible assumption
    | with_reducible apply woken_evolves
    | with_reducible apply issue_evolves

theorem execSelPass_evolves (core : CoreNo) (w : Insn) (hs : Evolves z s) : EvolvesOut z (execSelPass core w s) := by
  unfold execSelPass
  repeat' first
    | with_reducible assumption
    | with_reducible apply woken_evolves
    | with_reducible apply issue_evolves

theorem execSelMerge_evolves (core : CoreNo) (w : Insn) (hs : Evolves z s) : EvolvesOut z (execSelMerge core w s) := by
  unfold execSelMerge
  repeat' first
    | with_reducible assumption
    | with_reducible apply woken_evolves
    | with_reducible apply issue_evolves

theorem execSyncSignal_evolves (core : CoreNo) (w : Insn) (hs : Evolves z s) : EvolvesOut z (execSyncSignal core w s) := by
  unfold execSyncSignal
  repeat' first
    | with_reducible assumption
    | with_reducible apply woken_evolves
    | with_reducible apply issue_evolves

theorem execSyncWait_evolves (core : CoreNo) (w : Insn) (hs : Evolves z s) : EvolvesOut z (execSyncWait core w s) := by
  unfold execSyncWait
  repeat' first
    | with_reducible assumption
    | with_reducible apply woken_evolves
    | with_reducible apply issue_evolves

theorem execSyncBarrier_evolves (core : CoreNo) (w : Insn) (hs : Evolves z s) : EvolvesOut z (execSyncBarrier core w s) := by
  unfold execSyncBarrier
  repeat' first
    | with_reducible assumption
    | with_reducible apply woken_evolves
    | with_reducible apply issue_evolves

theorem execSyncFence_evolves (core : CoreNo) (w : Insn) (hs : Evolves z s) : EvolvesOut z (execSyncFence core w s) := by
  unfold execSyncFence
  repeat' first
    | with_reducible assumption
    | with_reducible apply woken_evolves
    | with_reducible apply issue_evolves

theorem execNop_evolves (core : CoreNo) (w : Insn) (hs : Evolves z s) : EvolvesOut z (execNop core w s) := by
  unfold execNop
  repeat' first
    | with_reducible assumption
    | with_reducible apply woken_evolves
    | with_reducible apply issue_evolves

theorem execLoadi_evolves (core : CoreNo) (w : Insn) (hs : Evolves z s) : EvolvesOut z (execLoadi core w s) := by
  unfold execLoadi
  repeat' first
    | with_reducible assumption
    | with_reducible apply woken_evolves
    | with_reducible apply issue_evolves

theorem execLoadp_evolves (core : CoreNo) (w : Insn) (hs : Evolves z s) : EvolvesOut z (execLoadp core w s) := by
  unfold execLoadp
  repeat' first
    | with_reducible assumption
    | with_reducible apply woken_evolves
    | with_reducible apply issue_evolves

theorem execAddi_evolves (core : CoreNo) (w : Insn) (hs : Evolves z s) : EvolvesOut z (execAddi core w s) := by
  unfold execAddi
  repeat' first
    | with_reducible assumption
    | with_reducible apply woken_evolves
    | with_reducible apply issue_evolves

theorem execCtrlAdd_evolves (core : CoreNo) (w : Insn) (hs : Evolves z s) : EvolvesOut z (execCtrlAdd core w s) := by
  unfold execCtrlAdd
  repeat' first
    | with_reducible assumption
    | with_reducible apply woken_evolves
    | with_reducible apply issue_evolves

theorem execMuli_evolves (core : CoreNo) (w : Insn) (hs : Evolves z s) : EvolvesOut z (execMuli core w s) := by
  unfold execMuli
  repeat' first
    | with_reducible assumption
    | with_reducible apply woken_evolves
    | with_reducible apply issue_evolves

theorem execLoop_evolves (core : CoreNo) (w : Insn) (hs : Evolves z s) : EvolvesOut z (execLoop core w s) := by
  unfold execLoop
  repeat' first
    | with_reducible assumption
    | with_reducible apply woken_evolves
    | with_reducible apply issue_evolves

theorem execLoopr_evolves (core : CoreNo) (w : Insn) (hs : Evolves z s) : EvolvesOut z (execLoopr core w s) := by
  unfold execLoopr
  repeat' first
    | with_reducible assumption
    | with_reducible apply woken_evolves
    | with_reducible apply issue_evolves

theorem execBranch_evolves (core : CoreNo) (w : Insn) (hs : Evolves z s) : EvolvesOut z (execBranch core w s) := by
  unfold execBranch
  repeat' first
    | with_reducible assumption
    | with_reducible apply woken_evolves
    | with_reducible apply issue_evolves

theorem execSetseg_evolves (core : CoreNo) (w : Insn) (hs : Evolves z s) : EvolvesOut z (execSetseg core w s) := by
  unfold execSetseg
  repeat' first
    | with_reducible assumption
    | with_reducible apply woken_evolves
    | with_reducible apply issue_evolves

theorem execEndProgram_evolves (core : CoreNo) (w : Insn) (hs : Evolves z s) : EvolvesOut z (execEndProgram core w s) := by
  unfold execEndProgram
  repeat' first
    | with_reducible assumption
    | with_reducible apply woken_evolves
    | with_reducible apply issue_evolves

theorem execMark_evolves (core : CoreNo) (w : Insn) (hs : Evolves z s) : EvolvesOut z (execMark core w s) := by
  unfold execMark
  repeat' first
    | with_reducible assumption
    | with_reducible apply woken_evolves
    | with_reducible apply issue_evolves

theorem execXferComplete_evolves (core : CoreNo) (hs : Evolves z s) : EvolvesOut z (execXferComplete core s) := by
  unfold execXferComplete
  repeat' first
    | with_reducible assumption
    | with_reducible apply woken_evolves
    | with_reducible apply xferDone_evolves

theorem execPassLastWrite_evolves (core : CoreNo) (engine : Fin 4) (hs : Evolves z s) : EvolvesOut z (execPassLastWrite core engine s) := by
  unfold execPassLastWrite
  repeat' first
    | with_reducible assumption
    | with_reducible apply woken_evolves
    | with_reducible apply passDone_evolves

theorem execSfuVecSelComplete_evolves (core : CoreNo) (hs : Evolves z s) : EvolvesOut z (execSfuVecSelComplete core s) := by
  unfold execSfuVecSelComplete
  repeat' first
    | with_reducible assumption
    | with_reducible apply woken_evolves
    | with_reducible apply unitDone_evolves

theorem execSignalTakeEffect_evolves (core : CoreNo) (hs : Evolves z s) : EvolvesOut z (execSignalTakeEffect core s) := by
  unfold execSignalTakeEffect
  repeat' first
    | with_reducible assumption
    | with_reducible apply woken_evolves
    | with_reducible apply signalDone_evolves

theorem execActivityDecay_evolves (core : CoreNo) (engine : Fin 4) (hs : Evolves z s) : EvolvesOut z (execActivityDecay core engine s) := by
  unfold execActivityDecay
  repeat' first
    | with_reducible assumption
    | with_reducible apply fresh_evolves
    | with_reducible apply onCore_evolves
    | with_reducible apply next_evolves
    | with_reducible apply pair2_evolves
    | with_reducible refine of_snd (by assumption) ?_
    | with_reducible refine snd_evolves (p := State.fresh _) ?_
    | split

theorem execDroopStretch_evolves (core : CoreNo) (hs : Evolves z s) : EvolvesOut z (execDroopStretch core s) := by
  unfold execDroopStretch
  repeat' first
    | with_reducible assumption
    | with_reducible apply onCore_evolves
    | with_reducible apply next_evolves
    | split

theorem execStretchExit_evolves (core : CoreNo) (hs : Evolves z s) : EvolvesOut z (execStretchExit core s) := by
  unfold execStretchExit
  repeat' first
    | with_reducible assumption
    | with_reducible apply onCore_evolves
    | with_reducible apply next_evolves

theorem execPreemptSave_evolves (core : CoreNo) (hs : Evolves z s) : EvolvesOut z (execPreemptSave core s) := by
  unfold execPreemptSave
  repeat' first
    | with_reducible assumption
    | with_reducible apply woken_evolves
    | with_reducible apply preemptSave_evolves

theorem execPreemptWatchdog_evolves (core : CoreNo) (hs : Evolves z s) : EvolvesOut z (execPreemptWatchdog core s) := by
  unfold execPreemptWatchdog
  repeat' first
    | with_reducible assumption
    | with_reducible apply woken_evolves
    | with_reducible apply programFault_evolves
    | split

theorem execSequencerWatchdog_evolves (core : CoreNo) (hs : Evolves z s) : EvolvesOut z (execSequencerWatchdog core s) := by
  unfold execSequencerWatchdog
  repeat' first
    | with_reducible assumption
    | with_reducible apply woken_evolves
    | with_reducible apply faultRec_evolves
    | with_reducible apply abandonStep_evolves
    | with_reducible apply onCore_evolves
    | with_reducible apply retireCore_evolves
    | with_reducible apply settle_evolves
    | with_reducible apply dueMoves_evolves
    | ((first | lift_lets -underBinder | skip); intro u; have hu : Evolves z u; (on_goal 1 => (dsimp only [u]; try clear u)); (on_goal 2 => clear_value u))
    | ((first | lift_lets -underBinder | skip); intro u; clear_value u)
    | split

/-! ## Machine/LaunchEvents.lean -/
theorem launchStart_evolves (p : Nat) (hs : Evolves z s) : Evolves z (State.launchStart s p) := by
  unfold State.launchStart
  repeat' first
    | with_reducible assumption
    | with_reducible apply settle_evolves
    | with_reducible apply tryBoundary_evolves
    | with_reducible apply streamFill_evolves
    | with_reducible apply onPart_evolves
    | with_reducible apply each_evolves
    | with_reducible apply endReq_evolves
    | with_reducible apply fresh_evolves
    | with_reducible apply onCore_evolves
    | with_reducible apply onMem_evolves
    | with_reducible apply pair2_evolves
    | with_reducible refine of_snd (by assumption) ?_
    | with_reducible refine snd_evolves (p := State.fresh _) ?_
    | exact fun h => Mem.wf_foldl (fun _ _ h => Mem.wf_writeN _ _ h) _ h
    | ((first | lift_lets -underBinder | skip); intro u; have hv : ∀ a, Evolves z a → Evolves z (u a); (on_goal 1 => (dsimp only [u]; clear u)); (on_goal 2 => clear_value u))
    | with_reducible apply hv
    | ((first | lift_lets -underBinder | skip); intro u; have hu : Evolves z u; (on_goal 1 => (dsimp only [u]; try clear u)); (on_goal 2 => clear_value u))
    | ((first | lift_lets -underBinder | skip); intro u; clear_value u)
    | split
    | exact fun h => h
    | (intro u; try intros)

theorem launchEnd_evolves (p : Nat) (cycles : Nat) (outs : List LaunchOut) (hs : Evolves z s) : Evolves z (State.launchEnd s p cycles outs) := by
  unfold State.launchEnd
  repeat' first
    | with_reducible assumption
    | with_reducible apply onPart_evolves
    | with_reducible apply each_evolves
    | with_reducible apply onCore_evolves
    | with_reducible apply testMove_evolves
    | with_reducible apply dueMove_evolves
    | with_reducible apply settle_evolves
    | with_reducible apply tryBoundary_evolves
    | with_reducible apply streamFill_evolves
    | ((first | lift_lets -underBinder | skip); intro u; have hu : Evolves z u; (on_goal 1 => (dsimp only [u]; try clear u)); (on_goal 2 => clear_value u))
    | ((first | lift_lets -underBinder | skip); intro u; clear_value u)
    | split
    | (intro u; try intros)

theorem layerLanded_evolves (p : Nat) (place : Nat) (crcOk : Bool) (hs : Evolves z s) : Evolves z (State.layerLanded s p place crcOk) := by
  unfold State.layerLanded
  repeat' first
    | with_reducible assumption
    | with_reducible apply onPart_evolves
    | with_reducible apply streamFill_evolves
    | with_reducible apply frameError_evolves
    | ((first | lift_lets -underBinder | skip); intro u; have hv : ∀ a b, Evolves z a → Evolves z (u a b); (on_goal 1 => (dsimp only [u]; clear u)); (on_goal 2 => clear_value u))
    | with_reducible apply hv
    | ((first | lift_lets -underBinder | skip); intro u; have hu : Evolves z u; (on_goal 1 => (dsimp only [u]; try clear u)); (on_goal 2 => clear_value u))
    | ((first | lift_lets -underBinder | skip); intro u; clear_value u)
    | split
    | (intro u; try intros)

theorem pagerTransferDone_evolves (p : Nat) (hs : Evolves z s) : Evolves z (State.pagerTransferDone s p) := by
  unfold State.pagerTransferDone
  repeat' first
    | with_reducible assumption
    | with_reducible apply pagerDone_evolves
    | with_reducible apply boundary_evolves
    | with_reducible apply pagerNext_evolves
    | with_reducible apply settle_evolves
    | with_reducible apply drainWindows_evolves
    | ((first | lift_lets -underBinder | skip); intro u; have hu : Evolves z u; (on_goal 1 => (dsimp only [u]; try clear u)); (on_goal 2 => clear_value u))
    | ((first | lift_lets -underBinder | skip); intro u; clear_value u)
    | split

theorem regulatedStart_evolves (p : Nat) (res : Nat) (hs : Evolves z s) : Evolves z (State.regulatedStart s p res) := by
  unfold State.regulatedStart
  repeat' first
    | with_reducible assumption
    | with_reducible apply onPart_evolves
    | with_reducible apply mayTransfer_evolves
    | with_reducible apply spend_evolves
    | with_reducible apply onCore_evolves
    | with_reducible apply issueScan_evolves
    | with_reducible apply issueFetch_evolves
    | with_reducible apply pair1_evolves
    | with_reducible refine of_fst (by assumption) ?_
    | with_reducible refine fst_evolves (p := State.mayTransfer _ _ _ _ _) ?_
    | ((first | lift_lets -underBinder | skip); intro u; have hu : Evolves z u; (on_goal 1 => (dsimp only [u]; try clear u)); (on_goal 2 => clear_value u))
    | ((first | lift_lets -underBinder | skip); intro u; clear_value u)
    | split

theorem execLaunchStart_evolves (part : PartNo) (hs : Evolves z s) : EvolvesOut z (execLaunchStart part s) := by
  unfold execLaunchStart
  repeat' first
    | with_reducible assumption
    | with_reducible apply woken_evolves
    | with_reducible apply launchStart_evolves

theorem execLaunchEnd_evolves (part : PartNo) (cycles : W64) (outs : List LaunchOut) (hs : Evolves z s) : EvolvesOut z (execLaunchEnd part cycles outs s) := by
  unfold execLaunchEnd
  repeat' first
    | with_reducible assumption
    | with_reducible apply woken_evolves
    | with_reducible apply launchEnd_evolves

theorem execLayerLanded_evolves (part : PartNo) (place : Fin 64) (crcOk : Bool) (hs : Evolves z s) : EvolvesOut z (execLayerLanded part place crcOk s) := by
  unfold execLayerLanded
  repeat' first
    | with_reducible assumption
    | with_reducible apply woken_evolves
    | with_reducible apply layerLanded_evolves

theorem execPagerTransferDone_evolves (part : PartNo) (hs : Evolves z s) : EvolvesOut z (execPagerTransferDone part s) := by
  unfold execPagerTransferDone
  repeat' first
    | with_reducible assumption
    | with_reducible apply woken_evolves
    | with_reducible apply pagerTransferDone_evolves

theorem execGrammarMaskReady_evolves (slot : SlotNo) (hs : Evolves z s) : EvolvesOut z (execGrammarMaskReady slot s) := by
  unfold execGrammarMaskReady
  repeat' first
    | with_reducible assumption
    | with_reducible apply woken_evolves
    | with_reducible apply settle_evolves
    | with_reducible apply tryBoundary_evolves
    | with_reducible apply onReq_evolves
    | split

theorem execRegulatedTransferStart_evolves (part : PartNo) (res : Resource) (hs : Evolves z s) : EvolvesOut z (execRegulatedTransferStart part res s) := by
  unfold execRegulatedTransferStart
  repeat' first
    | with_reducible assumption
    | with_reducible apply regulatedStart_evolves
    | with_reducible apply next_evolves

theorem execSlowdownWindowClose_evolves (part : PartNo) (obs : W64) (int : W64) (hs : Evolves z s) : EvolvesOut z (execSlowdownWindowClose part obs int s) := by
  unfold execSlowdownWindowClose
  repeat' first
    | with_reducible assumption
    | with_reducible apply onPart_evolves
    | with_reducible apply next_evolves

/-! ## Machine/RetrievalEvents.lean -/
theorem chargeCellar_evolves (p : Nat) (tenant : W16) (bytes : Nat) (hs : Evolves z s) : Evolves z (State.chargeCellar s p tenant bytes) := by
  unfold State.chargeCellar
  repeat' first
    | with_reducible assumption
    | with_reducible apply charge_evolves

theorem scanPage_evolves (adm : W64) (ctrl : Nat) (page : Nat) (readable : Bool) (hs : Evolves z s) : Evolves z (State.scanPage s adm ctrl page readable) := by
  unfold State.scanPage
  repeat' first
    | with_reducible assumption
    | with_reducible apply noPage_evolves
    | with_reducible apply chargeCellar_evolves
    | with_reducible apply settle_evolves
    | with_reducible apply jobResult_evolves
    | with_reducible apply dispatch_evolves
    | with_reducible apply scorePage_evolves
    | ((first | lift_lets -underBinder | skip); intro u; have hu : Evolves z u; (on_goal 1 => (dsimp only [u]; try clear u)); (on_goal 2 => clear_value u))
    | ((first | lift_lets -underBinder | skip); intro u; clear_value u)
    | split

theorem execScanPlanDispatch_evolves (ctrl : CtrlNo) (hs : Evolves z s) : EvolvesOut z (execScanPlanDispatch ctrl s) := by
  unfold execScanPlanDispatch
  repeat' first
    | with_reducible assumption
    | with_reducible apply woken_evolves
    | with_reducible apply dispatch_evolves

theorem execScanPageScored_evolves (adm : W64) (ctrl : CtrlNo) (page : W32) (readable : Bool) (hs : Evolves z s) : EvolvesOut z (execScanPageScored adm ctrl page readable s) := by
  unfold execScanPageScored
  repeat' first
    | with_reducible assumption
    | with_reducible apply woken_evolves
    | with_reducible apply scanPage_evolves

theorem fetchDone_evolves (slot : Nat) (readable : Bool) (hs : Evolves z s) : Evolves z (State.fetchDone s slot readable) := by
  unfold State.fetchDone
  repeat' first
    | with_reducible assumption
    | with_reducible apply chargeCellar_evolves
    | with_reducible apply passageText_evolves
    | with_reducible apply passageDrop_evolves
    | with_reducible apply noPage_evolves
    | with_reducible apply settle_evolves
    | with_reducible apply stage6Done_evolves
    | ((first | lift_lets -underBinder | skip); intro u; have hu : Evolves z u; (on_goal 1 => (dsimp only [u]; try clear u)); (on_goal 2 => clear_value u))
    | ((first | lift_lets -underBinder | skip); intro u; clear_value u)
    | split

theorem execPassageFetchDone_evolves (slot : SlotNo) (readable : Bool) (hs : Evolves z s) : EvolvesOut z (execPassageFetchDone slot readable s) := by
  unfold execPassageFetchDone
  repeat' first
    | with_reducible assumption
    | with_reducible apply woken_evolves
    | with_reducible apply fetchDone_evolves

theorem execMutationPublish_evolves (index : IndexNo) (hs : Evolves z s) : EvolvesOut z (execMutationPublish index s) := by
  unfold execMutationPublish
  repeat' first
    | with_reducible assumption
    | with_reducible apply woken_evolves
    | with_reducible apply publish_evolves
    | split

theorem stepIndexAct_evolves (aid : W32) (hs : Evolves z s) : Evolves z (State.stepIndexAct s aid) := by
  unfold State.stepIndexAct
  repeat' first
    | with_reducible assumption
    | with_reducible apply onCel_evolves
    | with_reducible apply endIndexAct_evolves
    | ((first | lift_lets -underBinder | skip); intro u; have hu : Evolves z u; (on_goal 1 => (dsimp only [u]; try clear u)); (on_goal 2 => clear_value u))
    | ((first | lift_lets -underBinder | skip); intro u; clear_value u)
    | split

theorem claimIndexAct_evolves (aq2 : Activity) (hs : Evolves z s) : Evolves z (State.claimIndexAct s aq2) := by
  unfold State.claimIndexAct
  repeat' first
    | with_reducible assumption
    | with_reducible apply onCel_evolves
    | with_reducible apply stepIndexAct_evolves
    | ((first | lift_lets -underBinder | skip); intro u; have hu : Evolves z u; (on_goal 1 => (dsimp only [u]; try clear u)); (on_goal 2 => clear_value u))
    | ((first | lift_lets -underBinder | skip); intro u; clear_value u)
    | split

theorem execActivityClaim_evolves (aid : W32) (hs : Evolves z s) : EvolvesOut z (execActivityClaim aid s) := by
  unfold execActivityClaim
  repeat' first
    | with_reducible assumption
    | with_reducible apply woken_evolves
    | with_reducible apply claimIndexAct_evolves
    | with_reducible apply claimAct_evolves
    | split

theorem mergeCommit_evolves (i : Nat) (b : Nat) (hs : Evolves z s) : Evolves z (State.mergeCommit s i b) := by
  unfold State.mergeCommit
  repeat' first
    | with_reducible assumption
    | with_reducible apply onIndex_evolves
    | with_reducible apply onCel_evolves
    | with_reducible apply each_evolves
    | with_reducible apply endIndexAct_evolves
    | with_reducible apply makeDue_evolves
    | ((first | lift_lets -underBinder | skip); intro u; have hu : Evolves z u; (on_goal 1 => (dsimp only [u]; try clear u)); (on_goal 2 => clear_value u))
    | ((first | lift_lets -underBinder | skip); intro u; clear_value u)
    | split
    | (intro u; try intros)

theorem execMergeCommit_evolves (index : IndexNo) (bucket : BitVec 28) (hs : Evolves z s) : EvolvesOut z (execMergeCommit index bucket s) := by
  unfold execMergeCommit
  repeat' first
    | with_reducible assumption
    | with_reducible apply woken_evolves
    | with_reducible apply mergeCommit_evolves

theorem cleanStore_evolves (i : Nat) (hs : Evolves z s) : Evolves z (State.cleanStore s i) := by
  unfold State.cleanStore
  repeat' first
    | with_reducible assumption
    | with_reducible apply syncHomes_evolves
    | with_reducible apply onIndex_evolves
    | ((first | lift_lets -underBinder | skip); intro u; have hu : Evolves z u; (on_goal 1 => (dsimp only [u]; try clear u)); (on_goal 2 => clear_value u))
    | ((first | lift_lets -underBinder | skip); intro u; clear_value u)
    | split

theorem retireGen_evolves (i : Nat) (b : Nat) (hs : Evolves z s) : Evolves z (State.retireGen s i b) := by
  unfold State.retireGen
  repeat' first
    | with_reducible assumption
    | with_reducible apply each_evolves
    | with_reducible apply freeExtent_evolves
    | with_reducible apply onIndex_evolves
    | with_reducible apply markCrowded_evolves
    | with_reducible apply cleanStore_evolves
    | ((first | lift_lets -underBinder | skip); intro u; have hu : Evolves z u; (on_goal 1 => (dsimp only [u]; try clear u)); (on_goal 2 => clear_value u))
    | ((first | lift_lets -underBinder | skip); intro u; clear_value u)
    | split
    | (intro u; try intros)

theorem execGenerationRetire_evolves (index : IndexNo) (bucket : BitVec 28) (hs : Evolves z s) : EvolvesOut z (execGenerationRetire index bucket s) := by
  unfold execGenerationRetire
  repeat' first
    | with_reducible assumption
    | with_reducible apply woken_evolves
    | with_reducible apply retireGen_evolves

theorem dropReplica_evolves (i : Nat) (b : Nat) (hs : Evolves z s) : Evolves z (State.dropReplica s i b) := by
  unfold State.dropReplica
  repeat' first
    | with_reducible assumption
    | with_reducible apply sweepLeaving_evolves
    | with_reducible apply onIndex_evolves
    | with_reducible apply onRet_evolves
    | ((first | lift_lets -underBinder | skip); intro u; have hu : Evolves z u; (on_goal 1 => (dsimp only [u]; try clear u)); (on_goal 2 => clear_value u))
    | ((first | lift_lets -underBinder | skip); intro u; clear_value u)
    | split

theorem replicaCommit_evolves (i : Nat) (b : Nat) (hs : Evolves z s) : Evolves z (State.replicaCommit s i b) := by
  unfold State.replicaCommit
  repeat' first
    | with_reducible assumption
    | with_reducible apply endIndexAct_evolves
    | with_reducible apply onCel_evolves
    | with_reducible apply dropReplica_evolves
    | with_reducible apply onIndex_evolves
    | ((first | lift_lets -underBinder | skip); intro u; have hu : Evolves z u; (on_goal 1 => (dsimp only [u]; try clear u)); (on_goal 2 => clear_value u))
    | ((first | lift_lets -underBinder | skip); intro u; clear_value u)
    | split

theorem execHotReplicaCommit_evolves (index : IndexNo) (bucket : BitVec 28) (hs : Evolves z s) : EvolvesOut z (execHotReplicaCommit index bucket s) := by
  unfold execHotReplicaCommit
  repeat' first
    | with_reducible assumption
    | with_reducible apply woken_evolves
    | with_reducible apply replicaCommit_evolves

theorem afterFlash_evolves  (hs : Evolves z s) : Evolves z (State.afterFlash s) := by
  unfold State.afterFlash
  repeat' first
    | with_reducible assumption
    | with_reducible apply settleGets_evolves
    | with_reducible apply settleLoads_evolves
    | with_reducible apply sweepLeft_evolves

theorem readFails_evolves (op : FlashOp) (hs : Evolves z s) : Evolves z (State.readFails s op) := by
  unfold State.readFails
  repeat' first
    | with_reducible assumption
    | with_reducible apply chargeCellar_evolves
    | with_reducible apply settle_evolves
    | with_reducible apply jobResult_evolves
    | with_reducible apply dispatch_evolves
    | with_reducible apply scorePage_evolves
    | with_reducible apply stage6Done_evolves
    | with_reducible apply passageDrop_evolves
    | with_reducible apply err_evolves
    | with_reducible apply onCel_evolves
    | with_reducible apply onRet_evolves
    | ((first | lift_lets -underBinder | skip); intro u; have hu : Evolves z u; (on_goal 1 => (dsimp only [u]; try clear u)); (on_goal 2 => clear_value u))
    | ((first | lift_lets -underBinder | skip); intro u; clear_value u)
    | split

theorem actOn_evolves (op : FlashOp) (hs : Evolves z s) : Evolves z (State.actOn s op) := by
  unfold State.actOn
  repeat' first
    | with_reducible assumption
    | with_reducible apply stepIndexAct_evolves
    | split

theorem flashDone_evolves (die : Nat) (r : FlashResult) (hs : Evolves z s) : Evolves z (State.flashDone s die r) := by
  unfold State.flashDone
  repeat' first
    | with_reducible assumption
    | with_reducible apply onCel_evolves
    | with_reducible apply opEnds_evolves
    | with_reducible apply readFails_evolves
    | with_reducible apply afterFlash_evolves
    | with_reducible apply actOn_evolves
    | ((first | lift_lets -underBinder | skip); intro u; have hu : Evolves z u; (on_goal 1 => (dsimp only [u]; try clear u)); (on_goal 2 => clear_value u))
    | ((first | lift_lets -underBinder | skip); intro u; clear_value u)
    | split

theorem execFlashOpComplete_evolves (die : DieId) (r : FlashResult) (hs : Evolves z s) : EvolvesOut z (execFlashOpComplete die r s) := by
  unfold execFlashOpComplete
  repeat' first
    | with_reducible assumption
    | with_reducible apply woken_evolves
    | with_reducible apply flashDone_evolves

theorem patrol_evolves (die : Nat) (hs : Evolves z s) : Evolves z (State.patrol s die) := by
  unfold State.patrol
  repeat' first
    | with_reducible assumption
    | with_reducible apply onCel_evolves
    | split

theorem execPatrolRead_evolves (die : DieId) (hs : Evolves z s) : EvolvesOut z (execPatrolRead die s) := by
  unfold execPatrolRead
  repeat' first
    | with_reducible assumption
    | with_reducible apply woken_evolves
    | with_reducible apply patrol_evolves

theorem execBlockErase_evolves (die : DieId) (block : W16) (hs : Evolves z s) : EvolvesOut z (execBlockErase die block s) := by
  unfold execBlockErase
  repeat' first
    | with_reducible assumption
    | with_reducible apply woken_evolves
    | with_reducible apply onCel_evolves
    | ((first | lift_lets -underBinder | skip); intro u; have hu : Evolves z u; (on_goal 1 => (dsimp only [u]; try clear u)); (on_goal 2 => clear_value u))
    | ((first | lift_lets -underBinder | skip); intro u; clear_value u)
    | split

theorem execDieFail_evolves (die : DieId) (hs : Evolves z s) : EvolvesOut z (execDieFail die s) := by
  unfold execDieFail
  repeat' first
    | with_reducible assumption
    | with_reducible apply woken_evolves
    | with_reducible apply afterFlash_evolves
    | with_reducible apply failDie_evolves

theorem execControllerLost_evolves (ctrl : CtrlNo) (hs : Evolves z s) : EvolvesOut z (execControllerLost ctrl s) := by
  unfold execControllerLost
  repeat' first
    | with_reducible assumption
    | with_reducible apply woken_evolves
    | with_reducible apply afterFlash_evolves
    | with_reducible apply loseCtrl_evolves

theorem execCellarChannelLost_evolves (ctrl : CtrlNo) (chan : Fin 16) (hs : Evolves z s) : EvolvesOut z (execCellarChannelLost ctrl chan s) := by
  unfold execCellarChannelLost
  repeat' first
    | with_reducible assumption
    | with_reducible apply woken_evolves
    | with_reducible apply afterFlash_evolves
    | with_reducible apply loseChannel_evolves

/-! ## Machine/GatherEvents.lean -/
theorem gatherDone_evolves (gid : W32) (hs : Evolves z s) : Evolves z (State.gatherDone s gid) := by
  unfold State.gatherDone
  repeat' first
    | with_reducible assumption
    | with_reducible apply countGather_evolves
    | with_reducible apply onTbl_evolves
    | with_reducible apply finishDeg_evolves
    | with_reducible apply hostWrite_evolves
    | with_reducible apply onReq_evolves
    | with_reducible apply settle_evolves
    | with_reducible apply each_evolves
    | with_reducible apply tryDestroy_evolves
    | with_reducible apply reclaimAll_evolves
    | ((first | lift_lets -underBinder | skip); intro u; have hu : Evolves z u; (on_goal 1 => (dsimp only [u]; try clear u)); (on_goal 2 => clear_value u))
    | ((first | lift_lets -underBinder | skip); intro u; clear_value u)
    | split
    | (intro u; try intros)

theorem execGatherComplete_evolves (gid : W32) (hs : Evolves z s) : EvolvesOut z (execGatherComplete gid s) := by
  unfold execGatherComplete
  repeat' first
    | with_reducible assumption
    | with_reducible apply woken_evolves
    | with_reducible apply gatherDone_evolves

theorem execCountHalving_evolves (table : TableNo) (hs : Evolves z s) : EvolvesOut z (execCountHalving table s) := by
  unfold execCountHalving
  repeat' first
    | with_reducible assumption
    | with_reducible apply woken_evolves
    | with_reducible apply onTable_evolves
    | split

theorem writeEntry_evolves (tid : Nat) (hs : Evolves z s) : Evolves z (State.writeEntry s tid) := by
  unfold State.writeEntry
  repeat' first
    | with_reducible assumption
    | with_reducible apply swapReady_evolves
    | with_reducible apply onTbl_evolves
    | with_reducible apply each_evolves
    | with_reducible apply sendRow_evolves
    | with_reducible apply holderDone_evolves
    | ((first | lift_lets -underBinder | skip); intro u; have hv : ∀ a b, Evolves z a → Evolves z (u a b); (on_goal 1 => (dsimp only [u]; clear u)); (on_goal 2 => clear_value u))
    | with_reducible apply hv
    | ((first | lift_lets -underBinder | skip); intro u; have hu : Evolves z u; (on_goal 1 => (dsimp only [u]; try clear u)); (on_goal 2 => clear_value u))
    | ((first | lift_lets -underBinder | skip); intro u; clear_value u)
    | split
    | (intro u; try intros)

theorem execWriteEntryApply_evolves (table : TableNo) (hs : Evolves z s) : EvolvesOut z (execWriteEntryApply table s) := by
  unfold execWriteEntryApply
  repeat' first
    | with_reducible assumption
    | with_reducible apply woken_evolves
    | with_reducible apply settle_evolves
    | with_reducible apply writeEntry_evolves

/-! ## Machine/FaultEvents.lean -/
theorem lineError_evolves (pkg : Nat) (addr : Nat) (hs : Evolves z s) : Evolves z (State.lineError s pkg addr) := by
  unfold State.lineError
  repeat' first
    | with_reducible assumption
    | with_reducible apply onRas_evolves
    | with_reducible apply remapLine_evolves
    | ((first | lift_lets -underBinder | skip); intro u; have hu : Evolves z u; (on_goal 1 => (dsimp only [u]; try clear u)); (on_goal 2 => clear_value u))
    | ((first | lift_lets -underBinder | skip); intro u; clear_value u)
    | split
    | exact fun _ h => h
    | (intro u; try intros)

theorem execFaultCorrected_evolves (f : FaultReport) (hs : Evolves z s) : EvolvesOut z (execFaultCorrected f s) := by
  unfold execFaultCorrected
  repeat' first
    | with_reducible assumption
    | with_reducible apply woken_evolves
    | with_reducible apply onRas_evolves
    | with_reducible apply faultRec_evolves
    | with_reducible apply loseHbmChannel_evolves
    | with_reducible apply lineError_evolves
    | with_reducible apply pair1_evolves
    | with_reducible refine of_fst (by assumption) ?_
    | with_reducible refine fst_evolves (p := State.loseHbmChannel _ _) ?_
    | ((first | lift_lets -underBinder | skip); intro u; have hu : Evolves z u; (on_goal 1 => (dsimp only [u]; try clear u)); (on_goal 2 => clear_value u))
    | ((first | lift_lets -underBinder | skip); intro u; clear_value u)
    | split
    | exact fun _ h => h
    | (intro u; try intros)

theorem fenceUnit_evolves (f : FaultReport) (hs : Evolves z s) : Evolves z (State.fenceUnit s f) := by
  unfold State.fenceUnit
  repeat' first
    | with_reducible assumption
    | with_reducible apply onCore_evolves
    | with_reducible apply engineLineFails_evolves
    | with_reducible apply retireNow_evolves
    | ((first | lift_lets -underBinder | skip); intro u; have hu : Evolves z u; (on_goal 1 => (dsimp only [u]; try clear u)); (on_goal 2 => clear_value u))
    | ((first | lift_lets -underBinder | skip); intro u; clear_value u)
    | split

theorem execFaultStep_evolves (f : FaultReport) (hs : Evolves z s) : EvolvesOut z (execFaultStep f s) := by
  unfold execFaultStep
  repeat' first
    | with_reducible assumption
    | with_reducible apply woken_evolves
    | with_reducible apply faultRec_evolves
    | with_reducible apply each_evolves
    | with_reducible apply abandonStep_evolves
    | with_reducible apply fenceUnit_evolves
    | with_reducible apply settle_evolves
    | with_reducible apply dueMoves_evolves
    | ((first | lift_lets -underBinder | skip); intro u; have hu : Evolves z u; (on_goal 1 => (dsimp only [u]; try clear u)); (on_goal 2 => clear_value u))
    | ((first | lift_lets -underBinder | skip); intro u; clear_value u)
    | split
    | (intro u; try intros)

theorem loseContent_evolves (f : FaultReport) (hs : Evolves z s) : Evolves z (State.loseContent s f) := by
  unfold State.loseContent
  repeat' first
    | with_reducible assumption
    | with_reducible apply losePages_evolves
    | with_reducible apply each_evolves
    | with_reducible apply onPart_evolves
    | with_reducible apply abandonStep_evolves
    | with_reducible apply onTable_evolves
    | with_reducible apply onReq_evolves
    | with_reducible apply send_evolves
    | with_reducible apply onFab_evolves
    | ((first | lift_lets -underBinder | skip); intro u; have hu : Evolves z u; (on_goal 1 => (dsimp only [u]; try clear u)); (on_goal 2 => clear_value u))
    | ((first | lift_lets -underBinder | skip); intro u; clear_value u)
    | split
    | (intro u; try intros)

theorem execFaultPage_evolves (f : FaultReport) (hs : Evolves z s) : EvolvesOut z (execFaultPage f s) := by
  unfold execFaultPage
  repeat' first
    | with_reducible assumption
    | with_reducible apply woken_evolves
    | with_reducible apply faultRec_evolves
    | with_reducible apply remapLine_evolves
    | with_reducible apply settle_evolves
    | with_reducible apply loseContent_evolves
    | ((first | lift_lets -underBinder | skip); intro u; have hu : Evolves z u; (on_goal 1 => (dsimp only [u]; try clear u)); (on_goal 2 => clear_value u))
    | ((first | lift_lets -underBinder | skip); intro u; clear_value u)
    | split

theorem scanUnitFails_evolves (slot : Nat) (u : Nat) (hs : Evolves z s) : Evolves z (State.scanUnitFails s slot u) := by
  unfold State.scanUnitFails
  repeat' first
    | with_reducible assumption
    | with_reducible apply onRet_evolves
    | split

theorem execFaultFront_evolves (f : FaultReport) (hs : Evolves z s) : EvolvesOut z (execFaultFront f s) := by
  unfold execFaultFront
  repeat' first
    | with_reducible assumption
    | with_reducible apply woken_evolves
    | with_reducible apply settle_evolves
    | with_reducible apply repeatFront_evolves
    | with_reducible apply faultRec_evolves
    | with_reducible apply onReq_evolves
    | with_reducible apply scanUnitFails_evolves
    | split

theorem execFaultBeyondSparing_evolves (f : FaultReport) (hs : Evolves z s) : EvolvesOut z (execFaultBeyondSparing f s) := by
  unfold execFaultBeyondSparing
  repeat' first
    | with_reducible assumption
    | with_reducible apply woken_evolves
    | with_reducible apply onRas_evolves
    | with_reducible apply faultRec_evolves
    | with_reducible apply each_evolves
    | with_reducible apply abandonStep_evolves
    | with_reducible apply endReq_evolves
    | with_reducible apply settle_evolves
    | ((first | lift_lets -underBinder | skip); intro u; have hu : Evolves z u; (on_goal 1 => (dsimp only [u]; try clear u)); (on_goal 2 => clear_value u))
    | ((first | lift_lets -underBinder | skip); intro u; clear_value u)
    | split
    | exact fun _ h => h
    | (intro u; try intros)

theorem execHbmParityRebuildDone_evolves (stack : Fin 6) (hs : Evolves z s) : EvolvesOut z (execHbmParityRebuildDone stack s) := by
  unfold execHbmParityRebuildDone
  repeat' first
    | with_reducible assumption
    | with_reducible apply woken_evolves
    | with_reducible apply onRas_evolves
    | split
    | exact fun _ h => h
    | (intro u; try intros)

/-! ## Machine/PowerEvents.lean -/
theorem railOff_evolves  (hs : Evolves z s) : Evolves z (State.railOff s) := by
  unfold State.railOff
  repeat' first
    | with_reducible assumption
    | with_reducible apply onBoot_evolves
    | with_reducible apply onSch_evolves
    | with_reducible apply each_evolves
    | with_reducible apply offCore_evolves
    | with_reducible apply onCore_evolves
    | with_reducible apply endReq_evolves
    | with_reducible apply settle_evolves
    | with_reducible apply err_evolves
    | ((first | lift_lets -underBinder | skip); intro u; have hu : Evolves z u; (on_goal 1 => (dsimp only [u]; try clear u)); (on_goal 2 => clear_value u))
    | ((first | lift_lets -underBinder | skip); intro u; clear_value u)
    | split
    | exact Nat.le_refl _
    | (intro u; try intros)

theorem stepsChanged_evolves (before : Nat) (hs : Evolves z s) : Evolves z (State.stepsChanged s before) := by
  unfold State.stepsChanged
  repeat' first
    | with_reducible assumption
    | with_reducible apply powerEvent_evolves
    | split

theorem powerHold_evolves  (hs : Evolves z s) : Evolves z (State.powerHold s) := by
  unfold State.powerHold
  repeat' first
    | with_reducible assumption
    | with_reducible apply powerEvent_evolves
    | with_reducible apply onPwr_evolves
    | ((first | lift_lets -underBinder | skip); intro u; have hu : Evolves z u; (on_goal 1 => (dsimp only [u]; try clear u)); (on_goal 2 => clear_value u))
    | ((first | lift_lets -underBinder | skip); intro u; clear_value u)
    | split
    | exact fun h => h
    | (intro u; try intros)

theorem loseInput_evolves (hs : Evolves z s) : Evolves z (State.loseInput s) := by
  unfold State.loseInput
  extract_lets u
  have hu : Evolves z u := powerEvent_evolves _ (onPwr_evolves _ hs fun h => h)
  have hv : Evolves z (u.stopAll.flood .departing).powerDown := powerDown_evolves (flood_evolves _ (stopAll_evolves hu))
  generalize (u.stopAll.flood .departing).powerDown = v at hv ⊢
  exact onPwr_evolves _ hv fun h => h

theorem powerSample_evolves (mv : Nat) (mw : Nat) (hs : Evolves z s) : Evolves z (State.powerSample s mv mw) := by
  unfold State.powerSample
  repeat' first
    | with_reducible assumption
    | with_reducible apply onBbx_evolves
    | with_reducible apply onPwr_evolves
    | with_reducible apply powerEvent_evolves
    | with_reducible apply loseInput_evolves
    | with_reducible apply powerHold_evolves
    | with_reducible apply stepsChanged_evolves
    | exact Pwr.capStep_bounded _
    | ((first | lift_lets -underBinder | skip); intro u; have hu : Evolves z u; (on_goal 1 => (dsimp only [u]; try clear u)); (on_goal 2 => clear_value u))
    | ((first | lift_lets -underBinder | skip); intro u; clear_value u)
    | split
    | exact fun h => h
    | (intro u; try intros)

theorem execPowerSample_evolves (mv : W32) (mw : W32) (hs : Evolves z s) : EvolvesOut z (execPowerSample mv mw s) := by
  unfold execPowerSample
  repeat' first
    | with_reducible assumption
    | with_reducible apply woken_evolves
    | with_reducible apply powerSample_evolves

theorem phaseFail_evolves (p : Nat) (hs : Evolves z s) : Evolves z (State.phaseFail s p) := by
  unfold State.phaseFail
  repeat' first
    | with_reducible assumption
    | with_reducible apply fresh_evolves
    | with_reducible apply faultRec_evolves
    | with_reducible apply spareIn_evolves
    | with_reducible apply onPwr_evolves
    | with_reducible apply stepsChanged_evolves
    | with_reducible apply railOff_evolves
    | with_reducible apply pair2_evolves
    | with_reducible refine of_snd (by assumption) ?_
    | with_reducible refine snd_evolves (p := State.fresh _) ?_
    | exact fun h => ⟨h.1, h.2.1, Pwr.floor_bounded _ h.2.2⟩
    | ((first | lift_lets -underBinder | skip); intro u; have hu : Evolves z u; (on_goal 1 => (dsimp only [u]; try clear u)); (on_goal 2 => clear_value u))
    | ((first | lift_lets -underBinder | skip); intro u; clear_value u)
    | split
    | exact fun h => h
    | (intro u; try intros)

theorem execPhaseFail_evolves (phase : Fin 18) (hs : Evolves z s) : EvolvesOut z (execPhaseFail phase s) := by
  unfold execPhaseFail
  repeat' first
    | with_reducible assumption
    | with_reducible apply woken_evolves
    | with_reducible apply phaseFail_evolves

theorem thermEvent_evolves (kind : Nat) (sensor : Nat) (tq : W16) (ev : Nat) (hs : Evolves z s) : Evolves z (State.thermEvent s kind sensor tq ev) := by
  unfold State.thermEvent
  repeat' first
    | with_reducible assumption
    | with_reducible apply record_evolves
    | split

theorem thermShutdown_evolves (sensor : Nat) (tq : W16) (hs : Evolves z s) : Evolves z (State.thermShutdown s sensor tq) := by
  unfold State.thermShutdown
  repeat' first
    | with_reducible assumption
    | with_reducible apply thermEvent_evolves
    | with_reducible apply onPwr_evolves
    | with_reducible apply each_evolves
    | with_reducible apply railOff_evolves
    | with_reducible apply setDom_evolves
    | ((first | lift_lets -underBinder | skip); intro u; have hu : Evolves z u; (on_goal 1 => (dsimp only [u]; try clear u)); (on_goal 2 => clear_value u))
    | ((first | lift_lets -underBinder | skip); intro u; clear_value u)
    | split
    | exact fun h => h
    | (intro u; try intros)

theorem readTemps_evolves (js : List W16) (ss : List W16) (ps : List W16) (hs : Evolves z s) : Evolves z (State.readTemps s js ss ps) := by
  unfold State.readTemps
  repeat' first
    | with_reducible assumption
    | with_reducible apply onPwr_evolves
    | exact fun h => h
    | (intro u; try intros)

theorem heated_evolves (js : List W16) (hs : Evolves z s) : Evolves z (State.heated s js) := by
  unfold State.heated
  repeat' first
    | with_reducible assumption
    | with_reducible apply onPwr_evolves
    | with_reducible apply stepsChanged_evolves
    | with_reducible apply thermEvent_evolves
    | exact Pwr.heat_bounded _ _
    | ((first | lift_lets -underBinder | skip); intro u; have hu : Evolves z u; (on_goal 1 => (dsimp only [u]; try clear u)); (on_goal 2 => clear_value u))
    | ((first | lift_lets -underBinder | skip); intro u; clear_value u)
    | split
    | exact fun h => h
    | (intro u; try intros)

theorem holdStarts_evolves (kind : Nat) (xq3 : Nat × W16) (hs : Evolves z s) : Evolves z (State.holdStarts s kind xq3) := by
  unfold State.holdStarts
  repeat' first
    | with_reducible assumption
    | with_reducible apply thermEvent_evolves
    | with_reducible apply onPwr_evolves
    | exact fun h => h
    | (intro u; try intros)

theorem thermActs_evolves (js : List W16) (ss : List W16) (ps : List W16) (hs : Evolves z s) : Evolves z (State.thermActs s js ss ps) := by
  unfold State.thermActs
  repeat' first
    | with_reducible assumption
    | with_reducible apply thermShutdown_evolves
    | with_reducible apply holdStarts_evolves
    | with_reducible apply thermEvent_evolves
    | with_reducible apply onPwr_evolves
    | ((first | lift_lets -underBinder | skip); intro u; have hu : Evolves z u; (on_goal 1 => (dsimp only [u]; try clear u)); (on_goal 2 => clear_value u))
    | ((first | lift_lets -underBinder | skip); intro u; clear_value u)
    | split
    | exact fun h => h
    | (intro u; try intros)

theorem thermalSample_evolves (js : List W16) (ss : List W16) (ps : List W16) (hs : Evolves z s) : Evolves z (State.thermalSample s js ss ps) := by
  unfold State.thermalSample
  repeat' first
    | with_reducible assumption
    | with_reducible apply readTemps_evolves
    | with_reducible apply thermActs_evolves
    | with_reducible apply heated_evolves
    | ((first | lift_lets -underBinder | skip); intro u; have hv : ∀ a b, Evolves z (u a b); (on_goal 1 => (dsimp only [u]; clear u)); (on_goal 2 => clear_value u))
    | with_reducible apply hv
    | split
    | (intro u; try intros)

theorem execThermalSample_evolves (junctions : List W16) (hbm : List W16) (packages : List W16) (hs : Evolves z s) : EvolvesOut z (execThermalSample junctions hbm packages s) := by
  unfold execThermalSample
  repeat' first
    | with_reducible assumption
    | with_reducible apply woken_evolves
    | with_reducible apply thermalSample_evolves

theorem execThermalHoldExpiry_evolves  (hs : Evolves z s) : EvolvesOut z (execThermalHoldExpiry s) := by
  unfold execThermalHoldExpiry
  repeat' first
    | with_reducible assumption
    | with_reducible apply woken_evolves
    | with_reducible apply thermShutdown_evolves
    | split

theorem execModEnAssert_evolves  (hs : Evolves z s) : EvolvesOut z (execModEnAssert s) := by
  unfold execModEnAssert
  repeat' first
    | with_reducible assumption
    | with_reducible apply onPwr_evolves
    | with_reducible apply powerUp_evolves
    | with_reducible apply next_evolves
    | ((first | lift_lets -underBinder | skip); intro u; have hu : Evolves z u; (on_goal 1 => (dsimp only [u]; try clear u)); (on_goal 2 => clear_value u))
    | ((first | lift_lets -underBinder | skip); intro u; clear_value u)
    | split
    | exact fun h => h
    | (intro u; try intros)

theorem execModEnDeassert_evolves  (hs : Evolves z s) : EvolvesOut z (execModEnDeassert s) := by
  unfold execModEnDeassert
  repeat' first
    | with_reducible assumption
    | with_reducible apply onPwr_evolves
    | with_reducible apply powerDown_evolves
    | with_reducible apply flood_evolves
    | with_reducible apply stopAll_evolves
    | with_reducible apply powerEvent_evolves
    | with_reducible apply next_evolves
    | ((first | lift_lets -underBinder | skip); intro u; have hu : Evolves z u; (on_goal 1 => (dsimp only [u]; try clear u)); (on_goal 2 => clear_value u))
    | ((first | lift_lets -underBinder | skip); intro u; clear_value u)
    | split
    | exact fun h => h
    | (intro u; try intros)

theorem sleepDom_evolves (d : Nat) (hs : Evolves z s) : Evolves z (State.sleepDom s d) := by
  unfold State.sleepDom
  repeat' first
    | with_reducible assumption
    | with_reducible apply onCore_evolves
    | with_reducible apply setDom_evolves
    | ((first | lift_lets -underBinder | skip); intro u; have hu : Evolves z u; (on_goal 1 => (dsimp only [u]; try clear u)); (on_goal 2 => clear_value u))
    | ((first | lift_lets -underBinder | skip); intro u; clear_value u)
    | split

theorem execDomainSleep_evolves (dom : Fin 57) (hs : Evolves z s) : EvolvesOut z (execDomainSleep dom s) := by
  unfold execDomainSleep
  repeat' first
    | with_reducible assumption
    | with_reducible apply sleepDom_evolves
    | with_reducible apply next_evolves

theorem readyCore_evolves (c : Nat) (hs : Evolves z s) : Evolves z (State.readyCore s c) := by
  unfold State.readyCore
  repeat' first
    | with_reducible assumption
    | with_reducible apply tryHeld_evolves
    | split

theorem execDomainWakeDone_evolves (dom : Fin 57) (hs : Evolves z s) : EvolvesOut z (execDomainWakeDone dom s) := by
  unfold execDomainWakeDone
  repeat' first
    | with_reducible assumption
    | with_reducible apply woken_evolves
    | with_reducible apply setDom_evolves
    | with_reducible apply readyCore_evolves
    | ((first | lift_lets -underBinder | skip); intro u; have hu : Evolves z u; (on_goal 1 => (dsimp only [u]; try clear u)); (on_goal 2 => clear_value u))
    | ((first | lift_lets -underBinder | skip); intro u; clear_value u)
    | split

theorem execPllLock_evolves (core : CoreNo) (hs : Evolves z s) : EvolvesOut z (execPllLock core s) := by
  unfold execPllLock
  repeat' first
    | with_reducible assumption
    | with_reducible apply woken_evolves
    | with_reducible apply readyCore_evolves
    | with_reducible apply onCore_evolves
    | split

theorem inrush_evolves (ramp : Bool) (hs : Evolves z s) : Evolves z (State.inrush s ramp) := by
  unfold State.inrush
  repeat' first
    | with_reducible assumption
    | with_reducible apply onPwr_evolves
    | with_reducible apply each_evolves
    | with_reducible apply tryHeld_evolves
    | with_reducible apply onCore_evolves
    | with_reducible apply setDom_evolves
    | ((first | lift_lets -underBinder | skip); intro u; have hu : Evolves z u; (on_goal 1 => (dsimp only [u]; try clear u)); (on_goal 2 => clear_value u))
    | ((first | lift_lets -underBinder | skip); intro u; clear_value u)
    | split
    | exact fun h => h
    | (intro u; try intros)

theorem execInrushWindow_evolves (ramp : Bool) (hs : Evolves z s) : EvolvesOut z (execInrushWindow ramp s) := by
  unfold execInrushWindow
  repeat' first
    | with_reducible assumption
    | with_reducible apply woken_evolves
    | with_reducible apply inrush_evolves

/-! ## Machine/ServiceEvents.lean -/
theorem setRemoval_evolves (r : BitVec 2) (hs : Evolves z s) : Evolves z (State.setRemoval s r) := by
  unfold State.setRemoval
  repeat' first
    | with_reducible assumption
    | with_reducible apply onSvc_evolves

theorem press_evolves (ms : Nat) (hs : Evolves z s) : Evolves z (State.press s ms) := by
  unfold State.press
  repeat' first
    | with_reducible assumption
    | with_reducible apply onSch_evolves
    | with_reducible apply serviceAction_evolves
    | with_reducible apply onSvc_evolves
    | with_reducible apply setRemoval_evolves
    | with_reducible apply settle_evolves
    | ((first | lift_lets -underBinder | skip); intro u; have hu : Evolves z u; (on_goal 1 => (dsimp only [u]; try clear u)); (on_goal 2 => clear_value u))
    | ((first | lift_lets -underBinder | skip); intro u; clear_value u)
    | split

theorem execServiceButtonPress_evolves (ms : W32) (hs : Evolves z s) : EvolvesOut z (execServiceButtonPress ms s) := by
  unfold execServiceButtonPress
  repeat' first
    | with_reducible assumption
    | with_reducible apply woken_evolves
    | with_reducible apply press_evolves

theorem removed_evolves  (hs : Evolves z s) : Evolves z (State.removed s) := by
  unfold State.removed
  repeat' first
    | with_reducible assumption
    | with_reducible apply serviceAction_evolves
    | with_reducible apply onSch_evolves
    | with_reducible apply closeMirrors_evolves
    | with_reducible apply flood_evolves
    | with_reducible apply each_evolves
    | with_reducible apply closePort_evolves
    | with_reducible apply setRemoval_evolves
    | ((first | lift_lets -underBinder | skip); intro u; have hu : Evolves z u; (on_goal 1 => (dsimp only [u]; try clear u)); (on_goal 2 => clear_value u))
    | ((first | lift_lets -underBinder | skip); intro u; clear_value u)
    | split
    | (intro u; try intros)

theorem execRemovalComplete_evolves  (hs : Evolves z s) : EvolvesOut z (execRemovalComplete s) := by
  unfold execRemovalComplete
  repeat' first
    | with_reducible assumption
    | with_reducible apply woken_evolves
    | with_reducible apply removed_evolves

theorem openLatch_evolves  (hs : Evolves z s) : Evolves z (State.openLatch s) := by
  unfold State.openLatch
  repeat' first
    | with_reducible assumption
    | with_reducible apply onPwr_evolves
    | with_reducible apply onSvc_evolves
    | with_reducible apply serviceAction_evolves
    | with_reducible apply flood_evolves
    | with_reducible apply stopAll_evolves
    | ((first | lift_lets -underBinder | skip); intro u; have hu : Evolves z u; (on_goal 1 => (dsimp only [u]; try clear u)); (on_goal 2 => clear_value u))
    | ((first | lift_lets -underBinder | skip); intro u; clear_value u)
    | split
    | exact fun h => h
    | (intro u; try intros)

theorem execLatchOpen_evolves  (hs : Evolves z s) : EvolvesOut z (execLatchOpen s) := by
  unfold execLatchOpen
  repeat' first
    | with_reducible assumption
    | with_reducible apply woken_evolves
    | with_reducible apply openLatch_evolves

theorem execLatchClose_evolves  (hs : Evolves z s) : EvolvesOut z (execLatchClose s) := by
  unfold execLatchClose
  repeat' first
    | with_reducible assumption
    | with_reducible apply onSvc_evolves
    | with_reducible apply next_evolves

theorem execAlertResponseRead_evolves  (hs : Evolves z s) : EvolvesOut z (execAlertResponseRead s) := by
  unfold execAlertResponseRead
  repeat' first
    | with_reducible assumption
    | with_reducible apply onSvc_evolves
    | with_reducible apply next_evolves
    | split

theorem say_evolves (m) (hs : Evolves z s) : Evolves z (State.say s m) := hs.same rfl rfl rfl rfl rfl rfl rfl rfl rfl rfl

theorem aon_evolves (f : State → State) (hf : ∀ u, Evolves z u → Evolves z (f u)) (hs : Evolves z s) : Evolves z (State.aon s f) := by
  unfold State.aon
  repeat' first
    | with_reducible assumption
    | apply hf
    | split
    | (intro u; try intros)

theorem execMctpBbxRead_evolves (start : W64) (max : W32) (hs : Evolves z s) : EvolvesOut z (execMctpBbxRead start max s) := by
  unfold execMctpBbxRead
  repeat' first
    | with_reducible assumption
    | with_reducible apply aon_evolves
    | with_reducible apply say_evolves
    | with_reducible apply onBbx_evolves
    | with_reducible apply next_evolves
    | exact Bbx.markRead_fits _ _
    | ((first | lift_lets -underBinder | skip); intro u; have hu : Evolves z u; (on_goal 1 => (dsimp only [u]; try clear u)); (on_goal 2 => clear_value u))
    | ((first | lift_lets -underBinder | skip); intro u; clear_value u)
    | exact fun h => h
    | (intro u; try intros)

theorem execPldmMonitoring_evolves  (hs : Evolves z s) : EvolvesOut z (execPldmMonitoring s) := by
  unfold execPldmMonitoring
  repeat' first
    | with_reducible assumption
    | with_reducible apply aon_evolves
    | with_reducible apply say_evolves
    | with_reducible apply next_evolves
    | (intro u; try intros)

theorem execPldmFru_evolves  (hs : Evolves z s) : EvolvesOut z (execPldmFru s) := by
  unfold execPldmFru
  repeat' first
    | with_reducible assumption
    | with_reducible apply aon_evolves
    | with_reducible apply say_evolves
    | with_reducible apply next_evolves
    | (intro u; try intros)

theorem execPldmFirmwareUpdate_evolves (image : Bytes) (hs : Evolves z s) : EvolvesOut z (execPldmFirmwareUpdate image s) := by
  unfold execPldmFirmwareUpdate
  repeat' first
    | with_reducible assumption
    | with_reducible apply woken_evolves
    | with_reducible apply aon_evolves
    | with_reducible apply say_evolves
    | with_reducible apply stage_evolves
    | with_reducible exact inl_evolves _
    | with_reducible apply inr_evolves
    | with_reducible refine of_inr (by assumption) ?_
    | split
    | (intro u; try intros)

theorem doe_evolves (f : State → State) (hf : ∀ u, Evolves z u → Evolves z (f u)) (hs : Evolves z s) : Evolves z (State.doe s f) := by
  unfold State.doe
  repeat' first
    | with_reducible assumption
    | apply hf
    | split
    | (intro u; try intros)

theorem signFree_evolves  (hs : Evolves z s) : EvolvesSnd z (State.signFree s) := by
  unfold State.signFree
  repeat' first
    | with_reducible assumption
    | with_reducible apply fresh_evolves
    | with_reducible apply pair2_evolves
    | with_reducible refine of_snd (by assumption) ?_
    | with_reducible refine snd_evolves (p := State.fresh _) ?_
    | split

theorem execSpdmGetVersion_evolves  (hs : Evolves z s) : EvolvesOut z (execSpdmGetVersion s) := by
  unfold execSpdmGetVersion
  repeat' first
    | with_reducible assumption
    | with_reducible apply doe_evolves
    | with_reducible apply say_evolves
    | with_reducible apply next_evolves
    | (intro u; try intros)

theorem execSpdmGetCapabilities_evolves  (hs : Evolves z s) : EvolvesOut z (execSpdmGetCapabilities s) := by
  unfold execSpdmGetCapabilities
  repeat' first
    | with_reducible assumption
    | with_reducible apply doe_evolves
    | with_reducible apply say_evolves
    | with_reducible apply next_evolves
    | (intro u; try intros)

theorem execSpdmNegotiateAlgorithms_evolves  (hs : Evolves z s) : EvolvesOut z (execSpdmNegotiateAlgorithms s) := by
  unfold execSpdmNegotiateAlgorithms
  repeat' first
    | with_reducible assumption
    | with_reducible apply doe_evolves
    | with_reducible apply say_evolves
    | with_reducible apply next_evolves
    | (intro u; try intros)

theorem execSpdmGetDigests_evolves  (hs : Evolves z s) : EvolvesOut z (execSpdmGetDigests s) := by
  unfold execSpdmGetDigests
  repeat' first
    | with_reducible assumption
    | with_reducible apply doe_evolves
    | with_reducible apply say_evolves
    | with_reducible apply next_evolves
    | (intro u; try intros)

theorem execSpdmGetCertificate_evolves (slot : Byte) (hs : Evolves z s) : EvolvesOut z (execSpdmGetCertificate slot s) := by
  unfold execSpdmGetCertificate
  repeat' first
    | with_reducible assumption
    | with_reducible apply doe_evolves
    | with_reducible apply say_evolves
    | with_reducible apply next_evolves
    | split
    | (intro u; try intros)

theorem execSpdmChallenge_evolves (slot : Byte) (nonce : BitVec 256) (hs : Evolves z s) : EvolvesOut z (execSpdmChallenge slot nonce s) := by
  unfold execSpdmChallenge
  repeat' first
    | with_reducible assumption
    | with_reducible apply doe_evolves
    | with_reducible apply say_evolves
    | with_reducible apply signFree_evolves
    | with_reducible apply next_evolves
    | with_reducible apply pair2_evolves
    | with_reducible refine of_snd (by assumption) ?_
    | with_reducible refine snd_evolves (p := State.signFree _) ?_
    | split
    | (intro u; try intros)

theorem execSpdmGetMeasurements_evolves (index : Byte) (nonce : BitVec 256) (hs : Evolves z s) : EvolvesOut z (execSpdmGetMeasurements index nonce s) := by
  unfold execSpdmGetMeasurements
  repeat' first
    | with_reducible assumption
    | with_reducible apply doe_evolves
    | with_reducible apply say_evolves
    | with_reducible apply signFree_evolves
    | with_reducible apply next_evolves
    | with_reducible apply pair2_evolves
    | with_reducible refine of_snd (by assumption) ?_
    | with_reducible refine snd_evolves (p := State.signFree _) ?_
    | ((first | lift_lets -underBinder | skip); intro u; have hu : Evolves z u; (on_goal 1 => (dsimp only [u]; try clear u)); (on_goal 2 => clear_value u))
    | ((first | lift_lets -underBinder | skip); intro u; clear_value u)
    | split
    | (intro u; try intros)

theorem execSpdmUnsupportedRequest_evolves (codeq1 : Byte) (hs : Evolves z s) : EvolvesOut z (execSpdmUnsupportedRequest codeq1 s) := by
  unfold execSpdmUnsupportedRequest
  repeat' first
    | with_reducible assumption
    | with_reducible apply doe_evolves
    | with_reducible apply say_evolves
    | with_reducible apply next_evolves
    | (intro u; try intros)

/-! ## Machine/RegRows.lean -/
theorem pfWrite_evolves (f : State → State) (hf : ∀ u, Evolves z u → Evolves z (f u)) (hs : Evolves z s) : Evolves z (State.pfWrite s f) := by
  unfold State.pfWrite
  repeat' first
    | with_reducible assumption
    | apply hf
    | split
    | (intro u; try intros)

theorem writeDroop_evolves (v : W32) (hs : Evolves z s) : Evolves z (State.writeDroop s v) := by
  unfold State.writeDroop
  repeat' first
    | with_reducible assumption
    | with_reducible apply onPwr_evolves
    | exact fun h => h
    | (intro u; try intros)

theorem writePager_evolves (p : Nat) (v : W32) (hs : Evolves z s) : Evolves z (State.writePager s p v) := by
  unfold State.writePager
  repeat' first
    | with_reducible assumption
    | with_reducible apply settle_evolves
    | with_reducible apply onPart_evolves

theorem writeSched_evolves (p : Nat) (v : W32) (hs : Evolves z s) : Evolves z (State.writeSched s p v) := by
  unfold State.writeSched
  repeat' first
    | with_reducible assumption
    | with_reducible apply settle_evolves
    | with_reducible apply onPart_evolves

theorem writeRetHot_evolves (v : W32) (hs : Evolves z s) : Evolves z (State.writeRetHot s v) := by
  unfold State.writeRetHot
  repeat' first
    | with_reducible assumption
    | with_reducible apply onRet_evolves

theorem writeTblHot_evolves (v : W32) (hs : Evolves z s) : Evolves z (State.writeTblHot s v) := by
  unfold State.writeTblHot
  repeat' first
    | with_reducible assumption
    | with_reducible apply onTbl_evolves

theorem writeGc_evolves (v : W32) (hs : Evolves z s) : Evolves z (State.writeGc s v) := by
  unfold State.writeGc
  repeat' first
    | with_reducible assumption
    | with_reducible apply onCel_evolves

theorem writeMaint_evolves (v : W32) (hs : Evolves z s) : Evolves z (State.writeMaint s v) := by
  unfold State.writeMaint
  repeat' first
    | with_reducible assumption
    | with_reducible apply onCel_evolves

theorem writeGroup_evolves (i : Nat) (v : W32) (hs : Evolves z s) : Evolves z (State.writeGroup s i v) := by
  unfold State.writeGroup
  repeat' first
    | with_reducible assumption
    | with_reducible apply onFab_evolves

theorem writeTimeLo_evolves (v : W32) (hs : Evolves z s) : Evolves z (State.writeTimeLo s v) := by
  unfold State.writeTimeLo
  repeat' first
    | with_reducible assumption
    | with_reducible apply onBbx_evolves
    | exact fun h => h
    | (intro u; try intros)

theorem writeTimeHi_evolves (v : W32) (hs : Evolves z s) : Evolves z (State.writeTimeHi s v) := by
  unfold State.writeTimeHi
  repeat' first
    | with_reducible assumption
    | with_reducible apply onBbx_evolves
    | exact fun h => h
    | (intro u; try intros)

theorem writeCap_evolves (v : W32) (hs : Evolves z s) : Evolves z (State.writeCap s v) := by
  unfold State.writeCap
  repeat' first
    | with_reducible assumption
    | with_reducible apply onPwr_evolves
    | exact fun h => h
    | (intro u; try intros)

theorem writeTherm_evolves (v : W32) (hs : Evolves z s) : Evolves z (State.writeTherm s v) := by
  unfold State.writeTherm
  repeat' first
    | with_reducible assumption
    | with_reducible apply onPwr_evolves
    | exact fun h => h
    | (intro u; try intros)

theorem writePolicy_evolves (v : W32) (hs : Evolves z s) : Evolves z (State.writePolicy s v) := by
  unfold State.writePolicy
  repeat' first
    | with_reducible assumption
    | with_reducible apply onBoot_evolves
    | split
    | exact Nat.le_refl _

theorem writeKey_evolves (i : Nat) (v : W32) (hs : Evolves z s) : Evolves z (State.writeKey s i v) := by
  unfold State.writeKey
  repeat' first
    | with_reducible assumption
    | with_reducible apply onBoot_evolves
    | split
    | exact Nat.le_refl _

theorem clearOvr_evolves (i : Nat) (v : W32) (hs : Evolves z s) : Evolves z (State.clearOvr s i v) := by
  unfold State.clearOvr
  repeat' first
    | with_reducible assumption
    | with_reducible apply onIndex_evolves

theorem clearWait_evolves (v : W32) (hs : Evolves z s) : Evolves z (State.clearWait s v) := by
  unfold State.clearWait
  repeat' first
    | with_reducible assumption
    | with_reducible apply onTbl_evolves

theorem clearAnom_evolves (v : W32) (hs : Evolves z s) : Evolves z (State.clearAnom s v) := by
  unfold State.clearAnom
  repeat' first
    | with_reducible assumption
    | with_reducible apply onSch_evolves

theorem clearUncorr_evolves (v : W32) (hs : Evolves z s) : Evolves z (State.clearUncorr s v) := by
  unfold State.clearUncorr
  repeat' first
    | with_reducible assumption
    | with_reducible apply onCel_evolves

theorem clearLost_evolves (v : W32) (hs : Evolves z s) : Evolves z (State.clearLost s v) := by
  unfold State.clearLost
  repeat' first
    | with_reducible assumption
    | with_reducible apply onBbx_evolves
    | exact fun h => h
    | (intro u; try intros)

theorem returns_evolves (v : W32) (hs : Evolves z s) : Evolves z (State.returns s v) := by
  unfold State.returns
  repeat' first
    | with_reducible assumption
    | with_reducible apply onPorch_evolves
    | with_reducible rfl

theorem readSeqLo_evolves (i : Nat) (hs : Evolves z s) : Evolves z (State.readSeqLo s i) := by
  unfold State.readSeqLo
  repeat' first
    | with_reducible assumption
    | with_reducible apply returns_evolves
    | with_reducible apply onIndex_evolves
    | split

theorem readStepLo_evolves (p : Nat) (hs : Evolves z s) : Evolves z (State.readStepLo s p) := by
  unfold State.readStepLo
  repeat' first
    | with_reducible assumption
    | with_reducible apply returns_evolves
    | with_reducible apply onPart_evolves

theorem readBbxLo_evolves  (hs : Evolves z s) : Evolves z (State.readBbxLo s) := by
  unfold State.readBbxLo
  repeat' first
    | with_reducible assumption
    | with_reducible apply returns_evolves
    | with_reducible apply onBbx_evolves
    | exact fun h => h
    | (intro u; try intros)

theorem pfRead_evolves (f : State → State) (hf : ∀ u, Evolves z u → Evolves z (f u)) (hs : Evolves z s) : Evolves z (State.pfRead s f) := by
  unfold State.pfRead
  repeat' first
    | with_reducible assumption
    | with_reducible apply returns_evolves
    | apply hf
    | split
    | (intro u; try intros)

theorem writeQp_evolves (fn : Fn) (qp : QpNo) (off : Nat) (v : W32) (hs : Evolves z s) : Evolves z (State.writeQp s fn qp off v) := by
  unfold State.writeQp
  repeat' first
    | with_reducible assumption
    | with_reducible apply onQp_evolves
    | with_reducible apply enableQp_evolves
    | with_reducible apply disableQp_evolves
    | (apply_assumption; assumption)
    | ((first | lift_lets -underBinder | skip); intro u; have hv : ∀ f, (∀ q : Qp, q.fits → (f q).fits) → Evolves z (u f); (on_goal 1 => (dsimp only [u]; clear u)); (on_goal 2 => clear_value u))
    | with_reducible apply hv
    | ((first | lift_lets -underBinder | skip); intro u; have hu : Evolves z u; (on_goal 1 => (dsimp only [u]; try clear u)); (on_goal 2 => clear_value u))
    | ((first | lift_lets -underBinder | skip); intro u; clear_value u)
    | split
    | exact fun _ h => h
    | (intro u; try intros)

theorem writeGlb_evolves (fn : Fn) (off : Nat) (v : W32) (hs : Evolves z s) : Evolves z (State.writeGlb s fn off v) := by
  unfold State.writeGlb
  repeat' first
    | with_reducible assumption
    | with_reducible apply onSvc_evolves
    | with_reducible apply writeQp_evolves
    | split

theorem routeWrite_evolves (off : Nat) (l : List (Nat × Nat × (Nat → State))) (hs : Evolves z s) (hl : ∀ x ∈ l, ∀ i, Evolves z (x.2.2 i)) :
    Evolves z (routeWrite s off l) := by
  induction l with
  | nil => exact hs
  | cons x l ih =>
    unfold routeWrite
    split
    · exact hl x List.mem_cons_self _
    · exact ih fun y hy => hl y (List.mem_cons_of_mem _ hy)

theorem writePf_evolves (off : Nat) (v : W32) (hs : Evolves z s) : Evolves z (State.writePf s off v) := by
  unfold State.writePf
  split
  · exact writeGlb_evolves _ _ _ hs
  · refine routeWrite_evolves _ _ hs ?_
    simp only [List.forall_mem_cons]
    exact ⟨fun _ => writeDroop_evolves _ hs, fun _ => writeCap_evolves _ hs, fun _ => writeTherm_evolves _ hs, fun _ => writeSched_evolves _ _ hs, fun _ => writePager_evolves _ _ hs,
      fun _ => clearOvr_evolves _ _ hs, fun _ => writeRetHot_evolves _ hs, fun _ => writeTblHot_evolves _ hs, fun _ => clearWait_evolves _ hs, fun _ => clearAnom_evolves _ hs,
      fun _ => writeGc_evolves _ hs, fun _ => writeMaint_evolves _ hs, fun _ => clearUncorr_evolves _ hs, fun _ => onPort_evolves _ _ hs, fun _ => writeGroup_evolves _ _ hs,
      fun _ => writePolicy_evolves _ hs, fun _ => writeKey_evolves _ _ hs, fun _ => clearLost_evolves _ hs, fun _ => writeTimeLo_evolves _ hs, fun _ => writeTimeHi_evolves _ hs,
      fun _ h => absurd h List.not_mem_nil⟩

theorem regWriteAt_evolves (fn : Fn) (off : Nat) (width : Nat) (v : W32) (hs : Evolves z s) : Evolves z (State.regWriteAt s fn off width v) := by
  unfold State.regWriteAt
  repeat' first
    | with_reducible assumption
    | with_reducible apply writePf_evolves
    | with_reducible apply writeGlb_evolves
    | split

theorem execPwrDroopCfgWrite_evolves (v : W32) (hs : Evolves z s) : EvolvesOut z (execPwrDroopCfgWrite v s) := by
  unfold execPwrDroopCfgWrite
  repeat' first
    | with_reducible assumption
    | with_reducible apply pfWrite_evolves
    | with_reducible apply writeDroop_evolves
    | with_reducible apply next_evolves
    | (intro u; try intros)

theorem execMemPagerCfgWrite_evolves (part : PartNo) (v : W32) (hs : Evolves z s) : EvolvesOut z (execMemPagerCfgWrite part v s) := by
  unfold execMemPagerCfgWrite
  repeat' first
    | with_reducible assumption
    | with_reducible apply woken_evolves
    | with_reducible apply pfWrite_evolves
    | with_reducible apply writePager_evolves
    | (intro u; try intros)

theorem execSchSchedCfgWrite_evolves (part : PartNo) (v : W32) (hs : Evolves z s) : EvolvesOut z (execSchSchedCfgWrite part v s) := by
  unfold execSchSchedCfgWrite
  repeat' first
    | with_reducible assumption
    | with_reducible apply woken_evolves
    | with_reducible apply pfWrite_evolves
    | with_reducible apply writeSched_evolves
    | (intro u; try intros)

theorem execRetHotCfgWrite_evolves (v : W32) (hs : Evolves z s) : EvolvesOut z (execRetHotCfgWrite v s) := by
  unfold execRetHotCfgWrite
  repeat' first
    | with_reducible assumption
    | with_reducible apply pfWrite_evolves
    | with_reducible apply writeRetHot_evolves
    | with_reducible apply next_evolves
    | (intro u; try intros)

theorem execTblHotCfgWrite_evolves (v : W32) (hs : Evolves z s) : EvolvesOut z (execTblHotCfgWrite v s) := by
  unfold execTblHotCfgWrite
  repeat' first
    | with_reducible assumption
    | with_reducible apply pfWrite_evolves
    | with_reducible apply writeTblHot_evolves
    | with_reducible apply next_evolves
    | (intro u; try intros)

theorem execCelGcCfgWrite_evolves (v : W32) (hs : Evolves z s) : EvolvesOut z (execCelGcCfgWrite v s) := by
  unfold execCelGcCfgWrite
  repeat' first
    | with_reducible assumption
    | with_reducible apply pfWrite_evolves
    | with_reducible apply writeGc_evolves
    | with_reducible apply next_evolves
    | (intro u; try intros)

theorem execCelMaintCfgWrite_evolves (v : W32) (hs : Evolves z s) : EvolvesOut z (execCelMaintCfgWrite v s) := by
  unfold execCelMaintCfgWrite
  repeat' first
    | with_reducible assumption
    | with_reducible apply pfWrite_evolves
    | with_reducible apply writeMaint_evolves
    | with_reducible apply next_evolves
    | (intro u; try intros)

theorem execFabShardGrpWrite_evolves (index : IndexNo) (v : W32) (hs : Evolves z s) : EvolvesOut z (execFabShardGrpWrite index v s) := by
  unfold execFabShardGrpWrite
  repeat' first
    | with_reducible assumption
    | with_reducible apply pfWrite_evolves
    | with_reducible apply writeGroup_evolves
    | with_reducible apply next_evolves
    | (intro u; try intros)

theorem execBbxTimeHiWrite_evolves (v : W32) (hs : Evolves z s) : EvolvesOut z (execBbxTimeHiWrite v s) := by
  unfold execBbxTimeHiWrite
  repeat' first
    | with_reducible assumption
    | with_reducible apply pfWrite_evolves
    | with_reducible apply writeTimeHi_evolves
    | with_reducible apply next_evolves
    | (intro u; try intros)

theorem execPwrCapCfgWrite_evolves (v : W32) (hs : Evolves z s) : EvolvesOut z (execPwrCapCfgWrite v s) := by
  unfold execPwrCapCfgWrite
  repeat' first
    | with_reducible assumption
    | with_reducible apply pfWrite_evolves
    | with_reducible apply writeCap_evolves
    | with_reducible apply next_evolves
    | (intro u; try intros)

theorem execPwrThermCfgWrite_evolves (v : W32) (hs : Evolves z s) : EvolvesOut z (execPwrThermCfgWrite v s) := by
  unfold execPwrThermCfgWrite
  repeat' first
    | with_reducible assumption
    | with_reducible apply pfWrite_evolves
    | with_reducible apply writeTherm_evolves
    | with_reducible apply next_evolves
    | (intro u; try intros)

theorem execSecImgPolicyWrite_evolves (v : W32) (hs : Evolves z s) : EvolvesOut z (execSecImgPolicyWrite v s) := by
  unfold execSecImgPolicyWrite
  repeat' first
    | with_reducible assumption
    | with_reducible apply pfWrite_evolves
    | with_reducible apply writePolicy_evolves
    | with_reducible apply next_evolves
    | (intro u; try intros)

theorem execSecImgKeyWrite_evolves (slot : Fin 16) (word : Fin 16) (v : W32) (hs : Evolves z s) : EvolvesOut z (execSecImgKeyWrite slot word v s) := by
  unfold execSecImgKeyWrite
  repeat' first
    | with_reducible assumption
    | with_reducible apply pfWrite_evolves
    | with_reducible apply writeKey_evolves
    | with_reducible apply next_evolves
    | (intro u; try intros)

theorem execRetOvrClear_evolves (index : IndexNo) (v : W32) (hs : Evolves z s) : EvolvesOut z (execRetOvrClear index v s) := by
  unfold execRetOvrClear
  repeat' first
    | with_reducible assumption
    | with_reducible apply pfWrite_evolves
    | with_reducible apply clearOvr_evolves
    | with_reducible apply next_evolves
    | (intro u; try intros)

theorem execTblReclaimWaitClear_evolves (v : W32) (hs : Evolves z s) : EvolvesOut z (execTblReclaimWaitClear v s) := by
  unfold execTblReclaimWaitClear
  repeat' first
    | with_reducible assumption
    | with_reducible apply pfWrite_evolves
    | with_reducible apply clearWait_evolves
    | with_reducible apply next_evolves
    | (intro u; try intros)

theorem execTxtSampleAnomClear_evolves (v : W32) (hs : Evolves z s) : EvolvesOut z (execTxtSampleAnomClear v s) := by
  unfold execTxtSampleAnomClear
  repeat' first
    | with_reducible assumption
    | with_reducible apply pfWrite_evolves
    | with_reducible apply clearAnom_evolves
    | with_reducible apply next_evolves
    | (intro u; try intros)

theorem execCelUncorrClear_evolves (v : W32) (hs : Evolves z s) : EvolvesOut z (execCelUncorrClear v s) := by
  unfold execCelUncorrClear
  repeat' first
    | with_reducible assumption
    | with_reducible apply pfWrite_evolves
    | with_reducible apply clearUncorr_evolves
    | with_reducible apply next_evolves
    | (intro u; try intros)

theorem execBbxSealedLostClear_evolves (v : W32) (hs : Evolves z s) : EvolvesOut z (execBbxSealedLostClear v s) := by
  unfold execBbxSealedLostClear
  repeat' first
    | with_reducible assumption
    | with_reducible apply pfWrite_evolves
    | with_reducible apply clearLost_evolves
    | with_reducible apply next_evolves
    | (intro u; try intros)

theorem execRetSeqLoRead_evolves (index : IndexNo) (hs : Evolves z s) : EvolvesOut z (execRetSeqLoRead index s) := by
  unfold execRetSeqLoRead
  repeat' first
    | with_reducible assumption
    | with_reducible apply pfRead_evolves
    | with_reducible apply readSeqLo_evolves
    | with_reducible apply next_evolves
    | (intro u; try intros)

theorem execSchStepLoRead_evolves (part : PartNo) (hs : Evolves z s) : EvolvesOut z (execSchStepLoRead part s) := by
  unfold execSchStepLoRead
  repeat' first
    | with_reducible assumption
    | with_reducible apply pfRead_evolves
    | with_reducible apply readStepLo_evolves
    | with_reducible apply next_evolves
    | (intro u; try intros)

theorem execBbxSeqLoRead_evolves  (hs : Evolves z s) : EvolvesOut z (execBbxSeqLoRead s) := by
  unfold execBbxSeqLoRead
  repeat' first
    | with_reducible assumption
    | with_reducible apply pfRead_evolves
    | with_reducible apply readBbxLo_evolves
    | with_reducible apply next_evolves
    | (intro u; try intros)

theorem execRegWrite_evolves (fn : Fn) (offset : W32) (width : BitVec 8) (v : W64) (hs : Evolves z s) : EvolvesOut z (execRegWrite fn offset width v s) := by
  unfold execRegWrite
  repeat' first
    | with_reducible assumption
    | with_reducible apply woken_evolves
    | with_reducible apply regWriteAt_evolves

end Sys2Proof.Machine
end

