-- ==== Sys2Proof/Laws/EvolveStep.lean ====
section
/-! SUPPORT. What every command keeps: the meaning of each row evolves the state. -/

namespace Sys2Proof.Machine

/-- Every row's meaning evolves the state it starts from. -/
theorem exec_evolvesOut (i : Instr) (s : State) : EvolvesOut s (exec i s) := by
  cases i with
  | sqTailDoorbell fn qp v => exact execSqTailDoorbell_evolves fn qp v .rfl'
  | cqHeadDoorbell fn qp v => exact execCqHeadDoorbell_evolves fn qp v .rfl'
  | orHeadDoorbell fn qp v => exact execOrHeadDoorbell_evolves fn qp v .rfl'
  | qpEnable fn qp v => exact execQpEnable_evolves fn qp v .rfl'
  | qpDisable fn qp v => exact execQpDisable_evolves fn qp v .rfl'
  | qpDrainEnd fn qp => exact execQpDrainEnd_evolves fn qp .rfl'
  | ringDmaFailure fn qp => exact execRingDmaFailure_evolves fn qp .rfl'
  | commandFetch fn qp => exact execCommandFetch_evolves fn qp .rfl'
  | functionLevelReset fn => exact execFunctionLevelReset_evolves fn .rfl'
  | linkLoss => exact execLinkLoss_evolves .rfl'
  | perstAssert => exact execPerstAssert_evolves .rfl'
  | resetRelease romOk readable buttonHeld => exact execResetRelease_evolves romOk readable buttonHeld .rfl'
  | bootStepEnd ok units aon => exact execBootStepEnd_evolves ok units aon .rfl'
  | identify h pb => exact execIdentify_evolves h pb .rfl'
  | tenantLoad h pb => exact execTenantLoad_evolves h pb .rfl'
  | tenantUnload h pb => exact execTenantUnload_evolves h pb .rfl'
  | baseUnload h pb => exact execBaseUnload_evolves h pb .rfl'
  | baseLoad h pb => exact execBaseLoad_evolves h pb .rfl'
  | tenantInfo h pb => exact execTenantInfo_evolves h pb .rfl'
  | ask h pb => exact execAsk_evolves h pb .rfl'
  | generate h pb => exact execGenerate_evolves h pb .rfl'
  | embed h pb => exact execEmbed_evolves h pb .rfl'
  | search h pb => exact execSearch_evolves h pb .rfl'
  | rerank h pb => exact execRerank_evolves h pb .rfl'
  | cancel h pb => exact execCancel_evolves h pb .rfl'
  | step h pb => exact execStep_evolves h pb .rfl'
  | indexCreate h pb => exact execIndexCreate_evolves h pb .rfl'
  | indexModify h pb => exact execIndexModify_evolves h pb .rfl'
  | indexDestroy h pb => exact execIndexDestroy_evolves h pb .rfl'
  | indexInsert h pb => exact execIndexInsert_evolves h pb .rfl'
  | indexDelete h pb => exact execIndexDelete_evolves h pb .rfl'
  | indexMerge h pb => exact execIndexMerge_evolves h pb .rfl'
  | indexInfo h pb => exact execIndexInfo_evolves h pb .rfl'
  | indexLoad h pb => exact execIndexLoad_evolves h pb .rfl'
  | passageGet h pb => exact execPassageGet_evolves h pb .rfl'
  | tableCreate h pb => exact execTableCreate_evolves h pb .rfl'
  | tableDestroy h pb => exact execTableDestroy_evolves h pb .rfl'
  | tableWrite h pb => exact execTableWrite_evolves h pb .rfl'
  | tableGather h pb => exact execTableGather_evolves h pb .rfl'
  | tableInfo h pb => exact execTableInfo_evolves h pb .rfl'
  | vocabLoad h pb => exact execVocabLoad_evolves h pb .rfl'
  | vocabUnload h pb => exact execVocabUnload_evolves h pb .rfl'
  | grammarLoad h pb => exact execGrammarLoad_evolves h pb .rfl'
  | grammarUnload h pb => exact execGrammarUnload_evolves h pb .rfl'
  | tokenize h pb => exact execTokenize_evolves h pb .rfl'
  | detokenize h pb => exact execDetokenize_evolves h pb .rfl'
  | partSet h pb => exact execPartSet_evolves h pb .rfl'
  | partStats h pb => exact execPartStats_evolves h pb .rfl'
  | partRegulate h pb => exact execPartRegulate_evolves h pb .rfl'
  | selftest h pb => exact execSelftest_evolves h pb .rfl'
  | selftestPieceEnd pass engine isCol line => exact execSelftestPieceEnd_evolves pass engine isCol line .rfl'
  | calibrate h pb => exact execCalibrate_evolves h pb .rfl'
  | maintPolicy h pb => exact execMaintPolicy_evolves h pb .rfl'
  | evacuate h pb => exact execEvacuate_evolves h pb .rfl'
  | fabStatus h pb => exact execFabStatus_evolves h pb .rfl'
  | fabLeaseAcquire h pb => exact execFabLeaseAcquire_evolves h pb .rfl'
  | fabLeaseRelease h pb => exact execFabLeaseRelease_evolves h pb .rfl'
  | fabLeaseOffer h pb => exact execFabLeaseOffer_evolves h pb .rfl'
  | fabLeaseWithdraw h pb => exact execFabLeaseWithdraw_evolves h pb .rfl'
  | fabBuddy h pb => exact execFabBuddy_evolves h pb .rfl'
  | fwStage h pb => exact execFwStage_evolves h pb .rfl'
  | fwCommit h pb => exact execFwCommit_evolves h pb .rfl'
  | attest h pb => exact execAttest_evolves h pb .rfl'
  | bbxRead h pb => exact execBbxRead_evolves h pb .rfl'
  | bbxAck h pb => exact execBbxAck_evolves h pb .rfl'
  | sensors h pb => exact execSensors_evolves h pb .rfl'
  | acctRead h pb => exact execAcctRead_evolves h pb .rfl'
  | acctReadClear h pb => exact execAcctReadClear_evolves h pb .rfl'
  | scanPlanDispatch ctrl => exact execScanPlanDispatch_evolves ctrl .rfl'
  | scanPageScored adm ctrl page readable => exact execScanPageScored_evolves adm ctrl page readable .rfl'
  | passageFetchDone slot readable => exact execPassageFetchDone_evolves slot readable .rfl'
  | mutationPublish index => exact execMutationPublish_evolves index .rfl'
  | mergeCommit index bucket => exact execMergeCommit_evolves index bucket .rfl'
  | generationRetire index bucket => exact execGenerationRetire_evolves index bucket .rfl'
  | hotReplicaCommit index bucket => exact execHotReplicaCommit_evolves index bucket .rfl'
  | launchStart part => exact execLaunchStart_evolves part .rfl'
  | launchEnd part cycles outs => exact execLaunchEnd_evolves part cycles outs .rfl'
  | grammarMaskReady slot => exact execGrammarMaskReady_evolves slot .rfl'
  | layerLanded part place crcOk => exact execLayerLanded_evolves part place crcOk .rfl'
  | pagerTransferDone part => exact execPagerTransferDone_evolves part .rfl'
  | regulatedTransferStart part res => exact execRegulatedTransferStart_evolves part res .rfl'
  | slowdownWindowClose part obs int => exact execSlowdownWindowClose_evolves part obs int .rfl'
  | preemptSave core => exact execPreemptSave_evolves core .rfl'
  | preemptWatchdog core => exact execPreemptWatchdog_evolves core .rfl'
  | sequencerWatchdog core => exact execSequencerWatchdog_evolves core .rfl'
  | xferCopy core w => exact execXferCopy_evolves core w .rfl'
  | xferDecompress core w => exact execXferDecompress_evolves core w .rfl'
  | xferZeroFill core w => exact execXferZeroFill_evolves core w .rfl'
  | xferComplete core => exact execXferComplete_evolves core .rfl'
  | mmaPass core w => exact execMmaPass_evolves core w .rfl'
  | activityDecay core engine => exact execActivityDecay_evolves core engine .rfl'
  | sfuFused core w => exact execSfuFused_evolves core w .rfl'
  | sfuStatsFirst core w => exact execSfuStatsFirst_evolves core w .rfl'
  | sfuStatsFeed core w => exact execSfuStatsFeed_evolves core w .rfl'
  | sfuStatsFinish core w => exact execSfuStatsFinish_evolves core w .rfl'
  | vecAdd core w => exact execVecAdd_evolves core w .rfl'
  | vecSubtract core w => exact execVecSubtract_evolves core w .rfl'
  | vecMultiply core w => exact execVecMultiply_evolves core w .rfl'
  | vecMaximum core w => exact execVecMaximum_evolves core w .rfl'
  | vecMinimum core w => exact execVecMinimum_evolves core w .rfl'
  | vecConvert core w => exact execVecConvert_evolves core w .rfl'
  | vecAbsolute core w => exact execVecAbsolute_evolves core w .rfl'
  | vecSelect core w => exact execVecSelect_evolves core w .rfl'
  | selPass core w => exact execSelPass_evolves core w .rfl'
  | selMerge core w => exact execSelMerge_evolves core w .rfl'
  | syncSignal core w => exact execSyncSignal_evolves core w .rfl'
  | signalTakeEffect core => exact execSignalTakeEffect_evolves core .rfl'
  | syncWait core w => exact execSyncWait_evolves core w .rfl'
  | syncBarrier core w => exact execSyncBarrier_evolves core w .rfl'
  | syncFence core w => exact execSyncFence_evolves core w .rfl'
  | nop core w => exact execNop_evolves core w .rfl'
  | loadi core w => exact execLoadi_evolves core w .rfl'
  | loadp core w => exact execLoadp_evolves core w .rfl'
  | addi core w => exact execAddi_evolves core w .rfl'
  | ctrlAdd core w => exact execCtrlAdd_evolves core w .rfl'
  | muli core w => exact execMuli_evolves core w .rfl'
  | loop core w => exact execLoop_evolves core w .rfl'
  | loopr core w => exact execLoopr_evolves core w .rfl'
  | branch core w => exact execBranch_evolves core w .rfl'
  | setseg core w => exact execSetseg_evolves core w .rfl'
  | endProgram core w => exact execEndProgram_evolves core w .rfl'
  | mark core w => exact execMark_evolves core w .rfl'
  | droopStretch core => exact execDroopStretch_evolves core .rfl'
  | stretchExit core => exact execStretchExit_evolves core .rfl'
  | gatherComplete gid => exact execGatherComplete_evolves gid .rfl'
  | countHalving table => exact execCountHalving_evolves table .rfl'
  | writeEntryApply table => exact execWriteEntryApply_evolves table .rfl'
  | flashOpComplete die r => exact execFlashOpComplete_evolves die r .rfl'
  | patrolRead die => exact execPatrolRead_evolves die .rfl'
  | activityClaim aid => exact execActivityClaim_evolves aid .rfl'
  | blockErase die block => exact execBlockErase_evolves die block .rfl'
  | dieFail die => exact execDieFail_evolves die .rfl'
  | controllerLost ctrl => exact execControllerLost_evolves ctrl .rfl'
  | faultCorrected f => exact execFaultCorrected_evolves f .rfl'
  | faultStep f => exact execFaultStep_evolves f .rfl'
  | faultPage f => exact execFaultPage_evolves f .rfl'
  | faultFront f => exact execFaultFront_evolves f .rfl'
  | faultBeyondSparing f => exact execFaultBeyondSparing_evolves f .rfl'
  | hbmParityRebuildDone stack => exact execHbmParityRebuildDone_evolves stack .rfl'
  | powerSample mv mw => exact execPowerSample_evolves mv mw .rfl'
  | phaseFail phase => exact execPhaseFail_evolves phase .rfl'
  | thermalSample junctions hbm packages => exact execThermalSample_evolves junctions hbm packages .rfl'
  | thermalHoldExpiry => exact execThermalHoldExpiry_evolves .rfl'
  | modEnAssert => exact execModEnAssert_evolves .rfl'
  | modEnDeassert => exact execModEnDeassert_evolves .rfl'
  | domainSleep dom => exact execDomainSleep_evolves dom .rfl'
  | domainWakeDone dom => exact execDomainWakeDone_evolves dom .rfl'
  | pllLock core => exact execPllLock_evolves core .rfl'
  | inrushWindow ramp => exact execInrushWindow_evolves ramp .rfl'
  | portUp port peer serial => exact execPortUp_evolves port peer serial .rfl'
  | linkAuthDone port ok digest => exact execLinkAuthDone_evolves port ok digest .rfl'
  | laneFail lane reason => exact execLaneFail_evolves lane reason .rfl'
  | flitReceive port flit => exact execFlitReceive_evolves port flit .rfl'
  | nakReceive port ack => exact execNakReceive_evolves port ack .rfl'
  | addressProbe port cand serial => exact execAddressProbe_evolves port cand serial .rfl'
  | addressProbeTimeout => exact execAddressProbeTimeout_evolves .rfl'
  | routingUpdate port routes groups => exact execRoutingUpdate_evolves port routes groups .rfl'
  | routeAdvertiseTimer => exact execRouteAdvertiseTimer_evolves .rfl'
  | routeExpire dest => exact execRouteExpire_evolves dest .rfl'
  | peerDownNotice reporter lost electricalIdle => exact execPeerDownNotice_evolves reporter lost electricalIdle .rfl'
  | departingNotice src => exact execDepartingNotice_evolves src .rfl'
  | messageRetryTimeout dest cls msgId => exact execMessageRetryTimeout_evolves dest cls msgId .rfl'
  | remoteMemoryRead m offset units => exact execRemoteMemoryRead_evolves m offset units .rfl'
  | remoteMemoryWrite m offset data => exact execRemoteMemoryWrite_evolves m offset data .rfl'
  | leaseOfferMsg m gib => exact execLeaseOfferMsg_evolves m gib .rfl'
  | leaseGrantMsg m gib => exact execLeaseGrantMsg_evolves m gib .rfl'
  | leaseWithdrawalNotice m => exact execLeaseWithdrawalNotice_evolves m .rfl'
  | leaseReleaseMsg m => exact execLeaseReleaseMsg_evolves m .rfl'
  | gatherRequestMsg m ownerPools pool indices bags => exact execGatherRequestMsg_evolves m ownerPools pool indices bags .rfl'
  | gatherReplyMsg m shard rows sums => exact execGatherReplyMsg_evolves m shard rows sums .rfl'
  | tableUpdateMsg m entries => exact execTableUpdateMsg_evolves m entries .rfl'
  | replicaRequestMsg m row => exact execReplicaRequestMsg_evolves m row .rfl'
  | replicaInstallMsg m row values => exact execReplicaInstallMsg_evolves m row values .rfl'
  | replicaDiscardMsg m row => exact execReplicaDiscardMsg_evolves m row .rfl'
  | shardSearchMsg m query k p w filter => exact execShardSearchMsg_evolves m query k p w filter .rfl'
  | shardSearchReply m cands rounds snapshot => exact execShardSearchReply_evolves m cands rounds snapshot .rfl'
  | textFetchMsg m id version text => exact execTextFetchMsg_evolves m id version text .rfl'
  | holdReleaseMsg m => exact execHoldReleaseMsg_evolves m .rfl'
  | mirrorOpen m d => exact execMirrorOpen_evolves m d .rfl'
  | mirrorUpdate m tokens bytes => exact execMirrorUpdate_evolves m tokens bytes .rfl'
  | mirrorClose m => exact execMirrorClose_evolves m .rfl'
  | migrationMsg m d => exact execMigrationMsg_evolves m d .rfl'
  | serviceButtonPress ms => exact execServiceButtonPress_evolves ms .rfl'
  | removalComplete => exact execRemovalComplete_evolves .rfl'
  | latchOpen => exact execLatchOpen_evolves .rfl'
  | latchClose => exact execLatchClose_evolves .rfl'
  | alertResponseRead => exact execAlertResponseRead_evolves .rfl'
  | mctpBbxRead start max => exact execMctpBbxRead_evolves start max .rfl'
  | pldmMonitoring => exact execPldmMonitoring_evolves .rfl'
  | pldmFru => exact execPldmFru_evolves .rfl'
  | pldmFirmwareUpdate image => exact execPldmFirmwareUpdate_evolves image .rfl'
  | spdmGetVersion => exact execSpdmGetVersion_evolves .rfl'
  | spdmGetCapabilities => exact execSpdmGetCapabilities_evolves .rfl'
  | spdmNegotiateAlgorithms => exact execSpdmNegotiateAlgorithms_evolves .rfl'
  | spdmGetDigests => exact execSpdmGetDigests_evolves .rfl'
  | spdmGetCertificate slot => exact execSpdmGetCertificate_evolves slot .rfl'
  | spdmChallenge slot nonce => exact execSpdmChallenge_evolves slot nonce .rfl'
  | spdmGetMeasurements index nonce => exact execSpdmGetMeasurements_evolves index nonce .rfl'
  | spdmUnsupportedRequest code => exact execSpdmUnsupportedRequest_evolves code .rfl'
  | pwrDroopCfgWrite v => exact execPwrDroopCfgWrite_evolves v .rfl'
  | memPagerCfgWrite part v => exact execMemPagerCfgWrite_evolves part v .rfl'
  | schSchedCfgWrite part v => exact execSchSchedCfgWrite_evolves part v .rfl'
  | retHotCfgWrite v => exact execRetHotCfgWrite_evolves v .rfl'
  | tblHotCfgWrite v => exact execTblHotCfgWrite_evolves v .rfl'
  | celGcCfgWrite v => exact execCelGcCfgWrite_evolves v .rfl'
  | celMaintCfgWrite v => exact execCelMaintCfgWrite_evolves v .rfl'
  | fabShardGrpWrite index v => exact execFabShardGrpWrite_evolves index v .rfl'
  | bbxTimeHiWrite v => exact execBbxTimeHiWrite_evolves v .rfl'
  | pwrCapCfgWrite v => exact execPwrCapCfgWrite_evolves v .rfl'
  | pwrThermCfgWrite v => exact execPwrThermCfgWrite_evolves v .rfl'
  | secImgPolicyWrite v => exact execSecImgPolicyWrite_evolves v .rfl'
  | secImgKeyWrite slot word v => exact execSecImgKeyWrite_evolves slot word v .rfl'
  | retOvrClear index v => exact execRetOvrClear_evolves index v .rfl'
  | tblReclaimWaitClear v => exact execTblReclaimWaitClear_evolves v .rfl'
  | txtSampleAnomClear v => exact execTxtSampleAnomClear_evolves v .rfl'
  | celUncorrClear v => exact execCelUncorrClear_evolves v .rfl'
  | bbxSealedLostClear v => exact execBbxSealedLostClear_evolves v .rfl'
  | retSeqLoRead index => exact execRetSeqLoRead_evolves index .rfl'
  | schStepLoRead part => exact execSchStepLoRead_evolves part .rfl'
  | bbxSeqLoRead => exact execBbxSeqLoRead_evolves .rfl'
  | regWrite fn offset width v => exact execRegWrite_evolves fn offset width v .rfl'
  | powerOn mv => exact execPowerOn_evolves mv .rfl'
  | alwaysOnPowerLoss => exact execAlwaysOnPowerLoss_evolves .rfl'
  | configRequest vfs => exact execConfigRequest_evolves vfs .rfl'
  | portRetrainDone port => exact execPortRetrainDone_evolves port .rfl'
  | cellarChannelLost ctrl chan => exact execCellarChannelLost_evolves ctrl chan .rfl'
  | tableUpdateAck m applied => exact execTableUpdateAck_evolves m applied .rfl'
  | replicaInstallAck m row => exact execReplicaInstallAck_evolves m row .rfl'
  | mirrorErrorReply m => exact execMirrorErrorReply_evolves m .rfl'
  | passLastWrite core engine => exact execPassLastWrite_evolves core engine .rfl'
  | sfuVecSelComplete core => exact execSfuVecSelComplete_evolves core .rfl'

/-- The state a command answers has evolved from the one it started from. -/
theorem exec_evolves {i : Instr} {s t : State} (h : exec i s = .next t) : Evolves s t := by
  have := exec_evolvesOut i s
  rw [h] at this
  exact this

end Sys2Proof.Machine
end

