-- ==== Sys2Proof/Laws/State.lean ====
section
/-! SUPPORT. What each update of a part of the state leaves in each field: one lemma per field per update, true by definition, so that no proof unfolds a
record update; and what the parts read back. -/

namespace Sys2Proof.Machine

variable (s : State)

/-! ### onPorch -/

@[simp] theorem State.onPorch_pending (f : Porch → Porch) : (s.onPorch f).pending = s.pending := rfl
@[simp] theorem State.onPorch_host (f : Porch → Porch) : (s.onPorch f).host = s.host := rfl
@[simp] theorem State.onPorch_ident (f : Porch → Porch) : (s.onPorch f).ident = s.ident := rfl
@[simp] theorem State.onPorch_porch (f : Porch → Porch) : (s.onPorch f).porch = f s.porch := rfl
@[simp] theorem State.onPorch_sch (f : Porch → Porch) : (s.onPorch f).sch = s.sch := rfl
@[simp] theorem State.onPorch_mem (f : Porch → Porch) : (s.onPorch f).mem = s.mem := rfl
@[simp] theorem State.onPorch_cores (f : Porch → Porch) : (s.onPorch f).cores = s.cores := rfl
@[simp] theorem State.onPorch_ret (f : Porch → Porch) : (s.onPorch f).ret = s.ret := rfl
@[simp] theorem State.onPorch_tbl (f : Porch → Porch) : (s.onPorch f).tbl = s.tbl := rfl
@[simp] theorem State.onPorch_cel (f : Porch → Porch) : (s.onPorch f).cel = s.cel := rfl
@[simp] theorem State.onPorch_fab (f : Porch → Porch) : (s.onPorch f).fab = s.fab := rfl
@[simp] theorem State.onPorch_ras (f : Porch → Porch) : (s.onPorch f).ras = s.ras := rfl
@[simp] theorem State.onPorch_bbx (f : Porch → Porch) : (s.onPorch f).bbx = s.bbx := rfl
@[simp] theorem State.onPorch_pwr (f : Porch → Porch) : (s.onPorch f).pwr = s.pwr := rfl
@[simp] theorem State.onPorch_boot (f : Porch → Porch) : (s.onPorch f).boot = s.boot := rfl
@[simp] theorem State.onPorch_svc (f : Porch → Porch) : (s.onPorch f).svc = s.svc := rfl
@[simp] theorem State.onPorch_mgmt (f : Porch → Porch) : (s.onPorch f).mgmt = s.mgmt := rfl
@[simp] theorem State.onPorch_freeCtr (f : Porch → Porch) : (s.onPorch f).freeCtr = s.freeCtr := rfl

/-! ### onSch -/

@[simp] theorem State.onSch_pending (f : Sch → Sch) : (s.onSch f).pending = s.pending := rfl
@[simp] theorem State.onSch_host (f : Sch → Sch) : (s.onSch f).host = s.host := rfl
@[simp] theorem State.onSch_ident (f : Sch → Sch) : (s.onSch f).ident = s.ident := rfl
@[simp] theorem State.onSch_porch (f : Sch → Sch) : (s.onSch f).porch = s.porch := rfl
@[simp] theorem State.onSch_sch (f : Sch → Sch) : (s.onSch f).sch = f s.sch := rfl
@[simp] theorem State.onSch_mem (f : Sch → Sch) : (s.onSch f).mem = s.mem := rfl
@[simp] theorem State.onSch_cores (f : Sch → Sch) : (s.onSch f).cores = s.cores := rfl
@[simp] theorem State.onSch_ret (f : Sch → Sch) : (s.onSch f).ret = s.ret := rfl
@[simp] theorem State.onSch_tbl (f : Sch → Sch) : (s.onSch f).tbl = s.tbl := rfl
@[simp] theorem State.onSch_cel (f : Sch → Sch) : (s.onSch f).cel = s.cel := rfl
@[simp] theorem State.onSch_fab (f : Sch → Sch) : (s.onSch f).fab = s.fab := rfl
@[simp] theorem State.onSch_ras (f : Sch → Sch) : (s.onSch f).ras = s.ras := rfl
@[simp] theorem State.onSch_bbx (f : Sch → Sch) : (s.onSch f).bbx = s.bbx := rfl
@[simp] theorem State.onSch_pwr (f : Sch → Sch) : (s.onSch f).pwr = s.pwr := rfl
@[simp] theorem State.onSch_boot (f : Sch → Sch) : (s.onSch f).boot = s.boot := rfl
@[simp] theorem State.onSch_svc (f : Sch → Sch) : (s.onSch f).svc = s.svc := rfl
@[simp] theorem State.onSch_mgmt (f : Sch → Sch) : (s.onSch f).mgmt = s.mgmt := rfl
@[simp] theorem State.onSch_freeCtr (f : Sch → Sch) : (s.onSch f).freeCtr = s.freeCtr := rfl

/-! ### onMem -/

@[simp] theorem State.onMem_pending (f : Memory → Memory) : (s.onMem f).pending = s.pending := rfl
@[simp] theorem State.onMem_host (f : Memory → Memory) : (s.onMem f).host = s.host := rfl
@[simp] theorem State.onMem_ident (f : Memory → Memory) : (s.onMem f).ident = s.ident := rfl
@[simp] theorem State.onMem_porch (f : Memory → Memory) : (s.onMem f).porch = s.porch := rfl
@[simp] theorem State.onMem_sch (f : Memory → Memory) : (s.onMem f).sch = s.sch := rfl
@[simp] theorem State.onMem_mem (f : Memory → Memory) : (s.onMem f).mem = f s.mem := rfl
@[simp] theorem State.onMem_cores (f : Memory → Memory) : (s.onMem f).cores = s.cores := rfl
@[simp] theorem State.onMem_ret (f : Memory → Memory) : (s.onMem f).ret = s.ret := rfl
@[simp] theorem State.onMem_tbl (f : Memory → Memory) : (s.onMem f).tbl = s.tbl := rfl
@[simp] theorem State.onMem_cel (f : Memory → Memory) : (s.onMem f).cel = s.cel := rfl
@[simp] theorem State.onMem_fab (f : Memory → Memory) : (s.onMem f).fab = s.fab := rfl
@[simp] theorem State.onMem_ras (f : Memory → Memory) : (s.onMem f).ras = s.ras := rfl
@[simp] theorem State.onMem_bbx (f : Memory → Memory) : (s.onMem f).bbx = s.bbx := rfl
@[simp] theorem State.onMem_pwr (f : Memory → Memory) : (s.onMem f).pwr = s.pwr := rfl
@[simp] theorem State.onMem_boot (f : Memory → Memory) : (s.onMem f).boot = s.boot := rfl
@[simp] theorem State.onMem_svc (f : Memory → Memory) : (s.onMem f).svc = s.svc := rfl
@[simp] theorem State.onMem_mgmt (f : Memory → Memory) : (s.onMem f).mgmt = s.mgmt := rfl
@[simp] theorem State.onMem_freeCtr (f : Memory → Memory) : (s.onMem f).freeCtr = s.freeCtr := rfl

/-! ### onRet -/

@[simp] theorem State.onRet_pending (f : Ret → Ret) : (s.onRet f).pending = s.pending := rfl
@[simp] theorem State.onRet_host (f : Ret → Ret) : (s.onRet f).host = s.host := rfl
@[simp] theorem State.onRet_ident (f : Ret → Ret) : (s.onRet f).ident = s.ident := rfl
@[simp] theorem State.onRet_porch (f : Ret → Ret) : (s.onRet f).porch = s.porch := rfl
@[simp] theorem State.onRet_sch (f : Ret → Ret) : (s.onRet f).sch = s.sch := rfl
@[simp] theorem State.onRet_mem (f : Ret → Ret) : (s.onRet f).mem = s.mem := rfl
@[simp] theorem State.onRet_cores (f : Ret → Ret) : (s.onRet f).cores = s.cores := rfl
@[simp] theorem State.onRet_ret (f : Ret → Ret) : (s.onRet f).ret = f s.ret := rfl
@[simp] theorem State.onRet_tbl (f : Ret → Ret) : (s.onRet f).tbl = s.tbl := rfl
@[simp] theorem State.onRet_cel (f : Ret → Ret) : (s.onRet f).cel = s.cel := rfl
@[simp] theorem State.onRet_fab (f : Ret → Ret) : (s.onRet f).fab = s.fab := rfl
@[simp] theorem State.onRet_ras (f : Ret → Ret) : (s.onRet f).ras = s.ras := rfl
@[simp] theorem State.onRet_bbx (f : Ret → Ret) : (s.onRet f).bbx = s.bbx := rfl
@[simp] theorem State.onRet_pwr (f : Ret → Ret) : (s.onRet f).pwr = s.pwr := rfl
@[simp] theorem State.onRet_boot (f : Ret → Ret) : (s.onRet f).boot = s.boot := rfl
@[simp] theorem State.onRet_svc (f : Ret → Ret) : (s.onRet f).svc = s.svc := rfl
@[simp] theorem State.onRet_mgmt (f : Ret → Ret) : (s.onRet f).mgmt = s.mgmt := rfl
@[simp] theorem State.onRet_freeCtr (f : Ret → Ret) : (s.onRet f).freeCtr = s.freeCtr := rfl

/-! ### onTbl -/

@[simp] theorem State.onTbl_pending (f : Tbl → Tbl) : (s.onTbl f).pending = s.pending := rfl
@[simp] theorem State.onTbl_host (f : Tbl → Tbl) : (s.onTbl f).host = s.host := rfl
@[simp] theorem State.onTbl_ident (f : Tbl → Tbl) : (s.onTbl f).ident = s.ident := rfl
@[simp] theorem State.onTbl_porch (f : Tbl → Tbl) : (s.onTbl f).porch = s.porch := rfl
@[simp] theorem State.onTbl_sch (f : Tbl → Tbl) : (s.onTbl f).sch = s.sch := rfl
@[simp] theorem State.onTbl_mem (f : Tbl → Tbl) : (s.onTbl f).mem = s.mem := rfl
@[simp] theorem State.onTbl_cores (f : Tbl → Tbl) : (s.onTbl f).cores = s.cores := rfl
@[simp] theorem State.onTbl_ret (f : Tbl → Tbl) : (s.onTbl f).ret = s.ret := rfl
@[simp] theorem State.onTbl_tbl (f : Tbl → Tbl) : (s.onTbl f).tbl = f s.tbl := rfl
@[simp] theorem State.onTbl_cel (f : Tbl → Tbl) : (s.onTbl f).cel = s.cel := rfl
@[simp] theorem State.onTbl_fab (f : Tbl → Tbl) : (s.onTbl f).fab = s.fab := rfl
@[simp] theorem State.onTbl_ras (f : Tbl → Tbl) : (s.onTbl f).ras = s.ras := rfl
@[simp] theorem State.onTbl_bbx (f : Tbl → Tbl) : (s.onTbl f).bbx = s.bbx := rfl
@[simp] theorem State.onTbl_pwr (f : Tbl → Tbl) : (s.onTbl f).pwr = s.pwr := rfl
@[simp] theorem State.onTbl_boot (f : Tbl → Tbl) : (s.onTbl f).boot = s.boot := rfl
@[simp] theorem State.onTbl_svc (f : Tbl → Tbl) : (s.onTbl f).svc = s.svc := rfl
@[simp] theorem State.onTbl_mgmt (f : Tbl → Tbl) : (s.onTbl f).mgmt = s.mgmt := rfl
@[simp] theorem State.onTbl_freeCtr (f : Tbl → Tbl) : (s.onTbl f).freeCtr = s.freeCtr := rfl

/-! ### onCel -/

@[simp] theorem State.onCel_pending (f : Cel → Cel) : (s.onCel f).pending = s.pending := rfl
@[simp] theorem State.onCel_host (f : Cel → Cel) : (s.onCel f).host = s.host := rfl
@[simp] theorem State.onCel_ident (f : Cel → Cel) : (s.onCel f).ident = s.ident := rfl
@[simp] theorem State.onCel_porch (f : Cel → Cel) : (s.onCel f).porch = s.porch := rfl
@[simp] theorem State.onCel_sch (f : Cel → Cel) : (s.onCel f).sch = s.sch := rfl
@[simp] theorem State.onCel_mem (f : Cel → Cel) : (s.onCel f).mem = s.mem := rfl
@[simp] theorem State.onCel_cores (f : Cel → Cel) : (s.onCel f).cores = s.cores := rfl
@[simp] theorem State.onCel_ret (f : Cel → Cel) : (s.onCel f).ret = s.ret := rfl
@[simp] theorem State.onCel_tbl (f : Cel → Cel) : (s.onCel f).tbl = s.tbl := rfl
@[simp] theorem State.onCel_cel (f : Cel → Cel) : (s.onCel f).cel = f s.cel := rfl
@[simp] theorem State.onCel_fab (f : Cel → Cel) : (s.onCel f).fab = s.fab := rfl
@[simp] theorem State.onCel_ras (f : Cel → Cel) : (s.onCel f).ras = s.ras := rfl
@[simp] theorem State.onCel_bbx (f : Cel → Cel) : (s.onCel f).bbx = s.bbx := rfl
@[simp] theorem State.onCel_pwr (f : Cel → Cel) : (s.onCel f).pwr = s.pwr := rfl
@[simp] theorem State.onCel_boot (f : Cel → Cel) : (s.onCel f).boot = s.boot := rfl
@[simp] theorem State.onCel_svc (f : Cel → Cel) : (s.onCel f).svc = s.svc := rfl
@[simp] theorem State.onCel_mgmt (f : Cel → Cel) : (s.onCel f).mgmt = s.mgmt := rfl
@[simp] theorem State.onCel_freeCtr (f : Cel → Cel) : (s.onCel f).freeCtr = s.freeCtr := rfl

/-! ### onFab -/

@[simp] theorem State.onFab_pending (f : Fab → Fab) : (s.onFab f).pending = s.pending := rfl
@[simp] theorem State.onFab_host (f : Fab → Fab) : (s.onFab f).host = s.host := rfl
@[simp] theorem State.onFab_ident (f : Fab → Fab) : (s.onFab f).ident = s.ident := rfl
@[simp] theorem State.onFab_porch (f : Fab → Fab) : (s.onFab f).porch = s.porch := rfl
@[simp] theorem State.onFab_sch (f : Fab → Fab) : (s.onFab f).sch = s.sch := rfl
@[simp] theorem State.onFab_mem (f : Fab → Fab) : (s.onFab f).mem = s.mem := rfl
@[simp] theorem State.onFab_cores (f : Fab → Fab) : (s.onFab f).cores = s.cores := rfl
@[simp] theorem State.onFab_ret (f : Fab → Fab) : (s.onFab f).ret = s.ret := rfl
@[simp] theorem State.onFab_tbl (f : Fab → Fab) : (s.onFab f).tbl = s.tbl := rfl
@[simp] theorem State.onFab_cel (f : Fab → Fab) : (s.onFab f).cel = s.cel := rfl
@[simp] theorem State.onFab_fab (f : Fab → Fab) : (s.onFab f).fab = f s.fab := rfl
@[simp] theorem State.onFab_ras (f : Fab → Fab) : (s.onFab f).ras = s.ras := rfl
@[simp] theorem State.onFab_bbx (f : Fab → Fab) : (s.onFab f).bbx = s.bbx := rfl
@[simp] theorem State.onFab_pwr (f : Fab → Fab) : (s.onFab f).pwr = s.pwr := rfl
@[simp] theorem State.onFab_boot (f : Fab → Fab) : (s.onFab f).boot = s.boot := rfl
@[simp] theorem State.onFab_svc (f : Fab → Fab) : (s.onFab f).svc = s.svc := rfl
@[simp] theorem State.onFab_mgmt (f : Fab → Fab) : (s.onFab f).mgmt = s.mgmt := rfl
@[simp] theorem State.onFab_freeCtr (f : Fab → Fab) : (s.onFab f).freeCtr = s.freeCtr := rfl

/-! ### onRas -/

@[simp] theorem State.onRas_pending (f : Ras → Ras) : (s.onRas f).pending = s.pending := rfl
@[simp] theorem State.onRas_host (f : Ras → Ras) : (s.onRas f).host = s.host := rfl
@[simp] theorem State.onRas_ident (f : Ras → Ras) : (s.onRas f).ident = s.ident := rfl
@[simp] theorem State.onRas_porch (f : Ras → Ras) : (s.onRas f).porch = s.porch := rfl
@[simp] theorem State.onRas_sch (f : Ras → Ras) : (s.onRas f).sch = s.sch := rfl
@[simp] theorem State.onRas_mem (f : Ras → Ras) : (s.onRas f).mem = s.mem := rfl
@[simp] theorem State.onRas_cores (f : Ras → Ras) : (s.onRas f).cores = s.cores := rfl
@[simp] theorem State.onRas_ret (f : Ras → Ras) : (s.onRas f).ret = s.ret := rfl
@[simp] theorem State.onRas_tbl (f : Ras → Ras) : (s.onRas f).tbl = s.tbl := rfl
@[simp] theorem State.onRas_cel (f : Ras → Ras) : (s.onRas f).cel = s.cel := rfl
@[simp] theorem State.onRas_fab (f : Ras → Ras) : (s.onRas f).fab = s.fab := rfl
@[simp] theorem State.onRas_ras (f : Ras → Ras) : (s.onRas f).ras = f s.ras := rfl
@[simp] theorem State.onRas_bbx (f : Ras → Ras) : (s.onRas f).bbx = s.bbx := rfl
@[simp] theorem State.onRas_pwr (f : Ras → Ras) : (s.onRas f).pwr = s.pwr := rfl
@[simp] theorem State.onRas_boot (f : Ras → Ras) : (s.onRas f).boot = s.boot := rfl
@[simp] theorem State.onRas_svc (f : Ras → Ras) : (s.onRas f).svc = s.svc := rfl
@[simp] theorem State.onRas_mgmt (f : Ras → Ras) : (s.onRas f).mgmt = s.mgmt := rfl
@[simp] theorem State.onRas_freeCtr (f : Ras → Ras) : (s.onRas f).freeCtr = s.freeCtr := rfl

/-! ### onBbx -/

@[simp] theorem State.onBbx_pending (f : Bbx → Bbx) : (s.onBbx f).pending = s.pending := rfl
@[simp] theorem State.onBbx_host (f : Bbx → Bbx) : (s.onBbx f).host = s.host := rfl
@[simp] theorem State.onBbx_ident (f : Bbx → Bbx) : (s.onBbx f).ident = s.ident := rfl
@[simp] theorem State.onBbx_porch (f : Bbx → Bbx) : (s.onBbx f).porch = s.porch := rfl
@[simp] theorem State.onBbx_sch (f : Bbx → Bbx) : (s.onBbx f).sch = s.sch := rfl
@[simp] theorem State.onBbx_mem (f : Bbx → Bbx) : (s.onBbx f).mem = s.mem := rfl
@[simp] theorem State.onBbx_cores (f : Bbx → Bbx) : (s.onBbx f).cores = s.cores := rfl
@[simp] theorem State.onBbx_ret (f : Bbx → Bbx) : (s.onBbx f).ret = s.ret := rfl
@[simp] theorem State.onBbx_tbl (f : Bbx → Bbx) : (s.onBbx f).tbl = s.tbl := rfl
@[simp] theorem State.onBbx_cel (f : Bbx → Bbx) : (s.onBbx f).cel = s.cel := rfl
@[simp] theorem State.onBbx_fab (f : Bbx → Bbx) : (s.onBbx f).fab = s.fab := rfl
@[simp] theorem State.onBbx_ras (f : Bbx → Bbx) : (s.onBbx f).ras = s.ras := rfl
@[simp] theorem State.onBbx_bbx (f : Bbx → Bbx) : (s.onBbx f).bbx = f s.bbx := rfl
@[simp] theorem State.onBbx_pwr (f : Bbx → Bbx) : (s.onBbx f).pwr = s.pwr := rfl
@[simp] theorem State.onBbx_boot (f : Bbx → Bbx) : (s.onBbx f).boot = s.boot := rfl
@[simp] theorem State.onBbx_svc (f : Bbx → Bbx) : (s.onBbx f).svc = s.svc := rfl
@[simp] theorem State.onBbx_mgmt (f : Bbx → Bbx) : (s.onBbx f).mgmt = s.mgmt := rfl
@[simp] theorem State.onBbx_freeCtr (f : Bbx → Bbx) : (s.onBbx f).freeCtr = s.freeCtr := rfl

/-! ### onPwr -/

@[simp] theorem State.onPwr_pending (f : Pwr → Pwr) : (s.onPwr f).pending = s.pending := rfl
@[simp] theorem State.onPwr_host (f : Pwr → Pwr) : (s.onPwr f).host = s.host := rfl
@[simp] theorem State.onPwr_ident (f : Pwr → Pwr) : (s.onPwr f).ident = s.ident := rfl
@[simp] theorem State.onPwr_porch (f : Pwr → Pwr) : (s.onPwr f).porch = s.porch := rfl
@[simp] theorem State.onPwr_sch (f : Pwr → Pwr) : (s.onPwr f).sch = s.sch := rfl
@[simp] theorem State.onPwr_mem (f : Pwr → Pwr) : (s.onPwr f).mem = s.mem := rfl
@[simp] theorem State.onPwr_cores (f : Pwr → Pwr) : (s.onPwr f).cores = s.cores := rfl
@[simp] theorem State.onPwr_ret (f : Pwr → Pwr) : (s.onPwr f).ret = s.ret := rfl
@[simp] theorem State.onPwr_tbl (f : Pwr → Pwr) : (s.onPwr f).tbl = s.tbl := rfl
@[simp] theorem State.onPwr_cel (f : Pwr → Pwr) : (s.onPwr f).cel = s.cel := rfl
@[simp] theorem State.onPwr_fab (f : Pwr → Pwr) : (s.onPwr f).fab = s.fab := rfl
@[simp] theorem State.onPwr_ras (f : Pwr → Pwr) : (s.onPwr f).ras = s.ras := rfl
@[simp] theorem State.onPwr_bbx (f : Pwr → Pwr) : (s.onPwr f).bbx = s.bbx := rfl
@[simp] theorem State.onPwr_pwr (f : Pwr → Pwr) : (s.onPwr f).pwr = f s.pwr := rfl
@[simp] theorem State.onPwr_boot (f : Pwr → Pwr) : (s.onPwr f).boot = s.boot := rfl
@[simp] theorem State.onPwr_svc (f : Pwr → Pwr) : (s.onPwr f).svc = s.svc := rfl
@[simp] theorem State.onPwr_mgmt (f : Pwr → Pwr) : (s.onPwr f).mgmt = s.mgmt := rfl
@[simp] theorem State.onPwr_freeCtr (f : Pwr → Pwr) : (s.onPwr f).freeCtr = s.freeCtr := rfl

/-! ### onBoot -/

@[simp] theorem State.onBoot_pending (f : Boot → Boot) : (s.onBoot f).pending = s.pending := rfl
@[simp] theorem State.onBoot_host (f : Boot → Boot) : (s.onBoot f).host = s.host := rfl
@[simp] theorem State.onBoot_ident (f : Boot → Boot) : (s.onBoot f).ident = s.ident := rfl
@[simp] theorem State.onBoot_porch (f : Boot → Boot) : (s.onBoot f).porch = s.porch := rfl
@[simp] theorem State.onBoot_sch (f : Boot → Boot) : (s.onBoot f).sch = s.sch := rfl
@[simp] theorem State.onBoot_mem (f : Boot → Boot) : (s.onBoot f).mem = s.mem := rfl
@[simp] theorem State.onBoot_cores (f : Boot → Boot) : (s.onBoot f).cores = s.cores := rfl
@[simp] theorem State.onBoot_ret (f : Boot → Boot) : (s.onBoot f).ret = s.ret := rfl
@[simp] theorem State.onBoot_tbl (f : Boot → Boot) : (s.onBoot f).tbl = s.tbl := rfl
@[simp] theorem State.onBoot_cel (f : Boot → Boot) : (s.onBoot f).cel = s.cel := rfl
@[simp] theorem State.onBoot_fab (f : Boot → Boot) : (s.onBoot f).fab = s.fab := rfl
@[simp] theorem State.onBoot_ras (f : Boot → Boot) : (s.onBoot f).ras = s.ras := rfl
@[simp] theorem State.onBoot_bbx (f : Boot → Boot) : (s.onBoot f).bbx = s.bbx := rfl
@[simp] theorem State.onBoot_pwr (f : Boot → Boot) : (s.onBoot f).pwr = s.pwr := rfl
@[simp] theorem State.onBoot_boot (f : Boot → Boot) : (s.onBoot f).boot = f s.boot := rfl
@[simp] theorem State.onBoot_svc (f : Boot → Boot) : (s.onBoot f).svc = s.svc := rfl
@[simp] theorem State.onBoot_mgmt (f : Boot → Boot) : (s.onBoot f).mgmt = s.mgmt := rfl
@[simp] theorem State.onBoot_freeCtr (f : Boot → Boot) : (s.onBoot f).freeCtr = s.freeCtr := rfl

/-! ### onSvc -/

@[simp] theorem State.onSvc_pending (f : Svc → Svc) : (s.onSvc f).pending = s.pending := rfl
@[simp] theorem State.onSvc_host (f : Svc → Svc) : (s.onSvc f).host = s.host := rfl
@[simp] theorem State.onSvc_ident (f : Svc → Svc) : (s.onSvc f).ident = s.ident := rfl
@[simp] theorem State.onSvc_porch (f : Svc → Svc) : (s.onSvc f).porch = s.porch := rfl
@[simp] theorem State.onSvc_sch (f : Svc → Svc) : (s.onSvc f).sch = s.sch := rfl
@[simp] theorem State.onSvc_mem (f : Svc → Svc) : (s.onSvc f).mem = s.mem := rfl
@[simp] theorem State.onSvc_cores (f : Svc → Svc) : (s.onSvc f).cores = s.cores := rfl
@[simp] theorem State.onSvc_ret (f : Svc → Svc) : (s.onSvc f).ret = s.ret := rfl
@[simp] theorem State.onSvc_tbl (f : Svc → Svc) : (s.onSvc f).tbl = s.tbl := rfl
@[simp] theorem State.onSvc_cel (f : Svc → Svc) : (s.onSvc f).cel = s.cel := rfl
@[simp] theorem State.onSvc_fab (f : Svc → Svc) : (s.onSvc f).fab = s.fab := rfl
@[simp] theorem State.onSvc_ras (f : Svc → Svc) : (s.onSvc f).ras = s.ras := rfl
@[simp] theorem State.onSvc_bbx (f : Svc → Svc) : (s.onSvc f).bbx = s.bbx := rfl
@[simp] theorem State.onSvc_pwr (f : Svc → Svc) : (s.onSvc f).pwr = s.pwr := rfl
@[simp] theorem State.onSvc_boot (f : Svc → Svc) : (s.onSvc f).boot = s.boot := rfl
@[simp] theorem State.onSvc_svc (f : Svc → Svc) : (s.onSvc f).svc = f s.svc := rfl
@[simp] theorem State.onSvc_mgmt (f : Svc → Svc) : (s.onSvc f).mgmt = s.mgmt := rfl
@[simp] theorem State.onSvc_freeCtr (f : Svc → Svc) : (s.onSvc f).freeCtr = s.freeCtr := rfl

/-! ### onPart -/

@[simp] theorem State.onPart_pending (p : Nat) (f : Part → Part) : (s.onPart p f).pending = s.pending := rfl
@[simp] theorem State.onPart_host (p : Nat) (f : Part → Part) : (s.onPart p f).host = s.host := rfl
@[simp] theorem State.onPart_ident (p : Nat) (f : Part → Part) : (s.onPart p f).ident = s.ident := rfl
@[simp] theorem State.onPart_porch (p : Nat) (f : Part → Part) : (s.onPart p f).porch = s.porch := rfl
@[simp] theorem State.onPart_sch (p : Nat) (f : Part → Part) : (s.onPart p f).sch = { s.sch with parts := KMap.modD s.sch.parts p Part.reset f } := rfl
@[simp] theorem State.onPart_mem (p : Nat) (f : Part → Part) : (s.onPart p f).mem = s.mem := rfl
@[simp] theorem State.onPart_cores (p : Nat) (f : Part → Part) : (s.onPart p f).cores = s.cores := rfl
@[simp] theorem State.onPart_ret (p : Nat) (f : Part → Part) : (s.onPart p f).ret = s.ret := rfl
@[simp] theorem State.onPart_tbl (p : Nat) (f : Part → Part) : (s.onPart p f).tbl = s.tbl := rfl
@[simp] theorem State.onPart_cel (p : Nat) (f : Part → Part) : (s.onPart p f).cel = s.cel := rfl
@[simp] theorem State.onPart_fab (p : Nat) (f : Part → Part) : (s.onPart p f).fab = s.fab := rfl
@[simp] theorem State.onPart_ras (p : Nat) (f : Part → Part) : (s.onPart p f).ras = s.ras := rfl
@[simp] theorem State.onPart_bbx (p : Nat) (f : Part → Part) : (s.onPart p f).bbx = s.bbx := rfl
@[simp] theorem State.onPart_pwr (p : Nat) (f : Part → Part) : (s.onPart p f).pwr = s.pwr := rfl
@[simp] theorem State.onPart_boot (p : Nat) (f : Part → Part) : (s.onPart p f).boot = s.boot := rfl
@[simp] theorem State.onPart_svc (p : Nat) (f : Part → Part) : (s.onPart p f).svc = s.svc := rfl
@[simp] theorem State.onPart_mgmt (p : Nat) (f : Part → Part) : (s.onPart p f).mgmt = s.mgmt := rfl
@[simp] theorem State.onPart_freeCtr (p : Nat) (f : Part → Part) : (s.onPart p f).freeCtr = s.freeCtr := rfl

/-! ### onReq -/

@[simp] theorem State.onReq_pending (n : Nat) (f : Req → Req) : (s.onReq n f).pending = s.pending := rfl
@[simp] theorem State.onReq_host (n : Nat) (f : Req → Req) : (s.onReq n f).host = s.host := rfl
@[simp] theorem State.onReq_ident (n : Nat) (f : Req → Req) : (s.onReq n f).ident = s.ident := rfl
@[simp] theorem State.onReq_porch (n : Nat) (f : Req → Req) : (s.onReq n f).porch = s.porch := rfl
@[simp] theorem State.onReq_sch (n : Nat) (f : Req → Req) : (s.onReq n f).sch = { s.sch with slots := KMap.mod s.sch.slots n f } := rfl
@[simp] theorem State.onReq_mem (n : Nat) (f : Req → Req) : (s.onReq n f).mem = s.mem := rfl
@[simp] theorem State.onReq_cores (n : Nat) (f : Req → Req) : (s.onReq n f).cores = s.cores := rfl
@[simp] theorem State.onReq_ret (n : Nat) (f : Req → Req) : (s.onReq n f).ret = s.ret := rfl
@[simp] theorem State.onReq_tbl (n : Nat) (f : Req → Req) : (s.onReq n f).tbl = s.tbl := rfl
@[simp] theorem State.onReq_cel (n : Nat) (f : Req → Req) : (s.onReq n f).cel = s.cel := rfl
@[simp] theorem State.onReq_fab (n : Nat) (f : Req → Req) : (s.onReq n f).fab = s.fab := rfl
@[simp] theorem State.onReq_ras (n : Nat) (f : Req → Req) : (s.onReq n f).ras = s.ras := rfl
@[simp] theorem State.onReq_bbx (n : Nat) (f : Req → Req) : (s.onReq n f).bbx = s.bbx := rfl
@[simp] theorem State.onReq_pwr (n : Nat) (f : Req → Req) : (s.onReq n f).pwr = s.pwr := rfl
@[simp] theorem State.onReq_boot (n : Nat) (f : Req → Req) : (s.onReq n f).boot = s.boot := rfl
@[simp] theorem State.onReq_svc (n : Nat) (f : Req → Req) : (s.onReq n f).svc = s.svc := rfl
@[simp] theorem State.onReq_mgmt (n : Nat) (f : Req → Req) : (s.onReq n f).mgmt = s.mgmt := rfl
@[simp] theorem State.onReq_freeCtr (n : Nat) (f : Req → Req) : (s.onReq n f).freeCtr = s.freeCtr := rfl

/-! ### onCore -/

@[simp] theorem State.onCore_pending (c : Nat) (f : Core → Core) : (s.onCore c f).pending = s.pending := rfl
@[simp] theorem State.onCore_host (c : Nat) (f : Core → Core) : (s.onCore c f).host = s.host := rfl
@[simp] theorem State.onCore_ident (c : Nat) (f : Core → Core) : (s.onCore c f).ident = s.ident := rfl
@[simp] theorem State.onCore_porch (c : Nat) (f : Core → Core) : (s.onCore c f).porch = s.porch := rfl
@[simp] theorem State.onCore_sch (c : Nat) (f : Core → Core) : (s.onCore c f).sch = s.sch := rfl
@[simp] theorem State.onCore_mem (c : Nat) (f : Core → Core) : (s.onCore c f).mem = s.mem := rfl
@[simp] theorem State.onCore_cores (c : Nat) (f : Core → Core) : (s.onCore c f).cores = KMap.modD s.cores c Core.reset f := rfl
@[simp] theorem State.onCore_ret (c : Nat) (f : Core → Core) : (s.onCore c f).ret = s.ret := rfl
@[simp] theorem State.onCore_tbl (c : Nat) (f : Core → Core) : (s.onCore c f).tbl = s.tbl := rfl
@[simp] theorem State.onCore_cel (c : Nat) (f : Core → Core) : (s.onCore c f).cel = s.cel := rfl
@[simp] theorem State.onCore_fab (c : Nat) (f : Core → Core) : (s.onCore c f).fab = s.fab := rfl
@[simp] theorem State.onCore_ras (c : Nat) (f : Core → Core) : (s.onCore c f).ras = s.ras := rfl
@[simp] theorem State.onCore_bbx (c : Nat) (f : Core → Core) : (s.onCore c f).bbx = s.bbx := rfl
@[simp] theorem State.onCore_pwr (c : Nat) (f : Core → Core) : (s.onCore c f).pwr = s.pwr := rfl
@[simp] theorem State.onCore_boot (c : Nat) (f : Core → Core) : (s.onCore c f).boot = s.boot := rfl
@[simp] theorem State.onCore_svc (c : Nat) (f : Core → Core) : (s.onCore c f).svc = s.svc := rfl
@[simp] theorem State.onCore_mgmt (c : Nat) (f : Core → Core) : (s.onCore c f).mgmt = s.mgmt := rfl
@[simp] theorem State.onCore_freeCtr (c : Nat) (f : Core → Core) : (s.onCore c f).freeCtr = s.freeCtr := rfl

/-! ### onQp -/

@[simp] theorem State.onQp_pending (k : Nat) (f : Qp → Qp) : (s.onQp k f).pending = s.pending := rfl
@[simp] theorem State.onQp_host (k : Nat) (f : Qp → Qp) : (s.onQp k f).host = s.host := rfl
@[simp] theorem State.onQp_ident (k : Nat) (f : Qp → Qp) : (s.onQp k f).ident = s.ident := rfl
@[simp] theorem State.onQp_porch (k : Nat) (f : Qp → Qp) : (s.onQp k f).porch = { s.porch with qps := KMap.modD s.porch.qps k Qp.reset f } := rfl
@[simp] theorem State.onQp_sch (k : Nat) (f : Qp → Qp) : (s.onQp k f).sch = s.sch := rfl
@[simp] theorem State.onQp_mem (k : Nat) (f : Qp → Qp) : (s.onQp k f).mem = s.mem := rfl
@[simp] theorem State.onQp_cores (k : Nat) (f : Qp → Qp) : (s.onQp k f).cores = s.cores := rfl
@[simp] theorem State.onQp_ret (k : Nat) (f : Qp → Qp) : (s.onQp k f).ret = s.ret := rfl
@[simp] theorem State.onQp_tbl (k : Nat) (f : Qp → Qp) : (s.onQp k f).tbl = s.tbl := rfl
@[simp] theorem State.onQp_cel (k : Nat) (f : Qp → Qp) : (s.onQp k f).cel = s.cel := rfl
@[simp] theorem State.onQp_fab (k : Nat) (f : Qp → Qp) : (s.onQp k f).fab = s.fab := rfl
@[simp] theorem State.onQp_ras (k : Nat) (f : Qp → Qp) : (s.onQp k f).ras = s.ras := rfl
@[simp] theorem State.onQp_bbx (k : Nat) (f : Qp → Qp) : (s.onQp k f).bbx = s.bbx := rfl
@[simp] theorem State.onQp_pwr (k : Nat) (f : Qp → Qp) : (s.onQp k f).pwr = s.pwr := rfl
@[simp] theorem State.onQp_boot (k : Nat) (f : Qp → Qp) : (s.onQp k f).boot = s.boot := rfl
@[simp] theorem State.onQp_svc (k : Nat) (f : Qp → Qp) : (s.onQp k f).svc = s.svc := rfl
@[simp] theorem State.onQp_mgmt (k : Nat) (f : Qp → Qp) : (s.onQp k f).mgmt = s.mgmt := rfl
@[simp] theorem State.onQp_freeCtr (k : Nat) (f : Qp → Qp) : (s.onQp k f).freeCtr = s.freeCtr := rfl

/-! ### onIndex -/

@[simp] theorem State.onIndex_pending (i : Nat) (f : Index → Index) : (s.onIndex i f).pending = s.pending := rfl
@[simp] theorem State.onIndex_host (i : Nat) (f : Index → Index) : (s.onIndex i f).host = s.host := rfl
@[simp] theorem State.onIndex_ident (i : Nat) (f : Index → Index) : (s.onIndex i f).ident = s.ident := rfl
@[simp] theorem State.onIndex_porch (i : Nat) (f : Index → Index) : (s.onIndex i f).porch = s.porch := rfl
@[simp] theorem State.onIndex_sch (i : Nat) (f : Index → Index) : (s.onIndex i f).sch = s.sch := rfl
@[simp] theorem State.onIndex_mem (i : Nat) (f : Index → Index) : (s.onIndex i f).mem = s.mem := rfl
@[simp] theorem State.onIndex_cores (i : Nat) (f : Index → Index) : (s.onIndex i f).cores = s.cores := rfl
@[simp] theorem State.onIndex_ret (i : Nat) (f : Index → Index) : (s.onIndex i f).ret = { s.ret with indexes := KMap.mod s.ret.indexes i f } := rfl
@[simp] theorem State.onIndex_tbl (i : Nat) (f : Index → Index) : (s.onIndex i f).tbl = s.tbl := rfl
@[simp] theorem State.onIndex_cel (i : Nat) (f : Index → Index) : (s.onIndex i f).cel = s.cel := rfl
@[simp] theorem State.onIndex_fab (i : Nat) (f : Index → Index) : (s.onIndex i f).fab = s.fab := rfl
@[simp] theorem State.onIndex_ras (i : Nat) (f : Index → Index) : (s.onIndex i f).ras = s.ras := rfl
@[simp] theorem State.onIndex_bbx (i : Nat) (f : Index → Index) : (s.onIndex i f).bbx = s.bbx := rfl
@[simp] theorem State.onIndex_pwr (i : Nat) (f : Index → Index) : (s.onIndex i f).pwr = s.pwr := rfl
@[simp] theorem State.onIndex_boot (i : Nat) (f : Index → Index) : (s.onIndex i f).boot = s.boot := rfl
@[simp] theorem State.onIndex_svc (i : Nat) (f : Index → Index) : (s.onIndex i f).svc = s.svc := rfl
@[simp] theorem State.onIndex_mgmt (i : Nat) (f : Index → Index) : (s.onIndex i f).mgmt = s.mgmt := rfl
@[simp] theorem State.onIndex_freeCtr (i : Nat) (f : Index → Index) : (s.onIndex i f).freeCtr = s.freeCtr := rfl

/-! ### onTable -/

@[simp] theorem State.onTable_pending (t : Nat) (f : Table → Table) : (s.onTable t f).pending = s.pending := rfl
@[simp] theorem State.onTable_host (t : Nat) (f : Table → Table) : (s.onTable t f).host = s.host := rfl
@[simp] theorem State.onTable_ident (t : Nat) (f : Table → Table) : (s.onTable t f).ident = s.ident := rfl
@[simp] theorem State.onTable_porch (t : Nat) (f : Table → Table) : (s.onTable t f).porch = s.porch := rfl
@[simp] theorem State.onTable_sch (t : Nat) (f : Table → Table) : (s.onTable t f).sch = s.sch := rfl
@[simp] theorem State.onTable_mem (t : Nat) (f : Table → Table) : (s.onTable t f).mem = s.mem := rfl
@[simp] theorem State.onTable_cores (t : Nat) (f : Table → Table) : (s.onTable t f).cores = s.cores := rfl
@[simp] theorem State.onTable_ret (t : Nat) (f : Table → Table) : (s.onTable t f).ret = s.ret := rfl
@[simp] theorem State.onTable_tbl (t : Nat) (f : Table → Table) : (s.onTable t f).tbl = { s.tbl with tables := KMap.mod s.tbl.tables t f } := rfl
@[simp] theorem State.onTable_cel (t : Nat) (f : Table → Table) : (s.onTable t f).cel = s.cel := rfl
@[simp] theorem State.onTable_fab (t : Nat) (f : Table → Table) : (s.onTable t f).fab = s.fab := rfl
@[simp] theorem State.onTable_ras (t : Nat) (f : Table → Table) : (s.onTable t f).ras = s.ras := rfl
@[simp] theorem State.onTable_bbx (t : Nat) (f : Table → Table) : (s.onTable t f).bbx = s.bbx := rfl
@[simp] theorem State.onTable_pwr (t : Nat) (f : Table → Table) : (s.onTable t f).pwr = s.pwr := rfl
@[simp] theorem State.onTable_boot (t : Nat) (f : Table → Table) : (s.onTable t f).boot = s.boot := rfl
@[simp] theorem State.onTable_svc (t : Nat) (f : Table → Table) : (s.onTable t f).svc = s.svc := rfl
@[simp] theorem State.onTable_mgmt (t : Nat) (f : Table → Table) : (s.onTable t f).mgmt = s.mgmt := rfl
@[simp] theorem State.onTable_freeCtr (t : Nat) (f : Table → Table) : (s.onTable t f).freeCtr = s.freeCtr := rfl

/-! ### onDie -/

@[simp] theorem State.onDie_pending (d : Nat) (f : Die → Die) : (s.onDie d f).pending = s.pending := rfl
@[simp] theorem State.onDie_host (d : Nat) (f : Die → Die) : (s.onDie d f).host = s.host := rfl
@[simp] theorem State.onDie_ident (d : Nat) (f : Die → Die) : (s.onDie d f).ident = s.ident := rfl
@[simp] theorem State.onDie_porch (d : Nat) (f : Die → Die) : (s.onDie d f).porch = s.porch := rfl
@[simp] theorem State.onDie_sch (d : Nat) (f : Die → Die) : (s.onDie d f).sch = s.sch := rfl
@[simp] theorem State.onDie_mem (d : Nat) (f : Die → Die) : (s.onDie d f).mem = s.mem := rfl
@[simp] theorem State.onDie_cores (d : Nat) (f : Die → Die) : (s.onDie d f).cores = s.cores := rfl
@[simp] theorem State.onDie_ret (d : Nat) (f : Die → Die) : (s.onDie d f).ret = s.ret := rfl
@[simp] theorem State.onDie_tbl (d : Nat) (f : Die → Die) : (s.onDie d f).tbl = s.tbl := rfl
@[simp] theorem State.onDie_cel (d : Nat) (f : Die → Die) : (s.onDie d f).cel = { s.cel with dies := KMap.modD s.cel.dies d Die.reset f } := rfl
@[simp] theorem State.onDie_fab (d : Nat) (f : Die → Die) : (s.onDie d f).fab = s.fab := rfl
@[simp] theorem State.onDie_ras (d : Nat) (f : Die → Die) : (s.onDie d f).ras = s.ras := rfl
@[simp] theorem State.onDie_bbx (d : Nat) (f : Die → Die) : (s.onDie d f).bbx = s.bbx := rfl
@[simp] theorem State.onDie_pwr (d : Nat) (f : Die → Die) : (s.onDie d f).pwr = s.pwr := rfl
@[simp] theorem State.onDie_boot (d : Nat) (f : Die → Die) : (s.onDie d f).boot = s.boot := rfl
@[simp] theorem State.onDie_svc (d : Nat) (f : Die → Die) : (s.onDie d f).svc = s.svc := rfl
@[simp] theorem State.onDie_mgmt (d : Nat) (f : Die → Die) : (s.onDie d f).mgmt = s.mgmt := rfl
@[simp] theorem State.onDie_freeCtr (d : Nat) (f : Die → Die) : (s.onDie d f).freeCtr = s.freeCtr := rfl

/-! ### onPort -/

@[simp] theorem State.onPort_pending (p : Nat) (f : Port → Port) : (s.onPort p f).pending = s.pending := rfl
@[simp] theorem State.onPort_host (p : Nat) (f : Port → Port) : (s.onPort p f).host = s.host := rfl
@[simp] theorem State.onPort_ident (p : Nat) (f : Port → Port) : (s.onPort p f).ident = s.ident := rfl
@[simp] theorem State.onPort_porch (p : Nat) (f : Port → Port) : (s.onPort p f).porch = s.porch := rfl
@[simp] theorem State.onPort_sch (p : Nat) (f : Port → Port) : (s.onPort p f).sch = s.sch := rfl
@[simp] theorem State.onPort_mem (p : Nat) (f : Port → Port) : (s.onPort p f).mem = s.mem := rfl
@[simp] theorem State.onPort_cores (p : Nat) (f : Port → Port) : (s.onPort p f).cores = s.cores := rfl
@[simp] theorem State.onPort_ret (p : Nat) (f : Port → Port) : (s.onPort p f).ret = s.ret := rfl
@[simp] theorem State.onPort_tbl (p : Nat) (f : Port → Port) : (s.onPort p f).tbl = s.tbl := rfl
@[simp] theorem State.onPort_cel (p : Nat) (f : Port → Port) : (s.onPort p f).cel = s.cel := rfl
@[simp] theorem State.onPort_fab (p : Nat) (f : Port → Port) : (s.onPort p f).fab = { s.fab with ports := KMap.modD s.fab.ports p Port.reset f } := rfl
@[simp] theorem State.onPort_ras (p : Nat) (f : Port → Port) : (s.onPort p f).ras = s.ras := rfl
@[simp] theorem State.onPort_bbx (p : Nat) (f : Port → Port) : (s.onPort p f).bbx = s.bbx := rfl
@[simp] theorem State.onPort_pwr (p : Nat) (f : Port → Port) : (s.onPort p f).pwr = s.pwr := rfl
@[simp] theorem State.onPort_boot (p : Nat) (f : Port → Port) : (s.onPort p f).boot = s.boot := rfl
@[simp] theorem State.onPort_svc (p : Nat) (f : Port → Port) : (s.onPort p f).svc = s.svc := rfl
@[simp] theorem State.onPort_mgmt (p : Nat) (f : Port → Port) : (s.onPort p f).mgmt = s.mgmt := rfl
@[simp] theorem State.onPort_freeCtr (p : Nat) (f : Port → Port) : (s.onPort p f).freeCtr = s.freeCtr := rfl

/-! ### setDom -/

@[simp] theorem State.setDom_pending (d : Nat) (v : DomState) : (s.setDom d v).pending = s.pending := rfl
@[simp] theorem State.setDom_host (d : Nat) (v : DomState) : (s.setDom d v).host = s.host := rfl
@[simp] theorem State.setDom_ident (d : Nat) (v : DomState) : (s.setDom d v).ident = s.ident := rfl
@[simp] theorem State.setDom_porch (d : Nat) (v : DomState) : (s.setDom d v).porch = s.porch := rfl
@[simp] theorem State.setDom_sch (d : Nat) (v : DomState) : (s.setDom d v).sch = s.sch := rfl
@[simp] theorem State.setDom_mem (d : Nat) (v : DomState) : (s.setDom d v).mem = s.mem := rfl
@[simp] theorem State.setDom_cores (d : Nat) (v : DomState) : (s.setDom d v).cores = s.cores := rfl
@[simp] theorem State.setDom_ret (d : Nat) (v : DomState) : (s.setDom d v).ret = s.ret := rfl
@[simp] theorem State.setDom_tbl (d : Nat) (v : DomState) : (s.setDom d v).tbl = s.tbl := rfl
@[simp] theorem State.setDom_cel (d : Nat) (v : DomState) : (s.setDom d v).cel = s.cel := rfl
@[simp] theorem State.setDom_fab (d : Nat) (v : DomState) : (s.setDom d v).fab = s.fab := rfl
@[simp] theorem State.setDom_ras (d : Nat) (v : DomState) : (s.setDom d v).ras = s.ras := rfl
@[simp] theorem State.setDom_bbx (d : Nat) (v : DomState) : (s.setDom d v).bbx = s.bbx := rfl
@[simp] theorem State.setDom_pwr (d : Nat) (v : DomState) : (s.setDom d v).pwr = { s.pwr with doms := KMap.setD s.pwr.doms d .off v } := rfl
@[simp] theorem State.setDom_boot (d : Nat) (v : DomState) : (s.setDom d v).boot = s.boot := rfl
@[simp] theorem State.setDom_svc (d : Nat) (v : DomState) : (s.setDom d v).svc = s.svc := rfl
@[simp] theorem State.setDom_mgmt (d : Nat) (v : DomState) : (s.setDom d v).mgmt = s.mgmt := rfl
@[simp] theorem State.setDom_freeCtr (d : Nat) (v : DomState) : (s.setDom d v).freeCtr = s.freeCtr := rfl

/-! ### hostWrite -/

@[simp] theorem State.hostWrite_pending (a : Nat) (b : Bytes) : (s.hostWrite a b).pending = s.pending := rfl
@[simp] theorem State.hostWrite_host (a : Nat) (b : Bytes) : (s.hostWrite a b).host = hostWriteM s.host a b := rfl
@[simp] theorem State.hostWrite_ident (a : Nat) (b : Bytes) : (s.hostWrite a b).ident = s.ident := rfl
@[simp] theorem State.hostWrite_porch (a : Nat) (b : Bytes) : (s.hostWrite a b).porch = s.porch := rfl
@[simp] theorem State.hostWrite_sch (a : Nat) (b : Bytes) : (s.hostWrite a b).sch = s.sch := rfl
@[simp] theorem State.hostWrite_mem (a : Nat) (b : Bytes) : (s.hostWrite a b).mem = s.mem := rfl
@[simp] theorem State.hostWrite_cores (a : Nat) (b : Bytes) : (s.hostWrite a b).cores = s.cores := rfl
@[simp] theorem State.hostWrite_ret (a : Nat) (b : Bytes) : (s.hostWrite a b).ret = s.ret := rfl
@[simp] theorem State.hostWrite_tbl (a : Nat) (b : Bytes) : (s.hostWrite a b).tbl = s.tbl := rfl
@[simp] theorem State.hostWrite_cel (a : Nat) (b : Bytes) : (s.hostWrite a b).cel = s.cel := rfl
@[simp] theorem State.hostWrite_fab (a : Nat) (b : Bytes) : (s.hostWrite a b).fab = s.fab := rfl
@[simp] theorem State.hostWrite_ras (a : Nat) (b : Bytes) : (s.hostWrite a b).ras = s.ras := rfl
@[simp] theorem State.hostWrite_bbx (a : Nat) (b : Bytes) : (s.hostWrite a b).bbx = s.bbx := rfl
@[simp] theorem State.hostWrite_pwr (a : Nat) (b : Bytes) : (s.hostWrite a b).pwr = s.pwr := rfl
@[simp] theorem State.hostWrite_boot (a : Nat) (b : Bytes) : (s.hostWrite a b).boot = s.boot := rfl
@[simp] theorem State.hostWrite_svc (a : Nat) (b : Bytes) : (s.hostWrite a b).svc = s.svc := rfl
@[simp] theorem State.hostWrite_mgmt (a : Nat) (b : Bytes) : (s.hostWrite a b).mgmt = s.mgmt := rfl
@[simp] theorem State.hostWrite_freeCtr (a : Nat) (b : Bytes) : (s.hostWrite a b).freeCtr = s.freeCtr := rfl

/-! ### What a part reads after it is changed, in a canonical map -/

variable {s}

theorem State.wf_onQp (k : Nat) (f : Qp → Qp) (hw : KMap.wf s.porch.qps = true) : KMap.wf (s.onQp k f).porch.qps = true := KMap.wf_modD k Qp.reset f hw
theorem State.qp_onQp (hw : KMap.wf s.porch.qps = true) (k : Nat) (f : Qp → Qp) : (s.onQp k f).qp k = f (s.qp k) := KMap.getD_modD_self hw k Qp.reset f
theorem State.qp_onQp_ne (hw : KMap.wf s.porch.qps = true) {k j : Nat} (h : k ≠ j) (f : Qp → Qp) : (s.onQp k f).qp j = s.qp j :=
  KMap.getD_modD_ne hw h Qp.reset f
theorem State.core_onCore (hw : KMap.wf s.cores = true) (c : Nat) (f : Core → Core) : (s.onCore c f).core c = f (s.core c) := KMap.getD_modD_self hw c Core.reset f
theorem State.core_onCore_ne (hw : KMap.wf s.cores = true) {c d : Nat} (h : c ≠ d) (f : Core → Core) : (s.onCore c f).core d = s.core d :=
  KMap.getD_modD_ne hw h Core.reset f
theorem State.part_onPart (hw : KMap.wf s.sch.parts = true) (p : Nat) (f : Part → Part) : (s.onPart p f).part p = f (s.part p) :=
  KMap.getD_modD_self hw p Part.reset f
theorem State.part_onPart_ne (hw : KMap.wf s.sch.parts = true) {p q : Nat} (h : p ≠ q) (f : Part → Part) : (s.onPart p f).part q = s.part q :=
  KMap.getD_modD_ne hw h Part.reset f
theorem State.port_onPort (hw : KMap.wf s.fab.ports = true) (p : Nat) (f : Port → Port) : (s.onPort p f).port p = f (s.port p) :=
  KMap.getD_modD_self hw p Port.reset f
theorem State.die_onDie (hw : KMap.wf s.cel.dies = true) (d : Nat) (f : Die → Die) : (s.onDie d f).die d = f (s.die d) := KMap.getD_modD_self hw d Die.reset f
theorem State.dom_setDom (hw : KMap.wf s.pwr.doms = true) (d : Nat) (v : DomState) : (s.setDom d v).dom d = v := by
  have := KMap.getD_setD hw d d DomState.off v
  rwa [if_pos rfl] at this
theorem State.dom_setDom_ne (hw : KMap.wf s.pwr.doms = true) {d e : Nat} (h : d ≠ e) (v : DomState) : (s.setDom d v).dom e = s.dom e := by
  have := KMap.getD_setD hw d e DomState.off v
  rwa [if_neg h] at this
theorem KMap.get?_mod {α : Type} (m : KMap α) (k : Nat) (f : α → α) : KMap.get? (KMap.mod m k f) k = (KMap.get? m k).map f := by
  unfold KMap.mod
  cases h : KMap.get? m k with
  | none => exact h
  | some r => exact KMap.get?_set_self m k (f r)
theorem State.req_onReq (n : Nat) (f : Req → Req) : (s.onReq n f).req? n = (s.req? n).map f := KMap.get?_mod s.sch.slots n f

/-- On a calm state with nothing waiting, an event wakes nothing (R319, R385). -/
theorem State.woken_calm (h : s.calm = true) : s.woken = s := by
  simp only [State.calm, Bool.and_eq_true, List.isEmpty_iff, bne_iff_ne, ne_eq] at h
  obtain ⟨⟨⟨h1, h0⟩, h2⟩, h3⟩ := h
  have e : s.wake s.porch.waiting.length = s := by rw [h1]; rfl
  unfold State.woken State.wakeUnits
  simp only [h0, List.isEmpty_nil, if_true, e]
  have h2' : (s.dom 5 == .sleep) = false := by simpa using h2
  have h3' : (s.dom 6 == .sleep) = false := by simpa using h3
  simp only [h2', h3', Bool.and_false, Bool.false_eq_true, if_false]

end Sys2Proof.Machine
end

