-- ==== Sys2Proof/WellFormed.lean ====
section
/-! DEFINITION. Which commands are well-formed: the relations between operands that a sender keeps (what the host may get wrong is no matter of
form: the device answers it with a status). -/

namespace Sys2Proof

/-- A host command carries what the porch fetched: 48 inline bytes, or the PARAM_LEN bytes of its parameter block (Table 12.12). -/
def Hdr.carries (h : Hdr) (pb : Bytes) : Bool :=
  if h.flags.getLsbD 0 then pb.length == h.paramLen.toNat && decide (1 ≤ h.paramLen.toNat) && decide (h.paramLen.toNat ≤ 16777216)
  else pb.length == 48

/-- A byte of a parameter block, and one bit of it: the field by which rows of the table share an opcode (Table 13.3). -/
def byteAt (pb : Bytes) (off : Nat) : Nat := ((pb[off]?).getD 0).toNat
def flagAt (pb : Bytes) (off n : Nat) : Bool := ((pb[off]?).getD 0).getLsbD n

/-- An instruction word's class and operation (R83: class in bits [127:124], operation in bits [123:120]). -/
def Insn.cls (w : Insn) : Nat := (w >>> 124).toNat
def Insn.op (w : Insn) : Nat := (w >>> 120).toNat % 16

/-- The word of a core row is of the row's class and operation (Table 4.3 and the class layouts). -/
def Insn.isA (w : Insn) (c o : Nat) : Bool := Insn.cls w == c && Insn.op w == o

/-- The classes Table 15.2 gives the reports of a unit. -/
def FaultUnit.mayBe (u : FaultUnit) (cls : Nat) : Bool :=
  match u with
  | .engine | .sequencer | .sfu | .hallway | .control => cls == 1
  | .sram | .controlSram | .textEngine => cls == 0 || cls == 1
  | .hbm | .attic => cls == 0 || cls == 2 || cls == 4
  | .mergeUnit => cls == 0 || cls == 3
  | .scanUnit => cls == 3
  | .pcie | .powerStage => cls == 0
  | .cellar | .tirtar => false

/-- Well-formed commands. A row that shares its opcode with another carries the field that makes it that row; a core row carries a word of its own
class and operation; a fault report is of a class its unit has; a launch gives a request one result; a thermal sample has one reading per sensor. -/
def Instr.wf (i : Instr) : Bool :=
  match i with
  | .sqTailDoorbell _ _ _ => true
  | .cqHeadDoorbell _ _ _ => true
  | .orHeadDoorbell _ _ _ => true
  | .qpEnable _ _ _ => true
  | .qpDisable _ _ _ => true
  | .qpDrainEnd _ _ => true
  | .ringDmaFailure _ _ => true
  | .commandFetch _ _ => true
  | .functionLevelReset _ => true
  | .linkLoss => true
  | .perstAssert => true
  | .resetRelease _ _ _ => true
  | .bootStepEnd _ _ _ => true
  | .identify h pb => h.carries pb
  | .tenantLoad h pb => h.carries pb
  | .tenantUnload h pb => h.carries pb && !flagAt pb 2 0
  | .baseUnload h pb => h.carries pb && flagAt pb 2 0
  | .baseLoad h pb => h.carries pb
  | .tenantInfo h pb => h.carries pb
  | .ask h pb => h.carries pb
  | .generate h pb => h.carries pb
  | .embed h pb => h.carries pb
  | .search h pb => h.carries pb
  | .rerank h pb => h.carries pb
  | .cancel h pb => h.carries pb
  | .step h pb => h.carries pb
  | .indexCreate h pb => h.carries pb && !flagAt pb 3 1 && !flagAt pb 3 2
  | .indexModify h pb => h.carries pb && flagAt pb 3 1 && !flagAt pb 3 2
  | .indexDestroy h pb => h.carries pb && flagAt pb 3 2
  | .indexInsert h pb => h.carries pb
  | .indexDelete h pb => h.carries pb
  | .indexMerge h pb => h.carries pb
  | .indexInfo h pb => h.carries pb
  | .indexLoad h pb => h.carries pb
  | .passageGet h pb => h.carries pb
  | .tableCreate h pb => h.carries pb && !flagAt pb 3 1
  | .tableDestroy h pb => h.carries pb && flagAt pb 3 1
  | .tableWrite h pb => h.carries pb
  | .tableGather h pb => h.carries pb
  | .tableInfo h pb => h.carries pb
  | .vocabLoad h pb => h.carries pb && !flagAt pb 1 0
  | .vocabUnload h pb => h.carries pb && flagAt pb 1 0
  | .grammarLoad h pb => h.carries pb && !flagAt pb 1 0
  | .grammarUnload h pb => h.carries pb && flagAt pb 1 0
  | .tokenize h pb => h.carries pb
  | .detokenize h pb => h.carries pb
  | .partSet h pb => h.carries pb
  | .partStats h pb => h.carries pb
  | .partRegulate h pb => h.carries pb
  | .selftest h pb => h.carries pb
  | .selftestPieceEnd _ _ _ _ => true
  | .calibrate h pb => h.carries pb
  | .maintPolicy h pb => h.carries pb
  | .evacuate h pb => h.carries pb
  | .fabStatus h pb => h.carries pb
  | .fabLeaseAcquire h pb => h.carries pb && (byteAt pb 0 == 0 || decide (3 < byteAt pb 0))
  | .fabLeaseRelease h pb => h.carries pb && byteAt pb 0 == 1
  | .fabLeaseOffer h pb => h.carries pb && byteAt pb 0 == 2
  | .fabLeaseWithdraw h pb => h.carries pb && byteAt pb 0 == 3
  | .fabBuddy h pb => h.carries pb
  | .fwStage h pb => h.carries pb
  | .fwCommit h pb => h.carries pb
  | .attest h pb => h.carries pb
  | .bbxRead h pb => h.carries pb
  | .bbxAck h pb => h.carries pb
  | .sensors h pb => h.carries pb
  | .acctRead h pb => h.carries pb && !flagAt pb 0 0
  | .acctReadClear h pb => h.carries pb && flagAt pb 0 0
  | .scanPlanDispatch _ => true
  | .scanPageScored _ _ _ _ => true
  | .passageFetchDone _ _ => true
  | .mutationPublish _ => true
  | .mergeCommit _ _ => true
  | .generationRetire _ _ => true
  | .hotReplicaCommit _ _ => true
  | .launchStart _ => true
  | .launchEnd _ _ outs => decide (outs.map LaunchOut.slot).Nodup
  | .grammarMaskReady _ => true
  | .layerLanded _ _ _ => true
  | .pagerTransferDone _ => true
  | .regulatedTransferStart _ _ => true
  | .slowdownWindowClose _ _ _ => true
  | .preemptSave _ => true
  | .preemptWatchdog _ => true
  | .sequencerWatchdog _ => true
  | .xferCopy _ w => w.isA 1 0
  | .xferDecompress _ w => w.isA 1 1
  | .xferZeroFill _ w => w.isA 1 2
  | .xferComplete _ => true
  | .mmaPass _ w => w.isA 2 0
  | .activityDecay _ _ => true
  | .sfuFused _ w => w.isA 3 0
  | .sfuStatsFirst _ w => w.isA 3 3
  | .sfuStatsFeed _ w => w.isA 3 1
  | .sfuStatsFinish _ w => w.isA 3 2
  | .vecAdd _ w => w.isA 4 0
  | .vecSubtract _ w => w.isA 4 1
  | .vecMultiply _ w => w.isA 4 2
  | .vecMaximum _ w => w.isA 4 3
  | .vecMinimum _ w => w.isA 4 4
  | .vecConvert _ w => w.isA 4 5
  | .vecAbsolute _ w => w.isA 4 6
  | .vecSelect _ w => w.isA 4 7
  | .selPass _ w => w.isA 5 0
  | .selMerge _ w => w.isA 5 1
  | .syncSignal _ w => w.isA 6 0
  | .signalTakeEffect _ => true
  | .syncWait _ w => w.isA 6 1
  | .syncBarrier _ w => w.isA 6 2
  | .syncFence _ w => w.isA 6 3
  | .nop _ w => w.isA 7 0
  | .loadi _ w => w.isA 7 1
  | .loadp _ w => w.isA 7 2
  | .addi _ w => w.isA 7 3
  | .ctrlAdd _ w => w.isA 7 4
  | .muli _ w => w.isA 7 5
  | .loop _ w => w.isA 7 6
  | .loopr _ w => w.isA 7 7
  | .branch _ w => w.isA 7 8
  | .setseg _ w => w.isA 7 9
  | .endProgram _ w => w.isA 7 10
  | .mark _ w => w.isA 8 0
  | .droopStretch _ => true
  | .stretchExit _ => true
  | .gatherComplete _ => true
  | .countHalving _ => true
  | .writeEntryApply _ => true
  | .flashOpComplete _ _ => true
  | .patrolRead _ => true
  | .activityClaim _ => true
  | .blockErase _ _ => true
  | .dieFail _ => true
  | .controllerLost _ => true
  | .faultCorrected f => f.unit.mayBe 0
  | .faultStep f => f.unit.mayBe 1
  | .faultPage f => f.unit.mayBe 2
  | .faultFront f => f.unit.mayBe 3
  | .faultBeyondSparing f => f.unit.mayBe 4
  | .hbmParityRebuildDone _ => true
  | .powerSample _ _ => true
  | .phaseFail _ => true
  | .thermalSample junctions hbm packages => junctions.length == 34 && hbm.length == 6 && packages.length == 16
  | .thermalHoldExpiry => true
  | .modEnAssert => true
  | .modEnDeassert => true
  | .domainSleep _ => true
  | .domainWakeDone _ => true
  | .pllLock _ => true
  | .inrushWindow _ => true
  | .portUp _ _ _ => true
  | .linkAuthDone _ _ _ => true
  | .laneFail _ _ => true
  | .flitReceive _ _ => true
  | .nakReceive _ _ => true
  | .addressProbe _ _ _ => true
  | .addressProbeTimeout => true
  | .routingUpdate _ _ _ => true
  | .routeAdvertiseTimer => true
  | .routeExpire _ => true
  | .peerDownNotice _ _ _ => true
  | .departingNotice _ => true
  | .messageRetryTimeout _ _ _ => true
  | .remoteMemoryRead _ _ _ => true
  | .remoteMemoryWrite _ _ _ => true
  | .leaseOfferMsg _ _ => true
  | .leaseGrantMsg _ _ => true
  | .leaseWithdrawalNotice _ => true
  | .leaseReleaseMsg _ => true
  | .gatherRequestMsg _ _ _ _ _ => true
  | .gatherReplyMsg _ _ _ _ => true
  | .tableUpdateMsg _ _ => true
  | .replicaRequestMsg _ _ => true
  | .replicaInstallMsg _ _ _ => true
  | .replicaDiscardMsg _ _ => true
  | .shardSearchMsg _ _ _ _ _ _ => true
  | .shardSearchReply _ _ _ _ => true
  | .textFetchMsg _ _ _ _ => true
  | .holdReleaseMsg _ => true
  | .mirrorOpen _ _ => true
  | .mirrorUpdate _ _ _ => true
  | .mirrorClose _ => true
  | .migrationMsg _ _ => true
  | .serviceButtonPress _ => true
  | .removalComplete => true
  | .latchOpen => true
  | .latchClose => true
  | .alertResponseRead => true
  | .mctpBbxRead _ _ => true
  | .pldmMonitoring => true
  | .pldmFru => true
  | .pldmFirmwareUpdate _ => true
  | .spdmGetVersion => true
  | .spdmGetCapabilities => true
  | .spdmNegotiateAlgorithms => true
  | .spdmGetDigests => true
  | .spdmGetCertificate _ => true
  | .spdmChallenge _ _ => true
  | .spdmGetMeasurements _ _ => true
  | .spdmUnsupportedRequest _ => true
  | .pwrDroopCfgWrite _ => true
  | .memPagerCfgWrite _ _ => true
  | .schSchedCfgWrite _ _ => true
  | .retHotCfgWrite _ => true
  | .tblHotCfgWrite _ => true
  | .celGcCfgWrite _ => true
  | .celMaintCfgWrite _ => true
  | .fabShardGrpWrite _ _ => true
  | .bbxTimeHiWrite _ => true
  | .pwrCapCfgWrite _ => true
  | .pwrThermCfgWrite _ => true
  | .secImgPolicyWrite _ => true
  | .secImgKeyWrite _ _ _ => true
  | .retOvrClear _ _ => true
  | .tblReclaimWaitClear _ => true
  | .txtSampleAnomClear _ => true
  | .celUncorrClear _ => true
  | .bbxSealedLostClear _ => true
  | .retSeqLoRead _ => true
  | .schStepLoRead _ => true
  | .bbxSeqLoRead => true
  | .regWrite _ _ _ _ => true
  | .powerOn _ => true
  | .alwaysOnPowerLoss => true
  | .configRequest _ => true
  | .portRetrainDone _ => true
  | .cellarChannelLost _ _ => true
  | .tableUpdateAck _ _ => true
  | .replicaInstallAck _ _ => true
  | .mirrorErrorReply _ => true
  | .passLastWrite _ _ => true
  | .sfuVecSelComplete _ => true

end Sys2Proof
end

