-- ==== Sys2Proof/Tests/Slice0.lean ====
section
/-! SUPPORT. Small checks of the model, and for each statement with hypotheses a state and operands that meet them. Expected values come from spec/. -/

namespace Sys2Proof.Machine.Tests

set_option Elab.async false

/-! ## States and operands to test on -/

/-- A parameter block of `n` bytes from (offset, value) fields. -/
def blk (n : Nat) (l : List (Nat × Nat)) : Bytes := leBytes n (l.foldl (fun v x => v + x.2 * 2 ^ (8 * x.1)) 0)
/-- A header from the PF's queue pair 0 for a partition, with its PARAM_LEN. -/
def hdr (part len : Nat) : Hdr :=
  { fn := 0, qp := 0, flags := if 48 < len then 1 else 0, part := BitVec.ofNat 8 part, tag := 7, paramLen := BitVec.ofNat 32 len, rsv := 0, run := 0 }
/-- The bytes that are not 0, from an address. -/
def cellsAt (a : Nat) (b : Bytes) : Mem := (enum b).filterMap fun x => if x.2 = 0 then none else some (a + x.1, x.2)
/-- Data the host keeps: block `k` of the list at 0x10000 + 0x1000 × k, its data-list entry at 0x100 + 16 × k. -/
def hostOf (l : List Bytes) : Mem :=
  ((enum l).flatMap fun x => cellsAt (0x100 + 16 * x.1) (blk 16 [(0, 0x10000 + 0x1000 * x.1), (8, x.2.length)])) ++ (enum l).flatMap fun x => cellsAt (0x10000 + 0x1000 * x.1) x.2
/-- The fields of a DLREF at `off` that names block `k`, and of an OUTBUF at 0x50000 of 4,096 bytes. -/
def dl (off k : Nat) : List (Nat × Nat) := [(off, 0x100 + 16 * k), (off + 8, 1)]
def out (off : Nat) : List (Nat × Nat) := [(off, 0x50000), (off + 8, 4096)]

/-- An unsigned model image of a kind with one empty section (Tables 4.14 and 4.15): its ID, output dimension and SM3 digest. -/
def image (kind id od digest : Nat) : Bytes :=
  blk 288 [(0, 0x494D5946), (4, 1), (6, 256), (8, kind), (10, 1), (16, 288), (24, 256), (32, digest), (136, id), (156, 272), (160, 64), (172, od), (256, 7)]
def ring : Qp := { Qp.reset with en := true, active := true, runSqb := 0x1000, runCqb := 0x2000, runOrb := 0x3000, runSq := 16, runCq := 16, runOr := 64 }
/-- A model of a kind with no tensors: output dimension 2, an empty program that ends at once on one core, for every launch kind. -/
def model (kind id : Nat) : Model :=
  { imageLen := 288, modelId := BitVec.ofNat 64 id, kind := kind, baseId := 0, vocabCheck := 0, vocabSize := 272, maxContext := 64, layerGroups := 1, kvBytes := 64,
    outDim := 2, params := 0, passClass := 4, stored := 0, decoded := 0, layers := 1, layerBytes := 0, hint := 1, distance := 1,
    progs := [{ id := 1, lat := 0, cores := 1, segBase := 0, constOff := 0, constLen := 0, insns := [0x7A000000000000000000000000000000#128] }],
    segs := [], consts := [], tensors := [], launch := (List.range 7).map fun k => (k, 1) }
def tenant (kind id : Nat) : Tenant :=
  { model := model kind id, vocab := 0, mask := 3, qCapDef := 16, lead := [], join := [], tail := [], segs := [⟨2, []⟩, ⟨3, []⟩], prefixOn := false,
    place := List.replicate 16 1, dist := List.replicate 16 1, acct := Acct.zero }
/-- An index of dimension 2 with two hash bits' worth of buckets, embedder tenant 2, one published passage 9. -/
def index : Index :=
  { dim := 2, metric := 0, hashBits := 1, cap := 16, spillTau := 0, pDef := 32, dMargin := 8, storeBits := 8, mudQuota := 64, mergeAt := 64, load := false,
    loading := false, embedder := 2, reranker := 0, head := 0, featureSlots := [], proj := [[0x3F800000, 0]], seq := 1, given := 1, dir := [],
    mud := [{ bucket := 1, id := 9, tag := 0, version := 1, foldGen := 0, spill := false, vec := [0x3F800000, 0] }], tombs := [],
    store := [{ id := 9, version := 1, home := 1, spill := none, deleted := false, text := [0x68, 0x69] }], pages := [], waiting := [], loads := [], overruns := 0, searches := 0, probes := [],
    seqHiLatch := 0, unloaded := false }
/-- A table of FP32 rows of width 2, one shard, owned by this module. -/
def table : Table :=
  { mode := 0, fmt := 0, width := 2, rows := 4, seed := 0, subA := 0, subB := 0, combine := 0, pantryRows := 0, owners := [1], ownerPools := false, entries := [],
    attic := [], pantry := [], reclaim := [], gathers := 0, cands := [], slices := 0, hotWait := [], holders := [], lost := [], destroy := none }
/-- A partition with a core, or in raw mode. -/
def part (core : Nat) (raw : Bool) : Part :=
  { Part.reset with cores := [core], raw := raw, landing := 4, work := 4, kvPool := 4, images := 4, kvSpill := 4, land := [] }
def live : State :=
  { State.reset with
    host := hostOf [[0x61, 0x62, 0x63], blk 8 [(0, 0x3F800000)], blk 40 [(0, 9), (16, 2), (24, 0x3F800000), (32, 0x6968)], blk 8 [(0, 9)],
                    blk 16 [(0, 1), (8, 0x3F800000)], blk 4 [(0, 1)], blk 16 [(0, 1), (8, 0x3F800000)], blk 4 [(0, 0x61)],
                    blk 82 [(0, 0x52475946), (4, 1), (12, 1), (16, 1), (18, 1), (20, 1), (28, 82), (32, 64), (36, 66), (40, 74)]]
    porch := { Porch.reset with qps := [(0, ring)], linkUp := true }
    boot := { Boot.reset with romHeld := false, service := true, pcieReady := true, step := 0xF }
    pwr := { Pwr.reset with perstN := true, doms := (List.range 57).map fun d => (d, DomState.on) }
    cores := [(0, { Core.reset with state := 1, pllLocked := true }), (1, { Core.reset with state := 1, pllLocked := true })]
    sch := { Sch.reset with parts := [(0, part 0 false), (1, part 1 true)], tenants := [(1, tenant 1 11), (2, tenant 4 12), (3, tenant 5 13)],
                            bases := [(21, { model := model 2 21, shared := false })], gens := [] }
    ret := { Ret.reset with indexes := [(5, index), (6, { index with loading := true, load := true, store := [], mud := [], seq := 0, given := 0 })] }
    tbl := { Tbl.reset with tables := [(3, table)] } }

/-- The state a command leaves. -/
def after (i : Instr) (s : State) : Option State := match exec i s with | .next t => some t | _ => none
/-- STATUS and DETAIL of the first entry a command writes in the completion ring, and its RESULT0. -/
def answer (i : Instr) (s : State) : Option (Nat × Nat × Nat) :=
  (after i s).map fun t => (fld (t.hostRead 0x2000 32) 4 2, fld (t.hostRead 0x2000 32) 6 2, fld (t.hostRead 0x2000 32) 16 4)

/-- A parameter block for each row of the host commands that its checks admit on `live`, in the order of `hostRows`. -/
def params : List (Nat × Nat × List (Nat × Nat)) :=
  let samp := fun (o : Nat) => [(o + 8, 0x3F800000), (o + 16, 0x3F800000)]
  [(0, 16, out 0), (0, 140, [(0, 4), (4, 1)] ++ dl 8 0 ++ dl 24 0), (0, 16, [(0, 3)]), (0, 16, [(2, 1), (8, 21)]), (0, 16, dl 0 0), (0, 24, [(0, 1)] ++ out 8),
   (0, 792, [(0, 1), (2, 5), (8, 4), (9, 2), (16, 32)] ++ dl 64 0 ++ samp 160 ++ [(200, 8)]), (0, 664, [(0, 1)] ++ dl 16 0 ++ samp 32 ++ [(72, 8)]),
   (0, 40, [(0, 2)] ++ dl 8 0 ++ out 24), (0, 104, [(0, 5), (1, 2), (6, 1)] ++ dl 8 1 ++ out 24), (0, 80, [(0, 3), (3, 1), (4, 1), (48, 1)] ++ dl 16 0 ++ out 32 ++ dl 64 0),
   (0, 4, [(0, 8192)]), (1, 16, [(0, 1)]),
   (0, 72, [(0, 7), (2, 1), (4, 2), (15, 8), (16, 64)] ++ dl 32 1), (0, 72, [(0, 5), (3, 2), (12, 3)]), (0, 72, [(0, 6), (3, 4)]), (0, 24, [(0, 5), (4, 1)] ++ dl 8 2),
   (0, 24, [(0, 5), (4, 1)] ++ dl 8 3), (0, 8, [(0, 5)]), (0, 24, [(0, 5)] ++ out 8), (0, 24, [(0, 6), (1, 1), (4, 1)] ++ dl 8 2), (0, 32, [(0, 5), (8, 9)] ++ out 16),
   (0, 40, [(0, 4), (4, 2), (7, 1), (8, 4), (32, 1)]), (0, 32, [(0, 3), (3, 2)]), (0, 24, [(0, 3), (4, 1)] ++ dl 8 4),
   (0, 64, [(0, 3), (1, 0), (4, 1), (8, 1)] ++ dl 16 5 ++ dl 32 6 ++ out 48), (0, 24, [(0, 3)] ++ out 8), (0, 24, [(0, 1), (1, 1)]), (0, 24, [(0, 1), (1, 1)]),
   (0, 24, [(0, 1), (1, 1)]), (0, 24, [(0, 1), (1, 1)]), (0, 40, dl 8 0 ++ out 24), (0, 40, [(4, 1)] ++ dl 8 7 ++ out 24),
   (0, 32, [(0, 1), (4, 8192), (8, 4), (12, 4), (16, 4), (20, 4), (24, 4)]), (0, 16, out 0), (0, 16, (List.range 4).map fun i => (4 * i, 0x82000800)),
   (0, 24, out 8), (0, 24, [(0, 1)] ++ out 8), (0, 8, [(0, 2)]), (0, 8, [(0, 1)]), (0, 16, [(0, 5), (8, 1)]), (0, 0, []), (0, 16, out 0), (0, 8, [(4, 1)]),
   (0, 8, [(0, 1)]), (0, 8, [(0, 2), (4, 1)]), (0, 8, [(0, 3)]), (0, 8, []), (0, 16, dl 0 0), (0, 0, []), (0, 56, [(32, 2)] ++ out 40), (0, 32, [(8, 4)] ++ out 16), (0, 8, []),
   (0, 16, out 0)]
def pbOf (x : Nat × Nat × List (Nat × Nat)) : Bytes := blk (max 48 x.2.1) x.2.2
/-- `live` with what cancel, evacuate and fw.commit name: a request in slot 0, a buddy with a route, a staged image. -/
def busy : State :=
  { live with
    sch := { live.sch with slots := [(0, { newReq live (hdr 0 664) .generate 1 [] with tenant := 1, state := .prefill, stage := 9, prompt := [0x61] })] }
    fab := { live.fab with valid := true, addr := 1, buddy := 2, routes := [(2, { port := 0, hops := 1, via := 2 })] }
    boot := { live.boot with staged := some FwImage.factory } }
/-- `busy` with a base's image in block 0 and an embedder's in block 1. -/
def imaged : State :=
  { busy with host := hostOf [image 2 22 0 0x662712ae3db6faed6bc908658aa9d5a8ee96732818290fd1a1c4af52e2299d70,
                              image 4 14 2 0x432666bb27c935891194871280a45f733c4cb189e81858d68e104060fc18717a] }

/-- Controllers 3 and 4 lost: page 0 of controller 3 and its row have two losses. -/
def lostRow (s : State) : State := s.onCel fun c => { c with lostCtrl := setAt (setAt c.lostCtrl 3 true) 4 true }

/-! ## Well-formed commands -/

/-- One ill-formed command for each check of `Instr.wf`. -/
theorem test_ill_formed_commands_are_refused :
    (([.identify (hdr 0 16) (blk 47 []), .ask (hdr 0 792) (blk 791 []), .tenantUnload (hdr 0 16) (blk 48 [(2, 1)]), .baseUnload (hdr 0 16) (blk 48 []),
       .indexCreate (hdr 0 72) (blk 72 [(3, 2)]), .indexModify (hdr 0 72) (blk 72 []), .indexDestroy (hdr 0 72) (blk 72 [(3, 2)]), .tableCreate (hdr 0 40) (blk 48 [(3, 2)]),
       .tableDestroy (hdr 0 32) (blk 48 []), .vocabLoad (hdr 0 24) (blk 48 [(1, 1)]), .vocabUnload (hdr 0 24) (blk 48 []), .grammarLoad (hdr 0 24) (blk 48 [(1, 1)]),
       .grammarUnload (hdr 0 24) (blk 48 []), .fabLeaseAcquire (hdr 0 8) (blk 48 [(0, 1)]), .fabLeaseRelease (hdr 0 8) (blk 48 [(0, 2)]), .fabLeaseOffer (hdr 0 8) (blk 48 []),
       .fabLeaseWithdraw (hdr 0 8) (blk 48 [(0, 1)]), .acctRead (hdr 0 24) (blk 48 [(0, 1)]), .acctReadClear (hdr 0 24) (blk 48 []),
       .nop 0 0x71000000000000000000000000000000, .mark 0 0x70000000000000000000000000000000, .thermalSample [] [] []] : List Instr).any Instr.wf) = false := by decide +kernel
/-- Every row of the host commands with the block the tests give it (for two rows a block of the row beside them), and every row of the core instructions with a
word of its own class and operation. -/
theorem test_well_formed_commands_are_accepted :
    ((hostRows.zip params).all fun x => (x.1.row (hdr x.2.1 x.2.2.1) (pbOf x.2)).wf || (x.1.op / 256 == 6 && !flagAt (pbOf x.2) 1 1 && (pbOf x.2).length == 48)) = true
    ∧ (coreRows.all fun r => (r.row 0 (BitVec.ofNat 128 (r.cls * 2 ^ 124 + r.op * 2 ^ 120))).wf) = true := by decide +kernel

/-! ## The step -/

theorem test_queue_runs_first_in_first_out :
    ((match step { live with pending := [.linkLoss, .latchClose] } with | .next t => some (t.pending, t.porch.linkUp) | _ => none) = some ([.latchClose], false)) := by decide +kernel
/-- For EveryStepKeepsTheInvariant and FusesAndIdentityAreForGood. -/
theorem witness_invariant_step : State.reset.Inv ∧ ∃ t, step { State.reset with pending := [.latchClose] } = .next t ∧ stepsFrom 1 { State.reset with pending := [.latchClose] } = .next t := by
  refine ⟨?_, _, rfl, rfl⟩
  unfold State.Inv State.ringsFit Bbx.fits Pwr.bounded Qp.fits; decide

/-! ## The porch -/

/-- `live` with two entries and two records written and not yet released. -/
def filled : State := live.onQp 0 fun q => { q with cqTail := 2, orTail := 2 }
/-- For DoorbellsMoveTheirRings, at the last value that each ring takes. -/
theorem witness_doorbells : filled.reaches 0 = true ∧ (filled.qp 0).en = true ∧ (15#32).toNat < (filled.qp 0).runSq ∧ (filled.qp 0).active = true
    ∧ (2#32).toNat < (filled.qp 0).runCq ∧ advanceTo (filled.qp 0).cqHead 2 (filled.qp 0).runCq ≤ (filled.qp 0).cqTail - (filled.qp 0).cqHead
    ∧ (2#32).toNat < (filled.qp 0).runOr ∧ advanceTo (filled.qp 0).orHead 2 (filled.qp 0).runOr ≤ (filled.qp 0).orTail - (filled.qp 0).orHead := by decide +kernel
/-- For BadDoorbellsStop: the first value past each ring, a head past the tail, and queue pairs that are not enabled. -/
theorem witness_bad_doorbells : live.reaches 0 = true ∧ (live.qp 1).en = false ∧ (live.qp 0).en = true ∧ (live.qp 0).runSq ≤ (16#32).toNat ∧ (live.qp 1).active = false
    ∧ (live.qp 0).active = true ∧ (live.qp 0).cqTail - (live.qp 0).cqHead < advanceTo (live.qp 0).cqHead 1 (live.qp 0).runCq
    ∧ (let s := live.onQp 0 fun q => { q with en := false }
       (s.qp 0).en = false ∧ (s.qp 0).active = true ∧ (s.qp 0).runOr ≤ (64#32).toNat) := by decide +kernel
theorem test_sq_tail_out_of_range_stops : (after (.sqTailDoorbell 0 0 16) live).map (fun t => ((t.qp 0).en, (t.qp 0).stopped, (t.qp 0).badDb)) = some (false, true, true) := by decide +kernel
/-- For EnableStartsOrRefuses: the smallest rings, and each ground for refusing. -/
theorem witness_enables :
    (let u := live.onQp 1 fun q => q.sizes 0x1884
     live.reaches 0 = true ∧ (live.qp 1).en = false ∧ (u.qp 1).active = false ∧ (u.qp 1).cfgOk 0 = true ∧ 1 ≤ memHbmFree live ∧ live.boot.recovery = false)
    ∧ ((live.onQp 1 fun q => q.sizes 0).qp 1).cfgOk 0 = false
    ∧ (let s := live.onQp 0 fun q => { q with en := false }
       (s.qp 0).en = false ∧ ((s.onQp 0 fun q => q.sizes 0x1884).qp 0).active = true)
    ∧ memHbmFree (live.hbmSize (.pantry 0) Config.hbmGran) = 0
    ∧ (let s := live.onBoot fun b => { b with recovery := true }
       s.reaches 0 = true ∧ s.boot.recovery = true ∧ qpKey 0 1 ≠ 0) := by decide +kernel
theorem test_enable_writes_the_registers :
    (after (.qpEnable 0 1 0x1884) live).map (fun t => ((t.qp 1).en, (t.qp 1).runSq, (t.qp 1).runCq, (t.qp 1).runOr)) = some (true, 16, 16, 64) := by decide +kernel
/-- For QueuePairsRunAndDrain: a run that has drained, with and without its store, and a command in the ring. -/
theorem witness_runs :
    (let s := live.onQp 0 fun q => { q with en := false, store := true }
     (s.qp 0).drained = true ∧ (s.qp 0).store = true)
    ∧ (let s := live.onQp 0 fun q => { q with en := false }
       (s.qp 0).drained = true ∧ (s.qp 0).store = false)
    ∧ (let s := live.onQp 0 fun q => { q with sqTail := 1 }
       let h := entryHdr 0 0 (s.hostRead (s.qp 0).runSqb.toNat 64)
       (s.qp 0).mayFetch = true ∧ s.departed = false ∧ (s.qp 0).sqHead ≠ (s.qp 0).sqTail ∧ h.flags.getLsbD 1 = false ∧ h.indirect = false) := by decide +kernel
/-- For FunctionResetAndLinkLoss and ConfigurationRequests. -/
theorem witness_resets_of_functions :
    KMap.wf live.porch.qps = true ∧ (5 : Nat) / 64 ≠ (1 : Fn).val ∧ live.dom 1 = .on ∧ live.boot.romHeld = false ∧ live.boot.romStopped = false ∧ live.boot.pcieReady = true
    ∧ (live.onBoot fun b => { b with pcieReady := false }).boot.pcieReady = false := by decide +kernel
theorem test_config_request_enables_vfs : (after (.configRequest (some 2)) live).map (fun t => (t.porch.vfs, t.porch.cfgDone)) = some (3, 1) := by decide +kernel

/-! ## Start and power -/

/-- For ResetIsAssertedAndReleased, BootRomActs and BootStepsEnd. -/
theorem witness_start :
    State.reset.dom 4 = .on ∧ State.reset.boot.romHeld = true ∧ State.reset.svc.latchOpen = false ∧ (State.reset.setDom 4 .off).dom 4 ≠ .on
    ∧ (match State.reset.boot.bootImg with | some x => x.passes State.reset.boot.svnFused | none => false) = true
    ∧ (match State.reset.boot.bootImg with | some x => x.passes 1 | none => true) = false
    ∧ (State.reset.boot.romHeld || State.reset.boot.romStopped || State.reset.boot.hold || State.reset.boot.recovery) = true
    ∧ (∀ i ∈ [1, 4, 5, 6, 9, 10], let s := live.onBoot fun b => { b with service := false, step := i }
        (s.boot.romHeld || s.boot.romStopped || s.boot.hold || s.boot.recovery) = false ∧ s.boot.step = i ∧ s.boot.path = 0) := by decide +kernel
/-- The boot ROM held at reset runs the factory image at reset release (R402), and the first step begins. -/
theorem test_reset_release_starts_boot :
    (after (.resetRelease true true false) State.reset).map (fun t => (t.boot.romHeld, t.boot.running.isSome, t.boot.step, t.bbx.starts)) = some (false, true, 1, 1) := by decide +kernel
/-- For PowerComesAndGoes and PowerSamplesAct: the limits of the input's range, and one past each. -/
theorem witness_power :
    (let s := { live with pwr := { live.pwr with inputOn := false, modEn := false } }
     s.pwr.inputOn = false ∧ s.pwr.modEn = false)
    ∧ (let s := { live with pwr := { live.pwr with modEn := false, doms := [(0, DomState.on)] } }
       s.svc.latchOpen = false ∧ s.dom 4 ≠ .on ∧ s.pwr.inputOn = true ∧ inputOk s.pwr.mv = true)
    ∧ live.svc.latchOpen = false ∧ live.pwr.modEn = true ∧ live.dom 4 = .on ∧ live.dom 0 = .on
    ∧ 32000 ≤ (32000#32).toNat ∧ (60000#32).toNat ≤ 60000 ∧ (31999#32).toNat < 32000 ∧ 60000 < (60001#32).toNat := by decide +kernel
/-- For CapStepFollowsTheSamples: a sample of 1,100,001 mW, a mean above 900 W, and 1,024 samples of at most 15/16 of it. -/
theorem witness_cap :
    (let w := { live.pwr with samples := [1100001] }
     w.cap ≤ 8 ∧ w.samples = 1100001 :: [] ∧ 1100000 < 1100001 ∧ w.cap < 8)
    ∧ (let w := { live.pwr with samples := [900001] }
       w.samples = 900001 :: [] ∧ 900001 ≤ 1100000 ∧ w.slowWait = 0 ∧ meanOver (w.samples.take 64) (capW w) = true ∧ w.cap < 8)
    ∧ (let w := { live.pwr with samples := [843750], cap := 8 }
       w.cap ≤ 8 ∧ 843750 ≤ 1100000 ∧ meanOver (w.samples.take 64) (capW w) = false ∧ w.upWait = 0 ∧ 0 < w.cap
         ∧ 16 * sumNat (w.samples.take 1024) ≤ 15 * 1000 * capW w * (w.samples.take 1024).length ∧ maxNat (w.samples.take 1024) ≤ 1100000)
    ∧ (let w := { live.pwr with samples := [843750], cap := 8, upWait := 1 }
       meanOver (w.samples.take 64) (capW w) = false ∧ w.upWait ≠ 0) := by decide +kernel
/-- R394: a sample above 1,100 W adds a step, and the core clock falls by 75 MHz. -/
theorem test_power_sample_caps : (after (.powerSample 48000 1100001) live).map (fun t => (t.pwr.cap, coreMhz t.pwr, t.bbx.recs.length)) = some (1, 1125, 1) := by decide +kernel
/-- For PhaseFailureFloorsTheClock, and R382: the third failed phase raises FLOOR by 4. -/
theorem witness_phase : live.pwr.failed.getLsbD 17 = false ∧ live.dom 4 = .on
    ∧ (after (.phaseFail 17) (live.onPwr fun w => { w with failed := 3 })).map (fun t => (t.pwr.floor, t.pwr.steps)) = some (4, 4) := by decide +kernel
/-- For ThermalSamplesStepTheClock: 105 °C and 110 °C, each reached and just missed (readings in 1/256 °C), and both sides of a target of 1. -/
theorem witness_thermal :
    live.dom 4 = .on ∧ [105 * 256#16] ≠ [] ∧ live.pwr.thermShut = false ∧ live.pwr.thermHold = false
    ∧ raw256 (hottest [105 * 256#16]).2 / 256 = 105 ∧ raw256 (hottest [105 * 256 - 1#16]).2 / 256 = 104 ∧ raw256 (hottest [110 * 256#16]).2 / 256 = 110
    ∧ memAt [95 * 256#16] 95 = true ∧ memAt [95 * 256 - 1#16] 95 = false ∧ memAt [84 * 256#16] 85 = false
    ∧ (let target := min 8 (max 0 (95 - (tThr live.pwr : Int) + 1)).toNat
       target = 1 ∧ live.pwr.therm < target ∧ target + 2 ≤ { live.pwr with therm := 3 }.therm ∧ target ≤ { live.pwr with therm := 2 }.therm
         ∧ { live.pwr with therm := 2 }.therm < target + 2)
    ∧ (let a := live.onPwr fun w => w.heat (raw256 (hottest [20 * 256#16]).2 / 256)
       a.pwr.therm = live.pwr.therm ∧ a.pwr.steps = live.pwr.steps)
    ∧ (let a := live.onPwr fun w => w.heat (raw256 (hottest [95 * 256#16]).2 / 256)
       a.pwr.therm ≠ live.pwr.therm ∧ a.pwr.steps ≠ live.pwr.steps)
    ∧ (let s := live.onPwr fun w => { w with floor := 8 }
       let a := s.onPwr fun w => w.heat (raw256 (hottest [95 * 256#16]).2 / 256)
       a.pwr.therm ≠ s.pwr.therm ∧ a.pwr.steps = s.pwr.steps)
    ∧ (20 : Int) < (tThr live.pwr : Int) := by decide +kernel
/-- For ThermalShutdown: a hold that stands. -/
theorem witness_shutdown : (live.onPwr fun w => { w with thermHold := true }).pwr.thermHold = true ∧ live.pwr.thermShut = false := by decide +kernel
/-- For DomainsSleepAndWake. -/
theorem witness_domains :
    isCoreDom (7 : Fin 57).val = true ∧ live.dom 7 = .on ∧ (live.partOf 0).isSome = true ∧ (live.core 0).busy = false ∧ (live.core 0).preempt = false
    ∧ ((live.core 0).activity.all fun a => a == 0) = true ∧ live.ras.pieces = [] ∧ live.dom 5 = .on ∧ live.txtBusy = false ∧ live.dom 6 = .on ∧ live.retBusy = false
    ∧ (live.setDom 8 .changing).dom 8 = .changing ∧ live.dom (coreDom 0) = .on
    ∧ ((live.setDom 9 .off).onPwr fun w => { w with onWait := [9, 10] }).pwr.onWait = 9 :: 10 :: [] ∧ (live.setDom 9 .off).dom 9 = .off
    ∧ 8 ≤ (live.onPwr fun w => { w with rampWait := List.range 8 }).pwr.rampWait.length := by decide +kernel
/-- For ServiceByHand: the shortest and the longest press, and each state it finds. -/
theorem witness_service :
    100 ≤ (100#32).toNat ∧ (2000#32).toNat ≤ 2000 ∧ busy.dom 0 = .on ∧ busy.svc.removal = 0 ∧ busy.service = true ∧ busy.departed = false ∧ busy.fab.buddy ≠ 0
    ∧ busy.fab.buddyDown = false ∧ busy.sch.evac = none
    ∧ (live.setRemoval 1).svc.removal = 1 ∧ (live.setRemoval 1).quiet = true ∧ (live.setRemoval 1).departed = false ∧ (live.setRemoval 1).sch.evac = none
    ∧ State.reset.svc.removal ≠ 1 ∧ State.reset.service = false ∧ State.reset.dom 0 = .on
    ∧ live.svc.latchOpen = false ∧ live.svc.removal ≠ 2 ∧ live.dom 4 = .on ∧ (live.setRemoval 2).svc.removal = 2 ∧ (live.setRemoval 2).svc.latchOpen = false := by decide +kernel
/-- For ManagementPortAnswers (its last clause needs an image that a key of the root signs: none can be shown) and MailboxAnswers. -/
theorem witness_management : live.dom 0 = .on ∧ live.boot.recovery = false ∧ (live.onBoot fun b => { b with recovery := true }).boot.recovery = true
    ∧ live.porch.linkUp = true ∧ live.dom 1 = .on ∧ live.dom 4 = .on ∧ (1#8) ≠ 0 ∧ 1 ≤ (1#8).toNat ∧ (6#8).toNat ≤ 6 := by decide +kernel
theorem test_management_reads_the_variant : (after .pldmFru live).map (fun t => t.mgmt.out) = some [.fru (Config.variantCode .f48) 1 1] := by decide +kernel

/-! ## Host commands -/

/-- The parameter block of row `i` of `hostRows`, and its header. -/
def pbN (i : Nat) : Bytes := match params[i]? with | some x => pbOf x | none => []
def hdN (i : Nat) : Hdr := match params[i]? with | some x => hdr x.1 x.2.1 | none => hdr 0 0
/-- Every row of the host commands is admitted and passes its checks on `busy`: the hypothesis of every statement about a row. -/
theorem witness_every_row_is_clear : ((hostRows.zip params).all fun x => busy.clear x.1.op x.1.checks (hdr x.2.1 x.2.2.1) (pbOf x.2)) = true := by decide +kernel
/-- Rows that answer with OK at once on `busy` (R317). -/
theorem test_rows_complete_with_ok :
    (([.identify, .tenantInfo, .indexInfo, .tableInfo, .indexModify, .indexMerge, .passageGet, .tokenize, .detokenize, .partStats, .acctRead, .maintPolicy, .fabStatus, .bbxRead,
       .bbxAck, .sensors] : List (Hdr → Bytes → Instr)).zip [0, 5, 19, 26, 14, 18, 21, 31, 32, 34, 36, 40, 42, 51, 52, 53]).map
      (fun x => (answer (x.1 (hdN x.2) (pbN x.2)) busy).map fun a => (a.1, a.2.1)) = List.replicate 16 (some (0, 0)) := by decide +kernel
/-- For CommandsAreTakenOrWait: a queue pair that does not run, and a partition whose part.set is pending. -/
theorem witness_waiting : live.takes { hdr 0 16 with qp := 1 } = false
    ∧ (let s := live.onPart 0 fun x => { x with target := some (1, hdr 0 32) }
       s.takes (hdr 0 16) = true ∧ (s.taken (hdr 0 16)).mustWait 0x0702 (s.stamped (hdr 0 16)) (pbN 34) = true) := by decide +kernel
/-- For FirstFailingCheckIsReported: a reserved field of identify's OUTBUF that is not 0. -/
theorem witness_failing_check : live.admits 0x0101 (hdr 0 16) (blk 48 [(12, 1)]) = true
    ∧ firstFail (identifyChecks (live.taken (hdr 0 16)) (live.stamped (hdr 0 16)) (blk 48 [(12, 1)])) = some (stParam, 12) := by decide +kernel
theorem test_failing_check_is_the_answer : answer (.identify (hdr 0 16) (blk 48 [(12, 1)])) live = some (0x0100, 12, 0) := by decide +kernel
/-- For HeaderChecksComeFirst: each clause on a row, the length at the first value too long. -/
theorem witness_header :
    State.reset.service = false ∧ 0x0101 < 0x0A00 ∧ live.service = true ∧ (({ hdr 0 16 with fn := 1 } : Hdr).isVf = true ∧ vfMay 0x0101 = false) ∧ (hdr 0 16).isVf = false
    ∧ 4 ≤ ({ hdr 0 16 with flags := 4 } : Hdr).flags.toNat ∧ (hdr 0 16).flags.toNat < 4 ∧ (hdr 15 16).part.toNat < 16 ∧ ({ hdr 0 16 with rsv := 1 } : Hdr).rsv ≠ 0
    ∧ (hdr 0 48).indirect = false ∧ 48 < ({ hdr 0 16 with paramLen := 49 } : Hdr).paramLen.toNat := by decide +kernel
theorem test_busy_before_service : answer (.identify (hdr 0 16) (pbN 0)) (live.onBoot fun b => { b with service := false }) = some (0x0103, 0, 0) := by decide +kernel
/-- For CompletionEntries: a run that takes the entry, one that is stopped, one that has begun again; positions on both sides of a wrap. -/
theorem witness_completion :
    (live.qp 0).runs = (hdr 0 16).run ∧ (live.qp 0).active = true ∧ (live.qp 0).stopped = false ∧ live.departed = false
    ∧ ((live.onQp 0 fun q => { q with stopped := true }).qp 0).stopped = true ∧ (live.qp 0).runs ≠ ({ hdr 0 16 with run := 1 } : Hdr).run
    ∧ (65535 : Nat) < 65536 ∧ (63 : Nat) < 64 ∧ (1 : Nat) < 2 ∧ (0 : Nat) < 16 ∧ (15 : Nat) < 16 := by decide +kernel
/-- Table 12.13: the PHASE of the last entry of the first pass and of the first of the next. -/
theorem test_phase_flips : phaseOf 15 16 = 1 ∧ phaseOf 16 16 = 0 ∧ phaseOf 32 16 = 1 := by decide
/-- For ReportsFillTheirBuffer, beside `witness_every_row_is_clear`: the objects named; and the bounds of its last clause. -/
theorem witness_reports :
    ((live.taken (hdr 0 24)).tenant? (w16At (pbN 5) 0)).isSome = true ∧ ((live.taken (hdr 0 24)).index? (fld (pbN 19) 0 1)).isSome = true
    ∧ ((live.taken (hdr 0 24)).table? (fld (pbN 26) 0 1)).isSome = true
    ∧ (match (live.taken (hdr 0 32)).index? (fld (pbN 21) 0 1) with | some x => (x.latestAt (BitVec.ofNat 64 (fld (pbN 21) 8 8)) x.seq).isSome | none => false) = true
    ∧ live.pwr.cap ≤ 8 ∧ live.pwr.floor ≤ 8 := by decide +kernel
/-- For ReportsChangeNothingElse, whose other hypotheses stand in `witness_every_row_is_clear`. -/
theorem witness_reports_frame : busy.calm = true ∧ Mem.wf busy.host = true ∧ (after (.sensors (hdr 0 16) (pbN 53)) busy).isSome = true := by decide +kernel
theorem test_sensors_reads_the_clock : (after (.sensors (hdr 0 16) (pbN 53)) busy).map (fun t => fld (t.hostRead 0x50000 64) 16 4) = some 1200 := by decide +kernel

/-- The system share has room for a small copy, whatever the spec leaves open of it (R368). -/
theorem sys_room (s : State) (n : Nat) (h : s.cel.sysUsed + n + 100000000000 ≤ Config.systemBytes s.ident.variant) : s.sysRoom n = true := by
  have := Config.sysShared.isLt
  unfold State.sysRoom
  exact decide_eq_true (by omega)
/-- The parameter blocks of a tenant.load of block 1 into partition 0 and of a base.load of block 0. -/
def pbLoad : Bytes := blk 140 ([(0, 4), (4, 1)] ++ dl 8 1)
def pbBase : Bytes := blk 48 (dl 0 0)
/-- For TenantsAndBasesComeAndGo: the images verify (unsigned, which the reset policy takes) and fit. -/
theorem witness_loads : imaged.clear 0x0201 tenantLoadChecks (hdr 0 140) pbLoad = true ∧
    (match (imaged.taken (hdr 0 140)).verifyImage (dlBytes (imaged.taken (hdr 0 140)) pbLoad 8) with
     | .inr m => match templateOf (imaged.taken (hdr 0 140)) pbLoad m byteVocab with
       | some x => decide (firstFail (lateLoadChecks (imaged.taken (hdr 0 140)) pbLoad m byteVocab) = none)
           && (maskList (fld pbLoad 4 2)).all (fun p => decide ((imaged.taken (hdr 0 140)).imageUse p + ceilDiv m.stored Config.granule ≤ ((imaged.taken (hdr 0 140)).part p).images))
           && ((imaged.taken (hdr 0 140)).placeAllIn (fld pbLoad 0 2) (maskList (fld pbLoad 4 2)) (tenantOf pbLoad m x)).isSome
       | none => false
     | .inl _ => false) = true := by decide +kernel
theorem witness_loads_room (n : Nat) (h : n ≤ 288) : (imaged.taken (hdr 0 140)).sysRoom n = true :=
  sys_room _ _ (Nat.le_trans (Nat.add_le_add_right (Nat.add_le_add_left h _) _) (by decide +kernel))
theorem witness_bases : imaged.clear 0x0203 baseLoadChecks (hdr 0 16) pbBase = true ∧
    (match (imaged.taken (hdr 0 16)).verifyImage (dlBytes (imaged.taken (hdr 0 16)) pbBase 0) with
     | .inr m => m.kind == 2 && !KMap.has imaged.sch.bases m.modelId.toNat && decide (imaged.sch.bases.length < 64) && decide (ceilDiv m.stored Config.granule ≤ memAttFree imaged) && m.hint != 2 && m.hint != 3
     | .inl _ => false) = true := by decide +kernel
theorem witness_unloads : bit (fld (pbN 2) 2 1) 0 = false ∧ (KMap.get? (busy.taken (hdr 0 16)).sch.tenants (fld (pbN 2) 0 2)).isSome = true
    ∧ bit (fld (pbN 3) 2 1) 0 = true ∧ (KMap.get? (busy.taken (hdr 0 16)).sch.bases (fld (pbN 3) 8 8)).isSome = true := by decide +kernel
/-- For RequestsTakeASlot: slot 1 is the lowest free one, slot 0 being in use. -/
theorem witness_requests :
    (let w := fun (i : Nat) (text : Bool) => ((busy.taken (hdN i)).wakeCores 0).iff text fun s => s.wakeDom 5
     (w 6 true).index? (fld (pbN 6) 2 1) = some index ∧ (busy.taken (hdN 6)).index? (fld (pbN 6) 2 1) = some index
     ∧ (busy.taken (hdN 6)).tenant? (w16 (pbN 6) 0) = some (tenant 1 11) ∧ (w 6 true).tenant? (w16 (pbN 6) 0) = some (tenant 1 11)
     ∧ (w 6 true).freeSlot 0 = some 1 ∧ ((w 6 true).nextAdm (fld (pbN 6) 2 1)).2.freeSlot 0 = some 1 ∧ (w 7 true).freeSlot 0 = some 1
     ∧ (w 8 true).tenant? (w16 (pbN 8) 0) = some (tenant 4 12) ∧ 4 * (tenant 4 12).model.outDim ≤ fld (pbN 8) 32 4 ∧ (w 8 true).freeSlot 0 = some 1
     ∧ bit (fld (pbN 9) 6 2) 0 = true ∧ 24 * fld (pbN 9) 1 1 ≤ fld (pbN 9) 32 4 ∧ (w 9 false).freeSlot 0 = some 1 ∧ ((w 9 false).nextAdm (fld (pbN 9) 0 1)).2.freeSlot 0 = some 1
     ∧ 8 * fld (pbN 10) 3 1 ≤ fld (pbN 10) 40 4 ∧ (w 10 true).freeSlot 0 = some 1) := by decide +kernel
/-- A generate takes slot 1 with generation 1 and 3 prompt tokens, one for each byte in byte mode (R246). -/
theorem test_generate_takes_a_slot :
    (after (.generate (hdN 7) (pbN 7)) busy).map (fun t => (t.req? 1).map fun r => (r.gen, r.prompt)) = some (some (1, [0x61, 0x62, 0x63])) := by decide +kernel
/-- For CancelAndStep: a request with every record visible, one with a record in the overflow store, and one that has ended with its completion held. -/
theorem witness_cancel :
    (let ends := fun (s : State) => (((s.taken (hdN 11)).wakeCores 0).onReq 0 fun x => { x with cancelled := true, buf := [], rebuild := false, fin := x.cancelFin }).dropJobsOf 0
     let h := ({ tag := 7, status := stOk, detail := 0, info := 0, r0 := 0, r1 := 0, r2 := 0, r3 := 0 } : Compl)
     let spill := busy.onQp 0 fun q => { q with overflow := [{ handle := 8192, tag := 7, byteOff := 0, flags := 0, text := [0x61], slot := 0 }] }
     let ended := busy.onQp 0 fun q => { q with held := [(0, 0, h)] }
     (∀ s ∈ [busy, spill, ended], s.clear 0x0306 cancelChecks (hdN 11) (pbN 11) = true ∧ (s.taken (hdN 11)).named (fld (pbN 11) 0 4) = some 0 ∧ (((s.taken (hdN 11)).wakeCores 0).req? 0).isSome = true)
     ∧ (ends busy).isHeld 0 = false ∧ ((ends busy).flushOne 0).isHeld 0 = false ∧ (ends spill).isHeld 0 = false ∧ ((ends spill).flushOne 0).isHeld 0 = true
     ∧ (ends ended).isHeld 0 = true ∧ (match (ended.wakeCores 0).req? 0 with | some r => ((ends ended).recast 0 { r with fin := r.cancelFin }).isHeld 0 | none => false) = true) := by decide +kernel
/-- For IndexesAreCreatedAndChanged and MutationsAreNumbered: what each command's parameters give on `busy`: an insert that fits, a load whose entries lie in buckets. -/
theorem witness_indexes :
    bit (fld (pbN 13) 3 1) 1 = false ∧ bit (fld (pbN 13) 3 1) 2 = false ∧ bit (fld (pbN 14) 3 1) 1 = true ∧ bit (fld (pbN 15) 3 1) 1 = false ∧ bit (fld (pbN 15) 3 1) 2 = true
    ∧ (let u := busy.taken (hdN 16)
       u.index? 5 = some index ∧ KMap.wf u.ret.indexes = true
       ∧ (match parseEnts 2 (fld (pbN 16) 4 4) (dlData u (pbN 16) 8) with
          | some l => decide (index.insertFit 0 index.waiting index.waitMud (8388608 - u.mudUsed) (tombRoom u) l = none)
          | none => false) = true)
    ∧ (let u := busy.taken (hdN 20)
       bit (fld (pbN 20) 1 1) 0 = true
       ∧ (match u.index? 6 with
          | some ix => (match parseEnts ix.dim (fld (pbN 20) 4 4) (dlData u (pbN 20) 8) with | some l => (u.loadAll 6 ix l).isSome | none => false)
          | none => false) = true) := by decide +kernel
/-- A mutation takes the next number, and its publication is visible (R148). -/
theorem test_insert_is_published :
    (let m : Mutation := { delOf 2 10 with insert := true, vec := [0x3F800000, 0], text := [0x61] }
     (after (.mutationPublish 5) (busy.onIndex 5 fun x => { x with given := 2, waiting := [m] })).map (fun t => (t.index? 5).map fun x => (x.seq, x.given, x.store.length)))
      = some (some (2, 2, 2)) := by decide +kernel
/-- For TablesAndTextCommandsRun: a table with and without a write in flight, local entries, buffers that hold the sums and the text. -/
theorem witness_tables_and_text :
    bit (fld (pbN 22) 3 1) 1 = false ∧ bit (fld (pbN 23) 3 1) 1 = true ∧ KMap.wf busy.tbl.tables = true
    ∧ (let v := (busy.taken (hdN 23)).onTable 3 fun x => { x with destroy := some ((busy.stamped (hdN 23))) }
       (v.gathersOn 3).isEmpty = true ∧ v.tbl.writes.any (fun w => w.table == 3) = false)
    ∧ (let s := busy.onTbl fun b => { b with writes := [{ no := 0, table := 3, cmd := none, remote := none, count := 0, entries := [], waited := false, owners := [], holders := [], formed := none, failed := none }] }
       let v := (s.taken (hdN 23)).onTable 3 fun x => { x with destroy := some ((s.stamped (hdN 23))) }
       s.clear 0x0501 tableCreateChecks (hdN 23) (pbN 23) = true ∧ v.tbl.writes.any (fun w => w.table == 3) = true)
    ∧ (let u := busy.taken (hdN 24)
       u.table? 3 = some table ∧ ∀ e ∈ writeEntries table.width (dlData u (pbN 24) 8), u.ownsShard table (table.shardOf e.row.toNat) = true)
    ∧ (let u := busy.taken (hdN 25)
       fld (pbN 25) 4 4 * (4 * (u.wakeCores 0).gatherWidth 3 + 4) ≤ fld (pbN 25) 56 4)
    ∧ (let u := busy.taken (hdN 31)
       u.vocab? 0 = some byteVocab ∧ (dlData u (pbN 31) 8).length ≤ 131072 ∧ 4 * (tokenise byteVocab (dlData u (pbN 31) 8)).length ≤ fld (pbN 31) 32 4)
    ∧ (let u := busy.taken (hdN 32)
       let d := dlData u (pbN 32) 8
       u.vocab? 0 = some byteVocab ∧ (detokenise byteVocab (words32 d (d.length / 4))).length ≤ fld (pbN 32) 32 4) := by decide +kernel
/-- A grammar of one state, in block 8. -/
def pbGrammar : Bytes := blk 48 ([(0, 1)] ++ dl 8 8)
theorem witness_grammar : firstFail ((grammarLoadChecks (busy.taken (hdr 0 24)) (hdr 0 24) pbGrammar).dropLast) = none ∧ busy.admits 0x0602 (hdr 0 24) pbGrammar = true
    ∧ bit (fld pbGrammar 1 1) 0 = false ∧ KMap.get? (busy.taken (hdr 0 24)).sch.grammars 1 = none ∧ (parseGrammar (dlData (busy.taken (hdr 0 24)) pbGrammar 8)).isSome = true
    ∧ granOf (dlData (busy.taken (hdr 0 24)) pbGrammar 8).length ≤ memHbmFree (busy.taken (hdr 0 24)) := by decide +kernel
theorem witness_grammar_room : ((busy.taken (hdr 0 24)).sysSub 0).sysRoom 82 = true := sys_room _ _ (by decide +kernel)
/-- The unloading of vocabularies and grammars. -/
theorem witness_text_unloads :
    (let s := busy.onSch fun c => { c with vocabs := [(1, byteVocab)], grammars := [(1, { vocabCheck := 0, vocabSize := 272, start := 0, classes := [], states := [], trans := [], len := 82 })] }
     let u := s.taken (hdr 0 24)
     s.clear 0x0601 vocabLoadChecks (hdN 27) (pbN 27) = true ∧ s.clear 0x0602 grammarLoadChecks (hdN 29) (pbN 29) = true ∧ bit (fld (pbN 27) 1 1) 0 = true
     ∧ (KMap.get? u.sch.vocabs 1).isSome = true ∧ (KMap.get? u.sch.grammars 1).isSome = true) := by decide +kernel
/-- For PartitionsAndAccounts: a buffer of 128 bytes, and one of 127. -/
theorem witness_accounts :
    (let pb := fun (fl len : Nat) => blk 48 [(0, fl), (2, 1), (8, 0x50000), (16, len)]
     (∀ fl < 4, busy.clear 0x0B04 acctReadChecks (hdr 0 24) (pb fl 128) = true) ∧ 128 ≤ fld (pb 0 128) 16 4 ∧ fld (pb 1 127) 16 4 < 128
     ∧ busy.clear 0x0B04 acctReadChecks (hdr 0 24) (pb 1 127) = true ∧ bit (fld (pb 0 128) 0 1) 1 = false ∧ bit (fld (pb 1 128) 0 1) 0 = true
     ∧ bit (fld (pb 2 128) 0 1) 1 = true ∧ (((busy.taken (hdr 0 24)).wakeCores 0).tenant? (w16At (pb 2 128) 2)).isSome = true) := by decide +kernel
/-- For TestsAndMaintenance: a piece of a package with two left, of its last, of a stack, each started. -/
theorem witness_pieces :
    (let x := fun (t left : Nat) => ({ cmd := { op := 0x0801, h := hdr 0 8, pb := [] }, calib := false, target := t, unit := 0, started := true, left := left, records := 1 } : Piece)
     let s := fun (t left : Nat) => live.onRas fun r => { r with pieces := [x t left] }
     (s 2 2).ras.pieces = x 2 2 :: [] ∧ (x 2 2).started = true ∧ (s 2 2).drained (x 2 2) = true ∧ (x 2 2).target = 2 ∧ 1 < (x 2 2).left ∧ (x 2 1).left ≤ 1
     ∧ (s 1 1).drained (x 1 1) = true ∧ (x 1 1).target ≠ 0 ∧ (x 1 1).target ≠ 2) := by decide +kernel
/-- For LeasesAndTheBuddy: every case of each OP. -/
theorem witness_leases :
    (let q := fun (l : List (Nat × Nat)) => blk 48 l
     let c := fun (s : State) (l : List (Nat × Nat)) => s.clear 0x0902 fabLeaseChecks (hdr 0 8) (q l)
     c busy [(2, 9), (4, 1)] = true ∧ fld (q [(2, 9), (4, 1)]) 0 1 = 0 ∧ busy.fab.lender 9 = none ∧ busy.fab.lender 2 = some 2 ∧ busy.fab.freeWindow = some 0
     ∧ (let f := { busy.fab with windows := (List.range 16).map fun w => (w, { lender := 2, gib := 1, draining := false }) }
        f.lender 2 = some 2 ∧ f.freeWindow = none)
     ∧ c busy [(0, 1)] = true ∧ KMap.get? busy.fab.windows 0 = none
     ∧ (let s := busy.onFab fun f => { f with windows := [(0, { lender := 2, gib := 1, draining := false })] }
        c s [(0, 1)] = true ∧ (KMap.get? s.fab.windows 0).isSome = true ∧ s.windowUsed 0 = false)
     ∧ (let s := (busy.onFab fun f => { f with windows := [(0, { lender := 2, gib := 1, draining := false })] }).onPart 0 fun x => { x with spill := [(leaseFrame 0 0, { units := 1, refs := 1, last := 0, copy := none, split := none })] }
        c s [(0, 1)] = true ∧ s.windowUsed 0 = true)
     ∧ c busy [(0, 2), (4, 1)] = true ∧ 512 * 1 ≤ memAttFree busy
     ∧ (let s := busy.attSize .offer Config.attGran
        c s [(0, 2), (4, 1)] = true ∧ memAttFree s < 512 * 1)
     ∧ c busy [(0, 3)] = true ∧ busy.fab.offered = [] ∧ busy.fab.lent = []
     ∧ (let s := busy.onFab fun f => { f with offered := [1] }
        c s [(0, 3)] = true ∧ s.fab.offered ≠ [])
     ∧ busy.clear 0x0903 fabBuddyChecks (hdr 0 8) (q [(0, 2)]) = true) := by decide +kernel
/-- A load at the front of an index whose page write 4 is not acknowledged, or is; a page write. -/
def loading (l : Load) (pend : Bool) : State :=
  (busy.onIndex 5 fun x => { x with loads := [l] }).onCel fun c => { c with pend := if pend then [{ no := 4, key := 0, data := 0, act := none, programmed := false }] else [] }
/-- For IndexesAreCreatedAndChanged: a load that waits for a page and one that does not, the final one. -/
theorem witness_loads_end :
    (let l : Load := { h := hdr 0 24, compl := { tag := 7, status := 0, detail := 0, info := 0, r0 := 0, r1 := 0, r2 := 1, r3 := 0 }, final := true, writes := [4], before := [], ids := [] }
     ((loading l true).index? 5).any (fun x => x.loads == [l]) = true ∧ (loading l true).cel.unacked l.writes = true ∧ (loading l false).cel.unacked l.writes = false ∧ l.final = true) := by
  decide +kernel
/-- For ReportsFillTheirBuffer: a passage whose reads are under way, one on a page that cannot be read, one whose pages read, its text fitting its buffer or not. -/
theorem witness_gets :
    (let a : Get := { no := 1, h := hdr 0 32, pb := pbN 21, version := 1, text := [0x68], pages := [pageKey 3 0] }
     (busy.onDie 0 fun d => { d with queue := [{ kind := .get 1, page := 0, block := 0, place := 0 }] }).cel.busy (.get a.no) = true ∧ busy.cel.busy (.get a.no) = false
     ∧ (a.pages.all busy.cel.readable = true) ∧ (a.pages.find? fun k => !(lostRow busy).cel.readable k) = some (pageKey 3 0) ∧ (lostRow busy).cel.busy (.get a.no) = false) := by decide +kernel
/-- For FirmwareAndTheBlackBox: a staged image that passes, one below the fused SVN, one refused by its form. (An image that a key of the root signed cannot be shown.) -/
theorem witness_firmware :
    busy.clear 0x0A02 fwCommitChecks (hdr 0 0) (pbN 49) = true ∧ (busy.taken (hdr 0 0)).bootWritable = true ∧ busy.boot.recovery = false
    ∧ (match busy.boot.staged with | some x => x.passes busy.boot.svnFused | none => false) = true
    ∧ (match busy.boot.staged with | some x => x.passes 1 | none => true) = false
    ∧ busy.clear 0x0A01 fwStageChecks (hdr 0 16) (pbN 48) = true ∧ (match fwVerify 0 (dlBytes (busy.taken (hdr 0 16)) (pbN 48) 0) with | .inl f => f == (stParam, 0xFFF2) | .inr _ => false) = true
    ∧ 64 * (busy.bbx.from_ (fld (pbN 51) 0 8) (fld (pbN 51) 8 4) (fld (pbN 51) 12 1 == 1)).length ≤ fld (pbN 51) 24 4 := by decide +kernel
theorem test_commit_keeps_the_svn : (after (.fwCommit (hdr 0 0) (pbN 49)) { busy with boot := { busy.boot with staged := some { FwImage.factory with version := 2, svn := 3 } } }).map
    (fun t => (t.boot.svnFused, t.boot.staged, t.boot.bootImg.map fun x => x.version)) = some (3, none, some 2) := by decide +kernel

/-! ## Launches and cores -/

/-- An instruction word of a class and operation with (lowest bit, value) fields. -/
def wd (cls op : Nat) (l : List (Nat × Nat)) : Insn := BitVec.ofNat 128 (cls * 2 ^ 124 + op * 2 ^ 120 + l.foldl (fun v x => v + x.2 * 2 ^ x.1) 0)
/-- A step with one launch of the request of slot 0 on partition 0, started or not. -/
def stepping (started : Bool) : State :=
  busy.onPart 0 fun x => { x with
    land := [{ model := 11, layer := 0, landed := true, retried := false }]
    run := some { number := 1, items := [{ kind := .prefill, slot := 0, seqs := 1, tokens := 1, pos := 0 }],
                  launches := [{ kind := 5, model := 11, layer := 0, slots := [0], started := started }], outs := [], est := 0, cycles := 0, packet := none, empty := false } }
/-- Core 0 in a launch, at an instruction; segment 0 is the first MiB of its SRAM, and word 4, the core count, is 1. -/
def atInsn (w : Insn) (f : Core → Core) : State :=
  (stepping true).onCore 0 fun k => f { k with busy := true, prog := [w], slots := [0], segs := setAt k.segs 0 { Seg.none with space := 0, stop := 0x100000 }, words := setAt k.words 4 1 }
/-- The word of the tests for each row of the core instructions, in the order of `coreRows`: fields that every check allows. -/
def words : List Insn :=
  [wd 1 0 [(28, 0), (48, 16)], wd 1 1 [(48, 4096)], wd 1 2 [], wd 2 0 [(116, 1), (112, 9)], wd 3 0 [(68, 16)], wd 3 1 [(112, 0x10), (68, 16)], wd 3 2 [(112, 0x10), (68, 64)],
   wd 3 3 [(112, 0x10), (68, 16)]] ++ (List.range 8).map (fun o => wd 4 o [(54, 16)]) ++ [wd 5 0 [(61, 16)], wd 5 1 [(61, 16)], wd 6 0 [(94, 1)], wd 6 1 [(94, 0)], wd 6 2 [(62, 1)], wd 6 3 []]
   ++ (List.range 11).map (fun o => wd 7 o [(64, 1), (32, 1)]) ++ [wd 8 0 [(24, 5)]]
/-- Every row of the core instructions is the instruction at the program counter of a running core of partition 0: the hypotheses of the core's statements. -/
theorem witness_every_core_row_issues :
    ((coreRows.zip words).all fun x => (atInsn x.2 id).issues 0 x.1.cls x.1.op x.2 && (atInsn x.2 id).partOf 0 == some 0 && (atInsn x.2 id).calm) = true
    ∧ (atInsn (wd 7 0 []) id).issues 0 7 1 (wd 7 1 []) = false := by decide +kernel
/-- An instruction that is done, one that jumps, one that is held, and one that is a program fault (its SRAM range passes 12 MiB). -/
theorem witness_core_steps :
    ((atInsn (wd 7 0 []) id).core 0).lat = false ∧ (match (atInsn (wd 7 0 []) id).performSeen 0 0 (wd 7 0 []) with | .done _ => true | _ => false) = true
    ∧ (match (atInsn (wd 7 8 []) id).performSeen 0 0 (wd 7 8 []) with | .jump _ _ => true | _ => false) = true
    ∧ (match (atInsn (wd 6 1 [(94, 1)]) id).performSeen 0 0 (wd 6 1 [(94, 1)]) with | .hold _ => true | _ => false) = true
    ∧ (match (atInsn (wd 4 0 [(54, 0x3FFFF)]) id).performSeen 0 0 (wd 4 0 [(54, 0x3FFFF)]) with | .fault => true | _ => false) = true := by
  refine ⟨?_, ?_, ?_, ?_, ?_⟩ <;> decide +kernel
/-- For ControlInstructions: LOOP and LOOPR of no runs and of some, a branch that is taken and one that is not, END with and without writes in flight, and the loop stack. -/
theorem witness_control :
    Wd.at_ (wd 7 6 []) 95 64 = 0 ∧ Wd.at_ (wd 7 6 [(64, 1)]) 95 64 ≠ 0 ∧ ((atInsn (wd 7 7 []) id).core 0).scalar (Wd.at_ (wd 7 7 []) 115 112) = 0
    ∧ ((atInsn (wd 7 7 []) fun k => { k with sc := setAt k.sc 0 1 }).core 0).scalar 0 ≠ 0 ∧ condHolds 0 0 0 = true ∧ condHolds 2 0 0 = false
    ∧ ((atInsn (wd 7 10 []) id).core 0).drained = true
    ∧ ((atInsn (wd 7 10 []) fun k => { k with xfers := [{ runs := [], reads := [], sem := none, sel := false, waits := none }] }).core 0).drained = false
    ∧ ({ Core.reset with loops := [(1, 3, 2)] } : Core).loops = (1, 3, 0 + 2) :: [] ∧ ({ Core.reset with loops := [(1, 3, 1)] } : Core).loops = (1, 3, 1) :: [] ∧ (2 : Nat) ≠ 3 + 1
    ∧ Core.reset.loops = [] := by decide +kernel
/-- Table 4.11: ADDI adds modulo 2^32, and the next instruction follows. -/
theorem test_addi_wraps : (after (.addi 0 (wd 7 3 [(116, 2), (112, 1), (64, 2)])) (atInsn (wd 7 3 [(116, 2), (112, 1), (64, 2)]) fun k => { k with sc := setAt k.sc 1 0xFFFFFFFF })).map
    (fun t => ((t.core 0).sc[2]?, (t.core 0).pc)) = some (some 1, 1) := by decide +kernel
/-- For SynchronisingInstructions: COUNT just held and one more, a barrier alone, with a member to come, with itself left out and with an arrival of another GROUP, a signal at the semaphore's top. -/
theorem witness_sync :
    (let k := fun (v : W16) => ((atInsn (wd 6 1 [(94, 5)]) fun k => { k with sems := setAt k.sems 0 v }).core 0)
     (BitVec.ofNat 16 (Wd.at_ (wd 6 1 [(94, 5)]) 109 94)).toNat = 5 ∧ (((k 5).sems[0]?).getD 0).toNat = 5 ∧ (((k 4).sems[0]?).getD 0).toNat < 5)
    ∧ (BitVec.ofNat 32 (Wd.at_ (wd 6 2 [(62, 1)]) 93 62)).getLsbD ((atInsn (wd 6 2 [(62, 1)]) id).position 0 0) = true
    ∧ (BitVec.ofNat 32 (Wd.at_ (wd 6 2 [(62, 2)]) 93 62)).getLsbD ((atInsn (wd 6 2 [(62, 2)]) id).position 0 0) = false
    ∧ (let s := fun (w : Insn) (g : W32) => ((atInsn w id).onPart 0 fun x => { x with cores := [0, 1] }).onCore 1 fun k => { k with barrier := if g = 0 then none else some (0, g) }
       let w := fun (g : Nat) => wd 6 2 [(62, g)]
       (List.range 32).filter (fun i => (BitVec.ofNat 32 3).getLsbD i) = [0, 1] ∧ (s (w 3) 3).position 0 0 = 0
       ∧ (s (w 3) 3).barrierClash 0 0 (w 3) = false ∧ (s (w 3) 3).arrival 0 1 = some (0, 3) ∧ (s (w 3) 0).barrierClash 0 0 (w 3) = false ∧ (s (w 3) 0).arrival 0 1 = none
       ∧ (s (w 1) 3).barrierClash 0 0 (w 1) = true ∧ (s (w 1) 2).barrierClash 0 0 (w 1) = false)
    ∧ (let g : Sig := { target := 0, sem := 0, count := 1, xfers := 0, units := 0, passes := 0 }
       let s := fun (v : W16) => atInsn (wd 7 0 []) fun k => { k with sigs := [g], sems := setAt k.sems 0 v }
       let t := fun (v : W16) => (s v).onCore 0 fun k => { k with sigs := [] }
       ((s 0xFFFE).core 0).sigs = g :: [] ∧ g.xfers = 0 ∧ g.units = 0 ∧ g.passes = 0 ∧ ((t 0xFFFE).core 0).held_ 0 = true ∧ (t 0xFFFE).peerCore 0 0 = some 0
         ∧ ((((t 0xFFFE).core 0).sems[0]?).getD 0).toNat + 1 ≤ 65535 ∧ 65535 < ((((t 0xFFFF).core 0).sems[0]?).getD 0).toNat + 1)
    ∧ ({ target := 0, sem := 0, count := 1, xfers := 0, units := 0, passes := 1 } : Sig).passes ≠ 0 := by decide +kernel
/-- An instruction with segment 1 in a space, bound to tenant 1, and `n` transfers in flight whose one run is at an address. -/
def moving (w : Insn) (space n a : Nat) : State :=
  atInsn w fun k => { k with segs := setAt k.segs 1 { Seg.none with space := space, src := 1, stop := 0x100000 },
                             xfers := List.replicate n { runs := [(a, [1])], reads := [], sem := none, sel := false, waits := none } }
/-- Where an XFER of core 0 writes, and the first of its places that is no memory. -/
def movesTo (s : State) (w : Insn) : Option (List Nat) := s.segSpan 0 0 (xferDst (s.core 0) w) (xferTo (s.core 0) w) (xferLen w)
def nowhere (s : State) (w : Insn) : Option Nat := (s.xferPlaces 0 0 w ++ (movesTo s w).getD []).find? fun a => !populated s.leaseSize a
/-- It can issue with its places, its data (a frame that fails, or not) and its regulator. -/
def movable (w : Insn) (res : Option Nat) (bad : Bool) : Bool :=
  let s := moving w 2 0 0
  (movesTo s w).isSome && !s.xferHeld 0 0 w && (nowhere s w).isNone && xferRes (s.core 0) w == res && (match s.xferData 0 0 w with | some d => d.bad.isSome == bad | none => false)
def copy (l : List (Nat × Nat)) : Insn := wd 1 0 ((48, 16) :: l)
/-- For MovesAndPasses: copies within SRAM and from the landing; frames that fail in both; a destination and a source past their segments; 16 transfers in flight; an address of no page. -/
theorem witness_moves : movable (copy []) none false = true ∧ movable (copy [(116, 1)]) (some 0) false = true ∧ movable (wd 1 1 [(48, 4096)]) none true = true
    ∧ movable (wd 1 1 [(116, 1), (48, 4096)]) (some 0) true = true := by
  refine ⟨?_, ?_, ?_, ?_⟩ <;> decide +kernel
theorem witness_moves_stopped :
    movesTo (moving (copy [(62, 1)]) 2 0 0) (copy [(62, 1)]) = none ∧ (moving (copy []) 2 16 0).xferHeld 0 0 (copy []) = true
    ∧ ((moving (copy [(94, 1)]) 2 0 0).xferData 0 0 (copy [(94, 1)])).isNone = true ∧ ((moving (copy [(116, 1)]) 5 0 0).xferData 0 0 (copy [(116, 1)])).isSome = true
    ∧ nowhere (moving (copy [(116, 1)]) 5 0 0) (copy [(116, 1)]) = some noAddr ∧ (∀ g ∈ ((moving 0 2 0 0).part 0).regs, g.en = false) ∧ ((moving 0 2 0 0).part 0).regs.length = 4 := by
  refine ⟨?_, ?_, ?_, ?_, ?_, ?_, ?_⟩ <;> decide +kernel
/-- A frame in stored form of one byte 0, whose CHECK is that of RFC 3720 for it, and one of zeros, which fails its check. -/
theorem witness_frames : (match frameDecode (blk 4096 [(4, 1), (8, 0x527d5351)]) with | some b => b == [0] && frameCheck (blk 4096 [(4, 1), (8, 0x527d5351)]) b | none => false) = true
    ∧ frameDecode (blk 4096 []) = none := by decide +kernel
/-- For MovesAndPasses: a tile group of engine 0 alone, one still being written, its activations still being written, one that is not legal, and both sides of the ramp limit. -/
theorem witness_passes :
    (let w := wd 2 0 [(116, 1), (112, 9), (79, 512)]
     let s := fun (n a : Nat) => (moving w 2 n a).onMem fun m => { m with bytes := Mem.writeN m.bytes (coreBase 0) (blk 16 [(0, 65536), (8, 9)]) }
     (let u := s 0 0
      (u.core 0).waitsFor 0 [(mmaGroup w, 128)] = false ∧ u.mmaOk 0 w = true ∧ (u.core 0).hazard ((u.mmaReads 0 w).map (absRange 0)) [] = false ∧ u.mmaIdle 0 w = true ∧ u.pwr.rampWindow < 8
        ∧ (u.onCore 0 fun k => { k with activity := [8, 8, 8, 8] }).mmaIdle 0 w = false ∧ 8 ≤ (u.onPwr fun x => { x with rampWindow := 8 }).pwr.rampWindow
        ∧ ((u.mmaActs 0 w)[0]?).isSome = true ∧ ((u.mmaCols 0 w (slotOf [] 0))[127]?).isSome = true)
     ∧ sramOk (mmaGroup w, 128) = true ∧ ((s 1 (coreBase 0)).core 0).waitsFor 0 [(mmaGroup w, 128)] = true
     ∧ ((s 1 (coreBase 0 + 32768)).core 0).waitsFor 0 [(mmaGroup w, 128)] = false ∧ (s 1 (coreBase 0 + 32768)).mmaOk 0 w = true
     ∧ ((s 1 (coreBase 0 + 32768)).core 0).hazard (((s 1 (coreBase 0 + 32768)).mmaReads 0 w).map (absRange 0)) [] = true)
    ∧ (atInsn (wd 2 0 [(112, 9)]) id).mmaOk 0 (wd 2 0 [(112, 9)]) = false ∧ ((atInsn (wd 2 0 [(112, 9)]) id).core 0).waitsFor 0 [(0, 128)] = false := by decide +kernel
/-- For VectorAndSelectInstructions, on the words of `words`; and a tile past the end of SRAM. -/
theorem witness_vectors :
    (∀ i ∈ [8, 9, 10, 11, 12, 13, 14, 15], let w := words[i]?.getD 0
      ((vecD w).range :: vecReads w).all sramOk = true ∧ ((atInsn w id).core 0).hazard ((vecReads w).map (absRange 0)) [absRange 0 (vecD w).range] = false)
    ∧ vecB (words[15]?.getD 0) ≠ 2 ∧ vecB (wd 4 7 [(28, 2)]) = 2
    ∧ ((atInsn (wd 4 4 []) id).tileRow 0 (vecA (wd 4 4 [])) 0)[0]? = some 0 ∧ ((atInsn (wd 4 4 []) id).tileRow 0 (vecBTile (wd 4 4 [])) 0)[0]? = some 0
    ∧ ((vecD (wd 4 0 [(54, 0x3FFFF)])).range :: vecReads (wd 4 0 [(54, 0x3FFFF)])).all sramOk = false
    ∧ (∀ i ∈ [4, 5, 6, 7], let w := words[i]?.getD 0
      ((atInsn w id).core 0).waitsFor 0 [(sfuPar w, 16)] = false ∧ (atInsn w id).sfuOk 0 w = true ∧ (atInsn w id).sfuHeld 0 w = false)
    ∧ sfuCols (words[7]?.getD 0) ≤ 4096
    ∧ (∀ i ∈ [16, 17], let w := words[i]?.getD 0
      (atInsn w id).selWaits 0 w = false ∧ (atInsn w id).selOk 0 w = true ∧ (atInsn w id).selHeld 0 w = false)
    ∧ (atInsn (words[17]?.getD 0) id).selList 0 (selSrc (words[17]?.getD 0)) = (true, []) := by decide +kernel
/-- For CoresCompleteAndArePreempted: writes and passes in flight, a sequencer that stalls, a semaphore at its top, engines with and without passes, a core at its MARK, and one that has come to none. -/
theorem witness_core_ends :
    (let x : Write := { runs := [(0, [1])], reads := [], sem := some 3, sel := false, waits := none }
     let k := ((atInsn (wd 7 0 []) fun k => { k with xfers := [x], unitOps := [{ x with sem := none }], passes := [{ engine := 0, base := 0, rows := [], reads := [] }] }).core 0)
     k.xfers = x :: [] ∧ x.waits = none ∧ x.sem = some 3 ∧ ((k.sems[3]?).getD 0) ≠ 0xFFFF ∧ ((({ k with sems := setAt k.sems 3 0xFFFF } : Core).sems[3]?).getD 0) = 0xFFFF
       ∧ (k.passes.find? fun x => x.engine == 0).isSome = true ∧ indexOf (fun x : Pass => x.engine == 0) k.passes = some 0 ∧ k.unitOps ≠ [] ∧ k.stalls = false
       ∧ k.passes.any (fun x => k.arrayOf x.engine == 0) = true ∧ k.passes.any (fun x => k.arrayOf x.engine == 1) = false ∧ k.stretched = false)
    ∧ ((atInsn (wd 6 1 [(94, 1)]) fun k => { k with held := some (wd 6 1 [(94, 1)]) }).core 0).stalls = true
    ∧ (atInsn (wd 7 0 []) id).dom (coreDom 0) = .on
    ∧ (let k := ((atInsn (wd 8 0 []) fun k => { k with preempt := true, atMark := some (0, 0, 5) }).core 0)
       k.saveMasks = some (0, 0, 5) ∧ k.preempt = true ∧ k.drained = true ∧ k.atMark = some (0, 0, 5))
    ∧ (let k := ((atInsn (wd 7 0 []) fun k => { k with preempt := true }).core 0)
       k.preempt = true ∧ k.busy = true ∧ k.atMark = none ∧ k.ended = false ∧ k.held = none) := by decide +kernel
/-- For LaunchesRunAndEnd: a launch ready to start, one whose layer is still out, one held, one without a program, one that no live request is left in, and one whose cores have ended. -/
theorem witness_launches :
    (let s := stepping false
     let l : Launch := { kind := 5, model := 11, layer := 0, slots := [0], started := false }
     (match (s.part 0).run with
      | some r => r.launches == [l] && s.liveSlots r l == [0] && (s.onReq 0 fun x => { x with closed := true, fin := some (stCancelled, 0) }).liveSlots r { l with kind := 1 } == []
      | none => false) = true
       ∧ s.holdsLaunches = false ∧ s.launchMay 0 l = true ∧ (s.onPart 0 fun x => { x with land := [], w := 2 }).launchMay 0 l = false ∧ (s.launchProg 0 l).isSome = true
       ∧ ((s.part 0).cores.take 1).all s.coreReady = true ∧ (s.onPwr fun w => { w with pwrHold := true }).holdsLaunches = true ∧ s.launchOver 0 = false
       ∧ s.launchProg 0 { l with kind := 9 } = none ∧ s.launchMay 0 { l with kind := 9 } = true)
    ∧ ItemKind.pairs = .pairs ∧ (stepping true).launchOver 0 = true := by decide +kernel
theorem test_launch_starts_at_zero : (after (.launchStart 0) (stepping false)).map (fun t => ((t.core 0).busy, (t.core 0).pc, (t.core 0).prog.length)) = some (true, 0, 1) := by decide +kernel
/-- For LandingPagerAndRegulators: a layer on its way, fetched the first time or again; a transfer of the pager outside a step, in a running one and in an empty one; a mask whose
forming has not begun, one begun by an emitted token and one begun by the last prefill. -/
theorem witness_landing :
    (∀ b : Bool, let l : LandSlot := { model := 11, layer := 0, landed := false, retried := b }
     let s := busy.onPart 0 fun x => { x with land := [l] }
     (s.part 0).land[0]? = some l ∧ l.landed = false ∧ (s.part 0).waitsFor (.layer l.model l.layer) = false)
    ∧ (let s := busy.onPart 0 fun x => { x with pagerOps := [{ fetch := true, toAttic := false, slot := 0, cls := 1, orphan := [] }] }
       (s.part 0).pagerOps ≠ [] ∧ (s.part 0).waitsFor .pager = false ∧ ((s.pagerDone 0).part 0).run = none)
    ∧ (∀ b : Bool, let s := (stepping false).onPart 0 fun x => { x with pagerOps := [{ fetch := true, toAttic := false, slot := 0, cls := 1, orphan := [] }], run := x.run.map fun r => { r with empty := b, launches := [] } }
       (match ((s.pagerDone 0).part 0).run with | some r => r.empty == b | none => false) = true)
    ∧ (let s := fun (l : List W32) => busy.onReq 0 fun r => { r with grammar := some 1, emitted := l }
       (match (s []).req? 0 with | some r => r.running && r.grammar.isSome && !(s []).maskBegun r 0 | none => false) = true
       ∧ (match (s [0x61]).req? 0 with | some r => r.running && r.grammar.isSome && (s [0x61]).maskBegun r 0 | none => false) = true) := by decide +kernel
/-- A waiting transfer of core 0 or another at a regulator full at depth `d`, with another partition's transfer waiting or none. -/
def regulated (en b : Bool) (d : W16) (other : Bool) (key : TransferKey) : State :=
  (((atInsn (wd 7 0 []) fun k => { k with xfers := [{ runs := [], reads := [], sem := none, sel := false, waits := some 0 }] }).onReq 0 fun r => { r with stage := 6 }).onPart 0 fun x =>
    { x with transfers := [(0, { units := 1, key := key })], pagerOps := [{ fetch := true, toAttic := false, slot := 0, cls := 1, orphan := [] }]
             regs := setAt x.regs 0 { Regulator.reset with en := en, borrow := b, depth := d, tokens := d.toNat } }).onPart 1 fun x =>
    { x with transfers := if other then [(0, { units := 1, key := .pager })] else [] }
def waitsAt (en b : Bool) (d : W16) (other : Bool) (key : TransferKey) : Bool :=
  let s := regulated en b d other key
  let v := s.onPart 0 fun x => { x with transfers := x.transfers.filter fun t => t.1 ≠ resourceNo .hbm || !s.transferGone 0 (resourceNo .hbm) t.2 }
  let w := v.refill 0 (resourceNo .hbm)
  ((v.part 0).transfers.find? fun t => t.1 == resourceNo .hbm) == some (0, { units := 1, key := key })
    && (match (v.part 0).regs[resourceNo .hbm]? with | some r => r.en == en && r.borrow == b && r.tokens == d.toNat && r.depth == d | none => false)
    && ((w.sch.parts.any fun x => x.1 ≠ 0 && x.2.transfers.any fun t => t.1 == resourceNo .hbm) == other)
/-- A transfer that waits of each kind that goes on, off its regulator, within its tokens, and above them with and without BORROW, the resource waited on or not. -/
theorem witness_regulator : (∀ k ∈ [TransferKey.xfer 0, .fetch 0, .pager], waitsAt false true 0 false k = true) ∧ (∀ k ∈ [TransferKey.xfer 0, .fetch 0, .pager], waitsAt true true 4 false k = true)
    ∧ waitsAt true false 0 false (.xfer 0) = true ∧ waitsAt true true 0 true (.xfer 0) = true ∧ waitsAt true true 0 false (.xfer 0) = true := by
  refine ⟨?_, ?_, ?_, ?_, ?_⟩ <;> decide +kernel
/-- A full bucket's level is its depth whatever the refill: 4 is not below the one unit asked, 0 is. -/
theorem witness_regulator_level :
    (∀ n : Nat, (0 : Int) + ((n % (((((0 : W32).toNat : Int) - 0).toNat) + 1) : Nat) : Int) < (1 : Nat)) ∧ ∀ n : Nat, ((1 : Nat) : Int) ≤ (4 : Int) + ((n % (((((4 : W32).toNat : Int) - 4).toNat) + 1) : Nat) : Int) := by
  refine ⟨fun n => ?_, fun n => ?_⟩ <;> simp [Nat.mod_one]
/-- R133: no interference reads 1,024; half of the stall cycles 2,048; all of them are held over 1. -/
theorem test_slowdown : slowdown 0 0 = 1024 ∧ slowdown 2048 1024 = 2048 ∧ slowdown 5 5 = 5120 := by decide

/-! ## Retrieval, tables, the cellar -/

/-- A search of index 5 under way for slot 0, waiting for controller 2 and holding controller 3, one page to come. -/
def job : Job :=
  { adm := 4, slot := some 0, remote := none, index := 5, snap := 1, query := [0x3F800000, 0], k := 1, d := 8, p := 1, w := 0, filter := [], round := 1, plan := [], queued := [2],
    holds := [3], reads := [(3, 0)], lists := [], earlier := [], overrun := false, unreadable := false, failed := [], hot := 0x10400, part := 0, tenant := 1, own := none, members := [], others := [], rounds := 1,
    cancelled := false }
def searching : State := busy.onRet fun r => { r with jobs := [job] }
/-- A request of stage 6 with one passage of index 5, whose home page is on controller 3. -/
def fetching (version : W64) : State :=
  (busy.onReq 0 fun r => { r with stage := 6, index := 5, passages := [passageOf { id := 9, version := version, tag := 0, score := 0, member := 0 }] }).onIndex 5 fun x =>
    { x with pages := [(x.homePage 9, [pageKey 3 0])] }
/-- For RetrievalGoesOn: contexts of a controller all in use and free, a search of this module and one for another; its page to come, given up for lost, waited for and done. -/
theorem witness_scans :
    64 ≤ ((searching.onRet fun r => { r with ctx := List.replicate 8 64 }).ret.ctx[2]?).getD 0 ∧ (searching.ret.ctx[2]?).getD 0 < 64
    ∧ sortBy (fun a b : Job => decide (a.adm.toNat < b.adm.toNat)) (searching.ret.jobs.filter fun j => j.queued.contains 2) = job :: [] ∧ job.remote = none
    ∧ (∀ m : MsgHdr, ({ job with remote := some m } : Job).remote.isSome = true)
    ∧ searching.job? 4 = some job ∧ job.holds.contains 3 = true ∧ job.reads.contains (3, 0) = true ∧ job.reads.contains (3, 1) = false ∧ (searching.part 0).waitsFor (.scan 4 3) = false
    ∧ searching.cel.reading (pageKey 3 0) (.scan 4) = false ∧ searching.cel.pageReadable 3 0 = true ∧ (lostRow searching).cel.pageReadable 3 0 = false := by
  refine ⟨by decide +kernel, by decide +kernel, by decide +kernel, rfl, fun _ => rfl, ?_, ?_, ?_, ?_, ?_, ?_, ?_, ?_⟩ <;> decide +kernel
/-- For RetrievalGoesOn: a passage whose version the store has, one it has not, and one on a page that cannot be read. -/
theorem witness_passages :
    (let on := fun (s : State) (v : W64) (bad : Bool) => match s.req? 0, s.index? 5 with
       | some r, some ix => r.running && r.stage == 6 && r.index == 5 && (s.nextFetch 0 r).isSome && (ix.exact 9 v).isSome == (v == 1)
           && ((ix.fetchPages 9 v).find? fun k => !s.cel.readable k).isSome == bad
       | _, _ => false
     on (fetching 1) 1 false = true ∧ on (fetching 7) 7 false = true ∧ on (lostRow (fetching 1)) 1 true = true) := by decide +kernel
/-- For RetrievalGoesOn: a mutation with no room, one that waits for its pages, one that can be published, its command's last entry or not, an index with none. -/
theorem witness_publishes :
    (let pub := fun (s : State) (m : Mutation) (u : State → Mutation → Bool) => match s.index? 5 with
       | some x => !x.unloaded && x.waiting == [m] && (let t := s.placeText 5 m
           match t.index? 5 with | some y => (match y.waiting with | n :: _ => u t n | [] => false) | none => false)
       | none => false
     let at_ := fun (m : Mutation) => busy.onIndex 5 fun x => { x with waiting := [m] }
     let ins : Mutation := { delOf 2 10 with insert := true, placed := false, vec := [0x3F800000, 0], text := [0x61] }
     pub (at_ (delOf 2 9)) (delOf 2 9) (fun t n => n.placed && !t.cel.unacked n.writes && n.last.isNone) = true
     ∧ pub (at_ ins) ins (fun t n => n.placed && t.cel.unacked n.writes) = true
     ∧ pub (at_ { delOf 2 9 with last := some (hdr 0 8, { tag := 7, status := 0, detail := 0, info := 0, r0 := 0, r1 := 0, r2 := 0, r3 := 0 }) })
         { delOf 2 9 with last := some (hdr 0 8, { tag := 7, status := 0, detail := 0, info := 0, r0 := 0, r1 := 0, r2 := 0, r3 := 0 }) } (fun t n => n.placed && !t.cel.unacked n.writes && n.last.isSome) = true)
    ∧ (match busy.index? 5 with | some x => x.waiting.isEmpty | none => false) = true := by decide +kernel
/-- The next message of a stream from module 2, and its reply to message 0 of ours, ended well or with ERROR. -/
def msg (ctx : W64) : MsgHdr := { src := 2, msgId := 0, flags := 0, context := ctx }
def rep (ctx : W64) (err : Bool) : MsgHdr := { src := 2, msgId := 0, flags := if err then 5 else 1, context := ctx }
/-- For RetrievalGoesOn: searches of this member that are turned away (a query of another dimension, no index) and taken, with its number; a reply that is awaited, and one that is not. -/
theorem witness_members :
    busy.inTurn (msg 5) 5 = true ∧ ((busy.took (msg 5) 5).index? 5).any (fun x => decide (([] : List W32).length ≠ x.dim)) = true ∧ (busy.took (msg 7) 5).index? 7 = none
    ∧ ((busy.took (msg 5) 5).index? 5).any (fun x => !x.loading && !x.unloaded && [(0x3F800000 : W32), 0].length == x.dim) = true ∧ (busy.took (msg 5) 5).ret.memberHolds.length < 65536
    ∧ (let s := (busy.send 2 5 (.shardSearch 4 5 [] 1 0 0 [])).onRet fun r => { r with jobs := [{ job with members := [2] }] }
       s.departed = false ∧ (match s.sent? (rep 5 false) 5 with
         | some o => o.body == .shardSearch 4 5 [] 1 0 0 [] && ((s.dropOut o).job? 4).any (fun j => j.members.contains 2)
         | none => false) = true)
    ∧ busy.sent? (rep 5 false) 5 = none := by
  refine ⟨?_, ?_, ?_, ?_, ?_, ?_, ?_⟩ <;> decide +kernel
/-- For RetrievalGoesOn: text fetches of a version the store has, on pages that read and not, and of one it has not; an answer that a passage waits for. -/
theorem witness_texts :
    (msg 5).isReply = false ∧ (rep 5 true).isReply = true
    ∧ (let has := fun (s : State) (v : W64) => match s.index? 5 with | some x => (((x.exact 9 v).isSome, ((x.fetchPages 9 v).find? fun k => !s.cel.readable k).isSome) : Bool × Bool) | none => (false, false)
       has (fetching 1) 1 = (true, false) ∧ has (lostRow (fetching 1)) 1 = (true, true) ∧ has (fetching 1) 7 = (false, false))
    ∧ (let s := (busy.onReq 0 fun r => { r with stage := 6, index := 5, passages := [passageOf { id := 9, version := 1, tag := 0, score := 0, member := 2 }] }).send 2 5 (.textFetch 5 9 1)
       let hit := fun (p : Passage) => !p.fetched && !p.dropped && p.cand.member == 2 && p.cand.id == 9 && p.cand.version == 1
       (match s.sent? (rep 5 false) 5 with
        | some o => (match (s.dropOut o).sch.slots.find? (fun x => x.2.running && x.2.stage == 6 && x.2.passages.any hit) with | some (n, r) => n == 0 && (indexOf hit r.passages).isSome | none => false)
        | none => false) = true) := by decide +kernel
/-- An activity of bucket 1 of index 5, its claims taken, its reads to come. -/
def act (k : ActKind) : Activity :=
  { aid := 1, kind := k, die := 0, source := none, dests := [], index := 5, bucket := 1, urgent := false, age := 0, claimed := true, mergePoint := 1, copies := [], phase := 1, ctrl := 0, ext := none,
    took := [], full := false, bad := [] }
def acting (a : Activity) : State := busy.onCel fun c => { c with acts := [a] }
/-- Merges whose reads are done, of a bucket with records and of one with none; one that is written and none; an old generation that a snapshot reads, and one that goes. -/
theorem witness_merges :
    (∀ b ∈ [0, 1], let a := { act .merge with bucket := b }
     let s := acting a
     s.cel.act? 1 = some a ∧ s.cel.opsOf 1 = 0 ∧ s.cel.mayOccupy 1 (s.cel.needs a []) = true ∧ (match s.index? 5 with
       | some x => (x.bucket b).ext.isNone && ((x.fold b [] 1).1.isEmpty == (b == 0)) && decide (s.cel.newRun 0 b (extentPages x.dim (x.fold b [] 1).1.length) + 9 ≤ Config.dataPages s.ident.variant)
       | none => false) = true)
    ∧ (let s := acting { act .merge with phase := 2 }
       (s.cel.acts.find? fun a => a.kind == .merge && a.index == 5 && a.bucket == 1 && s.written a) = some { act .merge with phase := 2 } ∧ s.index? 5 = some index)
    ∧ (busy.cel.acts.find? fun a => a.kind == .merge && a.index == 5 && a.bucket == 1 && busy.written a) = none
    ∧ (let s := busy.onIndex 5 fun x => { x with dir := [(1, { Bucket.empty with gen := 2, old := some (none, 1, 1, none), mergePoint := 1 })] }
       (match s.index? 5 with | some x => (x.bucket 1).old == some (none, 1, 1, none) | none => false) = true ∧ (∀ n ∈ s.snapshots 5, (1#64).toNat ≤ n)
         ∧ (s.ret.jobs.any fun j => j.index == 5 && j.own.isNone && j.plan.any fun p => p.bucket == 1 && p.gen == 1) = false)
    ∧ ((searching.onRet fun r => { r with jobs := [{ job with snap := 0 }] }).snapshots 5).any (fun n => decide (n < (1#64).toNat)) = true := by
  refine ⟨?_, ?_, ?_, ?_, ?_⟩ <;> decide +kernel
/-- Replication on or off, bucket 1 with a replica or without, 64 replicas in each of `n` more indexes; a replica of bucket 1 is written. -/
def replicating (on : Bool) (hot : Bool) (n : Nat) : State :=
  let e : Extent := { ctrl := 1, page := 0, count := 1 }
  ((acting { act .replica with phase := 2, ext := some e }).onRet fun r => { r with
      hotCfg := if on then 0x10400 else 0x400
      indexes := r.indexes ++ (List.range n).map fun i => (100 + i, { index with dir := (List.range 64).map fun b => (b, { Bucket.empty with hot := some e }) }) }).onIndex 5 fun x =>
    { x with dir := if hot then [(1, { Bucket.empty with hot := some e })] else [] }
def replicated (on hot : Bool) (n : Nat) : Bool :=
  let s := replicating on hot n
  (s.cel.acts.find? fun a => a.kind == .replica && a.index == 5 && a.bucket == 1 && s.written a).any (fun a => a.ext.isSome) && bit s.ret.hotCfg.toNat 16 == on
    && (s.index? 5).any (fun x => (x.bucket 1).hot.isSome == hot)
theorem fold_isSome {α β : Type} (f : Option β → α → Option β) (h : ∀ o a, (f o a).isSome = true) : ∀ (l : List α) (o : Option β), (o.isSome = true ∨ l ≠ []) → (l.foldl f o).isSome = true
  | [], _, ho => ho.resolve_right (fun h => h rfl)
  | _ :: l, _, _ => fold_isSome f h l _ (.inl (h _ _))
/-- Where any bucket has a replica, one is the coolest. -/
theorem coolest_isSome (s : State) (h : (s.ret.indexes.flatMap fun x => (x.2.dir.filter fun b => b.2.hot.isSome).map fun b => (x.2.heatOf b.1, x.1, b.1)) ≠ []) : s.coolest.isSome = true := by
  rw [State.coolest, Option.isSome_map]
  refine fold_isSome _ (fun o a => ?_) _ _ (.inr h)
  cases o <;> simp only [] <;> (try split) <;> rfl
/-- A replica that is written: with replication off, with one there already, with room, and with 4,096 of them. -/
theorem witness_replicas : replicated false false 0 = true ∧ replicated true true 0 = true
    ∧ (replicated true false 0 = true ∧ ((replicating true false 0).onCel fun c => c.dropAct 1).replicas < 4096)
    ∧ (replicated true false 64 = true ∧ 4096 ≤ ((replicating true false 64).onCel fun c => c.dropAct 1).replicas
      ∧ (((replicating true false 64).onCel fun c => c.dropAct 1).coolest).isSome = true) := by
  refine ⟨by decide +kernel, by decide +kernel, ⟨by decide +kernel, by decide +kernel⟩, by decide +kernel, by decide +kernel, coolest_isSome _ ?_⟩
  intro h
  have m : (101, { index with dir := (List.range 64).map fun b => (b, { Bucket.empty with hot := some { ctrl := 1, page := 0, count := 1 } }) }) ∈ ((replicating true false 64).onCel fun c => c.dropAct 1).ret.indexes := by decide +kernel
  have e := congrArg List.isEmpty (List.flatMap_eq_nil_iff.mp h _ m)
  have : (false : Bool) = true := e
  contradiction
def gather (l : List Nat) : Gather :=
  { gid := 7, table := 3, pool := 0, bags := [], cmd := some (hdr 0 64, 0x50000), slot := none, part := 0, kept := [], rows := 0, stamps := [], shards := l, far := [], sums := [], lostShards := [] }
def gathering (l : List Nat) : State := busy.onTbl fun b => { b with gathers := [gather l] }
def rowEntry : WriteEntry := { row := 3, mode := 0, values := [0x3F800000, 0] }
def tableWrite : TWrite :=
  { no := 1, table := 3, cmd := some (hdr 0 24), remote := none, count := 1, entries := [rowEntry], waited := false, owners := [], holders := [], formed := none, failed := none }
def writing (w : TWrite) : State := busy.onTbl fun b => { b with writes := [w] }
/-- A table whose attic slots all wait for readers. -/
def fullTable : Table := { table with reclaim := (List.range 1028).map fun i => (false, i, 9), gathers := 1 }
/-- For TablesGoOn: a gather with a shard to come and one without, a row that finds a slot, one that is formed. -/
theorem witness_table_events :
    ((gathering [0]).tbl.gathers.find? fun g => g.gid == 7) = some (gather [0]) ∧ ((gathering []).tbl.gathers.find? fun g => g.gid == 7) = some (gather [])
    ∧ ((gathering []).part 0).waitsFor (.gather 7) = false ∧ (gather []).cmd = some (hdr 0 64, 0x50000)
    ∧ (writing tableWrite).nextWrite 3 = some (0, tableWrite) ∧ (table.formRow ((writing tableWrite).formedPant 3) rowEntry).isSome = true ∧ (∀ x ∈ table.holders, x.1 ≠ 3)
    ∧ ((writing { tableWrite with formed := some (3, 0, none, []) }).nextWrite 3).any (fun x => x.2.formed.isSome) = true := by
  refine ⟨?_, ?_, ?_, ?_, ?_, ?_, ?_, ?_⟩ <;> decide +kernel
theorem witness_table_full : fullTable.formRow ((writing tableWrite).formedPant 3) rowEntry = none ∧ tableWrite.waited = false ∧ KMap.has table.entries 0 = false := by
  refine ⟨?_, rfl, by decide⟩
  have h : fullTable.shardOf rowEntry.row.toNat = 0 := by decide
  have n : fullTable.shardSlots 0 = 1028 := by decide
  have f : fullTable.freeAttic 0 = none := by
    rw [Table.freeAttic, n, firstSlot, List.find?_eq_none]
    intro x _
    simp [fullTable, table]
    intro hx
    refine ⟨x, by simpa using hx, ?_⟩
    omega
  rw [Table.formRow, h, f]
/-- Another table for table 3. -/
def tabled (t : Table) (s : State) : State := s.onTbl fun b => { b with tables := [(3, t)] }
/-- A table with one pantry slot that row 0 takes, and row 3 valid. -/
def crowdedTable : Table := { table with pantryRows := 1, entries := [(0, entry true true 0 0), (3, entry true false 0 1)] }
/-- For TablesGoOn: requests whose mode is the table's and is not, of no table, answered with rows and with sums; updates that this owner takes and that it does not. -/
theorem witness_table_messages :
    busy.inTurn (msg 3) 4 = true ∧ ((busy.took (msg 3) 4).table? (ctxTable (msg 3))).any (fun t => !t.ownerPools && t.entryOk rowEntry && (busy.took (msg 3) 4).ownsShard t (t.shardOf 3)
      && !t.entryOk { rowEntry with values := [] }) = true
    ∧ (busy.took (msg 4) 4).table? (ctxTable (msg 4)) = none
    ∧ (((tabled { table with ownerPools := true } busy).took (msg 3) 4).table? 3).any (fun t => t.ownerPools) = true := by
  refine ⟨?_, ?_, ?_, ?_⟩ <;> decide +kernel
/-- Is a replica of row 3 granted, and is a new value of it formed? -/
def grantsRow (s : State) : Bool × Bool :=
  let b := s.took (msg 3) 4
  let formed := (enum b.tbl.writes).findSome? fun w => if w.2.table = 3 then w.2.formed.bind (fun f => if f.1 = 3 then some (w.1, f.2.2.2) else none) else none
  match b.table? 3 with
  | some t => (!t.ownerPools && b.ownsShard t (t.shardOf 3) && (entValid (t.entryOf 3) || formed.isSome)
      && (decide (thresh b.tbl.hotCfg ≤ t.countOf 3) || decide ((t.holders.filter fun x => x.1 == 3).length < 8)), formed.isSome)
  | none => (false, false)
/-- Installs of a row: where it lies (PANT), whether replication is on, the free slot and the coldest row. -/
def installsAt (on : Bool) (t : Table) (row : Nat) : Bool × Bool × Option Nat × Option Nat :=
  let b := ((tabled t busy).onTbl fun b => { b with hotCfg := if on then 0x10400 else 0x400 }).took (msg 3) 4
  match b.table? 3 with
  | some t => (entPant (t.entryOf row), bit b.tbl.hotCfg.toNat 16, t.freePantry (b.formedPant 3), t.coldest)
  | none => (false, false, none, none)
/-- For TablesGoOn: a replica that is denied, granted, and granted of a row that is formed; installs with replication off, of a row in the pantry, in a free slot, in the coldest row's slot,
and where there is no slot at all. -/
theorem witness_replica_messages :
    (grantsRow busy).1 = false ∧ grantsRow (tabled crowdedTable busy) = (true, false) ∧ grantsRow (writing { tableWrite with formed := some (3, 0, none, [1, 2]) }) = (true, true)
    ∧ installsAt false table 3 = (false, false, none, none) ∧ installsAt true { crowdedTable with pantryRows := 2 } 0 = (true, true, some 1, some 0)
    ∧ installsAt true { table with pantryRows := 1 } 3 = (false, true, some 0, none) ∧ installsAt true crowdedTable 3 = (false, true, none, some 0)
    ∧ installsAt true table 3 = (false, true, none, none)
    ∧ (let b := (tabled crowdedTable busy).took (msg 3) 4
       (((b.evictRow 3 0).reclaimTable 3).table? 3).bind (fun t => t.freePantry (((b.evictRow 3 0).reclaimTable 3).formedPant 3)) = some 0) := by
  refine ⟨?_, ?_, ?_, ?_, ?_, ?_, ?_, ?_, ?_⟩ <;> decide +kernel
/-- For TablesGoOn: answers that a gather, a command and a write wait for, and one that none does. -/
theorem witness_table_answers :
    busy.departed = false ∧ busy.sent? (rep 3 false) 4 = none ∧ (rep 3 true).isError = true ∧ (rep 3 false).isError = false
    ∧ ((busy.send 2 4 (.gatherReq 7 3 false 0 [] [])).sent? (rep 3 false) 4).any (fun o => o.body == .gatherReq 7 3 false 0 [] []) = true
    ∧ ((busy.send 2 4 (.update 1 3 [])).sent? (rep 3 false) 4).any (fun o => o.body == .update 1 3 []) = true
    ∧ (let s := ((writing { tableWrite with holders := [(2, 0)] }).send 2 4 (.replicaInstall 3 3 []))
       (s.sent? (rep 3 false) 4).isSome = true ∧ s.tbl.writes.any (fun w => w.holders.any fun h => h.1 == (rep 3 false).src && h.2 == (rep 3 false).msgId) = true)
    ∧ busy.tbl.writes.any (fun w => w.holders.any fun h => h.1 == (rep 3 false).src && h.2 == (rep 3 false).msgId) = false := by
  refine ⟨?_, ?_, ?_, ?_, ?_, ?_, ?_, ?_⟩ <;> decide +kernel
/-- A flash operation on block 0, running on die 0 beside an erase's activity. -/
def flashOp (k : OpKind) : FlashOp := { kind := k, page := 0, block := 0, place := 0 }
def running (k : OpKind) : State := (acting { act .gc with aid := 1 }).onDie 0 fun d => { d with running := some (flashOp k) }
/-- For CellarGoesOn: a die that idles, an operation whose result fits it or not, a read that fails, an erase of an activity. -/
theorem witness_flash :
    ((busy.onCel fun c => c.start .f48 0).cel.die 0).running = none
    ∧ (∀ k ∈ [OpKind.patrol, .erase 1], (((running k).onCel fun c => c.start .f48 0).cel.die 0).running = some (flashOp k) ∧ ((running k).onCel fun c => c.start .f48 0).cel.act? 1 = some (act .gc))
    ∧ opFits .patrol (.erase true) = false ∧ opFits .patrol (.read 1 0) = true ∧ opFits .patrol (.read 5 0) = true := by
  refine ⟨?_, ?_, ?_, ?_, ?_⟩ <;> decide +kernel
/-- A merge that waits for its claim, its destination chosen on channel 1 (its bucket's), or none. -/
def waitingMerge (dests : List Nat) : Activity := { act .merge with claimed := false, dests := dests }
/-- For CellarGoesOn: an activity of a die, a merge that takes its claim, one that may not begin; a block of no valid page and one of none, the patrol's next. -/
theorem witness_cellar :
    (acting (act .gc)).cel.act? 1 = some (act .gc) ∧ (act .gc).ofIndex = false
    ∧ (let a := waitingMerge [4 * 65536 + 100]
       (acting a).cel.act? 1 = some a ∧ a.ofIndex = true ∧ a.claimed = false ∧ (acting a).mayBegin a = true ∧ ((acting a).chooseExtent a).isSome = true)
    ∧ (let s := (acting (waitingMerge [])).onIndex 5 fun x => { x with unloaded := true }
       s.cel.act? 1 = some (waitingMerge []) ∧ s.mayBegin (waitingMerge []) = false)
    ∧ (let b : Block := { oneBit := true, closed := true, pages := [none], erases := 0, closedAt := 0, closedNo := 0, reads := 0, worst := none, retired := false, claim := none }
       let s := busy.onCel fun c => { c with blocks := [(0, b)] }
       s.cel.block .f48 0 0 = b ∧ b.pages ≠ [] ∧ b.valid = 0 ∧ (s.cel.die 0).readsOn 0 = 0 ∧ (s.cel.block .f48 0 1).pages = [] ∧ s.cel.patrolNext 0 = some (0, 0)) := by
  refine ⟨?_, ?_, ?_, ?_, ?_⟩ <;> decide +kernel
/-- For CellarGoesOn: a die, a controller and its channels still there and lost, the last channel among them. -/
theorem witness_cellar_losses :
    busy.cel.dieLost 0 = false ∧ (busy.cel.die 0).failed = false ∧ (let s := busy.onDie 0 fun d => { d with failed := true }
      s.cel.dieLost 0 = true ∧ (s.cel.die 0).failed = true)
    ∧ (busy.cel.lostCtrl[0]?).getD false = false ∧ ((lostRow busy).cel.lostCtrl[3]?).getD false = true ∧ KMap.has busy.cel.lostChan 0 = false
    ∧ ((KMap.set busy.cel.lostChan 0 true).filter fun x => x.1 / 16 == 0).length < 16
    ∧ KMap.has ((List.range 15).map fun i => (i + 1, true)) 0 = false ∧ 16 ≤ ((KMap.set ((List.range 15).map fun i => (i + 1, true)) 0 true).filter fun x => x.1 / 16 == 0).length := by
  refine ⟨?_, ?_, ?_, ?_, ?_, ?_, ?_, ?_, ?_⟩ <;> decide +kernel
/-- A report of a unit at core 0, package or stack 0, on partition 0. -/
def report (u : FaultUnit) (lost : Bool) : FaultReport :=
  { unit := u, mech := 1, core := 0, engine := 0, isCol := false, line := 0, bank := 0, inst := 0, addr := 0x10000000000, parts := 1, region := .work, slot := 0, lost := lost, group := 0, page := 0 }
/-- For FaultsByClass: errors that are corrected and not, units that hit a step and not, a unit of no partition, a text engine that goes on; a stack spent and not; evacuating or not. -/
theorem witness_faults :
    busy.corrects (report .sfu false) = false ∧ busy.corrects (report .hbm true) = true ∧ busy.corrects (report .attic false) = true ∧ busy.corrects (report .sram false) = true
    ∧ stepClass .hbm = false ∧ stepClass .sequencer = true ∧ busy.hitParts (report .sequencer false) = [0] ∧ FaultUnit.sequencer ≠ .textEngine
    ∧ busy.hitParts (report .textEngine true) = [0] ∧ stepClass .textEngine = true ∧ stepClass .hallway = true ∧ busy.hitParts { report .hallway false with parts := 0 } = []
    ∧ (busy.onRas fun r => { r with hbmSpent := 1 }).ras.hbmSpent.getLsbD 0 = true ∧ (busy.ras.hbmSpent.getLsbD 0 || busy.ras.hbmRebuild.getLsbD 0) = false
    ∧ (report .attic true).lost = true ∧ (report .attic true).region ≠ .replayCopy ∧ { report .attic true with region := .replayCopy }.region = .replayCopy ∧ busy.sch.evac = none
    ∧ (busy.onSch fun c => { c with evac := some (none, 0, 1) }).sch.evac.isSome = true := by decide +kernel
/-- R358: an engine's column error and every other corrected error count. -/
theorem test_corrected_counts : (after (.faultCorrected (report .sram false)) busy).map (fun t => (t.ras.corrected, t.bbx.recs.length)) = some (1, 1) := by decide +kernel
/-- For FaultsByClass: the third residue fault of a column, the second bad word of a bank and the second watchdog of a core; the first of each. -/
theorem witness_fences :
    (let n := fun (s : State) => let k := s.core 0; (KMap.getD k.residue 0 0 + 1, KMap.getD k.bankErr 0 0 + 1, k.dogs + 1)
     n (busy.onCore 0 fun k => { k with residue := KMap.set k.residue 0 2, bankErr := KMap.set k.bankErr 0 1, dogs := 1 }) = (3, 2, 2) ∧ n busy = (1, 1, 1)) := by decide +kernel
/-- Port 0 up, authenticated or not, in a state of its own. -/
def linked (auth : Bool) (f : Port → Port) : State := busy.onPort 0 fun x => f { x with up := true, auth := auth, peer := 2, serial := 5, rxSeq := 0 }
/-- A packet for another module that waits to be forwarded. -/
def packet (dest : W16) : Transit := { port := 1, vc := 0, dest := dest, toward := .waiting, total := 1, flits := [(true, true, [])], whole := true }
/-- For LinksAndRoutes: a port that is ready and one that is not, one whose peer holds this address, one that waits for its peer's chain; a lane that has failed; a probe under way, held
and for another; a route that is there; a message that is sent again, or gives up. -/
theorem witness_links :
    live.portReady 0 = true ∧ live.fab.valid = false ∧ live.fab.routes.length < 4095 ∧ State.reset.portReady 7 = false ∧ busy.portReady 0 = true ∧ busy.fab.valid = true ∧ (1 : W16) = busy.fab.addr
    ∧ ((linked false id).port 0).up = true ∧ ((linked false id).port 0).auth = false ∧ ((linked true id).port 0).auth = true ∧ (busy.port 0).up = false ∧ ((linked true id).port 0).retraining = false
    ∧ ((linked true fun x => { x with retraining := true }).port 0).retraining = true
    ∧ (busy.onFab fun f => { f with laneFailed := 0x20000 }).fab.laneFailed.getLsbD 17 = true ∧ portOfLane 0 = some 0
    ∧ ((busy.onFab fun f => { f with probing := true, valid := false }).fab.probing = true) ∧ (5#64).toNat < (6#64).toNat ∧ busy.fab.addr ≠ 3
    ∧ KMap.has busy.fab.routes 2 = true ∧ busy.fab.notices.contains (2, 3) = false ∧ KMap.getD busy.fab.links 2 [] = [] ∧ busy.departed = false
    ∧ (let s := fun (n : Nat) => (busy.send 2 3 (.leaseAsk 1)).onFab fun f => { f with out := f.out.map fun o => { o with sends := n } }
       ∀ n ∈ [1, 3, 4], ((s n).fab.out.find? fun o => o.dest == 2 && o.cls.toNat == 3 && o.msgId == 0 && !o.reply && o.port.isNone).isSome = true) := by decide +kernel
/-- For LinksAndRoutes: a packet that waits, of no route, one that can go over port 0, one whose port has no credit or is down; replay buffers below and at seven sends. -/
theorem witness_forwards :
    ((linked true id).onFab fun f => { f with transit := [packet 9] }).fab.transit[0]? = some (packet 9) ∧ ((linked true id).onFab fun f => { f with transit := [packet 2] }).fab.transit[0]? = some (packet 2)
    ∧ (KMap.get? busy.fab.routes 9).isNone = true ∧ (KMap.get? busy.fab.routes 2).any (fun r => r.port == 0) = true
    ∧ (((linked true id).port 0).up && ((linked true id).port 0).auth && !((linked true id).port 0).retraining && ((linked true id).port 0).replay.isEmpty) = true
    ∧ (packet 2).total ≤ (((linked true id).port 0).credits[0]?).getD 0 ∧ (packet 2).toward = .waiting ∧ Toward.waiting ≠ .over 0
    ∧ (((linked true fun x => { x with credits := [0, 0, 0, 0] }).port 0).credits[0]?).getD 0 < (packet 2).total
    ∧ (((linked true fun x => { x with replay := [(5, 6, [])] }).port 0).replay.find? fun f => decide (7 ≤ f.2.1)) = none
    ∧ (((linked true fun x => { x with replay := [(5, 7, [])] }).port 0).replay.find? fun f => decide (7 ≤ f.2.1)) = some (5, 7, []) ∧ ackReplay [(5, 7, [])] 4 = [(5, 7, [])] := by
  refine ⟨?_, ?_, ?_, ?_, ?_, ?_, ?_, ?_, ?_, ?_, ?_, ?_⟩ <;> decide +kernel
/-- A data flit, SEQ 1, LAST, with or without FIRST, with no payload; its CRC computed apart. -/
def flit (first : Bool) : Bytes := leBytes 8 (if first then 0x10001000300000 else 0x10001000100000) ++ List.replicate 244 0 ++ leBytes 4 (if first then 0x6d1d6e11 else 0x18463ae4)
theorem crc_zeros : (leBytes 8 0x10001000100000).foldl crcByte 0xFFFFFFFF = 0x657a3df7 ∧ (List.replicate 61 0).foldl crcByte 0x657a3df7 = 0x68d167dc
    ∧ (List.replicate 61 0).foldl crcByte 0x68d167dc = 0xe179ab23 ∧ (List.replicate 61 0).foldl crcByte 0xe179ab23 = 0xcac1d247
    ∧ (List.replicate 61 0).foldl crcByte 0xcac1d247 = 0xe7b9c51b := by decide +kernel
theorem crc_zeros_first : (leBytes 8 0x10001000300000).foldl crcByte 0xFFFFFFFF = 0xe08e2b7a ∧ (List.replicate 61 0).foldl crcByte 0xe08e2b7a = 0xb8109b03
    ∧ (List.replicate 61 0).foldl crcByte 0xb8109b03 = 0xee1e65de ∧ (List.replicate 61 0).foldl crcByte 0xee1e65de = 0xccf8fa86
    ∧ (List.replicate 61 0).foldl crcByte 0xccf8fa86 = 0x92e291ee := by decide +kernel
/-- For LinksAndRoutes: a data flit in order that begins its packet, one that goes on a packet on its way and one of none; one out of order and one that is damaged. -/
theorem witness_flit : (∀ f : Bool, flitOk (flit f) = true ∧ (flitHead (flit f)).kind = 1 ∧ (flitHead (flit f)).first = f ∧ (flitHead (flit f)).seq = (((linked true id).port 0).rxSeq.toNat + 1) % 4096)
    ∧ (flitHead (flit false)).seq ≠ (((linked true fun x => { x with rxSeq := 7 }).port 0).rxSeq.toNat + 1) % 4096 ∧ flitOk [] = false
    ∧ indexOf (fun t : Transit => t.port == 0 && t.vc == 0 && !t.whole) [{ packet 0 with port := 0, toward := .here, whole := false }] = some 0
    ∧ indexOf (fun t : Transit => t.port == 0 && t.vc == 0 && !t.whole) (linked true id).fab.transit = none := by
  have split : ∀ f, (flit f).take 252 = leBytes 8 (if f then 0x10001000300000 else 0x10001000100000) ++ List.replicate 61 0 ++ List.replicate 61 0 ++ List.replicate 61 0 ++ List.replicate 61 0 := by
    decide +kernel
  have c : ∀ f, crc32c ((flit f).take 252) = if f then 0x6d1d6e11 else 0x18463ae4 := by
    intro f; rw [split f, crc32c]; simp only [List.foldl_append]
    cases f
    · obtain ⟨a, b, c, d, e⟩ := crc_zeros; simp only [Bool.false_eq_true, if_false, a, b, c, d, e]; decide
    · obtain ⟨a, b, c, d, e⟩ := crc_zeros_first; simp only [if_true, a, b, c, d, e]; decide
  refine ⟨fun f => ⟨?_, ?_, ?_, ?_⟩, by decide +kernel, by decide +kernel, by decide +kernel, by decide +kernel⟩
  · rw [flitOk, c]; cases f <;> decide +kernel
  all_goals cases f <;> decide +kernel
/-- For MessagesAct: a module that has left, a reply, a resync, a message ahead of a gap, one already applied, one seen early, an early one that is next, and 64 of them. -/
theorem witness_messages :
    (rep 3 false).isReply = true ∧ (rep 3 false).isError = false ∧ (busy.onSvc fun x => { x with opened := true }).departed = true ∧ busy.departed = false
    ∧ busy.inTurn (msg 3) 3 = true ∧ ({ msg 3 with flags := 2 } : MsgHdr).isResync = true ∧ ({ msg 3 with flags := 2 } : MsgHdr).isReply = false ∧ (msg 3).isResync = false
    ∧ KMap.getD busy.fab.rxIds (streamKey 2 3) 0 = 0 ∧ (1 : W32) - 0 < 0x80000000 ∧ (0x80000000 : W32) ≤ 0xFFFFFFFF - 0 ∧ busy.fab.early.length < 64
    ∧ (let early := fun (n : Nat) (from_ : Nat) => ((List.range n).map fun k => (streamKey 2 3, BitVec.ofNat 32 (k + from_), (none : Option Instr)))
       ((early 64 2).filter fun e => e.1 == streamKey 2 3).length = 64 ∧ ((early 64 2).any fun e => e.2.1 == (1 : W32)) = false ∧ ((early 64 2).any fun e => e.2.1 == (5 : W32)) = true
       ∧ ((early 1 0).find? fun e => e.1 == streamKey 2 3 && e.2.1 == 0).isSome = true) := by
  refine ⟨?_, ?_, ?_, ?_, ?_, ?_, ?_, ?_, ?_, ?_, ?_, ?_, ?_⟩ <;> decide +kernel
/-- An offer that is heard, and a second of the same number that is not (R341). -/
theorem test_messages_apply_once :
    ((after (.leaseOfferMsg { src := 2, msgId := 0, flags := 0, context := 0 } 4) busy).bind fun t => after (.leaseOfferMsg { src := 2, msgId := 0, flags := 0, context := 0 } 9) t).map
      (fun t => t.fab.offers) = some [(2, 4)] := by decide +kernel
/-- A request mirrored here, for partition 0 and tenant 1. -/
def desc : MirrorDesc :=
  { part := 0, tenant := 1, modelId := 11, tag := 7, isAsk := false, grammarEn := false, grammar := 0, seed := 0, sampling := [], stop := [], prompt := [0x61], tokens := [], bytes := 0 }
/-- The conditions of R349 that a buddy checks, and those under which a migrated request waits for a completion entry. -/
def readyFor (t : State) (d : MirrorDesc) : Bool :=
  let q := t.qp (qpKey (t.deliveryFn d.part) 0)
  !(t.part d.part.val).cores.isEmpty && !(t.part d.part.val).raw && (t.tenant? d.tenant).any (fun x => bit x.mask.toNat d.part.val && x.model.modelId == d.modelId)
    && (!d.grammarEn || KMap.has t.sch.grammars d.grammar.toNat) && q.active && q.en && !q.stopped
def fullFor (t : State) (d : MirrorDesc) : Bool := let q := t.qp (qpKey (t.deliveryFn d.part) 0); q.active && !q.stopped && !q.cqRoom
/-- For MessagesAct: a mirror that opens and one that does not, for its partition or for want of room; a migrated request that has a slot, one that waits for a completion entry, one that
ends for a partition that is raw, and one for want of a slot. -/
theorem witness_mirrors :
    (∀ c ∈ [6, 7], busy.inTurn (msg 0) c = true) ∧ readyFor (busy.took (msg 0) 6) desc = true ∧ readyFor (busy.took (msg 0) 6) { desc with part := 1 } = false ∧ busy.fab.mirrors.length < 8192
    ∧ fullFor (busy.took (msg 0) 7) desc = false ∧ readyFor (busy.took (msg 0) 7) desc = true ∧ ((busy.took (msg 0) 7).freeSlot 0) = some 1 ∧ readyFor (busy.took (msg 0) 7) { desc with part := 1 } = false
    ∧ fullFor (busy.onQp 0 fun q => { q with inFlight := 16 }) desc = true ∧ ((busy.onPart 0 fun x => { x with quota := 0 }).freeSlot 0) = none := by
  refine ⟨?_, ?_, ?_, ?_, ?_, ?_, ?_, ?_, ?_, ?_⟩ <;> decide +kernel
/-- A state that lends module 2 its window 3. -/
def lending : State := busy.onFab fun f => { f with lent := [{ borrower := 2, ref := 3, gib := 1 }], offered := [2] }
/-- For LeasesAndTheBuddy: an access to a window that is lent, within it and past it, and to none; asks that are met and not; withdrawals of a window of the lender and of another; releases;
an answer that an acquire waits for. -/
theorem witness_lease_messages :
    (∀ c ∈ [2, 3], busy.inTurn (msg 3) c = true) ∧ (lending.took (msg 3) 2).fab.lentTo (msg 3) = some { borrower := 2, ref := 3, gib := 1 } ∧ (busy.took (msg 3) 2).fab.lentTo (msg 3) = none
    ∧ lentSpan { borrower := 2, ref := 3, gib := 1 } 0x3FFFC000 4 = true ∧ lentSpan { borrower := 2, ref := 3, gib := 1 } 0x3FFFD000 4 = false ∧ (List.replicate 4096 (0 : Byte)).length % 4096 = 0
    ∧ min 0 (maxNat lending.fab.offered) = 0 ∧ min 1 (maxNat lending.fab.offered) ≠ 0 ∧ lending.fab.lentTo (msg 4) = none
    ∧ (KMap.get? (busy.onFab fun f => { f with windows := [(3, { lender := 2, gib := 1, draining := false })] }).fab.windows 3).any (fun w => w.lender == (msg 3).src) = true
    ∧ KMap.get? busy.fab.windows (msg 3).context.toNat = none
    ∧ ((busy.onFab fun f => { f with acquiring := [(hdr 0 8, 2, 3)] }).fab.acquiring.find? fun a => a.2.1 == (rep 3 true).src && (rep 3 true).context == BitVec.ofNat 64 a.2.2).isSome = true
    ∧ (rep 3 true).isError = true ∧ (rep 3 false).isError = false := by
  refine ⟨?_, ?_, ?_, ?_, ?_, ?_, ?_, ?_, ?_, ?_, ?_, ?_, ?_, ?_⟩ <;> decide +kernel
/-- For RegisterAccesses: a function that is reached and one that is not, an index that is there and one that is not, writes of another width and offset. -/
theorem witness_registers : live.reaches 0 = true ∧ State.reset.reaches 0 = false ∧ (live.index? 5).isSome = true ∧ live.index? 7 = none ∧ (3#32).toNat % 4 ≠ 0 ∧ (64#8) ≠ 32 ∧ (4#32).toNat % 4 = 0
    ∧ (0 : Fn) ≠ 1 := by
  refine ⟨?_, ?_, ?_, ?_, ?_, ?_, ?_, ?_⟩ <;> decide +kernel
/-- Table 16.7: CAP_W is held at its nearer limit; Table 16.6: a locked droop register keeps its value. -/
theorem test_register_writes :
    (after (.pwrCapCfgWrite 0x3FF) live).map (fun t => t.pwr.capCfg) = some 900 ∧ (after (.pwrCapCfgWrite 0) live).map (fun t => t.pwr.capCfg) = some 600
    ∧ (after (.pwrDroopCfgWrite 5) (live.onPwr fun w => { w with droopCfg := 0x18 })).map (fun t => t.pwr.droopCfg) = some 0x18 := by decide +kernel

end Sys2Proof.Machine.Tests
end

section
/-! Admission of the request commands (R10, R20 to R23, R220 to R222, R321): the handles that generations make, what taking a slot leaves, and the slot that each
command's admission takes. -/

namespace Sys2Proof.Machine

/-! ## Generations and handles (R10) -/

theorem nextGen_last : nextGen 524287 = 1 := rfl
theorem nextGen_toNat_of_lt {v : BitVec 19} (h : v.toNat < 524287) : (nextGen v).toNat = v.toNat + 1 := by
  unfold nextGen
  rw [if_neg (Nat.ne_of_lt h), BitVec.toNat_add]
  exact Nat.mod_eq_of_lt (by simpa using Nat.succ_lt_succ h)
theorem handleOf_slot {n : Nat} (h : n < 8192) (v : BitVec 19) : handleOf n v % 8192 = n := by
  unfold handleOf; omega
theorem handleOf_gen {n : Nat} (h : n < 8192) (v : BitVec 19) : handleOf n v / 8192 = v.toNat := by
  unfold handleOf; omega
/-- A handle of generation 0 names no request. -/
theorem State.named_gen_zero (s : State) {n : Nat} (h : n < 8192) : s.named (handleOf n 0) = none := by
  have hg : handleOf n 0 / 8192 = 0 := handleOf_gen h 0
  unfold State.named
  rw [hg]
  cases s.req? (handleOf n 0 % 8192) with
  | none => rfl
  | some r => rfl

/-! ## A row's command, once it is clear -/

theorem woken_fetched_clear {s : State} {op : Nat} {checks : State → Hdr → Bytes → List (Option Fail)} {h : Hdr} {pb : Bytes} {f : Hdr → State → State}
    (hc : s.clear op checks h pb = true) : woken (s.fetched op h pb f) = .next (f (s.stamped h) (s.taken h)).woken := by
  rw [State.fetched_clear hc]; rfl
theorem exec_ask (h : Hdr) (pb : Bytes) (s : State) : exec (.ask h pb) s = woken (s.fetched 0x0301 h pb fun h s => s.admitAsk h pb) := rfl
theorem exec_generate (h : Hdr) (pb : Bytes) (s : State) : exec (.generate h pb) s = woken (s.fetched 0x0302 h pb fun h s => s.admitGenerate h pb) := rfl
theorem exec_embed (h : Hdr) (pb : Bytes) (s : State) : exec (.embed h pb) s = woken (s.fetched 0x0303 h pb fun h s => s.admitEmbed h pb) := rfl
theorem exec_search (h : Hdr) (pb : Bytes) (s : State) : exec (.search h pb) s = woken (s.fetched 0x0304 h pb fun h s => s.admitSearch h pb) := rfl
theorem exec_rerank (h : Hdr) (pb : Bytes) (s : State) : exec (.rerank h pb) s = woken (s.fetched 0x0305 h pb fun h s => s.admitRerank h pb) := rfl

/-! ## Taking a slot -/

/-- What the taking of a slot gives a request, and its command may not change: its kind and generation, where it came from, its parameters, and that
it is open with nothing emitted. -/
def Req.admission (r : Req) : ReqKind × BitVec 19 × Fn × QpNo × W32 × Fin 16 × Bytes × Bool × List W32 :=
  (r.kind, r.gen, r.fn, r.qp, r.tag, r.part, r.params, r.closed, r.emitted)
/-- A command's filling in of its request leaves what the slot gave it. -/
def KeepsAdmission (f : Req → Req) : Prop := ∀ r, (f r).admission = r.admission

theorem KeepsAdmission.newReq {f : Req → Req} (hf : KeepsAdmission f) (s : State) (h : Hdr) (kind : ReqKind) (gen : BitVec 19) (pb : Bytes) :
    let r := f (newReq s h kind gen pb)
    r.kind = kind ∧ r.gen = gen ∧ r.fn = h.fn ∧ r.qp = h.qp ∧ r.tag = h.tag ∧ r.part.val = h.partNo ∧ r.params = pb ∧ r.closed = false ∧ r.emitted = [] := by
  have e := hf (Machine.newReq s h kind gen pb)
  simp only [Req.admission, Prod.mk.injEq] at e
  obtain ⟨hkind, hgen, hfn, hqp, htag, hpart, hparams, hclosed, hemitted⟩ := e
  exact ⟨hkind, hgen, hfn, hqp, htag, congrArg Fin.val hpart, hparams, hclosed, hemitted⟩

/-- Slot `n` holds a request, under the slot's next generation. -/
def State.held (s : State) (n : Nat) (r : Req) : State :=
  s.onSch fun c => { c with slots := KMap.set c.slots n r, gens := KMap.set c.gens n (nextGen (KMap.getD s.sch.gens n 0)) }
/-- The request that fills a slot: what the slot gives it, and what its command fills in. -/
def State.reqFor (s : State) (n : Nat) (h : Hdr) (kind : ReqKind) (pb : Bytes) (f : Req → Req) : Req :=
  f (newReq s h kind (nextGen (KMap.getD s.sch.gens n 0)) pb)

section
variable {s : State} {h : Hdr} {kind : ReqKind} {pb : Bytes} {f : Req → Req} {go : State → Nat → State} {n : Nat}

/-- With a free slot its request is held, its handle told, and its record and entry written. -/
theorem State.takeSlot_free (a : Nat) (hn : s.freeSlot h.partNo = some n) :
    s.takeSlot h kind pb a f go =
      let v := s.held n (s.reqFor n h kind pb f)
      ((go ((if a ≠ 0 then v.hostWrite a (leBytes 4 (handleOf n (nextGen (KMap.getD s.sch.gens n 0)))) else v).writeRecord n) n).publishEntry n false).settle := by
  unfold State.takeSlot; rw [hn]; rfl
/-- A command that has no place for a handle writes none. -/
theorem State.takeSlot_free_untold (hn : s.freeSlot h.partNo = some n) :
    s.takeSlot h kind pb 0 f go = ((go ((s.held n (s.reqFor n h kind pb f)).writeRecord n) n).publishEntry n false).settle :=
  State.takeSlot_free 0 hn
end

/-! ## The slot each command takes

`w` is the state once the partition's cores, and the text engine where the command has text, are woken. -/

section
variable {s w : State} {h : Hdr} {pb : Bytes} {n : Nat}

theorem State.admitAsk_clear {ix : Index} {t : Tenant} (hc : firstFail (askChecks s h pb) = none) (hw : (s.wakeCores h.partNo).iff true (fun s => s.wakeDom 5) = w)
    (hi : s.index? (fld pb 2 1) = some ix) (ht : w.tenant? (w16 pb 0) = some t) (hn : w.freeSlot h.partNo = some n) :
    ∃ f, KeepsAdmission f
      ∧ (∀ r, (f r).tenant = w16 pb 0 ∧ (f r).index = fld pb 2 1 ∧ (f r).snap = ix.seq ∧ (f r).embedder = ix.embedder ∧ (f r).state = r.state)
      ∧ s.admitAsk h pb = (w.nextAdm (fld pb 2 1)).2.takeSlot h .ask pb (fld pb 40 8) f fun s _ => s := by
  refine ⟨?f, fun _ => ?keeps, fun _ => ?fills, ?eq⟩
  case eq =>
    unfold State.admitAsk
    simp only [runIn_clear hc, hw, hi, ht, hn, Option.isNone_some, Bool.false_eq_true, if_false]
    rfl
  case keeps => rfl
  case fills => exact ⟨rfl, rfl, rfl, rfl, rfl⟩

theorem State.admitGenerate_clear (hc : firstFail (generateChecks s h pb) = none) (hw : (s.wakeCores h.partNo).iff true (fun s => s.wakeDom 5) = w) :
    ∃ f, KeepsAdmission f ∧ (∀ r, (f r).tenant = w16 pb 0 ∧ (f r).prompt = (s.genPrompt pb).1 ∧ (f r).state = .prefill)
      ∧ s.admitGenerate h pb = w.takeSlot h .generate pb (fld pb 8 8) f fun s n => (s.mapPrefix n).mirrorOpen n := by
  refine ⟨?f, fun _ => ?keeps, fun _ => ?fills, ?eq⟩
  case eq =>
    unfold State.admitGenerate
    simp only [runIn_clear hc, hw]
    rfl
  case keeps => rfl
  case fills => exact ⟨rfl, rfl, rfl⟩

theorem State.admitEmbed_clear {t : Tenant} (hc : firstFail (embedChecks s h pb) = none) (hw : (s.wakeCores h.partNo).iff true (fun s => s.wakeDom 5) = w)
    (ht : w.tenant? (w16 pb 0) = some t) (hl : 4 * t.model.outDim ≤ fld pb 32 4) :
    ∃ f, KeepsAdmission f ∧ (∀ r, (f r).embedder = w16 pb 0 ∧ (f r).qTok = tokenise (w.tenantVocab (w16 pb 0)) (f r).query)
      ∧ s.admitEmbed h pb = w.takeSlot h .embed pb 0 f fun s _ => s := by
  refine ⟨?f, fun _ => ?keeps, fun _ => ?fills, ?eq⟩
  case eq =>
    unfold State.admitEmbed
    simp only [runIn_clear hc, hw, ht, Nat.not_lt.2 hl, if_false]
    rfl
  case keeps => rfl
  case fills => exact ⟨rfl, rfl⟩

/-- A search by vector (FLAGS bit 0). -/
theorem State.admitSearch_clear (hc : firstFail (searchChecks s h pb) = none) (hw : (s.wakeCores h.partNo).iff false (fun s => s.wakeDom 5) = w)
    (hv : bit (fld pb 6 2) 0 = true) (hl : 24 * fld pb 1 1 ≤ fld pb 32 4) (hn : w.freeSlot h.partNo = some n) :
    ∃ f, KeepsAdmission f ∧ (∀ r, (f r).index = fld pb 0 1 ∧ (f r).snap = w.snapOf (fld pb 0 1))
      ∧ s.admitSearch h pb = (w.nextAdm (fld pb 0 1)).2.takeSlot h .search pb 0 f fun v n =>
          v.startJob n (words32 (dlData s pb 8) ((dlData s pb 8).length / 4)) := by
  refine ⟨?f, fun _ => ?keeps, fun _ => ?fills, ?eq⟩
  case eq =>
    unfold State.admitSearch
    simp only [hv, Bool.not_true, runIn_clear hc, hw, hn, Nat.not_lt.2 hl, Option.isNone_some, Bool.false_eq_true, if_false, if_true]
    rfl
  case keeps => rfl
  case fills => exact ⟨rfl, rfl⟩

theorem length_rerankItems (pb : Bytes) : (rerankItems pb).length = fld pb 3 1 := by simp [rerankItems]
theorem State.admitRerank_clear (hc : firstFail (rerankChecks s h pb) = none) (hw : (s.wakeCores h.partNo).iff true (fun s => s.wakeDom 5) = w)
    (hl : 8 * fld pb 3 1 ≤ fld pb 40 4) :
    ∃ f, KeepsAdmission f ∧ (∀ r, (f r).reranker = w16 pb 0 ∧ (f r).stage = 6 ∧ (f r).passages.length = fld pb 3 1)
      ∧ s.admitRerank h pb = w.takeSlot h .rerank pb 0 f fun s n => s.startStage6 n := by
  refine ⟨?f, fun _ => ?keeps, fun _ => ?fills, ?eq⟩
  case eq =>
    unfold State.admitRerank
    simp only [runIn_clear hc, hw, length_rerankItems, Nat.not_lt.2 hl, if_false]
    rfl
  case keeps => rfl
  case fills =>
    refine ⟨rfl, rfl, ?_⟩
    simp only [List.length_map, List.length_zip, Nat.min_self, length_rerankItems]
end

/-- Settles O33: each command's admission takes the slot (`State.takeSlot_free`) and fills in its request without touching what the slot gave it
(`KeepsAdmission`). -/
theorem requestsTakeASlot : Obligations.RequestsTakeASlot := by
  unfold Obligations.RequestsTakeASlot
  intro s h pb n g wake gen own held done told
  refine ⟨?ask, ?generate, ?embed, ?search, ?rerank, rfl, rfl, fun v _ hv => nextGen_toNat_of_lt hv, nextGen_last, fun hn v => ?handles⟩
  case ask =>
    intro ix t hc _ hi _ ht hw hn
    obtain ⟨f, hkeep, hfill, hadm⟩ := State.admitAsk_clear (State.clear_checks hc) rfl hi ht hw
    obtain ⟨htenant, hindex, hsnap, hemb, hstate⟩ := hfill (newReq _ g .ask _ pb)
    refine ⟨_, hkeep.newReq _ g .ask _ pb, htenant, hindex, hsnap, hemb, hstate, ?_⟩
    rw [exec_ask, woken_fetched_clear hc, hadm, State.takeSlot_free _ hn]
    rfl
  case generate =>
    intro hc hn
    obtain ⟨f, hkeep, hfill, hadm⟩ := State.admitGenerate_clear (State.clear_checks hc) rfl
    obtain ⟨htenant, hprompt, hstate⟩ := hfill (newReq _ g .generate _ pb)
    refine ⟨_, hkeep.newReq _ g .generate _ pb, htenant, hprompt, hstate, ?_⟩
    rw [exec_generate, woken_fetched_clear hc, hadm, State.takeSlot_free _ hn]
    rfl
  case embed =>
    intro t hc ht hl hn
    obtain ⟨f, hkeep, hfill, hadm⟩ := State.admitEmbed_clear (State.clear_checks hc) rfl ht hl
    obtain ⟨hemb, htok⟩ := hfill (newReq _ g .embed _ pb)
    refine ⟨_, hkeep.newReq _ g .embed _ pb, hemb, htok, ?_⟩
    rw [exec_embed, woken_fetched_clear hc, hadm, State.takeSlot_free_untold hn]
    rfl
  case search =>
    intro hc hv hl hw hn
    obtain ⟨f, hkeep, hfill, hadm⟩ := State.admitSearch_clear (State.clear_checks hc) rfl hv hl hw
    obtain ⟨hindex, hsnap⟩ := hfill (newReq _ g .search _ pb)
    refine ⟨_, hkeep.newReq _ g .search _ pb, hindex, hsnap, ?_⟩
    rw [exec_search, woken_fetched_clear hc, hadm, State.takeSlot_free_untold hn]
    rfl
  case rerank =>
    intro hc hl hn
    obtain ⟨f, hkeep, hfill, hadm⟩ := State.admitRerank_clear (State.clear_checks hc) rfl hl
    obtain ⟨hrr, hstage, hpass⟩ := hfill (newReq _ g .rerank _ pb)
    refine ⟨_, hkeep.newReq _ g .rerank _ pb, hrr, hstage, hpass, ?_⟩
    rw [exec_rerank, woken_fetched_clear hc, hadm, State.takeSlot_free_untold hn]
    rfl
  case handles => exact ⟨handleOf_slot hn v, handleOf_gen hn v, s.named_gen_zero hn⟩

end Sys2Proof.Machine
end

section
/-! Synchronisation (R90 to R92): what an issued instruction of class SYNC does, what a signal that comes up does, and the barrier's other members. -/

namespace Sys2Proof.Machine

/-! ## Lists and cores -/

/-- Writing back what stands at a place, or anything past the end, changes nothing. -/
theorem setAt_getD_self {α : Type} (l : List α) (i : Nat) (d : α) : setAt l i ((l[i]?).getD d) = l := by
  induction l generalizing i with
  | nil => rfl
  | cons x l ih =>
    cases i with
    | zero => rfl
    | succ i => exact congrArg (x :: ·) (ih i)
/-- A core's update counts only by what it makes of that core. -/
theorem State.onCore_congr {s : State} {c : Nat} {f g : Core → Core} (h : f (s.core c) = g (s.core c)) : s.onCore c f = s.onCore c g := by
  unfold State.onCore KMap.modD
  exact congrArg (fun k => { s with cores := KMap.setD s.cores c Core.reset k }) h

/-! ## Fields of a SYNC word, and what they name -/

/-- COUNT. -/
def syncCount (w : Insn) : W16 := BitVec.ofNat 16 (Wd.at_ w 109 94)
/-- The number of the semaphore. -/
def syncSem (w : Insn) : Nat := Wd.at_ w 119 116
/-- A semaphore's value. -/
def State.semaphore (s : State) (c i : Nat) : W16 := ((s.core c).sems[i]?).getD 0
/-- GROUP. -/
def barrierGroup (w : Insn) : W32 := BitVec.ofNat 32 (Wd.at_ w 93 62)
/-- What a core that has arrived at the barrier of a word carries: BAR_ID and GROUP. -/
def barrierMark (w : Insn) : Nat × W32 := (Wd.at_ w 61 58, barrierGroup w)
/-- The positions of GROUP other than the core's own. -/
def State.barrierPeers (s : State) (p c : Nat) (w : Insn) : List Nat :=
  ((List.range 32).filter fun i => (barrierGroup w).getLsbD i).filter (· ≠ s.position p c)
/-- The step of an OP of class SYNC (R90 to R92). -/
def State.sync (s : State) (p c op : Nat) (w : Insn) : CoreStep :=
  match op with
  | 0 => s.signal p c w
  | 1 => s.wait p c w
  | 2 => s.barrier p c w
  | _ => s.fenceSync p c w
/-- A completed barrier: each of the other members goes on. -/
def State.releasePeers (s : State) (p c : Nat) (w : Insn) : State :=
  s.each (s.barrierPeers p c w) fun s i => match s.peerCore p i with
    | some d => s.onCore d fun k => { (k.goto (k.pc + 1)) with barrier := none }
    | none => s

section
variable {s : State} {p c : Nat} {w : Insn}

/-! ## From a row to its meaning -/

theorem State.issues_row {cls op : Nat} (hi : s.issues c cls op w = true) : Wd.at_ w 127 124 = cls ∧ Wd.at_ w 123 120 = op := by
  simp only [State.issues, Bool.and_eq_true, beq_iff_eq] at hi
  exact ⟨hi.1.2, hi.2⟩
/-- What is no instruction of the units or of the DMA agent issues as it stands: it reads registers, which interleaved mode leaves alone (R50). -/
theorem State.issue_perform {cls op : Nat} (hp : s.partOf c = some p) (hi : s.issues c cls op w = true) (hc : 5 < cls) :
    s.issue c cls op w = s.after c w (s.perform p c w) := by
  have h5 : 5 < Wd.at_ w 127 124 := (State.issues_row hi).1 ▸ hc
  unfold State.issue State.run State.performSeen
  simp only [hi, hp, h5, if_true, decide_true, Bool.true_or]

/-- An issued instruction of class SYNC does what its OP says. -/
theorem State.issue_sync {op : Nat} (hp : s.partOf c = some p) (hi : s.issues c 6 op w = true) : s.issue c 6 op w = s.after c w (s.sync p c op w) := by
  obtain ⟨hcls, hop⟩ := State.issues_row hi
  rw [State.issue_perform hp hi (by decide)]
  unfold State.perform
  rw [hcls, hop]
  rfl

section
variable {core : CoreNo} (hp : s.partOf core.val = some p)
include hp

theorem exec_syncSignal_issued (hi : s.issues core.val 6 0 w = true) :
    exec (.syncSignal core w) s = .next (s.after core.val w (s.signal p core.val w)).woken := congrArg woken (State.issue_sync hp hi)
theorem exec_syncWait_issued (hi : s.issues core.val 6 1 w = true) :
    exec (.syncWait core w) s = .next (s.after core.val w (s.wait p core.val w)).woken := congrArg woken (State.issue_sync hp hi)
theorem exec_syncBarrier_issued (hi : s.issues core.val 6 2 w = true) :
    exec (.syncBarrier core w) s = .next (s.after core.val w (s.barrier p core.val w)).woken := congrArg woken (State.issue_sync hp hi)
theorem exec_syncFence_issued (hi : s.issues core.val 6 3 w = true) :
    exec (.syncFence core w) s = .next (s.after core.val w (s.fenceSync p core.val w)).woken := congrArg woken (State.issue_sync hp hi)
end
theorem exec_signalTakeEffect (core : CoreNo) (s : State) : exec (.signalTakeEffect core) s = .next (s.signalDone core.val).woken := rfl

/-! ## Waits and fences (R90, R92) -/

theorem State.wait_reached (h : (syncCount w).toNat ≤ (s.semaphore c (syncSem w)).toNat) :
    s.wait p c w = .done (s.onCore c fun k => { k with sems := setAt k.sems (syncSem w) (s.semaphore c (syncSem w) - syncCount w) }) := if_pos h
theorem State.wait_short (h : (s.semaphore c (syncSem w)).toNat < (syncCount w).toNat) : s.wait p c w = .hold s := if_neg (Nat.not_le.2 h)
/-- A wait for nothing leaves its core as it is. -/
theorem State.wait_zero (h : syncCount w = 0) : s.wait p c w = .done (s.onCore c fun k => k) := by
  have hsub : s.semaphore c (syncSem w) - syncCount w = s.semaphore c (syncSem w) := by rw [h]; exact BitVec.sub_zero _
  rw [State.wait_reached (by rw [h]; exact Nat.zero_le _), hsub]
  refine congrArg CoreStep.done (State.onCore_congr ?_)
  exact congrArg (fun l => { s.core c with sems := l }) (setAt_getD_self (s.core c).sems (syncSem w) 0)
theorem State.fenceSync_drained (h : (s.core c).drained = true) : s.fenceSync p c w = .done s := if_pos h
theorem State.fenceSync_undrained (h : (s.core c).drained = false) : s.fenceSync p c w = .hold s := if_neg (by rw [h]; decide)

/-! ## Barriers (R91) -/

theorem all_arrived_iff (l : List Nat) (me : Nat) (P : Nat → Option (Nat × W32)) (m : Nat × W32) :
    (l.all fun i => i == me || P i == some m) = true ↔ ∀ i ∈ l.filter (· ≠ me), P i = some m := by
  simp only [List.all_eq_true, List.mem_filter, Bool.or_eq_true, beq_iff_eq, decide_eq_true_eq]
  exact forall_congr' fun i => ⟨fun h hi => (h hi.1).resolve_left hi.2, fun h hi => or_iff_not_imp_left.2 fun hne => h ⟨hi, hne⟩⟩
/-- GROUP without the core's own position, and an arrival with another GROUP, are program faults. -/
theorem State.barrier_faults (h : (barrierGroup w).getLsbD (s.position p c) = false ∨ s.barrierClash p c w = true) : s.barrier p c w = .fault := by
  unfold State.barrier barrierGroup at *
  rcases h with hme | hclash
  · simp only [hme, Bool.not_false, if_true]
  · simp only [hclash, if_true, ite_self]

section
variable (hme : (barrierGroup w).getLsbD (s.position p c) = true) (hclash : s.barrierClash p c w = false)
include hme hclash

/-- The last member to arrive completes the barrier. -/
theorem State.barrier_completes (h : ∀ i ∈ s.barrierPeers p c w, s.arrival p i = some (barrierMark w)) : s.barrier p c w = .done (s.releasePeers p c w) := by
  have hall := (all_arrived_iff _ _ _ _).2 h
  unfold State.barrier
  unfold barrierMark at hall
  unfold barrierGroup at hme hall
  simp only [hme, hclash, hall, Bool.not_true, Bool.false_eq_true, if_false, if_true]
  rfl
/-- Any other member marks its arrival and is held. -/
theorem State.barrier_waits (h : ∃ i ∈ s.barrierPeers p c w, s.arrival p i ≠ some (barrierMark w)) :
    s.barrier p c w = .hold (s.onCore c fun k => { k with barrier := some (barrierMark w) }) := by
  obtain ⟨i, hi, hne⟩ := h
  have hall := mt (all_arrived_iff _ _ _ _).1 fun hall => hne (hall i hi)
  unfold State.barrier
  unfold barrierMark at hall
  unfold barrierGroup at hme hall
  simp only [hme, hclash, Bool.not_true, Bool.false_eq_true, if_false]
  exact if_neg hall
end

/-! ## A signal that comes up (R90, R92) -/

/-- The oldest signal has left its core. -/
def State.signalTaken (s : State) (c : Nat) (rest : List Sig) : State := s.onCore c fun k => { k with sigs := rest }

section
variable {g : Sig} {rest : List Sig} (hp : s.partOf c = some p) (hs : (s.core c).sigs = g :: rest)
include hp hs

/-- A signal behind writes that are not yet visible changes nothing. -/
theorem State.signalDone_behind (h : g.xfers ≠ 0 ∨ g.units ≠ 0 ∨ g.passes ≠ 0) : s.signalDone c = s := by
  unfold State.signalDone
  rw [hs, hp]
  refine if_pos ?_
  simpa only [Bool.or_eq_true, decide_eq_true_eq, or_assoc] using h

section
variable {d : Nat} (hx : g.xfers = 0) (hu : g.units = 0) (hq : g.passes = 0) (hheld : ((s.signalTaken c rest).core c).held_ g.target = true)
  (hd : (s.signalTaken c rest).peerCore p g.target = some d)
include hx hu hq hheld hd

/-- A signal with nothing ahead of it, to a position the launch holds, is added to its semaphore, or is a program fault of its core. -/
theorem State.signalDone_reaches :
    s.signalDone c = if 65535 < ((s.signalTaken c rest).semaphore d g.sem.val).toNat + g.count.toNat then (s.signalTaken c rest).programFault c
      else (((s.signalTaken c rest).onCore d fun k => { k with sems := setAt k.sems g.sem.val ((s.signalTaken c rest).semaphore d g.sem.val + g.count) }).tryHeld d).tryHeld c := by
  unfold State.signalTaken at *
  unfold State.signalDone
  simp only [hs, hp, hx, hu, hq, hheld, hd, ne_eq, not_true_eq_false, decide_false, Bool.or_self, Bool.false_eq_true, if_false, if_true]
  rfl
theorem State.signalDone_added (hfit : ((s.signalTaken c rest).semaphore d g.sem.val).toNat + g.count.toNat ≤ 65535) :
    s.signalDone c =
      (((s.signalTaken c rest).onCore d fun k => { k with sems := setAt k.sems g.sem.val ((s.signalTaken c rest).semaphore d g.sem.val + g.count) }).tryHeld d).tryHeld c := by
  rw [State.signalDone_reaches hp hs hx hu hq hheld hd, if_neg (Nat.not_lt.2 hfit)]
theorem State.signalDone_overflows (hover : 65535 < ((s.signalTaken c rest).semaphore d g.sem.val).toNat + g.count.toNat) :
    s.signalDone c = (s.signalTaken c rest).programFault c := by
  rw [State.signalDone_reaches hp hs hx hu hq hheld hd, if_pos hover]
end
end
end

/-- Settles O47: each SYNC row that issues is its meaning (`exec_syncWait_issued` and its like), whose cases are the rules of R90 to R92. -/
theorem synchronisingInstructions : Obligations.SynchronisingInstructions := by
  unfold Obligations.SynchronisingInstructions
  intro s core w p c k f n v g me others next held hp
  refine ⟨?signal, ?waitReached, ?waitZero, ?waitShort, ?barrierLast, ?barrierEarly, ?barrierFault, ?fenceDone, ?fenceHeld, ?signalReaches, ?signalBehind⟩
  case signal => intro hi; rw [exec_syncSignal_issued hp hi]; rfl
  case waitReached => intro hi h; rw [exec_syncWait_issued hp hi, State.wait_reached h]; rfl
  case waitZero => intro hi h; rw [exec_syncWait_issued hp hi, State.wait_zero h]; rfl
  case waitShort => intro hi h; rw [exec_syncWait_issued hp hi, State.wait_short h]; rfl
  case barrierLast => intro hi hme hclash h; rw [exec_syncBarrier_issued hp hi, State.barrier_completes hme hclash h]; rfl
  case barrierEarly => intro hi hme hclash h; rw [exec_syncBarrier_issued hp hi, State.barrier_waits hme hclash h]; rfl
  case barrierFault => intro hi h; rw [exec_syncBarrier_issued hp hi, State.barrier_faults h]; rfl
  case fenceDone => intro hi h; rw [exec_syncFence_issued hp hi, State.fenceSync_drained h]; rfl
  case fenceHeld => intro hi h; rw [exec_syncFence_issued hp hi, State.fenceSync_undrained h]; rfl
  case signalReaches =>
    intro x rest d hs hx hu hq t y hheld hd
    refine ⟨fun hfit => ?_, fun hover => ?_⟩
    · rw [exec_signalTakeEffect, State.signalDone_added hp hs hx hu hq hheld hd hfit]; rfl
    · rw [exec_signalTakeEffect, State.signalDone_overflows hp hs hx hu hq hheld hd hover]; rfl
  case signalBehind =>
    intro x rest hs h
    rw [exec_signalTakeEffect, State.signalDone_behind hp hs h]

end Sys2Proof.Machine
end

section
/-! Sparse tables as they go on (R178, R180, R186): the end of a gather, and the tables that it leaves free to go. A gather's counts and its completion keep the
tables' numbers where their map is canonical (`State.SameTables`); where it is not, the clause of TablesGoOn on the end of a gather is refuted. -/

namespace Sys2Proof.Machine

/-! ## Keys of a map that a listed value changes in -/

section
variable {α : Type}

theorem KMap.keys_set_listed {m : KMap α} {lo k : Nat} {u : α} (v : α) (hm : KMap.sortedFrom lo m = true) (hk : KMap.get? m k = some u) :
    KMap.keys (KMap.set m k v) = KMap.keys m := by
  induction m generalizing lo with
  | nil => cases hk
  | cons x m ih =>
    obtain ⟨j, a⟩ := x
    obtain ⟨-, hrest⟩ : lo ≤ j ∧ KMap.sortedFrom (j + 1) m = true := by simpa [KMap.sortedFrom] using hm
    by_cases hj : j = k
    · subst hj
      simp [KMap.set, KMap.keys]
    · have hlisted : KMap.get? m k = some u := by simpa [KMap.get?, hj] using hk
      have hbelow : ¬ k < j := fun hlt => by simp [KMap.get?_below (Nat.lt_succ_of_lt hlt) hrest] at hlisted
      simpa [KMap.set, KMap.keys, hbelow, hj] using ih hrest hlisted
theorem KMap.keys_mod {m : KMap α} (hm : KMap.wf m = true) (k : Nat) (f : α → α) : KMap.keys (KMap.mod m k f) = KMap.keys m := by
  unfold KMap.mod
  cases hk : KMap.get? m k with
  | none => rfl
  | some u => exact KMap.keys_set_listed (f u) hm hk
theorem KMap.wf_mod {m : KMap α} (hm : KMap.wf m = true) (k : Nat) (f : α → α) : KMap.wf (KMap.mod m k f) = true := by
  unfold KMap.mod
  cases KMap.get? m k with
  | none => exact hm
  | some u => exact KMap.wf_set k (f u) hm
end

/-! ## Operations that keep the tables' numbers -/

/-- Where the tables of `s` are a canonical map, those of `t` are one too, of the same numbers. -/
def State.SameTables (s t : State) : Prop :=
  KMap.wf s.tbl.tables = true → KMap.wf t.tbl.tables = true ∧ KMap.keys t.tbl.tables = KMap.keys s.tbl.tables

section
variable {s t u : State}

theorem State.SameTables.of_tables_eq (h : t.tbl.tables = s.tbl.tables) : s.SameTables t := fun hs => by rw [h]; exact ⟨hs, rfl⟩
theorem State.SameTables.refl (s : State) : s.SameTables s := .of_tables_eq rfl
theorem State.SameTables.trans (hst : s.SameTables t) (htu : t.SameTables u) : s.SameTables u := fun hs => by
  obtain ⟨ht, hkeys⟩ := hst hs
  obtain ⟨hu, hkeys'⟩ := htu ht
  exact ⟨hu, hkeys'.trans hkeys⟩
theorem State.sameTables_each {α : Type} (l : List α) {f : State → α → State} (hf : ∀ (s : State) (x : α), s.SameTables (f s x)) (s : State) : s.SameTables (s.each l f) := by
  induction l generalizing s with
  | nil => exact .refl s
  | cons x l ih => exact (hf s x).trans (ih (f s x))
end

theorem State.sameTables_onTable (s : State) (tid : Nat) (f : Table → Table) : s.SameTables (s.onTable tid f) :=
  fun hs => ⟨KMap.wf_mod hs tid f, KMap.keys_mod hs tid f⟩
theorem State.sameTables_evictRow (s : State) (tid row : Nat) : s.SameTables (s.evictRow tid row) := s.sameTables_onTable tid _
theorem State.sameTables_fillHot (s : State) (tid n : Nat) : s.SameTables (s.fillHot tid n) := by
  induction n generalizing s with
  | zero => exact .refl s
  | succ n ih =>
    unfold State.fillHot
    split
    · exact .refl s
    · split
      · exact (s.sameTables_onTable tid _).trans (ih _)
      · exact .refl s
theorem State.sameTables_reclaimTable (s : State) (tid : Nat) : s.SameTables (s.reclaimTable tid) :=
  (s.sameTables_onTable tid _).trans (State.sameTables_fillHot _ tid _)
theorem State.sameTables_makeHot (s : State) (tid row : Nat) : s.SameTables (s.makeHot tid row) := by
  unfold State.makeHot
  split
  · exact .refl s
  · dsimp only
    split_ifs
    · exact .refl s
    · exact .refl s
    · exact .of_tables_eq rfl
    · exact .refl s
    · split
      · exact ((s.sameTables_evictRow tid _).trans (State.sameTables_onTable _ tid _)).trans (State.sameTables_reclaimTable _ tid)
      · exact (s.sameTables_onTable tid _).trans (State.sameTables_reclaimTable _ tid)
theorem State.sameTables_countRows (s : State) (rows : List (Nat × Nat)) : s.SameTables (s.countRows rows) :=
  State.sameTables_each rows (fun s x => s.sameTables_onTable x.1 _) s
theorem State.sameTables_countGather (s : State) (g : Gather) : s.SameTables (s.countGather g) := by
  unfold State.countGather
  dsimp only
  refine .trans (.trans (State.sameTables_each _ ?rows s) (State.sameTables_each _ ?slices _)) (State.sameTables_each _ ?hot _)
  case rows => exact fun s _ => s.sameTables_countRows _
  case slices => exact fun s t => s.sameTables_onTable t _
  case hot => exact fun s x => s.sameTables_makeHot x.1 x.2

/-! ## Completions leave the sparse-gather unit alone -/

@[simp] theorem State.cqIrq_tbl (s : State) (k : Nat) (last : Bool) : (s.cqIrq k last).tbl = s.tbl := by
  unfold State.cqIrq
  dsimp only
  split <;> rfl
@[simp] theorem State.writeCq_tbl (s : State) (k : Nat) (c : Compl) : (s.writeCq k c).tbl = s.tbl := by
  unfold State.writeCq
  dsimp only
  rw [State.cqIrq_tbl, State.onQp_tbl, State.hostWrite_tbl]
@[simp] theorem State.complete_tbl (s : State) (k : Nat) (c : Compl) : (s.complete k c).tbl = s.tbl := by
  unfold State.complete
  dsimp only
  split
  · exact s.writeCq_tbl k c
  · rfl
@[simp] theorem State.completeFor_tbl (s : State) (h : Hdr) (c : Compl) : (s.completeFor h c).tbl = s.tbl := by
  unfold State.completeFor
  split
  · exact s.complete_tbl _ c
  · rfl
@[simp] theorem State.finishDeg_tbl (s : State) (h : Hdr) (deg : Bool) (r0 r1 : Nat) : (s.finishDeg h deg r0 r1).tbl = s.tbl := s.completeFor_tbl h _

/-! ## The end of a gather (R178, R180) -/

/-- A gather of a command has left the running ones: its reads are counted, and its sums and counts stand in the command's buffer before its completion. -/
def State.gatherDelivered (s : State) (gid : W32) (g : Gather) (h : Hdr) (out : W64) : State :=
  let (vecs, counts, missing, lost) := s.gatherResult g
  (((s.onTbl fun b => { b with gathers := b.gathers.filter fun x => x.gid != gid }).countGather g).hostWrite out.toNat
    (vecs.flatMap wordsBytes ++ counts.flatMap fun n => leBytes 4 n)).finishDeg h (decide (lost ≠ 0)) missing lost
/-- What the end of a gather on table `tid` frees: slots of every table, then the tables of `ids` whose removal waited for it. -/
def State.gatherFrees (s : State) (tid : Nat) (ids : List Nat) : State := ((s.reclaimAll.tryDestroy tid).each ids fun s t => s.tryDestroy t).settle

theorem State.gatherDelivered_sameTables (s : State) (gid : W32) (g : Gather) (h : Hdr) (out : W64) : s.SameTables (s.gatherDelivered gid g h out) := by
  refine (State.SameTables.of_tables_eq (t := s.onTbl fun b => { b with gathers := b.gathers.filter fun x => x.gid != gid }) rfl).trans
    ((State.sameTables_countGather _ g).trans (.of_tables_eq ?_))
  unfold State.gatherDelivered
  rw [State.finishDeg_tbl, State.hostWrite_tbl]

section
variable {s : State} {gid : W32} {g : Gather} {h : Hdr} {out : W64} (hg : s.tbl.gathers.find? (fun g => g.gid == gid) = some g) (hshards : g.shards = [])
  (hwaits : (s.part g.part).waitsFor (.gather gid) = false) (hcmd : g.cmd = some (h, out))
include hg hshards hwaits hcmd

/-- A gather that every shard has answered completes; the tables that may go are those the state holds once it is delivered. -/
theorem exec_gatherComplete_delivers : exec (.gatherComplete gid) s =
    .next ((s.gatherDelivered gid g h out).gatherFrees g.table (KMap.keys (s.gatherDelivered gid g h out).tbl.tables)).woken := by
  change woken (s.gatherDone gid) = _
  unfold State.gatherDone
  simp only [hg, hshards, hwaits, hcmd, List.isEmpty_nil, Bool.not_true, Bool.or_self, Bool.false_eq_true, if_false]
  rfl
/-- On a canonical map these are the tables that the state held before: the gather's clause of TablesGoOn, with the hypothesis that it lacks. -/
theorem exec_gatherComplete_canonical (hs : KMap.wf s.tbl.tables = true) :
    exec (.gatherComplete gid) s = .next ((s.gatherDelivered gid g h out).gatherFrees g.table (KMap.keys s.tbl.tables)).woken := by
  rw [exec_gatherComplete_delivers hg hshards hwaits hcmd, (s.gatherDelivered_sameTables gid g h out hs).2]
end

/-! ## Tables out of order -/

/-- A command of queue pair 0. -/
def queuedHdr : Hdr := { fn := 0, qp := 0, flags := 0, part := 0, tag := 0, paramLen := 0, rsv := 0, run := 0 }
/-- A table of FP32 rows whose removal is asked for. -/
def leavingTable : Table :=
  { mode := 0, fmt := 0, width := 2, rows := 4, seed := 0, subA := 0, subB := 0, combine := 0, pantryRows := 0, owners := [1], ownerPools := false, entries := [],
    attic := [], pantry := [], reclaim := [], gathers := 0, cands := [], slices := 0, hotWait := [], holders := [], lost := [], destroy := some queuedHdr }
/-- A table whose rows are table 3's, each combined with another of them (R175). -/
def composedTable : Table := { leavingTable with mode := 2, subA := 3, subB := 3, destroy := none }
/-- A gather of no bags on table 5, that waits for no shard. -/
def emptyGather : Gather :=
  { gid := 7, table := 5, pool := 0, bags := [], cmd := some (queuedHdr, 0), slot := none, part := 0, kept := [], rows := 0, stamps := [], shards := [], far := [],
    sums := [], lostShards := [] }
/-- Table 5 is listed before table 3, its sub-table: a list of tables that is no canonical map. -/
def disorderedTables : State := State.reset.onTbl fun b => { b with tables := [(5, composedTable), (3, leavingTable)], gathers := [emptyGather] }

/-- Counting the gather's slices writes table 3 in front of table 5, and the old table 3 stays listed. -/
theorem disorderedTables_delivered : KMap.keys (disorderedTables.gatherDelivered 7 emptyGather queuedHdr 0).tbl.tables = [3, 5, 3] := by decide +kernel
/-- The model's pass over these numbers removes both tables 3. -/
theorem disorderedTables_freed :
    KMap.keys ((disorderedTables.gatherDelivered 7 emptyGather queuedHdr 0).gatherFrees 5 [3, 5, 3]).woken.tbl.tables = [5] := by decide +kernel
/-- The statement's pass over the numbers listed before removes one of them. -/
theorem disorderedTables_kept :
    KMap.keys ((disorderedTables.gatherDelivered 7 emptyGather queuedHdr 0).gatherFrees 5 [5, 3]).woken.tbl.tables = [5, 3] := by decide +kernel

/-- Refutes O53: the clause on the end of a gather takes the tables that may go from the state before it (`KMap.keys s.tbl.tables`), the model from the state once
it is delivered. The two agree on a canonical map (`exec_gatherComplete_canonical`), but the statement speaks of every state, and on `disorderedTables` a table
that leaves is listed twice once its slices are counted: the model removes both, the statement one. -/
theorem not_tablesGoOn : ¬ Obligations.TablesGoOn := by
  unfold Obligations.TablesGoOn
  intro hall
  obtain ⟨-, hclause, -⟩ := hall disorderedTables 0 7
  have hstated : exec (.gatherComplete 7) disorderedTables =
      .next ((disorderedTables.gatherDelivered 7 emptyGather queuedHdr 0).gatherFrees 5 [5, 3]).woken := hclause emptyGather queuedHdr 0 [] [] 0 0 rfl rfl rfl rfl rfl
  have hmodel := exec_gatherComplete_delivers (s := disorderedTables) (gid := 7) (g := emptyGather) (h := queuedHdr) (out := 0) rfl rfl rfl rfl
  rw [disorderedTables_delivered] at hmodel
  have hstates := Host.Outcome.next.inj (hmodel.symm.trans hstated)
  have hkeys : [5] = [5, 3] := disorderedTables_freed.symm.trans ((congrArg (fun t => KMap.keys t.tbl.tables) hstates).trans disorderedTables_kept)
  contradiction

end Sys2Proof.Machine
end

section
/-! Power samples (R381, R393 to R395): the steps that CAP takes, and what a sample leaves of the power state. -/

namespace Sys2Proof.Machine

/-! ## Records leave the power state alone -/

section
variable (s : State)

@[simp] theorem State.record_pwr (type sev : Nat) (pl : Bytes) : (s.record type sev pl).pwr = s.pwr := by
  unfold State.record
  dsimp only
  split <;> rfl
@[simp] theorem State.powerEvent_pwr (ev : Nat) : (s.powerEvent ev).pwr = s.pwr := s.record_pwr _ _ _
@[simp] theorem State.thermEvent_pwr (kind sensor : Nat) (t : W16) (ev : Nat) : (s.thermEvent kind sensor t ev).pwr = s.pwr := s.record_pwr _ _ _
@[simp] theorem State.stepsChanged_pwr (before : Nat) : (s.stepsChanged before).pwr = s.pwr := by
  unfold State.stepsChanged
  split
  · rfl
  · exact s.powerEvent_pwr 2
end

theorem State.stepsChanged_same {s : State} {before : Nat} (h : s.pwr.steps = before) : s.stepsChanged before = s := if_pos h
theorem State.stepsChanged_other {s : State} {before : Nat} (h : s.pwr.steps ≠ before) : s.stepsChanged before = s.powerEvent 2 := if_neg h

/-! ## The steps of CAP (R393, R394) -/

theorem foldl_max_le_iff (l : List Nat) (b n : Nat) : l.foldl max b ≤ n ↔ b ≤ n ∧ ∀ y ∈ l, y ≤ n := by
  induction l generalizing b with
  | nil => simp
  | cons x l ih => rw [List.foldl_cons, ih, max_le_iff, List.forall_mem_cons, and_assoc]
theorem maxNat_le_iff (l : List Nat) (n : Nat) : maxNat l ≤ n ↔ ∀ y ∈ l, y ≤ n := by
  unfold maxNat
  simpa using foldl_max_le_iff l 0 n

theorem le_capW (w : Pwr) : 600 ≤ capW w := le_min (by decide) (le_max_left 600 _)
theorem capW_le (w : Pwr) : capW w ≤ 900 := min_le_left 900 _

/-- A fast step: the newest sample `x` is above PEAK. -/
abbrev Pwr.StepsFast (w : Pwr) (x : Nat) : Prop := 1100000 < x ∧ w.cap < 8
/-- A slow step: its wait is over, and the mean of the last 64 samples is above CAP_W. -/
abbrev Pwr.StepsSlow (w : Pwr) : Prop :=
  w.slowWait = 0 ∧ 1000 * capW w * (w.samples.take 64).length < sumNat (w.samples.take 64) ∧ w.cap < 8
/-- A step back: its wait is over, and the last 1,024 samples are none above PEAK and in the mean at most 15/16 of CAP_W. -/
abbrev Pwr.StepsBack (w : Pwr) : Prop :=
  w.upWait = 0 ∧ 0 < w.cap ∧ 16 * sumNat (w.samples.take 1024) ≤ 15 * 1000 * capW w * (w.samples.take 1024).length ∧ ∀ y ∈ w.samples.take 1024, y ≤ 1100000

section
variable {w : Pwr} {x : Nat}

theorem Pwr.capStep_adds (hx : w.samples.head? = some x) (h : w.StepsFast x ∨ w.StepsSlow) :
    w.capStep = { w with cap := w.cap + 1, slowWait := 63, upWait := 1024 } := by
  unfold Pwr.capStep
  simp only [hx, Option.getD_some, Bool.and_eq_true, decide_eq_true_eq, meanOver, and_assoc]
  by_cases hfast : w.StepsFast x
  · rw [if_pos hfast]
    simp
  · rw [if_neg hfast, if_pos (h.resolve_left hfast)]
    simp

variable (hx : w.samples.head? = some x) (hfast : ¬ w.StepsFast x) (hslow : ¬ w.StepsSlow)
include hx hfast hslow

theorem Pwr.capStep_back (hback : w.StepsBack) : w.capStep = { w with cap := w.cap - 1, slowWait := w.slowWait - 1, upWait := 1023 } := by
  unfold Pwr.capStep
  simp only [hx, Option.getD_some, Bool.and_eq_true, decide_eq_true_eq, meanOver, maxNat_le_iff, and_assoc]
  rw [if_neg hfast, if_neg hslow, if_pos hback]
  simp [Nat.not_lt.2 (Nat.sub_le w.cap 1)]
theorem Pwr.capStep_waits (hback : ¬ w.StepsBack) : w.capStep = { w with slowWait := w.slowWait - 1, upWait := w.upWait - 1 } := by
  unfold Pwr.capStep
  simp only [hx, Option.getD_some, Bool.and_eq_true, decide_eq_true_eq, meanOver, maxNat_le_iff, and_assoc]
  rw [if_neg hfast, if_neg hslow, if_neg hback]
  simp
end

/-- CAP stays within 8 whatever THERM and FLOOR are: its step reads neither. -/
theorem Pwr.capStep_cap_le {w : Pwr} (h : w.cap ≤ 8) : w.capStep.cap ≤ 8 := by
  obtain ⟨hcap, -, -⟩ := Pwr.capStep_bounded { w with therm := 0, floor := 0 } ⟨h, Nat.zero_le 8, Nat.zero_le 8⟩
  exact hcap

/-! ## A power sample within the input's range (R381) -/

/-- What a sample's reading leaves in the power state, before CAP follows it. -/
def Pwr.sampled (w : Pwr) (mv mw : Nat) : Pwr :=
  { w with mv := mv, mw := mw, samples := (mw :: w.samples).take 1024, low := if mv < 34000 then w.low + 1 else 0,
           overN := if 1100000 < mw then w.overN + 1 else 0 }
/-- A sample's reading is kept, and the 64th low one in a row is recorded. -/
def State.sampled (s : State) (mv mw : Nat) : State :=
  let s := (s.onBbx fun b => { b with aonCycles := b.aonCycles + 256 }).onPwr fun w => w.sampled mv mw
  if s.pwr.low = 64 then s.powerEvent 0 else s

@[simp] theorem State.sampled_pwr (s : State) (mv mw : Nat) : (s.sampled mv mw).pwr = s.pwr.sampled mv mw := by
  unfold State.sampled
  dsimp only
  split
  · exact State.powerEvent_pwr _ 0
  · rfl
theorem State.sampled_dom (s : State) (mv mw d : Nat) : (s.sampled mv mw).dom d = s.dom d := by
  unfold State.dom
  rw [State.sampled_pwr]
  rfl

/-- CAP's step reads no more of a sample than its power. -/
theorem Pwr.capStep_sampled (w : Pwr) (mv mw : Nat) :
    let u := (w.sampled mv mw).capStep
    let v := { w with samples := (mw :: w.samples).take 1024 }.capStep
    u.cap = v.cap ∧ u.slowWait = v.slowWait ∧ u.upWait = v.upWait ∧ u.samples = v.samples := ⟨rfl, rfl, rfl, rfl⟩

/-- Power hold changes nothing of the power state but its own flag. -/
theorem State.powerHold_pwr (s : State) : ∃ b, s.powerHold.pwr = { s.pwr with pwrHold := b } := by
  unfold State.powerHold
  dsimp only
  split_ifs
  · exact ⟨true, State.powerEvent_pwr _ 3⟩
  · exact ⟨false, State.powerEvent_pwr _ 4⟩
  · exact ⟨s.pwr.pwrHold, rfl⟩

theorem State.powerSample_inRange {s : State} {mv mw : Nat} (haon : s.dom 0 = .on) (hmain : s.dom 4 = .on) (hlow : 32000 ≤ mv) (hhigh : mv ≤ 60000) :
    s.powerSample mv mw = (((s.sampled mv mw).onPwr Pwr.capStep).stepsChanged (s.sampled mv mw).pwr.steps).powerHold := by
  have hrange : ¬ (decide (mv < 32000) || decide (60000 < mv)) = true := by simp [hlow, hhigh]
  have hon : ¬ (s.sampled mv mw).dom 4 ≠ .on := by rw [State.sampled_dom]; exact not_not.2 hmain
  unfold State.powerSample
  rw [if_neg (not_not.2 haon)]
  exact (if_neg hon).trans (if_neg hrange)
/-- CAP, its waits and the samples are those of CAP's step on the new samples. -/
theorem State.powerSample_cap {s : State} {mv mw : Nat} (haon : s.dom 0 = .on) (hmain : s.dom 4 = .on) (hlow : 32000 ≤ mv) (hhigh : mv ≤ 60000) :
    let u := (s.powerSample mv mw).pwr
    let w := { s.pwr with samples := (mw :: s.pwr.samples).take 1024 }.capStep
    u.cap = w.cap ∧ u.slowWait = w.slowWait ∧ u.upWait = w.upWait ∧ u.samples = w.samples := by
  obtain ⟨held, hpwr⟩ := (((s.sampled mv mw).onPwr Pwr.capStep).stepsChanged (s.sampled mv mw).pwr.steps).powerHold_pwr
  rw [State.stepsChanged_pwr, State.onPwr_pwr, State.sampled_pwr] at hpwr
  rw [State.powerSample_inRange haon hmain hlow hhigh, State.sampled_pwr, hpwr]
  exact s.pwr.capStep_sampled mv mw

/-- Settles O19: the three cases of the listing are `Pwr.capStep_adds`, `Pwr.capStep_back` and `Pwr.capStep_waits`, and a sample within the input's range
makes that step (`State.powerSample_cap`). -/
theorem capStepFollowsTheSamples : Obligations.CapStepFollowsTheSamples := by
  unfold Obligations.CapStepFollowsTheSamples
  refine ⟨fun w x l hs => ?listing, fun w => ?bounds, fun s mv mw haon hmain hlow hhigh => ?sample⟩
  case listing =>
    have hx : w.samples.head? = some x := by rw [hs]; rfl
    exact ⟨Pwr.capStep_adds hx, Pwr.capStep_back hx, Pwr.capStep_waits hx⟩
  case bounds => exact ⟨Pwr.capStep_cap_le, le_capW w, capW_le w, rfl⟩
  case sample => exact ⟨_, rfl, State.powerSample_cap haon hmain hlow hhigh⟩

end Sys2Proof.Machine
end

section
/-! Thermal samples (R397 to R400): the steps that THERM takes, what is recorded of them, and the thermal hold's start and end. -/

namespace Sys2Proof.Machine

theorem le_tThr (w : Pwr) : 80 ≤ tThr w := le_min (by decide) (le_max_left 80 _)
theorem tThr_le (w : Pwr) : tThr w ≤ 100 := min_le_left 100 _

/-! ## The steps of THERM (R397) -/

/-- The steps that R397 asks for at the temperature `t`. -/
def Pwr.thermTarget (w : Pwr) (t : Int) : Nat := min 8 (max 0 (t - (tThr w : Int) + 1)).toNat

section
variable {w : Pwr} {t : Int}

theorem Pwr.thermStep_up (h : w.therm < w.thermTarget t) : w.thermStep t = w.therm + 1 := if_pos h
theorem Pwr.thermStep_down (h : w.thermTarget t + 2 ≤ w.therm) : w.thermStep t = w.therm - 1 := by
  have hnot : ¬ w.therm < w.thermTarget t := by omega
  exact (if_neg hnot).trans (if_pos h)
theorem Pwr.thermStep_stays (hlow : w.thermTarget t ≤ w.therm) (hhigh : w.therm < w.thermTarget t + 2) : w.thermStep t = w.therm :=
  (if_neg (Nat.not_lt.2 hlow)).trans (if_neg (Nat.not_le.2 hhigh))
end

/-! ## What a sample records (R396, R400) -/

section
variable (s : State) (js : List W16)

/-- THERM follows the hottest junction of a sample; nothing is recorded yet. -/
def State.heatedBy : State := s.onPwr fun w => w.heat (raw256 (hottest js).2 / 256)
/-- The thermal event of a change of THERM. -/
def State.thermChanged : State := (s.heatedBy js).thermEvent 0 (hottest js).1 (hottest js).2 0
end

section
variable {s : State} {js : List W16}

@[simp] theorem State.thermChanged_pwr : (s.thermChanged js).pwr = (s.heatedBy js).pwr := State.thermEvent_pwr _ _ _ _ _
theorem State.heated_eq : s.heated js =
    (if (s.heatedBy js).pwr.therm = s.pwr.therm then s.heatedBy js else s.thermChanged js).stepsChanged s.pwr.steps := rfl
theorem State.heated_unchanged (ht : (s.heatedBy js).pwr.therm = s.pwr.therm) (hsteps : (s.heatedBy js).pwr.steps = s.pwr.steps) :
    s.heated js = s.heatedBy js := by
  rw [State.heated_eq, if_pos ht, State.stepsChanged_same hsteps]
theorem State.heated_changed (ht : (s.heatedBy js).pwr.therm ≠ s.pwr.therm) (hsteps : (s.heatedBy js).pwr.steps = s.pwr.steps) :
    s.heated js = s.thermChanged js := by
  rw [State.heated_eq, if_neg ht, State.stepsChanged_same (by rwa [State.thermChanged_pwr])]
/-- A change of the steps in force is recorded after that of THERM. -/
theorem State.heated_changed_steps (ht : (s.heatedBy js).pwr.therm ≠ s.pwr.therm) (hsteps : (s.heatedBy js).pwr.steps ≠ s.pwr.steps) :
    s.heated js = (s.thermChanged js).powerEvent 2 := by
  rw [State.heated_eq, if_neg ht, State.stepsChanged_other (by rwa [State.thermChanged_pwr])]
end

/-! ## The thermal hold and the shutdown (R398, R399) -/

theorem exec_thermalSample {s : State} {js ss ps : List W16} (hmain : s.dom 4 = .on) (hjs : js ≠ []) (hshut : s.pwr.thermShut = false) :
    exec (.thermalSample js ss ps) s = .next (((s.readTemps js ss ps).heated js).thermActs js ss ps).woken := by
  change woken (s.thermalSample js ss ps) = _
  have hsampled : ¬ (decide (s.dom 4 ≠ .on) || js.isEmpty) = true := by simp [hmain, hjs]
  unfold State.thermalSample
  rw [if_neg hsampled, if_neg (by simp [hshut])]
  rfl

@[simp] theorem State.holdStarts_pwr (s : State) (kind : Nat) (x : Nat × W16) :
    (s.holdStarts kind x).pwr = { s.pwr with thermHold := true, tripN := false } := State.thermEvent_pwr _ _ _ _ _

section
variable {s : State} {js ss ps : List W16}

theorem State.thermActs_shutdown (h : 110 ≤ raw256 (hottest js).2 / 256) : s.thermActs js ss ps = s.thermShutdown (hottest js).1 (hottest js).2 := if_pos h
/-- Outside a hold, the first of junctions, stacks and packages that is too hot starts one. -/
theorem State.thermActs_unheld (hhold : s.pwr.thermHold = false) (h : raw256 (hottest js).2 / 256 < 110) :
    s.thermActs js ss ps = if 105 ≤ raw256 (hottest js).2 / 256 then s.holdStarts 0 (hottest js) else if memAt ss 95 then s.holdStarts 1 (hottest ss)
      else if memAt ps 95 then s.holdStarts 2 (hottest ps) else s := by
  unfold State.thermActs
  simp only [hhold, Int.not_le.2 h, Bool.not_false, if_true, if_false]
/-- A hold ends once the junctions are below T_THR, which is below the shutdown's 110 °C, and the memories are cool. -/
theorem State.thermActs_cooled (hhold : s.pwr.thermHold = true) (h : raw256 (hottest js).2 / 256 < (tThr s.pwr : Int)) (hss : memAt ss 85 = false)
    (hps : memAt ps 85 = false) :
    s.thermActs js ss ps = (s.onPwr fun w => { w with thermHold := false, tripN := true }).thermEvent 0 (hottest js).1 (hottest js).2 2 := by
  have hcool : ¬ 110 ≤ raw256 (hottest js).2 / 256 := by have := tThr_le s.pwr; omega
  unfold State.thermActs
  simp only [hhold, hcool, h, hss, hps, Bool.not_true, Bool.not_false, Bool.and_self, decide_true, Bool.false_eq_true, if_true, if_false]
end

/-- Settles O21: THERM steps toward its target (`Pwr.thermStep_up` and its like), a change is recorded (`State.heated_changed`, `State.heated_changed_steps`), and a sample starts or ends a
hold or shuts the module down (`State.thermActs_unheld`, `State.thermActs_cooled`, `State.thermActs_shutdown`). -/
theorem thermalSamplesStepTheClock : Obligations.ThermalSamplesStepTheClock := by
  unfold Obligations.ThermalSamplesStepTheClock
  refine ⟨fun w t => ?steps, fun s js ss ps => exec_thermalSample, fun s js => ?records, fun s js ss ps => ?acts⟩
  case steps => exact ⟨Pwr.thermStep_up, Pwr.thermStep_down, Pwr.thermStep_stays, rfl, le_tThr w, tThr_le w⟩
  case records => exact ⟨State.heated_unchanged, State.heated_changed, State.heated_changed_steps⟩
  case acts =>
    refine ⟨?cool, ?junction, ?stack, ?package, State.thermActs_shutdown, fun ht hss hps hhold => State.thermActs_cooled hhold ht hss hps, ?hold⟩
    case cool =>
      intro ht hss hps hhold
      rw [State.thermActs_unheld hhold (by omega), if_neg (Int.not_le.2 ht), hss, hps]
      rfl
    case junction =>
      intro ht hlt hhold
      rw [State.thermActs_unheld hhold hlt, if_pos ht]
    case stack =>
      intro ht hss hhold
      rw [State.thermActs_unheld hhold (by omega), if_neg (Int.not_le.2 ht), if_pos hss]
    case package =>
      intro ht hss hps hhold
      rw [State.thermActs_unheld hhold (by omega), if_neg (Int.not_le.2 ht), hss, if_pos hps]
      rfl
    case hold => rw [State.holdStarts_pwr]; exact ⟨rfl, rfl⟩

end Sys2Proof.Machine
end

section
/-! The machine's step: which command it runs, that every command answers a next state, and what a run of steps keeps (R61, R374, R376, R382, R409). -/

namespace Sys2Proof.Machine

theorem step_of_empty {s : State} (h : s.pending = []) : step s = .next s := by unfold step; rw [h]
theorem step_cons (s : State) (c : Instr) (rest : List Instr) : step { s with pending := c :: rest } = exec c { s with pending := rest } := rfl
/-- A step idles on an empty queue, or runs the command at the front on the state with the queue's rest. -/
theorem step_cases {s t : State} (h : step s = .next t) :
    (s.pending = [] ∧ t = s) ∨ ∃ c rest, s.pending = c :: rest ∧ exec c { s with pending := rest } = .next t := by
  unfold step at h
  split at h
  case h_1 hq => exact .inl ⟨hq, (Host.Outcome.next.inj h).symm⟩
  case h_2 c rest hq => exact .inr ⟨c, rest, hq, h⟩

/-- No row of the table gives bits. -/
theorem decodeTableWord_none (nbits w : Nat) : decodeTableWord nbits w = none := rfl
theorem State.withFetchWord_self (s : State) (nbits w : Nat) : s.withFetchWord nbits w = s := rfl

/-! ## Every command answers -/

/-- No row's meaning is a fault or a refusal. -/
theorem exec_completes (i : Instr) (s : State) : Completes (exec i s) := by cases i <;> exact ⟨_, rfl⟩

/-! ## What every step keeps -/

/-- The invariant does not speak of the queue. -/
theorem State.Inv.of_pending {s : State} {q : List Instr} (h : s.Inv) : ({ s with pending := q } : State).Inv := h
theorem Evolves.inv {s t : State} (e : Evolves s t) (h : s.Inv) : t.Inv := by
  obtain ⟨hhost, hbytes, hbox, hrings, hpower⟩ := h
  exact ⟨e.host hhost, e.bytes hbytes, e.box hbox, e.rings hrings, e.power hpower⟩
theorem step_inv {s t : State} (hs : s.Inv) (h : step s = .next t) : t.Inv := by
  rcases step_cases h with ⟨-, rfl⟩ | ⟨c, rest, -, hexec⟩
  · exact hs
  · exact (exec_evolves hexec).inv hs.of_pending
theorem State.reset_inv : State.reset.Inv := by
  refine ⟨rfl, rfl, ⟨Nat.zero_le _, rfl, Nat.zero_le _⟩, ⟨rfl, fun x hx => ?_⟩, ⟨Nat.zero_le _, Nat.zero_le _, Nat.zero_le _⟩⟩
  cases hx

/-- From `s` to `t` the fused SVN does not fall, no core fused out comes back, and the identity is the same (R61, R409). -/
def State.KeepsFuses (s t : State) : Prop :=
  s.boot.svnFused ≤ t.boot.svnFused ∧ (∀ c, s.ras.fusedOut.getLsbD c = true → t.ras.fusedOut.getLsbD c = true) ∧ t.ident = s.ident

theorem State.KeepsFuses.refl (s : State) : s.KeepsFuses s := ⟨le_rfl, fun _ => id, rfl⟩
theorem State.KeepsFuses.trans {s t u : State} (hst : s.KeepsFuses t) (htu : t.KeepsFuses u) : s.KeepsFuses u := by
  obtain ⟨hsvn, hfused, hident⟩ := hst
  obtain ⟨hsvn', hfused', hident'⟩ := htu
  exact ⟨hsvn.trans hsvn', fun c hc => hfused' c (hfused c hc), hident'.trans hident⟩
theorem step_keepsFuses {s t : State} (h : step s = .next t) : s.KeepsFuses t := by
  rcases step_cases h with ⟨-, rfl⟩ | ⟨c, rest, -, hexec⟩
  · exact .refl _
  · exact ⟨(exec_evolves hexec).svn, (exec_evolves hexec).fuses, (exec_evolves hexec).ident⟩
theorem stepsFrom_keepsFuses {n : Nat} {s t : State} (h : stepsFrom n s = .next t) : s.KeepsFuses t := by
  induction n generalizing s with
  | zero =>
    obtain rfl : s = t := Host.Outcome.next.inj h
    exact .refl s
  | succ n ih =>
    unfold stepsFrom at h
    split at h
    next u hstep => exact (step_keepsFuses hstep).trans (ih h)
    next hstop => exact absurd h (hstop t)

/-- Settles O1: the definition of `step`. -/
theorem stepRunsTheFrontCommand : Obligations.StepRunsTheFrontCommand := step_cons
/-- Settles O2. -/
theorem emptyQueueIdlesAndNoWordIsACommand : Obligations.EmptyQueueIdlesAndNoWordIsACommand :=
  ⟨fun _ => step_of_empty, fun nbits w => ⟨decodeTableWord_none nbits w, fun s => s.withFetchWord_self nbits w⟩⟩
/-- Settles O3: every row's meaning is a next state, which keeps the queue (`Evolves.pending`). -/
theorem everyCommandAnswers : Obligations.EveryCommandAnswers := fun i s => by
  obtain ⟨t, ht⟩ := exec_completes i s
  exact ⟨t, ht, (exec_evolves ht).pending⟩
/-- Settles O4. -/
theorem resetHasTheInvariant : Obligations.ResetHasTheInvariant := State.reset_inv
/-- Settles O5: a step idles or runs one command, and every command evolves the state (`exec_evolves`). -/
theorem everyStepKeepsTheInvariant : Obligations.EveryStepKeepsTheInvariant := fun _ _ => step_inv
/-- Settles O6, by induction on the number of steps. -/
theorem fusesAndIdentityAreForGood : Obligations.FusesAndIdentityAreForGood := fun _ _ _ => stepsFrom_keepsFuses

end Sys2Proof.Machine
end

section
/-! The porch: doorbells (R304), enables and disables (R302, R303), the end of a run (R303, R305), the fetch of an inline entry (R307), function-level reset and link loss (R313),
and configuration requests (R408). -/

namespace Sys2Proof.Machine

/-- A queue pair's update counts only by what it makes of that queue pair. -/
theorem State.onQp_congr {s : State} {k : Nat} {f g : Qp → Qp} (h : f (s.qp k) = g (s.qp k)) : s.onQp k f = s.onQp k g :=
  congrArg (fun q => s.onPorch fun p => { p with qps := KMap.setD p.qps k Qp.reset q }) h

/-! ## Doorbells (R304) -/

/-- The position reached is at the value written, modulo the ring. -/
theorem advanceTo_mod {pos v size : Nat} (h : v < size) : (pos + advanceTo pos v size) % size = v := by
  have hpos : pos % size < size := Nat.mod_lt _ (Nat.zero_lt_of_lt h)
  have hsum : pos % size + (v + size - pos % size) = v + size := by omega
  unfold advanceTo
  rw [Nat.add_mod, Nat.mod_mod, ← Nat.add_mod, ← Nat.mod_add_mod, hsum, Nat.add_mod_right, Nat.mod_eq_of_lt h]
theorem advanceTo_lt {pos v size : Nat} (h : v < size) : advanceTo pos v size < size := Nat.mod_lt _ (Nat.zero_lt_of_lt h)

section
variable {s : State} {fn : Fn} {qp : QpNo} {v : Nat} (hr : s.reaches fn = true)
include hr

theorem State.sqTail_moves (hen : (s.qp (qpKey fn qp)).en = true) (hv : v < (s.qp (qpKey fn qp)).runSq) :
    s.sqTail fn qp v = s.onQp (qpKey fn qp) fun q => { q with sqTail := q.sqTail + advanceTo q.sqTail v (s.qp (qpKey fn qp)).runSq } := by
  unfold State.sqTail
  simp only [hr, hen, Nat.not_le.2 hv, Bool.not_true, Bool.false_eq_true, if_false]
  exact State.onQp_congr rfl
theorem State.cqHead_moves (hact : (s.qp (qpKey fn qp)).active = true) (hv : v < (s.qp (qpKey fn qp)).runCq)
    (hle : advanceTo (s.qp (qpKey fn qp)).cqHead v (s.qp (qpKey fn qp)).runCq ≤ (s.qp (qpKey fn qp)).cqTail - (s.qp (qpKey fn qp)).cqHead) :
    s.cqHead fn qp v = s.onQp (qpKey fn qp) fun q => { q with cqHead := q.cqHead + advanceTo q.cqHead v (s.qp (qpKey fn qp)).runCq } := by
  unfold State.cqHead
  simp only [hr, hact, Nat.not_le.2 hv, Nat.not_lt.2 hle, Bool.not_true, decide_false, Bool.or_self, Bool.false_eq_true, if_false]
  exact State.onQp_congr rfl
theorem State.orHead_moves (hact : (s.qp (qpKey fn qp)).active = true) (hv : v < (s.qp (qpKey fn qp)).runOr)
    (hle : advanceTo (s.qp (qpKey fn qp)).orHead v (s.qp (qpKey fn qp)).runOr ≤ (s.qp (qpKey fn qp)).orTail - (s.qp (qpKey fn qp)).orHead) :
    s.orHead fn qp v =
      (((s.onQp (qpKey fn qp) fun q => { q with orHead := q.orHead + advanceTo q.orHead v (s.qp (qpKey fn qp)).runOr }).moveOverflow
        (qpKey fn qp) (s.qp (qpKey fn qp)).overflow.length).releaseHeld (qpKey fn qp)).settle := by
  unfold State.orHead
  simp only [hr, hact, Nat.not_le.2 hv, Nat.not_lt.2 hle, Bool.not_true, decide_false, Bool.or_self, Bool.false_eq_true, if_false]
  refine congrArg (fun t : State => ((t.moveOverflow (qpKey fn qp) (s.qp (qpKey fn qp)).overflow.length).releaseHeld (qpKey fn qp)).settle) ?_
  exact State.onQp_congr rfl

/-! ## Enable and disable (R302, R303) -/

theorem State.disableQp_reached (w : W32) : s.disableQp fn qp w = s.onQp (qpKey fn qp) fun q => { (q.sizes w) with en := false } := if_pos hr

variable {w : W32} (hen : (s.qp (qpKey fn qp)).en = false)
include hen

/-- A write of EN = 1 takes the sizes; what R302 refuses sets BAD_CFG, and what it allows starts a run. -/
theorem State.enableQp_written :
    let k := qpKey fn qp
    let u := s.onQp k fun q => q.sizes w
    let store := !s.boot.hold && !s.boot.recovery
    s.enableQp fn qp w =
      if ((u.qp k).active || !(u.qp k).cfgOk fn || (store && decide (memHbmFree s < 1)) || (s.boot.recovery && k != 0)) = true then u.onQp k fun q => { q with badCfg := true }
      else (u.iff store fun s => s.hbmSize (.orStore k) 1).onQp k fun q => q.start store := by
  unfold State.enableQp
  simp only [hr, hen, Bool.not_true, Bool.or_self, Bool.false_eq_true, if_false]
  rfl
end

/-! ## The end of a run, a failing ring, and the fetch of an entry (R303, R305, R307) -/

section
variable {s : State} {k : Nat}

theorem State.drainEnd_stored (hd : (s.qp k).drained = true) (hst : (s.qp k).store = true) :
    s.drainEnd k = ((s.onQp k fun q => { q with store := false }).hbmSize (.orStore k) 0).onQp k fun q => { q with active := false } := by
  unfold State.drainEnd State.freeStore
  rw [if_pos hd, if_pos hst]
theorem State.drainEnd_unstored (hd : (s.qp k).drained = true) (hst : (s.qp k).store = false) : s.drainEnd k = s.onQp k fun q => { q with active := false } := by
  unfold State.drainEnd State.freeStore
  rw [if_pos hd, if_neg (by simp [hst])]
theorem State.dmaFails_active (h : (s.qp k).active = true) : s.dmaFails k = ((s.onQp k fun q => { q with badDma := true }).stopQp k).settle := if_pos h
end

/-- An inline entry that is no BARRIER: its command is the entry's own 48 bytes. -/
theorem State.fetchNext_inline {s : State} {fn : Fn} {qp : QpNo}
    (hmay : (s.qp (qpKey fn qp)).mayFetch = true) (hdep : s.departed = false) (hring : (s.qp (qpKey fn qp)).sqHead ≠ (s.qp (qpKey fn qp)).sqTail) {e : Bytes}
    (he : s.hostRead ((s.qp (qpKey fn qp)).runSqb.toNat + 64 * ((s.qp (qpKey fn qp)).sqHead % (s.qp (qpKey fn qp)).runSq)) 64 = e)
    (hbar : (entryHdr fn qp e).flags.getLsbD 1 = false) (hin : (entryHdr fn qp e).indirect = false) :
    s.fetchNext fn qp = (s.onQp (qpKey fn qp) fun q => { q with sqHead := q.sqHead + 1 }).fetched (fld e 0 2) (entryHdr fn qp e) (slice e 16 48)
      fun h s => s.command (fld e 0 2) h (slice e 16 48) := by
  unfold State.fetchNext
  simp only [hmay, hdep, he, hbar, hin, beq_eq_false_iff_ne.2 hring, Bool.not_true, Bool.not_false, Bool.or_self, Bool.false_and, Bool.false_eq_true, if_false, if_true]

/-! ## Resets (R313) -/

/-- What every queue pair becomes where the reset value stays what it is. -/
theorem State.qp_mapAll {s : State} (p : Porch → Porch) {f : Nat → Qp → Qp} (hp : (p s.porch).qps = KMap.mapAll s.porch.qps f) {k : Nat} (hf : f k Qp.reset = Qp.reset) :
    (s.onPorch p).qp k = f k (s.qp k) := by
  unfold State.qp KMap.getD
  rw [State.onPorch_porch, hp, KMap.get?_mapAll]
  cases KMap.get? s.porch.qps k with
  | none => exact hf.symm
  | some q => rfl

section
variable {u : State} (hu : KMap.wf u.porch.qps = true)
include hu

/-- An overflow store that goes back changes no more of its queue pair than that it has one. -/
theorem State.freeStore_qp (k j : Nat) : (u.freeStore k).qp j = u.qp j ∨ (k = j ∧ (u.freeStore k).qp j = { u.qp j with store := false }) := by
  unfold State.freeStore
  split
  · by_cases h : k = j
    · subst h
      exact .inr ⟨rfl, State.qp_onQp hu k _⟩
    · exact .inl (State.qp_onQp_ne hu h _)
  · exact .inl rfl
theorem State.freeStore_wf (k : Nat) : KMap.wf (u.freeStore k).porch.qps = true := by
  unfold State.freeStore
  split
  · exact State.wf_onQp k _ hu
  · exact hu
end

/-- One queue pair goes to its reset values; the number of its runs stays. -/
def State.resetQp (s : State) (k : Nat) : State := (s.freeStore k).onQp k fun q => { Qp.reset with runs := q.runs }
theorem State.freeStore_eq_or (s : State) (k : Nat) :
    s.freeStore k = s ∨ s.freeStore k = (s.onQp k fun q => { q with store := false }).hbmSize (.orStore k) 0 := by
  unfold State.freeStore
  split
  · exact .inr rfl
  · exact .inl rfl
theorem State.resetQp_waiting (s : State) (k : Nat) : (s.resetQp k).porch.waiting = s.porch.waiting := by
  unfold State.resetQp
  rcases s.freeStore_eq_or k with h | h <;> rw [h] <;> rfl
theorem State.resetQp_sch (s : State) (k : Nat) : (s.resetQp k).sch = s.sch := by
  unfold State.resetQp
  rcases s.freeStore_eq_or k with h | h <;> rw [h] <;> rfl
theorem State.resetQp_wf {u : State} (hu : KMap.wf u.porch.qps = true) (k : Nat) : KMap.wf (u.resetQp k).porch.qps = true :=
  State.wf_onQp k _ (State.freeStore_wf hu k)
theorem State.resetQp_qp {u : State} (hu : KMap.wf u.porch.qps = true) (k j : Nat) :
    (u.resetQp k).qp j = if k = j then { Qp.reset with runs := (u.qp j).runs } else u.qp j := by
  unfold State.resetQp
  by_cases hkj : k = j
  · subst hkj
    rw [State.qp_onQp (State.freeStore_wf hu k), if_pos rfl]
    rcases State.freeStore_qp hu k k with h | ⟨-, h⟩ <;> rw [h]
  · rw [State.qp_onQp_ne (State.freeStore_wf hu k) hkj, if_neg hkj]
    exact (State.freeStore_qp hu k j).resolve_right fun h => hkj h.1

theorem State.each_resetQp_waiting (s : State) (base : Nat) (l : List Nat) : (s.each l fun s i => s.resetQp (base + i)).porch.waiting = s.porch.waiting := by
  induction l generalizing s with
  | nil => rfl
  | cons x l ih => exact (ih (s.resetQp (base + x))).trans (s.resetQp_waiting (base + x))
theorem State.each_resetQp_sch (s : State) (base : Nat) (l : List Nat) : (s.each l fun s i => s.resetQp (base + i)).sch = s.sch := by
  induction l generalizing s with
  | nil => rfl
  | cons x l ih => exact (ih (s.resetQp (base + x))).trans (s.resetQp_sch (base + x))
/-- Queue pairs of a list go to their reset values; the others stay. -/
theorem State.each_resetQp_qp {u : State} (hu : KMap.wf u.porch.qps = true) (base : Nat) (l : List Nat) (j : Nat) :
    (u.each l fun s i => s.resetQp (base + i)).qp j = if j ∈ l.map (base + ·) then { Qp.reset with runs := (u.qp j).runs } else u.qp j := by
  induction l generalizing u with
  | nil => rfl
  | cons x l ih =>
    refine (ih (State.resetQp_wf hu (base + x))).trans ?_
    rw [State.resetQp_qp hu, List.map_cons]
    by_cases hx : base + x = j
    · simp [hx]
    · simp [hx, Ne.symm hx]

/-- Every queue pair of a function goes to its reset values. -/
def State.resetEach (s : State) (fn : Fn) : State := s.each (List.range 64) fun s i => s.resetQp (64 * fn.val + i)
/-- A queue pair holds no completion of a function's. -/
def Qp.forget (fn : Fn) (q : Qp) : Qp := { q with held := q.held.filter fun e => e.2.1 / 64 ≠ fn.val }
/-- Nothing of a function waits in the porch, and no completion is held for it. -/
def Porch.forget (fn : Fn) (p : Porch) : Porch :=
  { p with waiting := p.waiting.filter fun c => c.h.fn ≠ fn, qps := KMap.mapAll p.qps fun _ => Qp.forget fn }
theorem State.resetQps_eq (u : State) (fn : Fn) : u.resetQps fn = (u.resetEach fn).onPorch (Porch.forget fn) := rfl
theorem State.qp_forget (u : State) (fn : Fn) (k : Nat) : (u.onPorch (Porch.forget fn)).qp k = (u.qp k).forget fn :=
  State.qp_mapAll (f := fun _ => Qp.forget fn) (Porch.forget fn) rfl rfl

section
variable {u : State} {fn : Fn} (hu : KMap.wf u.porch.qps = true)
include hu

theorem State.resetQps_qp (k : Nat) :
    (u.resetQps fn).qp k = (if k ∈ (List.range 64).map (64 * fn.val + ·) then { Qp.reset with runs := (u.qp k).runs } else u.qp k).forget fn := by
  rw [State.resetQps_eq, State.qp_forget]
  exact congrArg (Qp.forget fn) (State.each_resetQp_qp hu (64 * fn.val) (List.range 64) k)
theorem State.resetQps_own {i : Nat} (hi : i < 64) : (u.resetQps fn).qp (64 * fn.val + i) = { Qp.reset with runs := (u.qp (64 * fn.val + i)).runs } := by
  rw [State.resetQps_qp hu, if_pos (List.mem_map_of_mem (List.mem_range.2 hi))]
  rfl
theorem State.resetQps_other {k : Nat} (hk : k / 64 ≠ fn.val) : (u.resetQps fn).qp k = (u.qp k).forget fn := by
  have hnot : k ∉ (List.range 64).map (64 * fn.val + ·) := by
    rintro h
    obtain ⟨i, hi, rfl⟩ := List.mem_map.1 h
    have := List.mem_range.1 hi
    omega
  rw [State.resetQps_qp hu, if_neg hnot]
end
theorem State.resetQps_waiting (u : State) (fn : Fn) : (u.resetQps fn).porch.waiting = u.porch.waiting.filter fun c => c.h.fn ≠ fn := by
  have hwait : (u.resetEach fn).porch.waiting = u.porch.waiting := u.each_resetQp_waiting _ _
  rw [State.resetQps_eq, State.onPorch_porch, Porch.forget, hwait]
theorem State.resetQps_sch (u : State) (fn : Fn) : (u.resetQps fn).sch = u.sch := by
  have hsch : (u.resetEach fn).sch = u.sch := u.each_resetQp_sch _ _
  rw [State.resetQps_eq, State.onPorch_sch, hsch]

/-! ## Configuration requests (R408, Table 12.1) -/

/-- The `n` lowest VFs are enabled. -/
theorem vfs_enabled : ∀ (n : Fin 17), ∀ i < 16, (BitVec.ofNat 16 (2 ^ n.val - 1)).getLsbD i = decide (i < n.val) := by decide

section
variable {s : State} (hdom : s.dom 1 = .on) (hheld : s.boot.romHeld = false) (hstop : s.boot.romStopped = false)
include hdom hheld hstop

theorem exec_configRequest_early (hready : s.boot.pcieReady = false) (vfs : Option (Fin 17)) :
    exec (.configRequest vfs) s = .next { s with porch := { s.porch with cfgRetry := s.porch.cfgRetry + 1 } } := by
  have hon : ¬ (decide (s.dom 1 ≠ .on) || s.boot.romHeld || s.boot.romStopped) = true := by simp [hdom, hheld, hstop]
  have hearly : (!s.boot.pcieReady) = true := by simp [hready]
  exact congrArg Host.Outcome.next ((if_neg hon).trans (congrArg (fun p => { s with porch := p }) (if_pos hearly)))
theorem exec_configRequest_ready (hready : s.boot.pcieReady = true) (vfs : Option (Fin 17)) :
    exec (.configRequest vfs) s =
      .next { s with porch := { s.porch with cfgDone := s.porch.cfgDone + 1, linkUp := true, vfs := (vfs.map fun n => BitVec.ofNat 16 (2 ^ n.val - 1)).getD s.porch.vfs } } := by
  have hon : ¬ (decide (s.dom 1 ≠ .on) || s.boot.romHeld || s.boot.romStopped) = true := by simp [hdom, hheld, hstop]
  have hlate : ¬ (!s.boot.pcieReady) = true := by simp [hready]
  refine congrArg Host.Outcome.next ((if_neg hon).trans ((congrArg (fun p => { s with porch := p }) (if_neg hlate)).trans ?_))
  cases vfs <;> rfl
end

/-- Settles O7. -/
theorem doorbellsMoveTheirRings : Obligations.DoorbellsMoveTheirRings :=
  ⟨fun _ _ _ _ hr hen hv => congrArg woken (State.sqTail_moves hr hen hv), fun _ _ _ _ hr hact hv hle => congrArg woken (State.cqHead_moves hr hact hv hle),
    fun _ _ _ _ hr hact hv hle => congrArg woken (State.orHead_moves hr hact hv hle), fun _ _ _ h => ⟨advanceTo_mod h, advanceTo_lt h⟩⟩

/-- Settles O9: each ground for refusing is one of those of `State.enableQp_written`, and with none a run starts. -/
theorem enableStartsOrRefuses : Obligations.EnableStartsOrRefuses := by
  unfold Obligations.EnableStartsOrRefuses
  intro s fn qp w hr hen k u store
  have hexec : exec (.qpEnable fn qp w) s = woken (s.enableQp fn qp w) := rfl
  rw [hexec, State.enableQp_written hr hen]
  refine ⟨fun hact hcfg hfree hrec => congrArg woken (if_neg ?starts), fun hact => congrArg woken (if_pos ?active), fun hcfg => congrArg woken (if_pos ?config),
    fun hstore hfree => congrArg woken (if_pos ?full), fun hrec hk => congrArg woken (if_pos ?recovery)⟩
  case starts =>
    simp only [Bool.or_eq_true, Bool.and_eq_true, Bool.not_eq_true', decide_eq_true_eq, bne_iff_ne, not_or, not_and, not_not]
    exact ⟨⟨⟨ne_true_of_eq_false hact, ne_false_of_eq_true hcfg⟩, fun h => by have := hfree (by simpa [store] using h); omega⟩, hrec⟩
  case active => simp [show ((s.onQp (qpKey fn qp) fun q => q.sizes w).qp (qpKey fn qp)).active = true from hact]
  case config => simp [show ((s.onQp (qpKey fn qp) fun q => q.sizes w).qp (qpKey fn qp)).cfgOk fn = false from hcfg]
  case full => simp [show (!s.boot.hold && !s.boot.recovery) = true from hstore, hfree]
  case recovery => simp [hrec, show qpKey fn qp ≠ 0 from hk]

/-- Settles O10. -/
theorem queuePairsRunAndDrain : Obligations.QueuePairsRunAndDrain :=
  ⟨fun _ _ _ v hr => congrArg woken (State.disableQp_reached hr v), fun _ _ _ hd hst => congrArg woken (State.drainEnd_stored hd hst),
    fun _ _ _ hd hst => congrArg woken (State.drainEnd_unstored hd hst), fun _ _ _ hact => congrArg woken (State.dmaFails_active hact),
    fun _ _ _ hmay hdep hring hbar hin => congrArg woken (State.fetchNext_inline hmay hdep hring rfl hbar hin)⟩

/-- Settles O11: the resets and the loss of the link are their definitions; what a reset leaves of each queue pair is `State.resetQps_qp`. -/
theorem functionResetAndLinkLoss : Obligations.FunctionResetAndLinkLoss :=
  ⟨fun _ _ => rfl, fun _ _ hu => ⟨fun _ hi => State.resetQps_own hu hi, fun _ hk => State.resetQps_other hu hk, State.resetQps_waiting _ _, State.resetQps_sch _ _⟩, fun _ => rfl⟩

/-- Settles O12. -/
theorem configurationRequests : Obligations.ConfigurationRequests := by
  unfold Obligations.ConfigurationRequests
  intro s vfs hdom hheld hstop
  refine ⟨fun hready => exec_configRequest_early hdom hheld hstop hready vfs, fun hready hvfs => ?done, fun n hready hvfs => ⟨?enabled, vfs_enabled n⟩⟩
  case done => subst hvfs; exact exec_configRequest_ready hdom hheld hstop hready none
  case enabled => subst hvfs; exact exec_configRequest_ready hdom hheld hstop hready (some n)

end Sys2Proof.Machine
end

section
/-! Resets, start-up and power: what a module reset keeps (R18), PERST_N (R401), the ends of boot steps (R403 to R405), power that comes and goes (R380, R388, R389), samples,
phases and shutdowns (R381, R382, R393 to R399), domains (R384 to R387, R390), and the management port (R416, R424). -/

namespace Sys2Proof.Machine

/-! ## What a reset does to the cellar's state of losses (R283) -/

section
variable (v : Variant) (c : Cel)

theorem Cel.start_lostChan (d : Nat) : (c.start v d).lostChan = c.lostChan := by
  unfold Cel.start
  dsimp only
  split
  · rfl
  · split
    · rfl
    · split <;> rfl
theorem Cel.queueOp_lostChan (d : Nat) (op : FlashOp) : (c.queueOp v d op).lostChan = c.lostChan := Cel.start_lostChan v _ d
theorem Cel.parityDone_lostChan (r : Nat) (ph : Option Nat) : (c.parityDone r ph).lostChan = c.lostChan := by
  unfold Cel.parityDone
  split
  · rfl
  · cases ph <;> rfl
theorem Cel.parityStart_lostChan (r : Nat) : (c.parityStart v r).lostChan = c.lostChan := by
  unfold Cel.parityStart
  split
  · exact Cel.queueOp_lostChan v c _ _
  · exact c.parityDone_lostChan r none
theorem Cel.trim_lostChan (ctrl d : Nat) : (c.trim v ctrl d).lostChan = c.lostChan := by
  unfold Cel.trim
  dsimp only
  split
  · rfl
  · exact Cel.parityStart_lostChan v _ _
theorem Cel.trimRun_lostChan (ctrl d n : Nat) : (c.trimRun v ctrl d n).lostChan = c.lostChan := by
  induction n generalizing c d with
  | zero => rfl
  | succ n ih => exact (ih (c.trim v ctrl d) (d + 1)).trans (c.trim_lostChan v ctrl d)
theorem Cel.freeExt_lostChan (dim : Nat) (a : Activity) : (c.freeExt v dim a).lostChan = c.lostChan := by
  unfold Cel.freeExt
  split
  · exact Cel.trimRun_lostChan v c _ _ _
  · rfl
end

/-- `t` is `s` but for its indexes and its cellar, which has lost the same channels. -/
def State.SameButStore (s t : State) : Prop := ∃ r c, t = { s with ret := r, cel := c } ∧ c.lostChan = s.cel.lostChan

section
variable {s t u : State}

theorem State.SameButStore.refl (s : State) : s.SameButStore s := ⟨s.ret, s.cel, rfl, rfl⟩
theorem State.SameButStore.trans (hst : s.SameButStore t) (htu : t.SameButStore u) : s.SameButStore u := by
  obtain ⟨r, c, rfl, hc⟩ := hst
  obtain ⟨r', c', rfl, hc'⟩ := htu
  exact ⟨r', c', rfl, hc'.trans hc⟩
theorem State.sameButStore_onCel (s : State) {f : Cel → Cel} (h : (f s.cel).lostChan = s.cel.lostChan) : s.SameButStore (s.onCel f) := ⟨s.ret, f s.cel, rfl, h⟩
theorem State.sameButStore_onIndex (s : State) (i : Nat) (f : Index → Index) : s.SameButStore (s.onIndex i f) := ⟨_, s.cel, rfl, rfl⟩
theorem State.sameButStore_each {α : Type} (l : List α) {f : State → α → State} (hf : ∀ (s : State) (x : α), s.SameButStore (f s x)) (s : State) : s.SameButStore (s.each l f) := by
  induction l generalizing s with
  | nil => exact .refl s
  | cons x l ih => exact (hf s x).trans (ih (f s x))
end

theorem State.sameButStore_freeExtent (s : State) (dim : Nat) (e : Extent) : s.SameButStore (s.freeExtent dim e) :=
  s.sameButStore_onCel (Cel.trimRun_lostChan _ _ _ _ _)
theorem State.sameButStore_undoLoad (s : State) (i : Nat) (l : Load) : s.SameButStore (s.undoLoad i l) := by
  unfold State.undoLoad
  split
  · exact .refl s
  · exact (State.sameButStore_each _ (fun s e => s.sameButStore_freeExtent _ e) s).trans (State.sameButStore_onIndex _ i _)
theorem Cel.foldl_lostChan {α : Type} {f : Cel → α → Cel} (hf : ∀ c x, (f c x).lostChan = c.lostChan) (l : List α) (c : Cel) : (l.foldl f c).lostChan = c.lostChan := by
  induction l generalizing c with
  | nil => rfl
  | cons x l ih => exact (ih (f c x)).trans (hf c x)
theorem State.sameButStore_dropWrites (s : State) : s.SameButStore s.dropWrites := by
  unfold State.dropWrites
  dsimp only
  refine .trans (State.sameButStore_each s.ret.indexes ?loads s) (.trans (State.sameButStore_each _ ?acts _) (State.sameButStore_onCel _ ?pend))
  case loads => exact fun s x => State.sameButStore_each _ (fun s l => s.sameButStore_undoLoad x.1 l) s
  case acts => exact fun s a => s.sameButStore_onCel (Cel.freeExt_lostChan _ _ _ a)
  case pend =>
    refine Cel.foldl_lostChan (fun c w => ?_) _ _
    split <;> rfl
theorem State.sameButStore_dropReplicas (s : State) : s.SameButStore s.dropReplicas :=
  State.sameButStore_each _ (fun s (x : Nat × List Extent) => State.sameButStore_each x.2 (fun s e => s.sameButStore_freeExtent x.1 e) s) s

/-! ## Module reset (R18) -/

/-- Every index is out of service after a reset. -/
theorem State.moduleReset_unloaded (s : State) : ∀ x ∈ s.moduleReset.ret.indexes, x.2.unloaded = true := by
  intro x hx
  obtain ⟨y, -, rfl⟩ := List.mem_map.1 hx
  rfl
theorem State.moduleReset_hbmUsed (s : State) : s.moduleReset.mem.hbmUsed = 0 := rfl
/-- What a module reset keeps of the state before it. -/
theorem State.moduleReset_keeps (s : State) :
    let t := s.moduleReset
    t.ident = s.ident ∧ t.host = s.host ∧ t.bbx.recs = s.bbx.recs ∧ t.bbx.sealedN = s.bbx.sealedN ∧ t.bbx.nextSeq = s.bbx.nextSeq ∧ t.bbx.starts = s.bbx.starts
      ∧ t.ras.fac = s.ras.fac ∧ t.ras.fld = s.ras.fld ∧ t.ras.awaiting = s.ras.awaiting ∧ t.ras.fusedOut = s.ras.fusedOut ∧ t.ras.hbmSpent = s.ras.hbmSpent
      ∧ t.boot.svnFused = s.boot.svnFused ∧ t.boot.bootImg = s.boot.bootImg ∧ t.fab.buddy = s.fab.buddy ∧ t.fab.laneFailed = s.fab.laneFailed
      ∧ t.cel.lostChan = s.cel.lostChan ∧ t.pwr.modEn = s.pwr.modEn ∧ t.pwr.inputOn = s.pwr.inputOn := by
  obtain ⟨r, c, heq, hlost⟩ := (s.sameButStore_dropReplicas).trans s.dropReplicas.sameButStore_dropWrites
  unfold State.moduleReset
  rw [heq]
  exact ⟨rfl, rfl, rfl, rfl, rfl, rfl, rfl, rfl, rfl, rfl, rfl, rfl, rfl, rfl, rfl, hlost, rfl, rfl⟩

/-- Settles O13. -/
theorem moduleResetClearsAndKeeps : Obligations.ModuleResetClearsAndKeeps := fun s =>
  ⟨⟨rfl, rfl, rfl, rfl, rfl, rfl, rfl, rfl, s.moduleReset_hbmUsed, rfl, rfl, rfl, rfl, rfl, rfl, s.moduleReset_unloaded⟩, s.moduleReset_keeps⟩

end Sys2Proof.Machine
end

section
/-! Start-up and power: PERST_N (R401), the ends of boot steps (R403 to R405), power that comes and goes (R380, R388, R389, R18), power samples (R381), phases that fail
(R382), the thermal shutdown (R399), domains (R384 to R387, R390), and the management port (R416, R424). -/

namespace Sys2Proof.Machine

/-! ## PERST_N (R401, R434) -/

section
variable {s : State}

theorem exec_perstAssert_on (h : s.dom 4 = .on) :
    exec .perstAssert s = .next (((s.onPwr fun w => { w with perstN := false }).killWhere fun _ r => !r.closed).moduleReset) :=
  congrArg Host.Outcome.next (if_neg (not_not.2 h))
theorem exec_perstAssert_off (h : s.dom 4 ≠ .on) : exec .perstAssert s = .next { s with pwr := { s.pwr with perstN := false } } :=
  congrArg Host.Outcome.next (if_pos h)

variable (romOk readable held : Bool)

theorem exec_resetRelease_held (h : s.dom 4 = .on) (hrom : s.boot.romHeld = true) (hlatch : s.svc.latchOpen = false) :
    exec (.resetRelease romOk readable held) s =
      .next ((((s.onPwr fun w => { w with perstN := true }).onPwr fun w => { w with pwrGood := true }).onSvc fun v => { v with opened := false }).bootRom romOk readable held) := by
  have hgo : ¬ (decide (s.dom 4 ≠ .on) || !s.boot.romHeld || s.svc.latchOpen) = true := by simp [h, hrom, hlatch]
  exact congrArg Host.Outcome.next (if_neg hgo)
theorem exec_resetRelease_off (h : s.dom 4 ≠ .on) : exec (.resetRelease romOk readable held) s = .next { s with pwr := { s.pwr with perstN := true } } := by
  have hstay : (decide (s.dom 4 ≠ .on) || !s.boot.romHeld || s.svc.latchOpen) = true := by simp [h]
  exact congrArg Host.Outcome.next (if_pos hstay)
end

/-! ## The ends of boot steps (R403 to R405) -/

/-- No boot step runs: the boot ROM is held or stopped, or the firmware is in hold or in recovery. -/
def Boot.idle (b : Boot) : Bool := b.romHeld || b.romStopped || b.hold || b.recovery
/-- The step after `i` begins, unless the module has gone into hold. -/
def State.nextStep (s : State) (i : Nat) : State := if s.boot.hold then s else s.beginStep 10 (i + 1)

section
variable {s : State} {units : Nat} {aon : W32}

theorem State.stepEnd_idle (h : s.boot.idle = true) (ok : Bool) : s.stepEnd ok units aon = s := by
  have hstop : (s.boot.romHeld || s.boot.romStopped || s.boot.hold || s.boot.recovery || decide (s.boot.step = 0) || decide (0xA < s.boot.step)) = true := by
    unfold Boot.idle at h
    rw [h]
    rfl
  exact if_pos hstop

variable {i : Nat} (h : s.boot.idle = false) (hi : s.boot.step = i)
include h hi

/-- A step of Table 17.1 that runs has ended. -/
theorem State.stepEnd_runs (hlow : 1 ≤ i) (hhigh : i ≤ 0xA) (ok : Bool) :
    s.stepEnd ok units aon =
      if i = 0xA then (s.bootRec i 0 0 0 0 aon).onBoot fun b => { b with step := 0xF, service := true }
      else if (ok && !(decide (i = 7) && decide (1 < countBits 8 (bit units)))) = true then
        let t := s.stepWork i s.boot.path units
        let t := if s.boot.path = 0 then t else t.onBoot fun b => { b with alt := b.alt ||| BitVec.ofNat 10 (2 ^ (i - 1)) }
        (t.bootRec i (if s.boot.path = 0 then 0 else 1) s.boot.path 0 units aon).nextStep i
      else
        let t := s.bootRec i 2 s.boot.path (min 3 (s.boot.fails + 1)) units aon
        if i ≤ 5 then
          if (decide (i = 5) && decide (s.boot.fails = 3)) = true then t.onBoot fun b => { b with hold := true } else t.bootRom true true false
        else (t.stepSkipped i units).nextStep i := by
  subst hi
  have hgo : ¬ (s.boot.romHeld || s.boot.romStopped || s.boot.hold || s.boot.recovery || decide (s.boot.step = 0) || decide (0xA < s.boot.step)) = true := by
    unfold Boot.idle at h
    simp only [h, Bool.false_or, Bool.or_eq_true, decide_eq_true_eq]
    omega
  exact if_neg hgo
theorem State.stepEnd_last (hlast : i = 0xA) (ok : Bool) :
    s.stepEnd ok units aon = (s.bootRec 0xA 0 0 0 0 aon).onBoot fun b => { b with step := 0xF, service := true } := by
  subst hlast
  rw [State.stepEnd_runs h hi (by decide) (by decide), if_pos rfl]
theorem State.stepEnd_passes (hlow : 1 ≤ i) (hhigh : i ≤ 9) (h7 : i ≠ 7) (hpath : s.boot.path = 0) :
    s.stepEnd true units aon = ((s.stepWork i 0 units).bootRec i 0 0 0 units aon).nextStep i := by
  have hpass : (true && !(decide (i = 7) && decide (1 < countBits 8 (bit units)))) = true := by simp [h7]
  rw [State.stepEnd_runs h hi hlow (by omega), if_neg (by omega), if_pos hpass, hpath]
  rfl
theorem State.stepEnd_restarts (hlow : 1 ≤ i) (hhigh : i ≤ 4) :
    s.stepEnd false units aon = (s.bootRec i 2 s.boot.path (min 3 (s.boot.fails + 1)) units aon).bootRom true true false := by
  have h5 : ¬ (decide (i = 5) && decide (s.boot.fails = 3)) = true := by simp [show i ≠ 5 by omega]
  rw [State.stepEnd_runs h hi hlow (by omega), if_neg (by omega), if_neg (by simp)]
  exact (if_pos (by omega)).trans (if_neg h5)
theorem State.stepEnd_skips (hlow : 6 ≤ i) (hhigh : i ≤ 9) :
    s.stepEnd false units aon = ((s.bootRec i 2 s.boot.path (min 3 (s.boot.fails + 1)) units aon).stepSkipped i units).nextStep i := by
  rw [State.stepEnd_runs h hi (by omega) (by omega), if_neg (by omega), if_neg (by simp)]
  exact if_neg (by omega)
end

/-! ## Power that comes and goes (R380, R388, R389, R18) -/

section
variable {s : State}

theorem exec_powerOn_unpowered (mv : W32) (hin : s.pwr.inputOn = false) (hmod : s.pwr.modEn = false) :
    exec (.powerOn mv) s = .next (s.onPwr fun w => { w with mv := mv.toNat, inputOn := true, doms := [(0, .on)], samples := [], low := 0, overN := 0 }) := by
  have hfirst : ¬ s.pwr.inputOn = true := by simp [hin]
  have hwait : ¬ (true && s.pwr.modEn && inputOk mv.toNat && !s.svc.latchOpen) = true := by simp [hmod]
  exact congrArg Host.Outcome.next ((if_neg hfirst).trans (if_neg hwait))
theorem exec_modEnAssert_powersUp (hlatch : s.svc.latchOpen = false) (hdom : s.dom 4 ≠ .on) (hin : s.pwr.inputOn = true) (hmv : inputOk s.pwr.mv = true) :
    exec .modEnAssert s = .next (((s.onPwr fun w => { w with modEn := true }).onPwr fun w => { w with pwrGood := true, inputLost := false }).domsOn [4, 1]) := by
  have hshut : ¬ s.svc.latchOpen = true := by simp [hlatch]
  have hoff : ¬ (s.dom 4 == .on) = true := by simp [hdom]
  have hup : (s.pwr.inputOn && true && inputOk s.pwr.mv && !s.svc.latchOpen) = true := by simp [hin, hmv, hlatch]
  exact congrArg Host.Outcome.next ((if_neg hshut).trans ((if_neg hoff).trans (if_pos hup)))
theorem exec_modEnDeassert_on (hlatch : s.svc.latchOpen = false) (hmod : s.pwr.modEn = true) (hdom : s.dom 4 = .on) :
    exec .modEnDeassert s = .next (((((s.onPwr fun w => { w with modEn := false }).powerEvent 5).stopAll).flood .departing).powerDown) := by
  have hgo : ¬ (s.svc.latchOpen || !s.pwr.modEn) = true := by simp [hlatch, hmod]
  exact congrArg Host.Outcome.next ((if_neg hgo).trans (if_neg (not_not.2 hdom)))

/-- Outside R380's range the input is lost. -/
theorem State.powerSample_outOfRange {mv mw : Nat} (haon : s.dom 0 = .on) (hmain : s.dom 4 = .on) (h : mv < 32000 ∨ 60000 < mv) :
    s.powerSample mv mw = (s.sampled mv mw).loseInput := by
  have hrange : (decide (mv < 32000) || decide (60000 < mv)) = true := by simpa using h
  have hon : ¬ (s.sampled mv mw).dom 4 ≠ .on := by rw [State.sampled_dom]; exact not_not.2 hmain
  unfold State.powerSample
  rw [if_neg (not_not.2 haon)]
  exact (if_neg hon).trans (if_pos hrange)

/-! ## Phases and the thermal shutdown (R382, R399) -/

theorem State.phaseFail_healthy {p : Nat} (hp : s.pwr.failed.getLsbD p = false) (hdom : s.dom 4 = .on) :
    let failed := s.pwr.failed ||| BitVec.ofNat 18 (2 ^ p)
    let n := countBits 18 fun i => failed.getLsbD i
    let new := ({ s.pwr with failed := failed } : Pwr).carrying
    let a := s.fresh.2.faultRec 16 (s.fresh.1 % 8) p p (if n ≤ 2 then 0 else 4) none [] 0
    let b := match new.find? fun i => !s.pwr.carrying.contains i with | some i => a.spareIn 8 p p i | none => a
    let c := (b.onPwr fun w => { w with failed := failed, floor := if n = 3 then min 8 (w.floor + 4) else if 3 < n then min 8 (w.floor + 2) else w.floor }).stepsChanged s.pwr.steps
    s.phaseFail p = if new.length < 12 then c.railOff else c := by
  have hgo : ¬ (s.pwr.failed.getLsbD p || decide (s.dom 4 ≠ .on)) = true := by simp [hp, hdom]
  exact if_neg hgo
theorem exec_thermalHoldExpiry_held (h : s.pwr.thermHold = true) : exec .thermalHoldExpiry s = .next (s.thermShutdown 0 s.pwr.tJ).woken :=
  congrArg woken (if_pos h)
theorem State.thermShutdown_running (n : Nat) (t : W16) (h : s.pwr.thermShut = false) :
    s.thermShutdown n t =
      (((s.onPwr fun w => { w with thermShut := true, tripN := false }).thermEvent 0 n t 3).railOff).each (List.range 6) fun s i => s.setDom (41 + i) .off := by
  unfold State.thermShutdown
  rw [if_neg (by simp [h])]

/-! ## Domains (R384 to R387, R390) -/

/-- A core with nothing to do may sleep. -/
abbrev State.CoreIdle (s : State) (c : Nat) : Prop :=
  (s.partOf c).isSome = true ∧ (s.core c).busy = false ∧ (s.core c).preempt = false ∧ ((s.core c).activity.all fun a => a == 0) = true ∧ s.ras.pieces = []
theorem State.sleepDom_core {d : Nat} (hd : isCoreDom d = true) (hdom : s.dom d = .on) (hidle : s.CoreIdle (d - 7)) :
    s.sleepDom d = (s.setDom d .sleep).onCore (d - 7) fun k => { k with pllLocked := false } := by
  obtain ⟨hpart, hbusy, hpre, hact, htest⟩ := hidle
  have hpart' : (s.partOf (d - 7)).isNone = false := by rw [← Option.not_isSome, hpart]; rfl
  unfold State.sleepDom
  rw [if_neg (not_not.2 hdom), if_pos hd]
  refine if_neg ?_
  rw [hpart', hbusy, hpre, hact, htest]
  simp
theorem State.sleepDom_txt (hdom : s.dom 5 = .on) (hbusy : s.txtBusy = false) : s.sleepDom 5 = s.setDom 5 .sleep := by
  unfold State.sleepDom
  rw [if_neg (not_not.2 hdom), if_neg (by decide), if_pos rfl, if_neg (by simp [hbusy])]
theorem State.sleepDom_ret (hdom : s.dom 6 = .on) (hbusy : s.retBusy = false) : s.sleepDom 6 = s.setDom 6 .sleep := by
  unfold State.sleepDom
  rw [if_neg (not_not.2 hdom), if_neg (by decide), if_neg (by decide), if_pos rfl, if_neg (by simp [hbusy])]
theorem exec_domainWakeDone_changing {d : Fin 57} (h : s.dom d.val = .changing) :
    exec (.domainWakeDone d) s = .next (if isCoreDom d.val then (s.setDom d.val .on).readyCore (d.val - 7) else s.setDom d.val .on).woken :=
  congrArg woken (if_neg (not_not.2 h))
theorem exec_pllLock_on {c : CoreNo} (h : s.dom (coreDom c.val) = .on) :
    exec (.pllLock c) s = .next ((s.onCore c.val fun k => { k with pllLocked := true }).readyCore c.val).woken := by
  have hon : (s.dom (coreDom c.val) == .on || s.dom (coreDom c.val) == .changing) = true := by simp [h]
  exact congrArg woken (if_pos hon)
/-- Two cores that wait turn on in a window. -/
theorem State.inrush_on {a b : Nat} {l : List Nat} (h : s.pwr.onWait = a :: b :: l) :
    s.inrush false = (s.onPwr fun w => { w with onWindow := 2, onWait := w.onWait.drop 2 }).each [a, b] fun s d => if s.dom d == .off then s.setDom d .changing else s := by
  unfold State.inrush
  rw [if_neg Bool.false_ne_true, h]
  rfl
/-- Eight cores that wait begin their ramp in a window. -/
theorem State.inrush_ramp (h : 8 ≤ s.pwr.rampWait.length) :
    s.inrush true = (s.onPwr fun w => { w with rampWindow := 8, rampWait := w.rampWait.drop 8 }).each (s.pwr.rampWait.take 8)
      fun s c => (s.onCore c fun k => { k with activity := k.activity.map fun a => max 1 a }).tryHeld c := by
  unfold State.inrush
  simp only [if_true, List.length_take_of_le h]

/-! ## The management port (R416, R424) -/

theorem State.aon_on (f : State → State) (h : s.dom 0 = .on) : s.aon f = f s := if_pos (by simp [h])
end
theorem Bbx.from_all (b : Bbx) (start n : Nat) : b.from_ start n false = (b.recs.filter fun r => decide (start ≤ r.seq.toNat)).take n := by
  simp only [Bbx.from_, Bool.not_false, Bool.true_or, Bool.and_true]

section
variable {s : State} (h : s.dom 0 = .on)
include h

theorem exec_mctpBbxRead_on (start : W64) (n : W32) :
    let l := (s.bbx.recs.filter fun r => decide (start.toNat ≤ r.seq.toNat)).take n.toNat
    exec (.mctpBbxRead start n) s = .next { s with bbx := s.bbx.markRead l, mgmt := { out := s.mgmt.out ++ [.bbx (l.map fun r => { r with read := true })] } } := by
  intro l
  refine congrArg Host.Outcome.next ((State.aon_on _ h).trans ?_)
  rw [Bbx.from_all]
  rfl
theorem exec_pldmMonitoring_on : exec .pldmMonitoring s = .next (s.say (.monitoring s.pwr.mv s.pwr.mw s.pwr.tJ s.pwr.tS s.pwr.tP s.pwr.tC)) :=
  congrArg Host.Outcome.next (State.aon_on _ h)
theorem exec_pldmFru_on : exec .pldmFru s = .next (s.say (.fru (Config.variantCode s.ident.variant) s.ident.coldPlate s.ident.serial)) :=
  congrArg Host.Outcome.next (State.aon_on _ h)
theorem exec_pldmFirmwareUpdate_unrecovered (image : Bytes) (hrec : s.boot.recovery = false) :
    exec (.pldmFirmwareUpdate image) s = .next (s.say .fwRejected).woken := by
  have hno : (!s.boot.recovery) = true := by simp [hrec]
  exact congrArg woken ((State.aon_on _ h).trans (if_pos hno))
theorem exec_pldmFirmwareUpdate_staged {image : Bytes} {t : State} (hrec : s.boot.recovery = true) (hstage : s.stage image = .inr t) :
    exec (.pldmFirmwareUpdate image) s = .next (t.say .fwAccepted).woken := by
  have hyes : ¬ (!s.boot.recovery) = true := by simp [hrec]
  refine congrArg woken ((State.aon_on _ h).trans ((if_neg hyes).trans ?_))
  rw [hstage]
end

/-- Settles O14. -/
theorem resetIsAssertedAndReleased : Obligations.ResetIsAssertedAndReleased :=
  ⟨fun _ => exec_perstAssert_on, fun _ romOk readable held => exec_resetRelease_held romOk readable held,
    fun _ romOk readable held h => ⟨exec_perstAssert_off h, exec_resetRelease_off romOk readable held h⟩⟩

/-- Settles O16: the cases of `State.stepEnd_runs`. -/
theorem bootStepsEnd : Obligations.BootStepsEnd := fun _ _ _ =>
  ⟨fun h ok => congrArg Host.Outcome.next (State.stepEnd_idle h ok), fun h =>
    ⟨fun ok hlast => congrArg Host.Outcome.next (State.stepEnd_last h hlast rfl ok),
      fun _ hi hlow hhigh h7 hpath => congrArg Host.Outcome.next (State.stepEnd_passes h hi hlow hhigh h7 hpath),
      fun _ hi hlow hhigh => congrArg Host.Outcome.next (State.stepEnd_restarts h hi hlow hhigh),
      fun _ hi hlow hhigh => congrArg Host.Outcome.next (State.stepEnd_skips h hi hlow hhigh)⟩⟩

/-- Settles O17. -/
theorem powerComesAndGoes : Obligations.PowerComesAndGoes :=
  ⟨fun _ mv => exec_powerOn_unpowered mv, fun _ => exec_modEnAssert_powersUp, fun _ hlatch hmod hdom => ⟨_, exec_modEnDeassert_on hlatch hmod hdom, rfl⟩,
    fun _ => ⟨_, rfl, rfl, rfl, rfl, rfl, rfl, rfl, rfl, rfl⟩, fun _ => ⟨rfl, rfl, rfl⟩⟩

/-- Settles O18. -/
theorem powerSamplesAct : Obligations.PowerSamplesAct := fun _ _ _ haon hmain =>
  ⟨fun hlow hhigh => congrArg woken (State.powerSample_inRange haon hmain hlow hhigh), fun h => congrArg woken (State.powerSample_outOfRange haon hmain h)⟩

/-- Settles O20. -/
theorem phaseFailureFloorsTheClock : Obligations.PhaseFailureFloorsTheClock := fun _ _ hp hdom => congrArg woken (State.phaseFail_healthy hp hdom)

/-- Settles O22. -/
theorem thermalShutdown : Obligations.ThermalShutdown := ⟨fun _ => exec_thermalHoldExpiry_held, fun _ n t => State.thermShutdown_running n t⟩

/-- Settles O23. -/
theorem domainsSleepAndWake : Obligations.DomainsSleepAndWake :=
  ⟨fun _ _ hd hdom hpart hbusy hpre hact htest => congrArg Host.Outcome.next (State.sleepDom_core hd hdom ⟨hpart, hbusy, hpre, hact, htest⟩),
    fun _ hdom hbusy => congrArg Host.Outcome.next (State.sleepDom_txt hdom hbusy), fun _ hdom hbusy => congrArg Host.Outcome.next (State.sleepDom_ret hdom hbusy),
    fun _ _ => exec_domainWakeDone_changing, fun _ _ => exec_pllLock_on, fun _ _ _ _ h _ => congrArg woken (State.inrush_on h), fun _ h => congrArg woken (State.inrush_ramp h)⟩

/-- Settles O25. -/
theorem managementPortAnswers : Obligations.ManagementPortAnswers := fun _ h =>
  ⟨exec_mctpBbxRead_on h, exec_pldmMonitoring_on h, exec_pldmFru_on h, exec_pldmFirmwareUpdate_unrecovered h, fun _ _ => exec_pldmFirmwareUpdate_staged h⟩

end Sys2Proof.Machine
end

section
/-! Host commands as the porch has them: taken or waiting (R302 to R307, R319), the first failing check (R316, R317), and completion entries (R308, R312, Table 12.13). -/

namespace Sys2Proof.Machine

/-! ## The rows of the host commands -/

/-- How a row of the host commands is run: the porch fetches its command, and its admission reports the first check of its list that fails. -/
def HostRow.Admits (r : HostRow) (adm : State → Hdr → Bytes → State) : Prop :=
  (∀ h pb s, exec (r.row h pb) s = woken (s.fetched r.op h pb fun h s => adm s h pb))
    ∧ ∀ s h pb f, firstFail (r.checks s h pb) = some f → adm s h pb = s.err h f

/-- A command of a partition that fails a check wakes nothing. -/
theorem runIn_fails {s : State} {h : Hdr} {text : Bool} {l : List (Option Fail)} {act : State → State} {f : Fail} (hl : firstFail l = some f) :
    runIn s h text l act = s.err h f := runCmd_fails hl

theorem hostRowsA_admit : ∀ r ∈ hostRowsA, ∃ adm, r.Admits adm := by
  unfold hostRowsA
  simp only [List.forall_mem_cons]
  exact ⟨
    ⟨State.admitIdentify, fun _ _ _ => rfl, fun _ _ _ _ hf => by unfold State.admitIdentify; exact runCmd_fails hf⟩,
    ⟨State.admitTenantLoad, fun _ _ _ => rfl, fun _ _ _ _ hf => by unfold State.admitTenantLoad; exact runCmd_fails hf⟩,
    ⟨State.admitTenantUnload, fun _ _ _ => rfl, fun _ _ _ _ hf => by unfold State.admitTenantUnload; exact runCmd_fails hf⟩,
    ⟨State.admitTenantUnload, fun _ _ _ => rfl, fun _ _ _ _ hf => by unfold State.admitTenantUnload; exact runCmd_fails hf⟩,
    ⟨State.admitBaseLoad, fun _ _ _ => rfl, fun _ _ _ _ hf => by unfold State.admitBaseLoad; exact runCmd_fails hf⟩,
    ⟨State.admitTenantInfo, fun _ _ _ => rfl, fun _ _ _ _ hf => by unfold State.admitTenantInfo; exact runCmd_fails hf⟩,
    ⟨State.admitAsk, fun _ _ _ => rfl, fun _ _ _ _ hf => by unfold State.admitAsk; exact runIn_fails hf⟩,
    ⟨State.admitGenerate, fun _ _ _ => rfl, fun _ _ _ _ hf => by unfold State.admitGenerate; exact runIn_fails hf⟩,
    ⟨State.admitEmbed, fun _ _ _ => rfl, fun _ _ _ _ hf => by unfold State.admitEmbed; exact runIn_fails hf⟩,
    ⟨State.admitSearch, fun _ _ _ => rfl, fun _ _ _ _ hf => by unfold State.admitSearch; exact runIn_fails hf⟩,
    ⟨State.admitRerank, fun _ _ _ => rfl, fun _ _ _ _ hf => by unfold State.admitRerank; exact runIn_fails hf⟩,
    ⟨State.admitCancel, fun _ _ _ => rfl, fun _ _ _ _ hf => by unfold State.admitCancel; exact runIn_fails hf⟩,
    ⟨State.admitStep, fun _ _ _ => rfl, fun _ _ _ _ hf => by unfold State.admitStep; exact runIn_fails hf⟩,
    ⟨State.admitIndexCreate, fun _ _ _ => rfl, fun _ _ _ _ hf => by unfold State.admitIndexCreate; exact runCmd_fails hf⟩,
    ⟨State.admitIndexCreate, fun _ _ _ => rfl, fun _ _ _ _ hf => by unfold State.admitIndexCreate; exact runCmd_fails hf⟩,
    ⟨State.admitIndexCreate, fun _ _ _ => rfl, fun _ _ _ _ hf => by unfold State.admitIndexCreate; exact runCmd_fails hf⟩,
    ⟨State.admitIndexInsert, fun _ _ _ => rfl, fun _ _ _ _ hf => by unfold State.admitIndexInsert; exact runCmd_fails hf⟩,
    ⟨State.admitIndexDelete, fun _ _ _ => rfl, fun _ _ _ _ hf => by unfold State.admitIndexDelete; exact runCmd_fails hf⟩,
    ⟨State.admitIndexMerge, fun _ _ _ => rfl, fun _ _ _ _ hf => by unfold State.admitIndexMerge; exact runCmd_fails hf⟩,
    ⟨State.admitIndexInfo, fun _ _ _ => rfl, fun _ _ _ _ hf => by unfold State.admitIndexInfo; exact runCmd_fails hf⟩,
    ⟨State.admitIndexLoad, fun _ _ _ => rfl, fun _ _ _ _ hf => by unfold State.admitIndexLoad; exact runCmd_fails hf⟩,
    ⟨State.admitPassageGet, fun _ _ _ => rfl, fun _ _ _ _ hf => by unfold State.admitPassageGet; exact runCmd_fails hf⟩,
    List.forall_mem_nil _⟩
theorem hostRowsB_admit : ∀ r ∈ hostRowsB, ∃ adm, r.Admits adm := by
  unfold hostRowsB
  simp only [List.forall_mem_cons]
  exact ⟨
    ⟨State.admitTableCreate, fun _ _ _ => rfl, fun _ _ _ _ hf => by unfold State.admitTableCreate; exact runCmd_fails hf⟩,
    ⟨State.admitTableCreate, fun _ _ _ => rfl, fun _ _ _ _ hf => by unfold State.admitTableCreate; exact runCmd_fails hf⟩,
    ⟨State.admitTableWrite, fun _ _ _ => rfl, fun _ _ _ _ hf => by unfold State.admitTableWrite; exact runCmd_fails hf⟩,
    ⟨State.admitTableGather, fun _ _ _ => rfl, fun _ _ _ _ hf => by unfold State.admitTableGather; exact runIn_fails hf⟩,
    ⟨State.admitTableInfo, fun _ _ _ => rfl, fun _ _ _ _ hf => by unfold State.admitTableInfo; exact runCmd_fails hf⟩,
    ⟨State.admitVocabLoad, fun _ _ _ => rfl, fun _ _ _ _ hf => by unfold State.admitVocabLoad; exact runCmd_fails hf⟩,
    ⟨State.admitVocabLoad, fun _ _ _ => rfl, fun _ _ _ _ hf => by unfold State.admitVocabLoad; exact runCmd_fails hf⟩,
    ⟨State.admitGrammarLoad, fun _ _ _ => rfl, fun _ _ _ _ hf => by unfold State.admitGrammarLoad; exact runCmd_fails hf⟩,
    ⟨State.admitGrammarLoad, fun _ _ _ => rfl, fun _ _ _ _ hf => by unfold State.admitGrammarLoad; exact runCmd_fails hf⟩,
    ⟨State.admitTokenize, fun _ _ _ => rfl, fun _ _ _ _ hf => by unfold State.admitTokenize; exact runIn_fails hf⟩,
    ⟨State.admitDetokenize, fun _ _ _ => rfl, fun _ _ _ _ hf => by unfold State.admitDetokenize; exact runIn_fails hf⟩,
    ⟨State.admitPartSet, fun _ _ _ => rfl, fun _ _ _ _ hf => by unfold State.admitPartSet; exact runIn_fails hf⟩,
    ⟨State.admitPartStats, fun _ _ _ => rfl, fun _ _ _ _ hf => by unfold State.admitPartStats; exact runIn_fails hf⟩,
    ⟨State.admitPartRegulate, fun _ _ _ => rfl, fun _ _ _ _ hf => by unfold State.admitPartRegulate; exact runIn_fails hf⟩,
    ⟨State.admitAcctRead, fun _ _ _ => rfl, fun _ _ _ _ hf => by unfold State.admitAcctRead; exact runIn_fails hf⟩,
    ⟨State.admitAcctRead, fun _ _ _ => rfl, fun _ _ _ _ hf => by unfold State.admitAcctRead; exact runIn_fails hf⟩,
    List.forall_mem_nil _⟩
theorem hostRowsC_admit : ∀ r ∈ hostRowsC, ∃ adm, r.Admits adm := by
  unfold hostRowsC
  simp only [List.forall_mem_cons]
  exact ⟨
    ⟨State.admitTest false, fun _ _ _ => rfl, fun _ _ _ _ hf => by unfold State.admitTest; exact runCmd_fails hf⟩,
    ⟨State.admitTest true, fun _ _ _ => rfl, fun _ _ _ _ hf => by unfold State.admitTest; exact runCmd_fails hf⟩,
    ⟨State.admitMaintPolicy, fun _ _ _ => rfl, fun _ _ _ _ hf => by unfold State.admitMaintPolicy; exact runCmd_fails hf⟩,
    ⟨State.admitEvacuate, fun _ _ _ => rfl, fun _ _ _ _ hf => by unfold State.admitEvacuate; exact runCmd_fails hf⟩,
    ⟨State.admitFabStatus, fun _ _ _ => rfl, fun _ _ _ _ hf => by unfold State.admitFabStatus; exact runCmd_fails hf⟩,
    ⟨State.admitFabLease, fun _ _ _ => rfl, fun _ _ _ _ hf => by unfold State.admitFabLease; exact runCmd_fails hf⟩,
    ⟨State.admitFabLease, fun _ _ _ => rfl, fun _ _ _ _ hf => by unfold State.admitFabLease; exact runCmd_fails hf⟩,
    ⟨State.admitFabLease, fun _ _ _ => rfl, fun _ _ _ _ hf => by unfold State.admitFabLease; exact runCmd_fails hf⟩,
    ⟨State.admitFabLease, fun _ _ _ => rfl, fun _ _ _ _ hf => by unfold State.admitFabLease; exact runCmd_fails hf⟩,
    ⟨State.admitFabBuddy, fun _ _ _ => rfl, fun _ _ _ _ hf => by unfold State.admitFabBuddy; exact runCmd_fails hf⟩,
    ⟨State.admitFwStage, fun _ _ _ => rfl, fun _ _ _ _ hf => by unfold State.admitFwStage; exact runCmd_fails hf⟩,
    ⟨State.admitFwCommit, fun _ _ _ => rfl, fun _ _ _ _ hf => by unfold State.admitFwCommit; exact runCmd_fails hf⟩,
    ⟨State.admitAttest, fun _ _ _ => rfl, fun _ _ _ _ hf => by unfold State.admitAttest; exact runCmd_fails hf⟩,
    ⟨State.admitBbxRead, fun _ _ _ => rfl, fun _ _ _ _ hf => by unfold State.admitBbxRead; exact runCmd_fails hf⟩,
    ⟨State.admitBbxAck, fun _ _ _ => rfl, fun _ _ _ _ hf => by unfold State.admitBbxAck; exact runCmd_fails hf⟩,
    ⟨State.admitSensors, fun _ _ _ => rfl, fun _ _ _ _ hf => by unfold State.admitSensors; exact runCmd_fails hf⟩,
    List.forall_mem_nil _⟩
theorem hostRows_admit : ∀ r ∈ hostRows, ∃ adm, r.Admits adm := by
  intro r hr
  rw [hostRows, List.mem_append, List.mem_append] at hr
  obtain (hA | hB) | hC := hr
  · exact hostRowsA_admit r hA
  · exact hostRowsB_admit r hB
  · exact hostRowsC_admit r hC

/-! ## What the porch does with a command -/

section
variable {s : State} {op : Nat} {h : Hdr} {pb : Bytes} {f : Hdr → State → State}

/-- A command that is taken waits for its objects, or goes on. -/
theorem State.fetched_taken (ht : s.takes h = true) :
    s.fetched op h pb f = if (s.taken h).mustWait op (s.stamped h) pb then
        (s.taken h).onPorch fun p => { p with waiting := p.waiting ++ [{ op := BitVec.ofNat 16 op, h := s.stamped h, pb := pb }] }
      else f (s.stamped h) (s.taken h) := by
  unfold State.takes at ht
  simp only [Bool.and_eq_true, Bool.not_eq_true'] at ht
  obtain ⟨⟨hmay, hdep⟩, hbar⟩ := ht
  refine if_neg ?_
  rw [hmay, hdep, hbar]
  simp
theorem State.fetched_admitted (ha : s.admits op h pb = true) : s.fetched op h pb f = f (s.stamped h) (s.taken h) := by
  unfold State.admits at ha
  simp only [Bool.and_eq_true, Bool.not_eq_true'] at ha
  obtain ⟨ht, hw⟩ := ha
  rw [State.fetched_taken ht, hw]
  rfl
end

/-- Settles O27. -/
theorem commandsAreTakenOrWait : Obligations.CommandsAreTakenOrWait := by
  unfold Obligations.CommandsAreTakenOrWait
  intro r hr h pb s
  obtain ⟨adm, hexec, -⟩ := hostRows_admit r hr
  rw [hexec]
  refine ⟨fun ht => ?left, fun ht hw => ?waits⟩
  case left => rw [State.fetched_left ht]; rfl
  case waits => rw [State.fetched_taken ht, hw]; rfl

/-- Settles O28. -/
theorem firstFailingCheckIsReported : Obligations.FirstFailingCheckIsReported := by
  unfold Obligations.FirstFailingCheckIsReported
  intro r hr h pb s f ha hf
  obtain ⟨adm, hexec, hfails⟩ := hostRows_admit r hr
  rw [hexec, State.fetched_admitted ha, hfails _ _ _ _ hf]
  rfl

end Sys2Proof.Machine
end

section
/-! Byte strings (R14) and completion entries (R308, R312, Table 12.13): the field that a record was given reads back. -/

namespace Sys2Proof.Machine

/-! ## Fields of byte strings -/

@[simp] theorem length_leBytes (n v : Nat) : (leBytes n v).length = n := by
  induction n generalizing v with
  | zero => rfl
  | succ n ih => exact congrArg Nat.succ (ih (v >>> 8))
theorem leNat_leBytes (n v : Nat) : leNat (leBytes n v) = v % 256 ^ n := by
  induction n generalizing v with
  | zero => exact (Nat.mod_one v).symm
  | succ n ih =>
    have hbyte : (BitVec.ofNat 8 v).toNat = v % 256 := BitVec.toNat_ofNat v 8
    rw [leBytes, leNat, ih, hbyte, Nat.shiftRight_eq_div_pow, show (2 : Nat) ^ 8 = 256 from rfl, Nat.pow_succ', Nat.mod_mul]

/-- The first field of a record. -/
theorem fld_leBytes_append (n v : Nat) (b : Bytes) : fld (leBytes n v ++ b) 0 n = v % 256 ^ n := by
  unfold fld
  rw [List.drop_zero, List.take_append_of_le_length (length_leBytes n v).ge, List.take_of_length_le (length_leBytes n v).le, leNat_leBytes]
theorem fld_leBytes (n v : Nat) : fld (leBytes n v) 0 n = v % 256 ^ n := by simpa using fld_leBytes_append n v []
theorem fld_byte_append (x : Byte) (b : Bytes) : fld (x :: b) 0 1 = x.toNat := by simp [fld, leNat]
/-- A later field of a record. -/
theorem fld_append_later {a b : Bytes} {off : Nat} (n : Nat) (h : a.length ≤ off) : fld (a ++ b) off n = fld b (off - a.length) n := by
  unfold fld
  rw [List.drop_append, List.drop_of_length_le h, List.nil_append]
theorem fld_leBytes_append_later {k off : Nat} (v n : Nat) (b : Bytes) (h : k ≤ off) : fld (leBytes k v ++ b) off n = fld b (off - k) n := by
  rw [fld_append_later n ((length_leBytes k v).trans_le h), length_leBytes]
theorem fld_byte_append_later {off : Nat} (x : Byte) (n : Nat) (b : Bytes) (h : 1 ≤ off) : fld (x :: b) off n = fld b (off - 1) n :=
  fld_append_later (a := [x]) n h

/-! ## Completion entries (Table 12.13) -/

section
variable (c : Compl) (sq qp ph : Nat)

theorem Compl.length_bytes : (c.bytes sq qp ph).length = 32 := by simp [Compl.bytes]
/-- Every field of an entry reads as it was given, within its width. -/
theorem Compl.bytes_fields (hsq : sq < 65536) (hqp : qp < 64) (hph : ph < 2) :
    fld (c.bytes sq qp ph) 0 4 = c.tag.toNat ∧ fld (c.bytes sq qp ph) 4 2 = c.status.toNat ∧ fld (c.bytes sq qp ph) 6 2 = c.detail.toNat
    ∧ fld (c.bytes sq qp ph) 8 2 = sq ∧ fld (c.bytes sq qp ph) 10 1 = qp ∧ fld (c.bytes sq qp ph) 11 1 = c.info.toNat
    ∧ fld (c.bytes sq qp ph) 12 1 = ph ∧ fld (c.bytes sq qp ph) 16 4 = c.r0.toNat ∧ fld (c.bytes sq qp ph) 20 4 = c.r1.toNat
    ∧ fld (c.bytes sq qp ph) 24 4 = c.r2.toNat ∧ fld (c.bytes sq qp ph) 28 4 = c.r3.toNat := by
  simp [Compl.bytes, fld_leBytes_append, fld_leBytes, fld_leBytes_append_later, fld_byte_append, fld_byte_append_later]
  omega
end

/-- An entry is written at the completion ring's tail, and its interrupt raised. -/
theorem State.finish_written {s : State} {h : Hdr} (hrun : (s.qp (qpKey h.fn h.qp)).runs = h.run) (hact : (s.qp (qpKey h.fn h.qp)).active = true)
    (hstop : (s.qp (qpKey h.fn h.qp)).stopped = false) (hdep : s.departed = false) (st d : W16) (r0 r1 r2 r3 : Nat) :
    s.finish h st d r0 r1 r2 r3 = s.writeCq (qpKey h.fn h.qp)
      { tag := h.tag, status := st, detail := d, info := infoByte false false false s.degraded, r0 := BitVec.ofNat 32 r0, r1 := BitVec.ofNat 32 r1,
        r2 := BitVec.ofNat 32 r2, r3 := BitVec.ofNat 32 r3 } :=
  (if_pos hrun).trans (if_pos (by rw [hact, hstop, hdep]; rfl))
theorem State.finish_unwritten {s : State} {h : Hdr}
    (hno : (s.qp (qpKey h.fn h.qp)).runs ≠ h.run ∨ (s.qp (qpKey h.fn h.qp)).active = false ∨ (s.qp (qpKey h.fn h.qp)).stopped = true ∨ s.departed = true)
    (st d : W16) (r0 r1 r2 r3 : Nat) : s.finish h st d r0 r1 r2 r3 = s := by
  unfold State.finish State.completeFor State.complete
  rcases hno with hrun | hno
  · exact if_neg hrun
  · have hquiet : ¬ ((s.qp (qpKey h.fn h.qp)).active && !(s.qp (qpKey h.fn h.qp)).stopped && !s.departed) = true := by
      rcases hno with h | h | h <;> simp [h]
    rw [if_neg hquiet, ite_self]

/-! ## The phase of an entry (R308) -/

theorem phaseOf_first {pos size : Nat} (h : pos < size) : phaseOf pos size = 1 := by simp [phaseOf, Nat.div_eq_of_lt h]
/-- The phase flips at each wrap. -/
theorem phaseOf_wrap {size : Nat} (pos : Nat) (h : 0 < size) : phaseOf (pos + size) size = 1 - phaseOf pos size := by
  unfold phaseOf
  rw [Nat.add_div_right pos h]
  split_ifs <;> omega

theorem qpKey_fn (fn : Fn) (qp : QpNo) : qpKey fn qp / 64 = fn.val := by
  unfold qpKey
  omega
/-- An interrupt of a queue pair is one more message of its function's vector. -/
theorem State.msix_counts (s : State) (fn : Fn) (qp : QpNo) (vec : Nat) :
    (s.msix (qpKey fn qp) vec).porch.msix = KMap.set s.porch.msix (2048 * fn.val + vec) (KMap.getD s.porch.msix (2048 * fn.val + vec) 0 + 1) := by
  rw [← qpKey_fn fn qp]
  rfl

/-- Settles O30. -/
theorem completionEntries : Obligations.CompletionEntries :=
  ⟨fun s h st d r0 r1 r2 r3 => ⟨fun hrun hact hstop hdep => State.finish_written hrun hact hstop hdep st d r0 r1 r2 r3,
      fun hno => State.finish_unwritten hno st d r0 r1 r2 r3, rfl, s.msix_counts h.fn h.qp _⟩,
    fun c sq qp ph hsq hqp hph => ⟨c.length_bytes sq qp ph, c.bytes_fields sq qp ph hsq hqp hph⟩,
    fun pos _ hsize => ⟨phaseOf_first, phaseOf_wrap pos hsize⟩⟩

end Sys2Proof.Machine
end

section
/-! Reports (R166, R288, R318, Table 13.11): a record fills the command's buffer or leaves it alone, what a report leaves as it was, and the records' lengths and fields. -/

namespace Sys2Proof.Machine

/-! ## The answer of a report (R317, R318) -/

/-- A buffer that holds the bytes is filled; one too short is left, and the bytes needed are told. -/
theorem State.output_eq (v : State) (g : Hdr) (pb : Bytes) (off : Nat) (b : Bytes) (r0 r1 r2 : Nat) :
    v.output g pb off b r0 r1 r2 = if b.length ≤ fld pb (off + 8) 4 then (v.hostWrite (fld pb off 8) b).finish g stOk 0 r0 r1 r2 0
      else v.finish g stParam (BitVec.ofNat 16 off) 0 0 0 b.length := by
  unfold State.output State.ok
  by_cases h : b.length ≤ fld pb (off + 8) 4
  · rw [if_pos h, if_neg (Nat.not_lt.2 h)]
  · rw [if_neg h, if_pos (Nat.lt_of_not_le h)]

section
variable {s : State} {h : Hdr} {pb : Bytes}

/-- A clear report is its output. -/
theorem exec_report {op : Nat} {checks : State → Hdr → Bytes → List (Option Fail)} {i : Instr} {adm : State → Hdr → Bytes → State}
    (hexec : exec i s = woken (s.fetched op h pb fun h s => adm s h pb)) (hc : s.clear op checks h pb = true) {v : State} {off : Nat} {b : Bytes}
    (hadm : adm (s.taken h) (s.stamped h) pb = v.output (s.stamped h) pb off b 0 0 0) : exec i s = .next (v.output (s.stamped h) pb off b 0 0 0).woken := by
  rw [hexec, woken_fetched_clear hc, hadm]

theorem exec_identify (hc : s.clear 0x0101 identifyChecks h pb = true) :
    exec (.identify h pb) s = .next ((s.taken h).output (s.stamped h) pb 0 (identifyRec (s.taken h)) 0 0 0).woken := by
  refine exec_report rfl hc ?_
  unfold State.admitIdentify
  rw [runCmd_clear (State.clear_checks hc)]
theorem exec_tenantInfo (hc : s.clear 0x0204 tenantInfoChecks h pb = true) {t : Tenant} (ht : (s.taken h).tenant? (w16At pb 0) = some t) :
    exec (.tenantInfo h pb) s = .next ((s.taken h).output (s.stamped h) pb 8 (tenantRec (s.taken h) (w16At pb 0) t) 0 0 0).woken := by
  refine exec_report rfl hc ?_
  unfold State.admitTenantInfo
  simp only [runCmd_clear (State.clear_checks hc), ht]
theorem exec_indexInfo (hc : s.clear 0x0405 indexInfoChecks h pb = true) {x : Index} (hx : (s.taken h).index? (fld pb 0 1) = some x) :
    exec (.indexInfo h pb) s = .next ((s.taken h).output (s.stamped h) pb 8 (indexRec (fld pb 0 1) x) 0 0 0).woken := by
  refine exec_report rfl hc ?_
  unfold State.admitIndexInfo
  simp only [runCmd_clear (State.clear_checks hc), hx]
theorem exec_tableInfo (hc : s.clear 0x0504 tableInfoChecks h pb = true) {t : Table} (ht : (s.taken h).table? (fld pb 0 1) = some t) :
    exec (.tableInfo h pb) s = .next ((s.taken h).output (s.stamped h) pb 8 (tableRec (s.taken h) t) 0 0 0).woken := by
  refine exec_report rfl hc ?_
  unfold State.admitTableInfo
  simp only [runCmd_clear (State.clear_checks hc), ht]
theorem exec_fabStatus (hc : s.clear 0x0901 fabStatusChecks h pb = true) :
    exec (.fabStatus h pb) s = .next ((s.taken h).output (s.stamped h) pb 0 (fabRec (s.taken h)) 0 0 0).woken := by
  refine exec_report rfl hc ?_
  unfold State.admitFabStatus
  rw [runCmd_clear (State.clear_checks hc)]
theorem exec_sensors (hc : s.clear 0x0B03 sensorsChecks h pb = true) :
    exec (.sensors h pb) s = .next ((s.taken h).output (s.stamped h) pb 0 (sensorsRec (s.taken h)) 0 0 0).woken := by
  refine exec_report rfl hc ?_
  unfold State.admitSensors
  rw [runCmd_clear (State.clear_checks hc)]
theorem exec_partStats (hc : s.clear 0x0702 partStatsChecks h pb = true) :
    exec (.partStats h pb) s = .next (((s.taken h).wakeCores (s.stamped h).partNo).output (s.stamped h) pb 0
      (partRec ((s.taken h).wakeCores (s.stamped h).partNo) (s.stamped h).partNo) 0 0 0).woken := by
  refine exec_report rfl hc ?_
  unfold State.admitPartStats
  rw [runIn_clear (State.clear_checks hc)]
  rfl
theorem exec_attest (hc : s.clear 0x0A03 attestChecks h pb = true) : ∃ sig : BitVec 512,
    exec (.attest h pb) s = .next (({ s.taken h with freeCtr := (s.taken h).freeCtr + 1 } : State).output (s.stamped h) pb 40
      ((s.taken h).attestBody (pb.take 32) (fld pb 32 4) ++ sigBytes sig) 0 0 0).woken := by
  refine ⟨Config.sm2Sign (sm3 ((s.taken h).attestBody (pb.take 32) (fld pb 32 4))) (Config.freeNat (s.taken h).freeCtr), exec_report rfl hc ?_⟩
  unfold State.admitAttest
  simp only [runCmd_clear (State.clear_checks hc)]
  rfl
/-- The pages of the latest version are read, and the command answers once they are (R166). -/
theorem exec_passageGet (hc : s.clear 0x0407 passageGetChecks h pb = true) {x : Index} {e : StoreEntry} (hx : (s.taken h).index? (fld pb 0 1) = some x)
    (he : x.latestAt (BitVec.ofNat 64 (fld pb 8 8)) x.seq = some e) :
    let u := s.taken h
    let a : Get := { no := u.ret.nextGet, h := s.stamped h, pb := pb, version := e.version, text := e.text, pages := x.fetchPages (BitVec.ofNat 64 (fld pb 8 8)) e.version }
    exec (.passageGet h pb) s = .next (((u.onRet fun r => { r with nextGet := r.nextGet + 1, gets := r.gets ++ [a] }).each a.pages fun s k =>
      s.queueRead k (.get a.no)).getDone a).woken := by
  have hadm : exec (.passageGet h pb) s = .next ((s.taken h).admitPassageGet (s.stamped h) pb).woken := woken_fetched_clear hc
  rw [hadm]
  unfold State.admitPassageGet
  simp only [runCmd_clear (State.clear_checks hc), hx, he, Option.bind_some]
end

/-! ## passage.get once its pages are read (R166, R288) -/

section
variable {s : State} {a : Get}

theorem State.getDone_busy (hb : s.cel.busy (.get a.no) = true) : s.getDone a = s := if_pos hb
variable (hb : s.cel.busy (.get a.no) = false)
include hb

theorem State.getDone_read (hp : ∀ k ∈ a.pages, s.cel.readable k = true) :
    s.getDone a = (s.onRet fun r => { r with gets := r.gets.filter fun x => x.no ≠ a.no }).output a.h a.pb 16 a.text (a.version.toNat % 2 ^ 32)
      (a.version.toNat / 2 ^ 32) a.text.length := by
  have hnone : a.pages.find? (fun k => !s.cel.readable k) = none := List.find?_eq_none.2 fun k hk => by simp [hp k hk]
  unfold State.getDone
  rw [if_neg (by simp [hb])]
  simp only [State.onRet_cel, hnone]
theorem State.getDone_unread {k : Nat} (hk : a.pages.find? (fun k => !s.cel.readable k) = some k) :
    s.getDone a = ((s.onRet fun r => { r with gets := r.gets.filter fun x => x.no ≠ a.no }).noPage k).finish a.h stDevice 0 0 0 0 0 := by
  unfold State.getDone
  rw [if_neg (by simp [hb])]
  simp only [State.onRet_cel, hk]
  rfl
end

/-! ## The records (Table 13.11) -/

theorem length_payload (l : List (Nat × Nat)) : (payload l).length = (l.map Prod.fst).sum := by simp [payload, List.length_flatMap]
theorem length_padTo {n : Nat} {b : Bytes} (h : b.length ≤ n) : (padTo n b).length = n := by simp [padTo, h]

section
variable (s : State)

theorem length_identifyRec : (identifyRec s).length = 64 := by simp [identifyRec]
theorem length_sensorsRec : (sensorsRec s).length = 64 := by simp [sensorsRec, length_payload]
theorem length_fabRec : (fabRec s).length = 64 := by simp [fabRec, length_payload, Function.comp_def]
theorem length_partRec (p : Nat) : (partRec s p).length = 64 := by simp [partRec, length_payload]
theorem length_tenantRec (id : W16) (t : Tenant) : (tenantRec s id t).length = 64 := by simp [tenantRec, List.length_flatMap]
theorem Table.length_topCands (t : Table) : t.topCands.length ≤ 4 := List.length_take_le _ _
theorem length_tableRec (t : Table) : (tableRec s t).length = 64 := by
  have hcands : (t.topCands.flatMap fun c => payload [(4, c.1), (4, c.2)]).length ≤ 32 := by
    have := t.length_topCands
    simp [List.length_flatMap, length_payload]
    omega
  simp [tableRec, length_payload, length_padTo hcands]

theorem Pwr.steps_le (w : Pwr) : w.steps ≤ 8 := min_le_left 8 _
end

/-- CAP, the steps in force and FLOOR, at their places in the sensors' record. -/
theorem sensorsRec_clock {s : State} (hcap : s.pwr.cap ≤ 8) (hfloor : s.pwr.floor ≤ 8) :
    fld (sensorsRec s) 20 1 = s.pwr.cap ∧ fld (sensorsRec s) 22 1 = s.pwr.steps ∧ fld (sensorsRec s) 23 1 = s.pwr.floor := by
  have hsteps := Pwr.steps_le s.pwr
  simp [sensorsRec, payload, fld_leBytes_append, fld_leBytes_append_later]
  omega

/-- Settles O31. -/
theorem reportsFillTheirBuffer : Obligations.ReportsFillTheirBuffer := by
  unfold Obligations.ReportsFillTheirBuffer
  refine ⟨fun s h pb => ?answers, fun s a => ?gets, fun s => ?records⟩
  case answers =>
    intro u g full short ans
    have hans : ∀ (v : State) (off : Nat) (b : Bytes), (v.output g pb off b 0 0 0).woken = ans v off b 0 0 0 := fun v off b => by
      rw [State.output_eq]
      exact apply_ite State.woken _ _ _
    refine ⟨fun hc => ?identify, fun hc t ht => ?tenant, fun hc x hx => ?index, fun hc t ht => ?table, fun hc => ?part, fun hc => ?fab, fun hc => ?sensors,
      fun hc => ?attest, fun hc x e hx he => exec_passageGet hc hx he⟩
    case identify => rw [exec_identify hc, hans]
    case tenant => rw [exec_tenantInfo hc ht, hans]
    case index => rw [exec_indexInfo hc hx, hans]
    case table => rw [exec_tableInfo hc ht, hans]
    case part => rw [exec_partStats hc, hans]
    case fab => rw [exec_fabStatus hc, hans]
    case sensors => rw [exec_sensors hc, hans]
    case attest =>
      obtain ⟨sig, hexec⟩ := exec_attest hc
      exact ⟨sig, hexec.trans (congrArg Host.Outcome.next (hans _ _ _))⟩
  case gets =>
    exact ⟨State.getDone_busy, fun hb hp => (State.getDone_read hb hp).trans (State.output_eq _ _ _ _ _ _ _ _), fun k hb hk => State.getDone_unread hb hk⟩
  case records =>
    refine ⟨length_identifyRec s, length_sensorsRec s, length_fabRec s, length_partRec s, fun t id => length_tenantRec s id t, length_tableRec s,
      fun hcap hfloor => ?clock⟩
    obtain ⟨hc, hs, hf⟩ := sensorsRec_clock hcap hfloor
    exact ⟨hc, hs, hf, Pwr.steps_le _⟩

/-! ## What a report leaves (R308, R318) -/

/-- `t` differs from `s` at most in host memory, in the queue pairs and in the interrupts sent. -/
def State.AnswersOnly (s t : State) : Prop := { t with host := s.host, porch := { t.porch with qps := s.porch.qps, msix := s.porch.msix } } = s

section
variable {s t u : State}

theorem State.AnswersOnly.refl (s : State) : s.AnswersOnly s := rfl
theorem State.AnswersOnly.trans (h : s.AnswersOnly t) (h' : t.AnswersOnly u) : s.AnswersOnly u :=
  Eq.trans (congrArg (fun v : State => { v with host := s.host, porch := { v.porch with qps := s.porch.qps, msix := s.porch.msix } }) h' :) h
theorem State.AnswersOnly.calm (h : s.AnswersOnly t) (hc : s.calm = true) : t.calm = true := (congrArg State.calm h).trans hc
end

section
variable (s : State)

theorem State.answersOnly_hostWrite (a : Nat) (b : Bytes) : s.AnswersOnly (s.hostWrite a b) := rfl
theorem State.answersOnly_onQp (k : Nat) (f : Qp → Qp) : s.AnswersOnly (s.onQp k f) := rfl
theorem State.answersOnly_msix (k vec : Nat) : s.AnswersOnly (s.msix k vec) := rfl
theorem State.answersOnly_cqIrq (k : Nat) (last : Bool) : s.AnswersOnly (s.cqIrq k last) := by
  unfold State.cqIrq
  dsimp only
  split_ifs
  · exact (s.answersOnly_onQp k _).trans (State.answersOnly_msix _ _ _)
  · exact s.answersOnly_onQp k _
theorem State.answersOnly_writeCq (k : Nat) (c : Compl) : s.AnswersOnly (s.writeCq k c) := by
  unfold State.writeCq
  exact (s.answersOnly_hostWrite _ _).trans ((State.answersOnly_onQp _ k _).trans (State.answersOnly_cqIrq _ k true))
theorem State.answersOnly_finish (h : Hdr) (st d : W16) (r0 r1 r2 r3 : Nat) : s.AnswersOnly (s.finish h st d r0 r1 r2 r3) := by
  unfold State.finish State.completeFor State.complete
  dsimp only
  split_ifs
  · exact s.answersOnly_writeCq _ _
  · exact .refl s
  · exact .refl s
theorem State.answersOnly_output (h : Hdr) (pb : Bytes) (off : Nat) (b : Bytes) (r0 r1 r2 : Nat) : s.AnswersOnly (s.output h pb off b r0 r1 r2) := by
  rw [State.output_eq]
  split_ifs
  · exact (s.answersOnly_hostWrite _ _).trans (State.answersOnly_finish _ _ _ _ _ _ _ _)
  · exact s.answersOnly_finish _ _ _ _ _ _ _

/-- Where the completion entry of a queue pair is written. -/
def Qp.entryAt (q : Qp) : Nat := q.runCqb.toNat + 32 * (if q.runCq = 0 then 0 else q.cqTail % q.runCq)
end

section
variable {s : State} (hw : Mem.wf s.host = true)
include hw

/-- A completion writes no host byte outside its entry. -/
theorem State.finish_host_read (h : Hdr) (st d : W16) (r0 r1 r2 r3 : Nat) {a : Nat} (ha : ∀ k < 32, hostAddr ((s.qp (qpKey h.fn h.qp)).entryAt + k) ≠ a) :
    Mem.read (s.finish h st d r0 r1 r2 r3).host a = Mem.read s.host a := by
  unfold State.finish State.completeFor State.complete
  dsimp only
  split_ifs
  · exact hostWriteM_frame hw _ _ a (by rw [Compl.length_bytes]; exact ha)
  · rfl
  · rfl
/-- An output writes no host byte outside its buffer and its entry. -/
theorem State.output_host_read (h : Hdr) (pb : Bytes) (off : Nat) (b : Bytes) (r0 r1 r2 : Nat) {a : Nat}
    (hbuf : ∀ k < fld pb (off + 8) 4, hostAddr (fld pb off 8 + k) ≠ a) (ha : ∀ k < 32, hostAddr ((s.qp (qpKey h.fn h.qp)).entryAt + k) ≠ a) :
    Mem.read (s.output h pb off b r0 r1 r2).host a = Mem.read s.host a := by
  rw [State.output_eq]
  split_ifs with hlen
  · refine (State.finish_host_read (s := s.hostWrite (fld pb off 8) b) (hostWriteM_wf _ _ hw) h _ _ _ _ _ _ ha).trans ?_
    exact hostWriteM_frame hw _ _ a fun k hk => hbuf k (hk.trans_le hlen)
  · exact State.finish_host_read hw h _ _ _ _ _ _ ha
end

/-! ## A check that holds -/

theorem firstFail_eq_none {l : List (Option Fail)} : firstFail l = none ↔ ∀ x ∈ l, x = none := by
  induction l with
  | nil => simp [firstFail]
  | cons x l ih => cases x <;> simp [firstFail, ih]
theorem chk_eq_none {ok : Bool} {st : W16} {d : Nat} : chk ok st d = none ↔ ok = true := by simp [chk]

/-- A command that is clear passes the last check of its list. -/
theorem State.clear_last {s : State} {op : Nat} {checks : State → Hdr → Bytes → List (Option Fail)} {h : Hdr} {pb : Bytes} (hc : s.clear op checks h pb = true)
    {l : List (Option Fail)} {ok : Bool} {st : W16} {d : Nat} (hl : checks (s.taken h) (s.stamped h) pb = l ++ [chk ok st d]) : ok = true :=
  chk_eq_none.1 (firstFail_eq_none.1 (State.clear_checks hc) (chk ok st d) (by rw [hl]; simp))

/-- A report with its buffer at `off`: it runs as an output of that buffer. -/
def HostRow.Reports (r : HostRow) (off : Nat) : Prop :=
  ∀ (s : State) (h : Hdr) (pb : Bytes), s.clear r.op r.checks h pb = true → ∃ b, exec (r.row h pb) s = .next ((s.taken h).output (s.stamped h) pb off b 0 0 0).woken

theorem identify_reports : HostRow.Reports ⟨.identify, 0x0101, identifyChecks⟩ 0 := fun _ _ _ hc => ⟨_, exec_identify hc⟩
theorem tenantInfo_reports : HostRow.Reports ⟨.tenantInfo, 0x0204, tenantInfoChecks⟩ 8 := fun _ _ _ hc =>
  have ⟨_, ht⟩ := Option.isSome_iff_exists.1 (State.clear_last hc rfl)
  ⟨_, exec_tenantInfo hc ht⟩
theorem indexInfo_reports : HostRow.Reports ⟨.indexInfo, 0x0405, indexInfoChecks⟩ 8 := fun _ _ _ hc =>
  have ⟨_, hx⟩ := Option.isSome_iff_exists.1 (State.clear_last hc rfl)
  ⟨_, exec_indexInfo hc hx⟩
theorem tableInfo_reports : HostRow.Reports ⟨.tableInfo, 0x0504, tableInfoChecks⟩ 8 := fun _ _ _ hc =>
  have ⟨_, ht⟩ := Option.isSome_iff_exists.1 (State.clear_last hc rfl)
  ⟨_, exec_tableInfo hc ht⟩
theorem fabStatus_reports : HostRow.Reports ⟨.fabStatus, 0x0901, fabStatusChecks⟩ 0 := fun _ _ _ hc => ⟨_, exec_fabStatus hc⟩
theorem sensors_reports : HostRow.Reports ⟨.sensors, 0x0B03, sensorsChecks⟩ 0 := fun _ _ _ hc => ⟨_, exec_sensors hc⟩

/-- Settles O60. -/
theorem reportsChangeNothingElse : Obligations.ReportsChangeNothingElse := by
  unfold Obligations.ReportsChangeNothingElse
  intro x hx s t h pb q entry hclear hcalm hwf hexec
  have hreports : x.1.Reports x.2 := by
    clear hclear hexec
    revert x
    simp only [List.forall_mem_cons]
    exact ⟨identify_reports, tenantInfo_reports, indexInfo_reports, tableInfo_reports, fabStatus_reports, sensors_reports, List.forall_mem_nil _⟩
  obtain ⟨b, hb⟩ := hreports s h pb hclear
  have honly : s.AnswersOnly ((s.taken h).output (s.stamped h) pb x.2 b 0 0 0) := (s.answersOnly_onQp _ _).trans (State.answersOnly_output _ _ _ _ _ _ _ _)
  rw [State.woken_calm (honly.calm hcalm)] at hb
  obtain rfl := Host.Outcome.next.inj (hexec.symm.trans hb)
  exact ⟨honly, fun a hbuf ha => State.output_host_read (s := s.taken h) hwf _ _ _ _ _ _ _ hbuf ha⟩

end Sys2Proof.Machine
end

section
/-! Tenants and bases (R113 to R118, R216, R217), cancel and step (R221, R229, R241), and the index commands (R134, R135, R148, R159, R165, R273, R326). -/

namespace Sys2Proof.Machine

/-- A row of the host commands, once it is clear, is its admission. -/
theorem exec_admitted {i : Instr} {s v : State} {op : Nat} {checks : State → Hdr → Bytes → List (Option Fail)} {h : Hdr} {pb : Bytes} {adm : State → Hdr → Bytes → State}
    (hexec : exec i s = woken (s.fetched op h pb fun h s => adm s h pb)) (hc : s.clear op checks h pb = true)
    (hadm : adm (s.taken h) (s.stamped h) pb = v) : exec i s = .next v.woken := by
  rw [hexec, woken_fetched_clear hc, hadm]

/-! ## Tenants and bases -/

section
variable {u : State} {g : Hdr} {pb : Bytes}

theorem State.admitTenantLoad_placed (hc : firstFail (tenantLoadChecks u g pb) = none) {m : Model} {v : Vocab} {x : List TSeg × Bool} {t : Tenant}
    (hm : u.verifyImage (dlBytes u pb 8) = .inr m) (hv : u.vocab? (fld pb 2 1) = some v) (hlate : firstFail (lateLoadChecks u pb m v) = none)
    (hx : templateOf u pb m v = some x) (hfits : u.imageFits pb m (dlBytes u pb 8).length = true)
    (ht : u.placeAllIn (fld pb 0 2) (maskList (fld pb 4 2)) (tenantOf pb m x) = some t) :
    u.admitTenantLoad g pb = (((u.onSch fun c => { c with tenants := KMap.set c.tenants (fld pb 0 2) t }).sysAdd (dlBytes u pb 8).length).each (maskList (fld pb 4 2))
      fun s p => if (s.part p).run.isSome then (s.setW p).streamFill p else s.setW p).ok g (m.modelId.toNat % 2 ^ 32) (m.modelId.toNat / 2 ^ 32) 0 0 := by
  unfold State.admitTenantLoad
  simp only [runCmd_clear hc, hm, hv, hlate, hx, hfits, ht, Bool.not_true, Bool.false_eq_true, if_false]

theorem State.admitBaseLoad_held (hc : firstFail (baseLoadChecks u g pb) = none) {m : Model} (hm : u.verifyImage (dlBytes u pb 0) = .inr m) (hkind : m.kind = 2)
    (hnew : KMap.has u.sch.bases m.modelId.toNat = false) (hcount : u.sch.bases.length < 64) (hatt : ceilDiv m.stored Config.granule ≤ memAttFree u)
    (hsys : u.sysRoom (dlBytes u pb 0).length = true) :
    let inHbm := (m.hint == 2 || m.hint == 3) && decide (ceilDiv m.decoded Config.granule ≤ memHbmFree u)
    u.admitBaseLoad g pb = ((((u.onSch fun c => { c with bases := KMap.set c.bases m.modelId.toNat { model := m, shared := inHbm } }).attSize
      (.baseImage m.modelId.toNat) (ceilDiv m.stored Config.granule)).hbmSize (.base m.modelId.toNat) (if inHbm then ceilDiv m.decoded Config.granule else 0)).sysAdd
        (dlBytes u pb 0).length).ok g (m.modelId.toNat % 2 ^ 32) (m.modelId.toNat / 2 ^ 32) 0 0 := by
  have hnone : firstFail [chk (m.kind == 2) stParam 0xFFF2, chk (!KMap.has u.sch.bases m.modelId.toNat) stState 0, chk (decide (u.sch.bases.length < 64)) stNoResource 0,
      chk (decide (ceilDiv m.stored Config.granule ≤ memAttFree u)) stNoResource 0, chk (u.sysRoom (dlBytes u pb 0).length) stNoResource 0] = none := by
    simp [firstFail_eq_none, chk_eq_none, hkind, hnew, hcount, hatt, hsys]
  unfold State.admitBaseLoad
  simp only [runCmd_clear hc, hm, hnone]

theorem State.admitTenantUnload_tenant (hc : firstFail (tenantUnloadChecks u g pb) = none) (hbase : bit (fld pb 2 1) 0 = false) {t : Tenant}
    (ht : KMap.get? u.sch.tenants (fld pb 0 2) = some t) :
    u.admitTenantUnload g pb =
      (((u.onSch fun c => { c with tenants := KMap.erase c.tenants (fld pb 0 2) }).each (maskList t.mask.toNat) State.setW).sysSub t.model.imageLen).ok g 0 0 0 0 := by
  unfold State.admitTenantUnload
  simp only [runCmd_clear hc, hbase, ht, Bool.false_eq_true, if_false]
theorem State.admitTenantUnload_base (hc : firstFail (tenantUnloadChecks u g pb) = none) (hbase : bit (fld pb 2 1) 0 = true) {b : Base}
    (hb : KMap.get? u.sch.bases (fld pb 8 8) = some b) :
    u.admitTenantUnload g pb = ((((u.attSize (.baseImage (fld pb 8 8)) 0).hbmSize (.base (fld pb 8 8)) 0).onSch fun c =>
      { c with bases := KMap.erase c.bases (fld pb 8 8) }).sysSub b.model.imageLen).ok g 0 0 0 0 := by
  unfold State.admitTenantUnload
  simp only [runCmd_clear hc, hbase, hb, if_true]
end

/-- Settles O32. -/
theorem tenantsAndBasesComeAndGo : Obligations.TenantsAndBasesComeAndGo :=
  fun _ _ _ => ⟨fun _ _ _ _ hc hm hv hlate hx hfits ht => exec_admitted rfl hc (State.admitTenantLoad_placed (State.clear_checks hc) hm hv hlate hx hfits ht),
    fun _ hc hm hkind hnew hcount hatt hsys => exec_admitted rfl hc (State.admitBaseLoad_held (State.clear_checks hc) hm hkind hnew hcount hatt hsys),
    fun _ hc hbase ht => exec_admitted rfl hc (State.admitTenantUnload_tenant (State.clear_checks hc) hbase ht),
    fun _ hc hbase hb => exec_admitted rfl hc (State.admitTenantUnload_base (State.clear_checks hc) hbase hb)⟩

/-! ## cancel and step -/

/-- The request a cancel names is cancelled, and its jobs are dropped. -/
def State.cancelled (w : State) (n : Nat) : State := (w.onReq n fun x => { x with cancelled := true, buf := [], rebuild := false, fin := x.cancelFin }).dropJobsOf n
/-- Its completion is written, or recast where it waits for text records. -/
def State.cancelEnds (w : State) (n : Nat) (r : Req) : State :=
  if (w.cancelled n).isHeld n then (w.cancelled n).recast n { r with fin := r.cancelFin } else (w.cancelled n).flushOne n
/-- The completion of the cancel itself. -/
def State.cancelCompl (w : State) (g : Hdr) (n : Nat) : Compl :=
  { tag := g.tag, status := stOk, detail := 0, info := infoByte false false false (w.cancelled n).degraded, r0 := 0, r1 := 0, r2 := 0, r3 := 0 }

section
variable {u w : State} {g : Hdr} {pb : Bytes} {n : Nat} {r : Req}

theorem State.admitCancel_named (hc : firstFail (cancelChecks u g pb) = none) (hw : u.wakeCores g.partNo = w) (hn : u.named (fld pb 0 4) = some n)
    (hr : w.req? n = some r) :
    u.admitCancel g pb = ((if (w.cancelEnds n r).isHeld n then
        (w.cancelEnds n r).onQp (qpKey r.fn r.qp) fun q => { q with held := q.held ++ [(n, qpKey g.fn g.qp, w.cancelCompl g n)] }
      else (w.cancelEnds n r).completeFor g (w.cancelCompl g n)) : State).settle := by
  unfold State.admitCancel
  simp only [runIn_clear hc, State.iff, hw, hn, hr, Bool.false_eq_true, if_false]
  rfl
theorem State.admitStep_queued (hc : firstFail (stepChecks u g pb) = none) :
    u.admitStep g pb = ((u.wakeCores g.partNo).onPart g.partNo fun x => { x with packets := x.packets ++ [{ op := 0x0307, h := g, pb := pb }] }).settle := by
  unfold State.admitStep
  rw [runIn_clear hc]
  rfl
theorem Req.cancelFin_cancelled (r : Req) : ∃ d, r.cancelFin = some (stCancelled, d) := by
  unfold Req.cancelFin
  split
  · split
    · next h => exact ⟨_, by rw [h]⟩
    · exact ⟨_, rfl⟩
  · exact ⟨_, rfl⟩
end

/-- Settles O34. -/
theorem cancelAndStep : Obligations.CancelAndStep := by
  unfold Obligations.CancelAndStep
  intro s h pb g w
  refine ⟨fun n r hc hn hr => ⟨fun hh => exec_admitted rfl hc ?ends, fun hh => exec_admitted rfl hc ?waits⟩,
    fun hc => exec_admitted rfl hc (State.admitStep_queued (State.clear_checks hc)), Req.cancelFin_cancelled⟩
  case ends =>
    rw [State.admitCancel_named (State.clear_checks hc) rfl hn hr]
    exact congrArg State.settle (if_neg (ne_true_of_eq_false hh))
  case waits =>
    rw [State.admitCancel_named (State.clear_checks hc) rfl hn hr]
    exact congrArg State.settle (if_pos hh)

/-! ## The index commands -/

section
variable {u : State} {g : Hdr} {pb : Bytes}

theorem State.admitIndexCreate_new (hc : firstFail (indexCreateChecks u g pb) = none) (hmod : bit (fld pb 3 1) 1 = false) (hdes : bit (fld pb 3 1) 2 = false) :
    u.admitIndexCreate g pb =
      ((u.onRet fun r => { r with indexes := KMap.set r.indexes (fld pb 0 1) (newIndex pb (words32 (dlData u pb 32) ((dlData u pb 32).length / 4))) }).hbmSize (.index (fld pb 0 1))
        (ceilDiv (indexBytes (fld pb 2 1) (fld pb 4 2) (fld pb 16 4)) Config.granule)).ok g 0 0 0 0 := by
  unfold State.admitIndexCreate
  simp only [runCmd_clear hc, hmod, hdes, Bool.not_false, Bool.and_self, if_true]
theorem State.admitIndexCreate_modifies (hc : firstFail (indexCreateChecks u g pb) = none) (hmod : bit (fld pb 3 1) 1 = true) :
    u.admitIndexCreate g pb = (u.onIndex (fld pb 0 1) fun x => x.tune pb).ok g 0 0 0 0 := by
  unfold State.admitIndexCreate
  simp only [runCmd_clear hc, hmod, Bool.not_true, Bool.false_and, Bool.false_eq_true, if_false, if_true]
theorem State.admitIndexCreate_removes (hc : firstFail (indexCreateChecks u g pb) = none) (hmod : bit (fld pb 3 1) 1 = false) (hdes : bit (fld pb 3 1) 2 = true) :
    u.admitIndexCreate g pb = (u.removeIndex (fld pb 0 1)).ok g 0 0 0 0 := by
  unfold State.admitIndexCreate
  simp only [runCmd_clear hc, hmod, hdes, Bool.not_true, Bool.and_false, Bool.false_eq_true, if_false]

variable {ix : Index} (hi : u.index? (fld pb 0 1) = some ix)
include hi

theorem State.admitIndexInsert_fits (hc : firstFail (indexInsertChecks u g pb) = none) {ents : List InsEnt}
    (he : parseEnts ix.dim (fld pb 4 4) (dlData u pb 8) = some ents) (hfit : ix.insertFit 0 ix.waiting ix.waitMud (8388608 - u.mudUsed) (tombRoom u) ents = none) :
    u.admitIndexInsert g pb = u.queueMuts (fld pb 0 1) g (mutCompl u g ix (cutStatus ents) (fld pb 4 4)) (ents.map (mutOf 0)) := by
  unfold State.admitIndexInsert
  simp only [runCmd_clear hc, hi, he, hfit, Option.bind_some]
theorem State.admitIndexDelete_queues (hc : firstFail (indexDeleteChecks u g pb) = none) :
    u.admitIndexDelete g pb = u.queueMuts (fld pb 0 1) g (mutCompl u g ix (stOk, 0) (fld pb 4 4))
      ((pieces 8 (dlData u pb 8)).map fun x => delOf 0 (BitVec.ofNat 64 (leNat x))) := by
  unfold State.admitIndexDelete
  simp only [runCmd_clear hc, hi, List.map_map]
  rfl
theorem State.admitIndexMerge_marks (hc : firstFail (indexMergeChecks u g pb) = none) :
    u.admitIndexMerge g pb = (u.each ix.pendingBuckets fun s b => s.makeDue (fld pb 0 1) b).ok g ix.pendingBuckets.length 0 0 0 := by
  unfold State.admitIndexMerge
  simp only [runCmd_clear hc, hi]
theorem State.admitIndexLoad_fits (hc : firstFail (indexLoadChecks u g pb) = none) {ents : List InsEnt} {v : State} {before : List (Nat × Bucket)}
    (he : parseEnts ix.dim (fld pb 4 4) (dlData u pb 8) = some ents) (hl : u.loadAll (fld pb 0 1) ix ents = some (v, before)) :
    u.admitIndexLoad g pb =
      (v.onIndex (fld pb 0 1) fun x => { x with loads := x.loads ++ [
        { h := g, compl := { tag := g.tag, status := (cutStatus ents).1, detail := (cutStatus ents).2, info := infoByte false false false u.degraded, r0 := 0, r1 := 0,
                             r2 := BitVec.ofNat 32 (fld pb 4 4), r3 := 0 },
          final := bit (fld pb 1 1) 0, writes := writesFrom u.cel.nextWrite v.cel.nextWrite, before := before, ids := ents.map fun e => e.id }] }).settleLoads := by
  unfold State.admitIndexLoad
  simp only [runCmd_clear hc, hi, he, hl, Option.bind_some]
end

section
variable {t : State} {i : Nat} {ix : Index} {l : Load} {rest : List Load} (hi : t.index? i = some ix) (hl : ix.loads = l :: rest)
include hi hl

/-- A load waits for its pages. -/
theorem State.loadDone_unacked (hu : t.cel.unacked l.writes = true) : t.loadDone i = t := by
  unfold State.loadDone
  simp only [hi, hl, hu, if_true]
/-- The final load publishes sequence 1. -/
theorem State.loadDone_final (hu : t.cel.unacked l.writes = false) (hf : l.final = true) :
    let v := ((t.each (l.before.filterMap fun b => b.2.ext) fun s e => s.freeExtent ix.dim e).onIndex i fun x => { x with loads := rest }).onIndex i fun x =>
      { x with loading := false, seq := 1, given := 1 }
    t.loadDone i = v.completeFor l.h { l.compl with info := l.compl.info ||| infoByte false false false v.degraded } := by
  unfold State.loadDone
  simp only [hi, hl, hu, hf, Bool.false_eq_true, if_false, if_true]
end

/-- Settles O35. -/
theorem indexesAreCreatedAndChanged : Obligations.IndexesAreCreatedAndChanged :=
  fun _ _ _ => ⟨fun hc hmod hdes => exec_admitted rfl hc (State.admitIndexCreate_new (State.clear_checks hc) hmod hdes),
    fun hc hmod => exec_admitted rfl hc (State.admitIndexCreate_modifies (State.clear_checks hc) hmod),
    fun hc hmod hdes => exec_admitted rfl hc (State.admitIndexCreate_removes (State.clear_checks hc) hmod hdes),
    fun _ _ hc hi he hfit => exec_admitted rfl hc (State.admitIndexInsert_fits hi (State.clear_checks hc) he hfit),
    fun _ hc hi => exec_admitted rfl hc (State.admitIndexDelete_queues hi (State.clear_checks hc)),
    fun _ hc hi => exec_admitted rfl hc (State.admitIndexMerge_marks hi (State.clear_checks hc)),
    fun _ _ _ _ hc hi he hl => exec_admitted rfl hc (State.admitIndexLoad_fits hi (State.clear_checks hc) he hl),
    fun _ _ _ _ hi hl => ⟨State.loadDone_unacked hi hl, State.loadDone_final hi hl⟩⟩

end Sys2Proof.Machine
end

section
/-! Mutations are numbered (R148): the numbers that an index has given, and its queue of mutations but for where their texts lie. -/

namespace Sys2Proof.Machine

/-- A mutation but for where its text lies. -/
def Mutation.unplaced (m : Mutation) : Mutation := { m with placed := false, writes := [] }
/-- What an index has numbered: the last number given, and its queue but for where the texts lie. -/
def Index.numbers (x : Index) : W64 × List Mutation := (x.given, x.waiting.map Mutation.unplaced)
/-- The numbers of an index, where it is there. -/
def State.numbers (s : State) (i : Nat) : Option (W64 × List Mutation) := (s.index? i).map Index.numbers

section
variable (s : State) (i : Nat)

theorem State.index?_onIndex (f : Index → Index) : (s.onIndex i f).index? i = (s.index? i).map f := KMap.get?_mod s.ret.indexes i f
theorem State.numbers_onIndex {f : Index → Index} (hf : ∀ x, (f x).numbers = x.numbers) : (s.onIndex i f).numbers i = s.numbers i := by
  unfold State.numbers
  rw [State.index?_onIndex, Option.map_map]
  exact congrArg (fun f => Option.map f (s.index? i)) (funext hf)
theorem State.numbers_syncHome {t : State} {home : Nat} (h : s.syncHome i home = some t) : t.numbers i = s.numbers i := by
  unfold State.syncHome at h
  split at h
  · rw [Option.some.inj h]
  · dsimp only at h
    split at h
    · cases h
    · rw [← Option.some.inj h]
      exact State.numbers_onIndex (s.onCel fun _ => _) i fun _ => rfl

/-- Where an insert's text lies is all that its placing changes. -/
theorem Index.numbers_mark (x : Index) (seq : W64) (l : List Nat) :
    Index.numbers { x with waiting := x.waiting.map fun y => if y.seq == seq then { y with placed := true, writes := l } else y } = x.numbers := by
  refine congrArg (Prod.mk x.given) ?_
  rw [List.map_map]
  refine List.map_congr_left fun y _ => ?_
  dsimp only [Function.comp]
  split <;> rfl
theorem State.numbers_placeText (m : Mutation) : (s.placeText i m).numbers i = s.numbers i := by
  unfold State.placeText
  dsimp only
  split
  · rfl
  · split
    · rfl
    · split
      · next h =>
        rw [State.numbers_onIndex _ i fun x => x.numbers_mark m.seq _, State.numbers_syncHome _ i h, State.numbers_onIndex s i fun x => x.numbers_mark m.seq _]
      · rfl
theorem State.numbers_placeTexts (l : List Mutation) : (s.each l fun s m => s.placeText i m).numbers i = s.numbers i := by
  induction l generalizing s with
  | nil => rfl
  | cons m l ih => exact (ih (s.placeText i m)).trans (s.numbers_placeText i m)
end

/-- The entries of a mutation command, numbered after the last number given; the last carries the command's completion. -/
def Index.numbered (ix : Index) (h : Hdr) (c : Compl) (l : List Mutation) : List Mutation :=
  (enum l).map fun x => { x.2 with seq := ix.given + BitVec.ofNat 64 (x.1 + 1), last := if x.1 + 1 = l.length then some (h, c) else none }

section
variable (ix : Index) (h : Hdr) (c : Compl) (l : List Mutation)

theorem Index.length_numbered : (ix.numbered h c l).length = l.length := by simp [Index.numbered, enum]
theorem Index.getElem?_numbered {k : Nat} (hk : k < l.length) :
    (ix.numbered h c l)[k]? = some { l[k] with seq := ix.given + BitVec.ofNat 64 (k + 1), last := if k + 1 = l.length then some (h, c) else none } := by
  simp [Index.numbered, enum, hk]
end

/-- What the queue of a command's mutations leaves of the index's numbers. -/
theorem State.queueMuts_numbers {s : State} {i : Nat} {ix : Index} (hi : s.index? i = some ix) (h : Hdr) (c : Compl) (l : List Mutation) :
    (s.queueMuts i h c l).numbers i =
      some (ix.given + BitVec.ofNat 64 l.length, ix.waiting.map Mutation.unplaced ++ (ix.numbered h c l).map Mutation.unplaced) := by
  unfold State.queueMuts
  simp only [hi]
  refine (State.numbers_placeTexts _ i _).trans ?_
  unfold State.numbers
  rw [State.index?_onIndex, hi, ← List.map_append]
  rfl

/-- Settles O36: placing the texts leaves the numbers (`State.numbers_placeTexts`). -/
theorem mutationsAreNumbered : Obligations.MutationsAreNumbered := by
  unfold Obligations.MutationsAreNumbered
  intro s i ix h c l hi _ plain
  obtain ⟨x, hx, hnum⟩ := Option.map_eq_some_iff.1 (State.queueMuts_numbers hi h c l)
  obtain ⟨hgiven, hwait⟩ := Prod.mk.inj hnum
  have hlen : x.waiting.length = ix.waiting.length + l.length := by
    have := congrArg List.length hwait
    rwa [List.length_map, List.length_append, List.length_map, List.length_map, Index.length_numbered] at this
  refine ⟨x, hx, hgiven, hlen, ?before, fun k hk => ?entry⟩
  case before =>
    rw [List.map_take]
    refine (congrArg (List.take ix.waiting.length) hwait).trans ?_
    exact List.take_left' (List.length_map _)
  case entry =>
    have hget : (x.waiting.map Mutation.unplaced)[ix.waiting.length + k]? = ((ix.numbered h c l).map Mutation.unplaced)[k]? := by
      rw [hwait, List.getElem?_append_right (by rw [List.length_map]; omega), List.length_map, Nat.add_sub_cancel_left]
    rw [List.getElem?_map, List.getElem?_map, Index.getElem?_numbered ix h c l hk] at hget
    obtain ⟨m, hm, hplain⟩ := Option.map_eq_some_iff.1 hget
    exact ⟨m, hm, congrArg Mutation.seq hplain, (congrArg Mutation.id hplain :), (congrArg Mutation.insert hplain :), (congrArg Mutation.last hplain :)⟩

end Sys2Proof.Machine
end

section
/-! Table and text commands (R171, R172, R178, R187, R248 to R254), partitions and accounts (R130, R213, R244), tests and maintenance (R296, R328, R353, R372). -/

namespace Sys2Proof.Machine

/-! ## Tables -/

theorem map_snd_enum {α : Type} (l : List α) : (enum l).map Prod.snd = l := List.map_snd_zip (by simp)

section
variable {u : State} {g : Hdr} {pb : Bytes}

theorem State.admitTableCreate_new (hc : firstFail (tableCreateChecks u g pb) = none) (hdes : bit (fld pb 3 1) 1 = false) :
    u.admitTableCreate g pb = (((u.onTbl fun b => { b with tables := KMap.set b.tables (fld pb 0 1) (tableAt pb) }).attSize (.table (fld pb 0 1))
      (u.tableAttic (tableAt pb))).hbmSize (.pantry (fld pb 0 1)) (tableAt pb).hbm).ok g 0 0 0 0 := by
  unfold State.admitTableCreate
  simp only [runCmd_clear hc, hdes, Bool.not_false, if_true]
theorem State.admitTableCreate_removes (hc : firstFail (tableCreateChecks u g pb) = none) (hdes : bit (fld pb 3 1) 1 = true) :
    u.admitTableCreate g pb = (u.onTable (fld pb 0 1) fun x => { x with destroy := some g }).tryDestroy (fld pb 0 1) := by
  unfold State.admitTableCreate
  simp only [runCmd_clear hc, hdes, Bool.not_true, Bool.false_eq_true, if_false]

theorem State.table?_onTable (s : State) (i : Nat) (f : Table → Table) : (s.onTable i f).table? i = (s.table? i).map f := KMap.get?_mod s.tbl.tables i f

section
variable {v : State} {i : Nat} {t : Table} (ht : v.table? i = some t) (hd : t.destroy = some g)
include ht hd

/-- A table that a gather or a write uses stays for now. -/
theorem State.tryDestroy_used (h : (v.gathersOn i).isEmpty = false ∨ v.tbl.writes.any (fun w => w.table == i) = true) : v.tryDestroy i = v := by
  unfold State.tryDestroy
  simp only [ht, hd]
  exact if_pos (by rcases h with h | h <;> simp [h])
theorem State.tryDestroy_unused (hg : (v.gathersOn i).isEmpty = true) (hw : v.tbl.writes.any (fun w => w.table == i) = false) :
    v.tryDestroy i = (((v.attSize (.table i) 0).hbmSize (.pantry i) 0).onTbl fun b => { b with tables := KMap.erase b.tables i }).ok g 0 0 0 0 := by
  unfold State.tryDestroy
  simp only [ht, hd]
  exact if_neg (by simp only [hg, hw]; decide)
end

/-- A write whose shards are all this module's queues its entries, and sends none. -/
theorem State.admitTableWrite_own (hc : firstFail (tableWriteChecks u g pb) = none) {t : Table} (ht : u.table? (fld pb 0 1) = some t)
    (hown : ∀ e ∈ writeEntries t.width (dlData u pb 8), u.ownsShard t (t.shardOf e.row.toNat) = true) :
    u.admitTableWrite g pb = u.openWrite
      { no := 0, table := fld pb 0 1, cmd := some g, remote := none, count := fld pb 4 4, entries := writeEntries t.width (dlData u pb 8), waited := false, owners := [],
        holders := [], formed := none, failed := none } := by
  have hmem : ∀ x ∈ enum (writeEntries t.width (dlData u pb 8)), u.ownsShard t (t.shardOf x.2.row.toNat) = true := fun x hx => hown x.2 (List.of_mem_zip hx).2
  have hloc : ((enum (writeEntries t.width (dlData u pb 8))).filter fun x => u.ownsShard t (t.shardOf x.2.row.toNat)) = enum (writeEntries t.width (dlData u pb 8)) :=
    List.filter_eq_self.2 hmem
  have hfar : ((enum (writeEntries t.width (dlData u pb 8))).filter fun x => !u.ownsShard t (t.shardOf x.2.row.toNat)) = [] :=
    List.filter_eq_nil_iff.2 fun x hx => by simp [hmem x hx]
  unfold State.admitTableWrite
  simp only [runCmd_clear hc, ht, hloc, hfar, map_snd_enum]
  rfl
theorem State.admitTableGather_fits (hc : firstFail (tableGatherChecks u g pb) = none)
    (hfit : fld pb 4 4 * (4 * (u.wakeCores g.partNo).gatherWidth (fld pb 0 1) + 4) ≤ fld pb 56 4) :
    u.admitTableGather g pb = (u.wakeCores g.partNo).startGather
      { gid := 0, table := fld pb 0 1, pool := fld pb 1 1,
        bags := bagsOf ((pieces 4 (dlData u pb 16)).map leNat) ((pieces 16 (dlData u pb 32)).map fun o => ⟨BitVec.ofNat 64 (fld o 0 8), BitVec.ofNat 32 (fld o 8 4)⟩),
        cmd := some (g, BitVec.ofNat 64 (fld pb 48 8)), slot := none, part := g.partNo, kept := [], rows := 0, stamps := [], shards := [], far := [], sums := [], lostShards := [] } := by
  unfold State.admitTableGather
  simp only [runIn_clear hc, State.iff, Bool.false_eq_true, if_false, Nat.not_lt.2 hfit]
end

/-! ## Vocabularies, grammars, text -/

section
variable {u : State} {g : Hdr} {pb : Bytes}

theorem State.admitVocabLoad_new (hc : firstFail (vocabLoadChecks u g pb) = none) (hun : bit (fld pb 1 1) 0 = false) (hfree : KMap.get? u.sch.vocabs (fld pb 0 1) = none)
    {v : Vocab} (hv : parseVocab (dlData u pb 8) = some v) :
    u.admitVocabLoad g pb = ((((u.onSch fun c => { c with vocabs := KMap.set c.vocabs (fld pb 0 1) v }).hbmSize (.vocab (fld pb 0 1)) (granOf v.len)).sysSub 0).sysAdd v.len).ok
      g v.check.toNat 0 0 0 := by
  unfold State.admitVocabLoad
  simp only [runCmd_clear hc, hun, hfree, hv, Bool.false_eq_true, if_false]
theorem State.admitVocabLoad_unloads (hc : firstFail (vocabLoadChecks u g pb) = none) (hun : bit (fld pb 1 1) 0 = true) {v : Vocab}
    (hv : KMap.get? u.sch.vocabs (fld pb 0 1) = some v) :
    u.admitVocabLoad g pb = (((u.onSch fun c => { c with vocabs := KMap.erase c.vocabs (fld pb 0 1) }).hbmSize (.vocab (fld pb 0 1)) 0).sysSub v.len).ok g 0 0 0 0 := by
  unfold State.admitVocabLoad
  simp only [runCmd_clear hc, hun, hv, if_true]
theorem State.admitGrammarLoad_new (hc : firstFail (grammarLoadChecks u g pb) = none) (hun : bit (fld pb 1 1) 0 = false)
    (hfree : KMap.get? u.sch.grammars (fld pb 0 1) = none) {v : Grammar} (hv : parseGrammar (dlData u pb 8) = some v) :
    u.admitGrammarLoad g pb =
      ((((u.onSch fun c => { c with grammars := KMap.set c.grammars (fld pb 0 1) v }).hbmSize (.grammar (fld pb 0 1)) (granOf v.len)).sysSub 0).sysAdd v.len).ok
        g v.vocabCheck.toNat 0 0 0 := by
  unfold State.admitGrammarLoad
  simp only [runCmd_clear hc, hun, hfree, hv, Bool.false_eq_true, if_false]
theorem State.admitGrammarLoad_unloads (hc : firstFail (grammarLoadChecks u g pb) = none) (hun : bit (fld pb 1 1) 0 = true) {v : Grammar}
    (hv : KMap.get? u.sch.grammars (fld pb 0 1) = some v) :
    u.admitGrammarLoad g pb = (((u.onSch fun c => { c with grammars := KMap.erase c.grammars (fld pb 0 1) }).hbmSize (.grammar (fld pb 0 1)) 0).sysSub v.len).ok g 0 0 0 0 := by
  unfold State.admitGrammarLoad
  simp only [runCmd_clear hc, hun, hv, if_true]
end

/-! ### What the host's bytes are -/

section
variable {s t : State} (hh : s.host = t.host)
include hh

theorem State.hostRead_congr (a n : Nat) : s.hostRead a n = t.hostRead a n := by
  induction n generalizing a with
  | zero => rfl
  | succ n ih => rw [State.hostRead, State.hostRead, hh, ih]
theorem State.listData_congr (a n : Nat) : s.listData a n = t.listData a n := by
  induction n generalizing a with
  | zero => rfl
  | succ n ih => simp only [State.listData, State.hostRead_congr hh, ih]
theorem dlData_congr (pb : Bytes) (off : Nat) : dlData s pb off = dlData t pb off := congrArg (Option.getD · []) (State.listData_congr hh _ _)
end

theorem State.wakeDom_host (s : State) (d : Nat) : (s.wakeDom d).host = s.host := by
  unfold State.wakeDom
  split
  case h_4 => split_ifs <;> rfl
  all_goals rfl
theorem State.wakeCores_host (s : State) (p : Nat) : (s.wakeCores p).host = s.host := by
  unfold State.wakeCores State.each
  induction (s.part p).cores generalizing s with
  | nil => rfl
  | cons c l ih => exact (ih (s.wakeDom (coreDom c))).trans (s.wakeDom_host _)

section
variable {u : State} {g : Hdr} {pb : Bytes} {v : Vocab}

theorem State.admitTokenize_fits (hc : firstFail (tokenizeChecks u g pb) = none) (hv : u.vocab? (fld pb 0 1) = some v) (hlen : (dlData u pb 8).length ≤ 131072)
    (hfit : 4 * (tokenise v (dlData u pb 8)).length ≤ fld pb 32 4) :
    u.admitTokenize g pb = (((u.wakeCores g.partNo).wakeDom 5).hostWrite (fld pb 24 8) (wordsBytes (tokenise v (dlData u pb 8)))).finish g stOk 0
      (tokenise v (dlData u pb 8)).length 0 0 0 := by
  have hhost : dlData ((u.wakeCores g.partNo).wakeDom 5) pb 8 = dlData u pb 8 := dlData_congr ((State.wakeDom_host _ 5).trans (u.wakeCores_host _)) pb 8
  have hcut : cutText 131072 (dlData u pb 8) = (dlData u pb 8, false) := if_pos hlen
  unfold State.admitTokenize
  simp only [runIn_clear hc, State.iff, if_true, hv, Option.getD_some, hhost, hcut, Nat.not_lt.2 hfit, Bool.false_eq_true, if_false]
theorem State.admitDetokenize_fits (hc : firstFail (detokenizeChecks u g pb) = none) (hv : u.vocab? (fld pb 0 1) = some v)
    (hfit : (detokenise v (words32 (dlData u pb 8) ((dlData u pb 8).length / 4))).length ≤ fld pb 32 4) :
    u.admitDetokenize g pb = (((u.wakeCores g.partNo).wakeDom 5).hostWrite (fld pb 24 8) (detokenise v (words32 (dlData u pb 8) ((dlData u pb 8).length / 4)))).finish g stOk 0
      (detokenise v (words32 (dlData u pb 8) ((dlData u pb 8).length / 4))).length 0 0 0 := by
  unfold State.admitDetokenize
  simp only [runIn_clear hc, State.iff, if_true, hv, Option.getD_some]
  exact (State.output_eq _ _ _ _ _ _ _ _).trans (if_pos hfit)
end

/-- Settles O37. -/
theorem tablesAndTextCommandsRun : Obligations.TablesAndTextCommandsRun := by
  unfold Obligations.TablesAndTextCommandsRun
  intro s h pb u g i d w
  refine ⟨fun hc hdes => exec_admitted rfl hc (State.admitTableCreate_new (State.clear_checks hc) hdes), fun t hc hdes _ ht => ?removes,
    fun t hc ht hown => exec_admitted rfl hc (State.admitTableWrite_own (State.clear_checks hc) ht hown),
    fun hc hfit => exec_admitted rfl hc (State.admitTableGather_fits (State.clear_checks hc) hfit),
    fun v hc hun hfree hv => exec_admitted rfl hc (State.admitVocabLoad_new (State.clear_checks hc) hun hfree hv),
    fun v hc hun hv => exec_admitted rfl hc (State.admitVocabLoad_unloads (State.clear_checks hc) hun hv),
    fun v hc hun hfree hv => exec_admitted rfl hc (State.admitGrammarLoad_new (State.clear_checks hc) hun hfree hv),
    fun v hc hun hv => exec_admitted rfl hc (State.admitGrammarLoad_unloads (State.clear_checks hc) hun hv),
    fun v hc hv hlen hfit => exec_admitted rfl hc (State.admitTokenize_fits (State.clear_checks hc) hv hlen hfit),
    fun v hc hv hfit => exec_admitted rfl hc (State.admitDetokenize_fits (State.clear_checks hc) hv hfit)⟩
  case removes =>
    have hgone : (u.onTable i fun x => { x with destroy := some g }).table? i = some { t with destroy := some g } := (State.table?_onTable u i _).trans (congrArg _ ht)
    have hadm := State.admitTableCreate_removes (State.clear_checks hc) hdes
    exact ⟨fun hused => exec_admitted rfl hc (hadm.trans (State.tryDestroy_used hgone rfl hused)),
      fun hg hw => exec_admitted rfl hc (hadm.trans (State.tryDestroy_unused hgone rfl hg hw))⟩

/-! ## Partitions and accounts -/

section
variable {u w : State} {g : Hdr} {pb : Bytes}

theorem State.admitPartSet_clear (hc : firstFail (partSetChecks u g pb) = none) :
    u.admitPartSet g pb = (((u.wakeCores g.partNo).partShares g.partNo ((u.part g.partNo).settings pb)).onPart g.partNo fun z =>
      { (z.settings pb) with target := some (fld pb 0 1, g) }).settle := by
  unfold State.admitPartSet
  simp only [runIn_clear hc, State.iff, Bool.false_eq_true, if_false]
theorem State.admitPartRegulate_clear (hc : firstFail (partRegulateChecks u g pb) = none) :
    u.admitPartRegulate g pb = (((u.wakeCores g.partNo).onPart g.partNo fun x =>
      { x with regsNew := some ((List.range 4).map fun k => BitVec.ofNat 32 (fld pb (4 * k) 4)) }).settle).ok g 0 0 0 0 := by
  unfold State.admitPartRegulate
  simp only [runIn_clear hc, State.iff, Bool.false_eq_true, if_false, List.map_map]
  rfl

/-! ### Accounting records (Table 9.10) -/

theorem Acct.length_bytes (a : Acct) : a.bytes.length = 128 := by simp [Acct.bytes]
theorem Acct.bytes_fields (a : Acct) :
    fld a.bytes 0 8 = a.qwaitSteps.toNat ∧ fld a.bytes 88 8 = a.requests.toNat ∧ fld a.bytes 96 8 = 0 := by
  have hsteps := a.qwaitSteps.isLt
  have hreq := a.requests.isLt
  simp [Acct.bytes, fld_leBytes_append, fld_leBytes_append_later]
  exact ⟨by omega, by omega, rfl⟩

/-- A record that its buffer holds is told, and cleared where that is asked. -/
theorem State.acctOut_fits (hfit : 128 ≤ fld pb 16 4) (clear : State → State) (a : Acct) :
    w.acctOut g pb clear a = ((w.iff (bit (fld pb 0 1) 0) clear).hostWrite (fld pb 8 8) a.bytes).finish g stOk 0 0 0 0 0 := by
  unfold State.acctOut
  rw [State.output_eq, Acct.length_bytes, decide_eq_true hfit, Bool.and_true]
  exact if_pos hfit
/-- A buffer too short leaves the record as it is. -/
theorem State.acctOut_short (hshort : fld pb 16 4 < 128) (clear : State → State) (a : Acct) : w.acctOut g pb clear a = w.finish g stParam 8 0 0 0 128 := by
  unfold State.acctOut
  rw [State.output_eq, Acct.length_bytes, decide_eq_false (Nat.not_le.2 hshort), Bool.and_false]
  exact if_neg (Nat.not_le.2 hshort)

theorem State.admitAcctRead_part (hc : firstFail (acctReadChecks u g pb) = none) (hten : bit (fld pb 0 1) 1 = false) :
    u.admitAcctRead g pb = (u.wakeCores g.partNo).acctOut g pb (fun s => s.onPart g.partNo fun x => { x with acct := Acct.zero })
      ((u.wakeCores g.partNo).part g.partNo).acct := by
  unfold State.admitAcctRead
  simp only [runIn_clear hc, State.iff, hten, Bool.false_eq_true, if_false]
theorem State.admitAcctRead_tenant (hc : firstFail (acctReadChecks u g pb) = none) (hten : bit (fld pb 0 1) 1 = true) {t : Tenant}
    (ht : (u.wakeCores g.partNo).tenant? (w16At pb 2) = some t) :
    u.admitAcctRead g pb = (u.wakeCores g.partNo).acctOut g pb
      (fun s => s.onSch fun c => { c with tenants := KMap.mod c.tenants (w16At pb 2).toNat fun t => { t with acct := Acct.zero } }) t.acct := by
  unfold State.admitAcctRead
  simp only [runIn_clear hc, State.iff, hten, ht, Bool.false_eq_true, if_false, if_true]
end

/-- Settles O38. -/
theorem partitionsAndAccounts : Obligations.PartitionsAndAccounts := by
  unfold Obligations.PartitionsAndAccounts
  intro s h pb u g w ten id told
  refine ⟨fun hc => exec_admitted rfl hc (State.admitPartSet_clear (State.clear_checks hc)),
    fun hc => exec_admitted rfl hc (State.admitPartRegulate_clear (State.clear_checks hc)),
    fun hc hfit hten hkeep => exec_admitted rfl hc ?part, fun hc hfit hten hclear => exec_admitted rfl hc ?partClear,
    fun t hc hfit hten hkeep ht => exec_admitted rfl hc ?tenant, fun t hc hfit hten hclear ht => exec_admitted rfl hc ?tenantClear,
    fun a => ⟨a.length_bytes, a.bytes_fields⟩, fun hc hshort hten => exec_admitted rfl hc ?short⟩
  case part => rw [State.admitAcctRead_part (State.clear_checks hc) hten, State.acctOut_fits hfit, hkeep]; rfl
  case partClear => rw [State.admitAcctRead_part (State.clear_checks hc) hten, State.acctOut_fits hfit, hclear]; rfl
  case tenant => rw [State.admitAcctRead_tenant (State.clear_checks hc) hten ht, State.acctOut_fits hfit, hkeep]; rfl
  case tenantClear => rw [State.admitAcctRead_tenant (State.clear_checks hc) hten ht, State.acctOut_fits hfit, hclear]; rfl
  case short => rw [State.admitAcctRead_part (State.clear_checks hc) hten, State.acctOut_short hshort]

/-! ## Tests and maintenance -/

section
variable {u : State} {g : Hdr} {pb : Bytes}

theorem State.admitTest_clear (calib : Bool) (hc : firstFail (testChecks calib u g pb) = none) :
    State.admitTest calib u g pb = (u.onRas fun r => { r with pieces := r.pieces ++
      [{ cmd := { op := BitVec.ofNat 16 (if calib then 0x0802 else 0x0801), h := g, pb := pb }, calib := calib, target := fld pb 0 1, unit := fld pb 2 2, started := false,
         left := 0, records := 0 }] }).startPiece (u.ras.pieces.length + 1) := by
  unfold State.admitTest
  simp only [runCmd_clear hc]
theorem State.admitMaintPolicy_clear (hc : firstFail (maintPolicyChecks u g pb) = none) :
    let a := if bit (fld pb 8 1) 0 then BitVec.ofNat 32 (fld pb 0 4) else u.cel.gcCfg
    let b := if bit (fld pb 8 1) 1 then BitVec.ofNat 32 (fld pb 4 4) else u.cel.maintCfg
    u.admitMaintPolicy g pb = (u.onCel fun c => { c with gcCfg := a, maintCfg := b }).ok g a.toNat b.toNat 0 0 := by
  unfold State.admitMaintPolicy
  simp only [runCmd_clear hc]
  rfl
theorem State.admitEvacuate_clear (hc : firstFail (evacuateChecks u g pb) = none) :
    u.admitEvacuate g pb = (u.onSch fun c => { c with evac := some (some g, 0, u.liveAll) }).settle := by
  unfold State.admitEvacuate
  simp only [runCmd_clear hc]
end

section
variable {s : State} {x : Piece} {rest : List Piece} (hp : s.ras.pieces = x :: rest) (hstart : x.started = true) (hdrain : s.drained x = true)
  (pass : Bool) (e : Nat) (col : Bool) (line : Nat)
include hp hstart hdrain

/-- A test of an attic package goes on to its next piece. -/
theorem State.pieceEnd_continues (hpass : pass = true) (htarget : x.target = 2) (hleft : 1 < x.left) :
    s.pieceEnd pass e col line = s.onRas fun r => { r with pieces := { x with left := x.left - 1 } :: rest } := by
  unfold State.pieceEnd
  simp only [hp, hstart, hdrain, hpass, htarget, hleft, Bool.not_true, Bool.or_self, Bool.false_eq_true, Bool.and_self, decide_true, if_false, if_true]
/-- The last piece of a test completes its command, and the next test starts. -/
theorem State.pieceEnd_last (hlast : pass = false ∨ x.target ≠ 2 ∨ x.left ≤ 1) {v : State} {out : Nat}
    (hout : (if pass then (s.unitPasses x, 0) else s.unitFails x e col line) = (v, out)) :
    let v := v.onRas fun r => { r with pieces := rest, moduleTest := if x.target = 0xF then false else r.moduleTest }
    s.pieceEnd pass e col line = ((v.ok x.cmd.h out (v.bbx.nextSeq.toNat - x.records) 0 0).startPiece (rest.length + 1)).settle := by
  have hno : ¬ (pass && decide (x.target = 2) && decide (1 < x.left)) = true := by
    simp only [Bool.and_eq_true, decide_eq_true_eq, not_and, and_imp]
    rintro rfl htarget
    rcases hlast with h | h | h
    · cases h
    · exact absurd htarget h
    · exact Nat.not_lt.2 h
  unfold State.pieceEnd
  simp only [hp, hstart, hdrain, hout, Bool.not_true, Bool.or_self, Bool.false_eq_true, if_false]
  exact if_neg hno
end

/-- With no test left, none starts. -/
theorem State.startPiece_none {s : State} (h : s.ras.pieces = []) (n : Nat) : s.startPiece n = s := by
  cases n with
  | zero => rfl
  | succ n => unfold State.startPiece; rw [h]
theorem State.AnswersOnly.ras {s t : State} (h : s.AnswersOnly t) : t.ras = s.ras := by
  unfold State.AnswersOnly at h
  exact (congrArg State.ras h :)
theorem State.ok_ras (s : State) (h : Hdr) (r0 r1 r2 r3 : Nat) : (s.ok h r0 r1 r2 r3).ras = s.ras := (s.answersOnly_finish h stOk 0 r0 r1 r2 r3).ras

/-- Settles O39. -/
theorem testsAndMaintenance : Obligations.TestsAndMaintenance := by
  unfold Obligations.TestsAndMaintenance
  intro s h pb u g piece
  refine ⟨fun hc => exec_admitted rfl hc (State.admitTest_clear false (State.clear_checks hc)),
    fun hc => exec_admitted rfl hc (State.admitTest_clear true (State.clear_checks hc)), fun pass e col line x rest hp hstart hdrain => ⟨?continues, ?last⟩,
    fun x rest hp hstart h0 h2 hrest e col line => ?alone, fun hc => exec_admitted rfl hc (State.admitMaintPolicy_clear (State.clear_checks hc)),
    fun hc => exec_admitted rfl hc (State.admitEvacuate_clear (State.clear_checks hc))⟩
  case continues => exact fun hpass htarget hleft => congrArg woken (State.pieceEnd_continues hp hstart hdrain pass e.val col line.toNat hpass htarget hleft)
  case last => exact fun v out hout hlast => congrArg woken (State.pieceEnd_last hp hstart hdrain pass e.val col line.toNat hlast hout)
  case alone =>
    subst hrest
    have hdrain : s.drained x = true := by simp [State.drained, h0]
    have hout : (if true then (s.unitPasses x, 0) else s.unitFails x e.val col line.toNat) = (s, 0) := congrArg (·, 0) (if_neg h0)
    have hend := State.pieceEnd_last hp hstart hdrain true e.val col line.toNat (.inr (.inl h2)) hout
    refine congrArg woken (hend.trans ?_)
    rw [State.startPiece_none (by rw [State.ok_ras]; rfl)]
    rfl

end Sys2Proof.Machine
end

section
/-! Leases and the buddy (R343 to R345, R350), firmware (R412, R413) and the black box (R376, R377). -/

namespace Sys2Proof.Machine

/-! ## fab.lease and fab.buddy -/

section
variable {u : State} {g : Hdr} {pb : Bytes}

section
variable (hc : firstFail (fabLeaseChecks u g pb) = none)
include hc

theorem State.admitFabLease_acquire (hop : fld pb 0 1 = 0) : u.admitFabLease g pb = u.leaseAcquire g (fld pb 2 2) (fld pb 4 4) := by
  unfold State.admitFabLease
  simp only [runCmd_clear hc, hop]
theorem State.admitFabLease_release (hop : fld pb 0 1 = 1) : u.admitFabLease g pb = u.leaseRelease g (fld pb 1 1) := by
  unfold State.admitFabLease
  simp only [runCmd_clear hc, hop]
theorem State.admitFabLease_offer (hop : fld pb 0 1 = 2) : u.admitFabLease g pb = u.leaseOffer g (fld pb 4 4) := by
  unfold State.admitFabLease
  simp only [runCmd_clear hc, hop]
theorem State.admitFabLease_withdraw (hop : fld pb 0 1 = 3) : u.admitFabLease g pb = u.leaseWithdraw g := by
  unfold State.admitFabLease
  simp only [runCmd_clear hc, hop]
end

variable {target gib w : Nat}

theorem State.leaseAcquire_nobody (hl : u.fab.lender target = none) : u.leaseAcquire g target gib = u.err g (stNotFound, 0) := by
  unfold State.leaseAcquire
  rw [hl]
theorem State.leaseAcquire_full {l : W16} (hl : u.fab.lender target = some l) (hw : u.fab.freeWindow = none) :
    u.leaseAcquire g target gib = u.err g (stNoResource, 0) := by
  unfold State.leaseAcquire
  rw [hl, hw]
theorem State.leaseAcquire_asks {l : W16} (hl : u.fab.lender target = some l) (hw : u.fab.freeWindow = some w) :
    u.leaseAcquire g target gib = (u.onFab fun f => { f with acquiring := f.acquiring ++ [(g, l, w)] }).send l 3 (.leaseAsk gib) := by
  unfold State.leaseAcquire
  rw [hl, hw]

theorem State.leaseRelease_unheld (hw : KMap.get? u.fab.windows w = none) : u.leaseRelease g w = u.err g (stNotFound, 0) := by
  unfold State.leaseRelease
  rw [hw]
section
variable {x : Window} (hw : KMap.get? u.fab.windows w = some x)
include hw

theorem State.leaseRelease_used (hu : u.windowUsed w = true) :
    u.leaseRelease g w = (u.onFab fun f => { f with windows := KMap.set f.windows w { x with draining := true } }).err g (stBusy, 0) := by
  unfold State.leaseRelease
  simp only [hw, hu, if_true]
theorem State.leaseRelease_unused (hu : u.windowUsed w = false) :
    u.leaseRelease g w = ((u.send x.lender 3 (.leaseRelease w)).onFab fun f => { f with windows := KMap.erase f.windows w }).ok g 0 0 0 0 := by
  unfold State.leaseRelease
  simp only [hw, hu, Bool.false_eq_true, if_false]
end

theorem State.leaseOffer_full (h : memAttFree u < 512 * gib) : u.leaseOffer g gib = u.err g (stNoResource, 0) := if_pos h
theorem State.leaseOffer_told (h : 512 * gib ≤ memAttFree u) :
    let v := (u.onFab fun f => { f with offered := f.offered ++ [gib] }).attSize .offer (512 * sumNat (u.fab.offered ++ [gib]))
    u.leaseOffer g gib =
      (v.each v.fab.routes fun s r => s.send (BitVec.ofNat 16 r.1) 3 (.leaseOffer (maxNat (u.fab.offered ++ [gib])))).ok g 0 0 0 0 := if_neg (Nat.not_lt.2 h)

theorem State.leaseWithdraw_nothing (ho : u.fab.offered = []) (hl : u.fab.lent = []) : u.leaseWithdraw g = u.err g (stNotFound, 0) := if_pos (by rw [ho, hl]; rfl)
theorem State.leaseWithdraw_offered (ho : u.fab.offered ≠ []) :
    let v := (u.attSize .offer 0).onFab fun f => { f with offered := [], withdrawing := f.withdrawing ++ [g] }
    let v := v.each v.fab.routes fun s r => s.send (BitVec.ofNat 16 r.1) 3 (.leaseOffer 0)
    u.leaseWithdraw g = (v.each v.fab.lent fun s l => s.send l.borrower 3 (.leaseWithdraw l.ref.toNat)).endWithdraw := if_neg (by simp [ho])

theorem State.admitFabBuddy_clear (hc : firstFail (fabBuddyChecks u g pb) = none) :
    u.admitFabBuddy g pb = ((if w16At pb 0 = u.fab.buddy then u else u.closeMirrors).onFab fun f => { f with buddy := w16At pb 0, buddyDown := false }).ok
      g (w16At pb 0).toNat 0 0 0 := by
  unfold State.admitFabBuddy
  simp only [runCmd_clear hc]
end

/-! ## The messages of a lease (R343 to R345) -/

section
variable {b : State} {m : MsgHdr}

section
variable {off units : Nat} {d : Bytes}

theorem State.memRead_within {l : Lent} (hl : b.fab.lentTo m = some l) (hspan : lentSpan l off units = true) :
    b.memRead m off units = b.reply m 2 (.memData ((b.lentUnits l off units).flatMap fun a => Mem.readN b.mem.bytes a 4096)) := by
  unfold State.memRead
  simp only [hl, hspan, if_true]
theorem State.memRead_outside (h : ∀ l, b.fab.lentTo m = some l → lentSpan l off units = false) : b.memRead m off units = b.reply m 2 .error := by
  unfold State.memRead
  cases hl : b.fab.lentTo m with
  | none => rfl
  | some l => simp only [h l hl, Bool.false_eq_true, if_false]
theorem State.memWrite_within {l : Lent} (hl : b.fab.lentTo m = some l) (hlen : d.length % 4096 = 0) (hspan : lentSpan l off (d.length / 4096) = true) :
    b.memWrite m off d =
      (b.onMem fun x => { x with bytes := writeRuns x.bytes ((b.lentUnits l off (d.length / 4096)).zip (pieces 4096 d)) }).reply m 2 .memDone := by
  unfold State.memWrite
  simp only [hl, hlen, hspan, decide_true, Bool.and_self, if_true]
theorem State.memWrite_outside (h : ∀ l, b.fab.lentTo m = some l → d.length % 4096 = 0 → lentSpan l off (d.length / 4096) = false) :
    b.memWrite m off d = b.reply m 2 .error := by
  unfold State.memWrite
  cases hl : b.fab.lentTo m with
  | none => rfl
  | some l =>
    refine if_neg ?_
    simp only [Bool.and_eq_true, decide_eq_true_eq, not_and, Bool.not_eq_true]
    exact h l hl
end

section
variable {gib : Nat}

theorem State.askIn_refused (h : min gib (maxNat b.fab.offered) = 0 ∨ (b.fab.lentTo m).isSome = true) : b.askIn m gib = b.reply m 3 .error :=
  if_pos (by rcases h with h | h <;> simp [h])
/-- An ask is granted from the largest part on offer. -/
theorem State.askIn_granted (hn : min gib (maxNat b.fab.offered) ≠ 0) (hl : b.fab.lentTo m = none) :
    let big := maxNat b.fab.offered
    let n := min gib big
    let rest := b.fab.offered.erase big ++ if n < big then [big - n] else []
    let v := ((b.onFab fun f => { f with offered := rest, lent := f.lent ++ [{ borrower := m.src, ref := m.context, gib := n }] }).attSize .offer (512 * sumNat rest)).attSize
      (.lent m.src m.context) (512 * n)
    b.askIn m gib = (v.zeroRegion (regionUnits v.mem.att (.lent m.src m.context))).reply m 3 (.leaseGrant n) :=
  if_neg (by rw [hl]; simpa using hn)

variable {a : Hdr × W16 × Nat} (ha : b.fab.acquiring.find? (fun a => a.2.1 == m.src && m.context == BitVec.ofNat 64 a.2.2) = some a)
include ha

theorem State.grantIn_mapped (he : m.isError = false) :
    b.grantIn m gib = ((b.onFab fun f => { f with acquiring := f.acquiring.filter (· ≠ a) }).onFab fun f =>
      { f with windows := KMap.set f.windows a.2.2 { lender := m.src, gib := gib, draining := false } }).ok a.1 a.2.2 m.src.toNat gib 0 := by
  unfold State.grantIn
  simp only [ha, he, Bool.false_eq_true, if_false]
theorem State.grantIn_refused (he : m.isError = true) :
    b.grantIn m gib = (b.onFab fun f => { f with acquiring := f.acquiring.filter (· ≠ a) }).err a.1 (stNotFound, 0) := by
  unfold State.grantIn
  simp only [ha, he, if_true]
end

theorem State.withdrawIn_drains {w : Window} (hw : KMap.get? b.fab.windows m.context.toNat = some w) (hl : w.lender = m.src) :
    b.withdrawIn m =
      ((b.onFab fun f => { f with windows := KMap.set f.windows m.context.toNat { w with draining := true } }).dropLeaseCopies m.context.toNat).drainWindows := by
  unfold State.withdrawIn
  simp only [hw, hl, if_true]
theorem State.withdrawIn_other (h : ∀ w, KMap.get? b.fab.windows m.context.toNat = some w → w.lender ≠ m.src) : b.withdrawIn m = b := by
  unfold State.withdrawIn
  cases hw : KMap.get? b.fab.windows m.context.toNat with
  | none => rfl
  | some w => exact if_neg (h w hw)
theorem State.releaseIn_lent {l : Lent} (hl : b.fab.lentTo m = some l) : b.releaseIn m = b.reclaimLent l := by
  unfold State.releaseIn
  rw [hl]
theorem State.releaseIn_unlent (hl : b.fab.lentTo m = none) : b.releaseIn m = b := by
  unfold State.releaseIn
  rw [hl]
end

/-- A message of a lease that is the next of its stream does its part, and then those it had held up. -/
theorem exec_receive_inTurn {s v : State} {m : MsgHdr} {cls : Nat} {ordered : Bool} {i j : Instr} (hexec : exec i s = woken (s.receive m cls ordered j))
    (hturn : s.inTurn m cls = true) (hact : applyMsg j (s.took m cls) = v) : exec i s = .next (v.caughtUp m cls).woken := by
  rw [hexec, State.receive_inTurn ordered j hturn, hact]
  rfl
/-- A message in turn is no reply. -/
theorem State.inTurn_isReply {s : State} {m : MsgHdr} {cls : Nat} (h : s.inTurn m cls = true) : m.isReply = false := by
  unfold State.inTurn at h
  simp only [Bool.and_eq_true, Bool.not_eq_true'] at h
  exact h.1.1.2
theorem applyMsg_leaseGrant_ask {m : MsgHdr} (h : m.isReply = false) (g : Byte) (b : State) : applyMsg (.leaseGrantMsg m g) b = b.askIn m g.toNat :=
  if_neg (ne_true_of_eq_false h)
/-- A reply goes to the acquire that asked. -/
theorem exec_leaseGrant_reply {s : State} {m : MsgHdr} (hr : m.isReply = true) (hdep : s.departed = false) (g : Byte) :
    exec (.leaseGrantMsg m g) s = .next (s.grantIn m g.toNat).woken := by
  refine congrArg woken ?_
  unfold State.receive
  rw [if_neg (ne_true_of_eq_false hdep), if_pos hr]
  exact if_pos hr

/-- Settles O40. -/
theorem leasesAndTheBuddy : Obligations.LeasesAndTheBuddy := by
  unfold Obligations.LeasesAndTheBuddy
  intro s h pb u g gib ends routed
  refine ⟨fun hc hop => ?acquire, fun hc hop => ?release, fun hc hop => ?offer, fun hc hop => ?withdraw, fun m hturn => ?transfers, fun m hturn => ?messages,
    fun m g a hr hdep ha => ?grants, fun hc => exec_admitted rfl hc (State.admitFabBuddy_clear (State.clear_checks hc))⟩
  case acquire =>
    have hadm := State.admitFabLease_acquire (State.clear_checks hc) hop
    exact ⟨fun hl => exec_admitted rfl hc (hadm.trans (State.leaseAcquire_nobody hl)), fun l hl hw => exec_admitted rfl hc (hadm.trans (State.leaseAcquire_full hl hw)),
      fun l w hl hw => exec_admitted rfl hc (hadm.trans (State.leaseAcquire_asks hl hw))⟩
  case release =>
    have hadm := State.admitFabLease_release (State.clear_checks hc) hop
    exact ⟨fun hw => exec_admitted rfl hc (hadm.trans (State.leaseRelease_unheld hw)), fun x hw =>
      ⟨fun hu => exec_admitted rfl hc (hadm.trans (State.leaseRelease_used hw hu)), fun hu => exec_admitted rfl hc (hadm.trans (State.leaseRelease_unused hw hu))⟩⟩
  case offer =>
    have hadm := State.admitFabLease_offer (State.clear_checks hc) hop
    exact ⟨fun hfull => exec_admitted rfl hc (hadm.trans (State.leaseOffer_full hfull)), fun hroom => exec_admitted rfl hc (hadm.trans (State.leaseOffer_told hroom))⟩
  case withdraw =>
    have hadm := State.admitFabLease_withdraw (State.clear_checks hc) hop
    exact ⟨fun ho hl => exec_admitted rfl hc (hadm.trans (State.leaseWithdraw_nothing ho hl)),
      fun ho => exec_admitted rfl hc (hadm.trans (State.leaseWithdraw_offered ho))⟩
  case transfers =>
    exact ⟨fun _ _ _ hl hspan => exec_receive_inTurn rfl hturn (State.memRead_within hl hspan),
      fun _ _ _ hl hlen hspan => exec_receive_inTurn rfl hturn (State.memWrite_within hl hlen hspan),
      fun _ _ hno => exec_receive_inTurn rfl hturn (State.memRead_outside hno), fun _ _ hno => exec_receive_inTurn rfl hturn (State.memWrite_outside hno)⟩
  case messages =>
    have hask := fun (g : Byte) => applyMsg_leaseGrant_ask (State.inTurn_isReply hturn) g (s.took m 3)
    exact ⟨fun g => exec_receive_inTurn rfl hturn rfl, fun g hno => exec_receive_inTurn rfl hturn ((hask g).trans (State.askIn_refused hno)),
      fun g hn hl => exec_receive_inTurn rfl hturn ((hask g).trans (State.askIn_granted hn hl)),
      fun w hw hl => exec_receive_inTurn rfl hturn (State.withdrawIn_drains hw hl), fun hno => exec_receive_inTurn rfl hturn (State.withdrawIn_other hno),
      fun l hl => exec_receive_inTurn rfl hturn (State.releaseIn_lent hl), fun hl => exec_receive_inTurn rfl hturn (State.releaseIn_unlent hl)⟩
  case grants =>
    refine ⟨fun he => (exec_leaseGrant_reply hr hdep g).trans ?_, fun he => (exec_leaseGrant_reply hr hdep g).trans ?_⟩
    · rw [State.grantIn_mapped ha he]; rfl
    · rw [State.grantIn_refused ha he]; rfl

/-! ## Firmware (R412, R413) -/

theorem State.record_boot (s : State) (type sev : Nat) (pl : Bytes) : (s.record type sev pl).boot = s.boot := by
  unfold State.record
  dsimp only
  split <;> rfl
theorem State.AnswersOnly.boot {s t : State} (h : s.AnswersOnly t) : t.boot = s.boot := by
  unfold State.AnswersOnly at h
  exact (congrArg State.boot h :)
theorem State.ok_boot (s : State) (h : Hdr) (r0 r1 r2 r3 : Nat) : (s.ok h r0 r1 r2 r3).boot = s.boot := (s.answersOnly_finish h stOk 0 r0 r1 r2 r3).boot

section
variable {u : State} {g : Hdr} {pb : Bytes}

theorem State.admitFwStage_verified (hc : firstFail (fwStageChecks u g pb) = none) {x : FwImage} (hx : fwVerify u.boot.svnFused (dlBytes u pb 0) = .inr x) :
    u.admitFwStage g pb =
      ((if u.boot.staged.isNone then u.attSize .staging stageGranules else u).onBoot fun b => { b with staged := some x }).ok g x.version.toNat 0 0 0 := by
  unfold State.admitFwStage State.stage
  simp only [runCmd_clear hc, hx]
  rfl
theorem State.admitFwStage_refused (hc : firstFail (fwStageChecks u g pb) = none) {f : Fail} (hf : fwVerify u.boot.svnFused (dlBytes u pb 0) = .inl f) :
    u.admitFwStage g pb = u.err g f := by
  unfold State.admitFwStage State.stage
  simp only [runCmd_clear hc, hf]

section
variable (hc : firstFail (fwCommitChecks u g pb) = none) {x : FwImage} (hx : u.boot.staged = some x) (hw : u.bootWritable = true)
include hc hx hw

/-- The image reads back: its SVN is burned, and the stage is empty. -/
theorem State.admitFwCommit_passes (hp : x.passes u.boot.svnFused = true) (hrec : u.boot.recovery = false) :
    u.admitFwCommit g pb = ((((u.onBoot fun b => { b with bootImg := some x }).onBoot fun b => { b with svnFused := max b.svnFused x.svn, staged := none }).serviceAction
      4 0 x.version.toNat).attSize .staging 0).ok g x.version.toNat 0 0 0 := by
  have hback : ((u.onBoot fun b => { b with bootImg := some x }).bootWritable) = true := hw
  unfold State.admitFwCommit
  simp only [runCmd_clear hc, hx, hw, hp, hback, if_true, State.onBoot_boot, Bool.and_self, Bool.not_true, Bool.false_eq_true, if_false]
  refine if_neg (ne_true_of_eq_false ?_)
  rw [State.ok_boot]
  exact (congrArg Boot.recovery (State.record_boot _ _ _ _)).trans hrec
theorem State.admitFwCommit_fails (hp : x.passes u.boot.svnFused = false) :
    u.admitFwCommit g pb = ((u.onBoot fun b => { b with bootImg := some x }).serviceAction 4 1 x.version.toNat).err g (stDevice, 0) := by
  unfold State.admitFwCommit
  simp only [runCmd_clear hc, hx, hw, hp, if_true, State.onBoot_boot, Bool.false_and, Bool.not_false]
end

/-! ## The black box (R376, R377) -/

theorem length_slice (b : Bytes) (off n : Nat) : (slice b off n).length = n := by
  unfold slice
  simp only [List.length_append, List.length_replicate, List.length_take]
  omega
theorem BbxRec.length_bytes (r : BbxRec) : r.bytes.length = 64 := by simp [BbxRec.bytes, length_slice]

/-- Records whose buffer holds them are told, and READ is set in each. -/
theorem State.admitBbxRead_fits (hc : firstFail (bbxReadChecks u g pb) = none) :
    let l := u.bbx.from_ (fld pb 0 8) (fld pb 8 4) (fld pb 12 1 == 1)
    let nx := u.bbx.nextFrom (fld pb 0 8) l
    64 * l.length ≤ fld pb 24 4 →
    u.admitBbxRead g pb = ((u.onBbx fun b => b.markRead l).hostWrite (fld pb 16 8) (l.flatMap fun r => BbxRec.bytes { r with read := true })).finish g stOk 0
      l.length (nx % 2 ^ 32) (nx / 2 ^ 32) 0 := by
  intro l nx hfit
  have hlen : (l.flatMap fun r => BbxRec.bytes { r with read := true }).length = 64 * l.length := by
    simp [List.length_flatMap, BbxRec.length_bytes, Nat.mul_comm]
  unfold State.admitBbxRead
  simp only [runCmd_clear hc, List.flatMap_map]
  refine (congrArg (fun v : State => v.output g pb 16 _ _ _ _) (if_neg (Nat.not_lt.2 hfit))).trans ?_
  rw [State.output_eq]
  exact if_pos (hlen.trans_le hfit)
theorem State.admitBbxAck_clear (hc : firstFail (bbxAckChecks u g pb) = none) :
    let hit := fun (r : BbxRec) => r.sealed_ && r.read && decide (r.seq.toNat ≤ fld pb 0 8)
    let n := (u.bbx.recs.filter hit).length
    u.admitBbxAck g pb = ((u.onBbx fun b => { b with recs := b.recs.map fun r => if hit r then { r with sealed_ := false } else r, sealedN := b.sealedN - n }).serviceAction
      6 0 (fld pb 0 8)).ok g n 0 0 0 := by
  unfold State.admitBbxAck
  simp only [runCmd_clear hc]
end

/-- Settles O41. -/
theorem firmwareAndTheBlackBox : Obligations.FirmwareAndTheBlackBox :=
  fun _ _ _ => ⟨fun _ hc hx => exec_admitted rfl hc (State.admitFwStage_verified (State.clear_checks hc) hx),
    fun _ hc hf => exec_admitted rfl hc (State.admitFwStage_refused (State.clear_checks hc) hf),
    fun _ hc hx hw hp hrec => exec_admitted rfl hc (State.admitFwCommit_passes (State.clear_checks hc) hx hw hp hrec),
    fun _ hc hx hw hp => exec_admitted rfl hc (State.admitFwCommit_fails (State.clear_checks hc) hx hw hp),
    fun hc hfit => exec_admitted rfl hc (State.admitBbxRead_fits (State.clear_checks hc) hfit),
    fun hc => exec_admitted rfl hc (State.admitBbxAck_clear (State.clear_checks hc)), BbxRec.length_bytes⟩

end Sys2Proof.Machine
end

section
/-! Launches (R24, R85, R115, R195, R209, R223, R242, R381, R395), landing (R112, R115), the pager (R124), masks (R257), regulated transfers (R131) and SLOWDOWN (R133). -/

namespace Sys2Proof.Machine

/-! ## Launches -/

/-- A launch with the slots that still run it. -/
def Launch.live (l : Launch) (s : State) (run : StepRun) : Launch := { l with slots := s.liveSlots run l }
/-- The partition goes past a launch. -/
def State.launchPassed (s : State) (p : Nat) (run : StepRun) (rest : List Launch) : State :=
  (((s.onPart p fun x => { x with run := some { run with launches := rest } }).streamFill p).tryBoundary p).settle

section
variable {s : State} {p : Nat} {run : StepRun} {l : Launch} {rest : List Launch} (hrun : (s.part p).run = some run) (hl : run.launches = l :: rest)
include hrun hl

theorem State.launchOver_iff (hst : l.started = true) : s.launchOver p = true ↔ ∀ c ∈ (s.part p).cores, (s.core c).busy = false ∨ (s.core c).ended = true := by
  unfold State.launchOver
  simp only [hrun, hl, hst, Bool.true_and, List.all_eq_true, Bool.or_eq_true, Bool.not_eq_true']

variable (hst : l.started = false)
include hst

theorem State.launchStart_held (hh : s.holdsLaunches = true) : s.launchStart p = s := by
  unfold State.launchStart
  simp only [hrun, hl, hst, hh, Bool.or_true, if_true]

variable (hh : s.holdsLaunches = false)
include hh

theorem State.launchStart_passed (hn : s.liveSlots run l = []) : s.launchStart p = s.launchPassed p run rest := by
  unfold State.launchStart
  simp only [hrun, hl, hst, hh, hn, Bool.or_self, Bool.false_eq_true, if_false, List.isEmpty_nil, if_true]
  rfl

variable (hn : s.liveSlots run l ≠ [])
include hn

theorem State.launchStart_waits (hm : s.launchMay p (l.live s run) = false) : s.launchStart p = s := by
  have hgo : (l.started || s.holdsLaunches) = false := by rw [hst, hh]; rfl
  have hn' : (s.liveSlots run l).isEmpty = false := List.isEmpty_eq_false_iff.2 hn
  have hm' : s.launchMay p { l with slots := s.liveSlots run l } = false := hm
  unfold State.launchStart
  simp only [hrun, hl, hgo, hn', hm', Bool.false_eq_true, if_false, Bool.not_false, if_true]
/-- Without a program its requests fail. -/
theorem State.launchStart_progless (hm : s.launchMay p (l.live s run) = true) (hp : s.launchProg p (l.live s run) = none) :
    s.launchStart p = (s.each (s.liveSlots run l) fun s n => s.endReq n stNotFound 0).launchPassed p run rest := by
  have hgo : (l.started || s.holdsLaunches) = false := by rw [hst, hh]; rfl
  have hn' : (s.liveSlots run l).isEmpty = false := List.isEmpty_eq_false_iff.2 hn
  have hm' : s.launchMay p { l with slots := s.liveSlots run l } = true := hm
  have hp' : s.launchProg p { l with slots := s.liveSlots run l } = none := hp
  unfold State.launchStart
  simp only [hrun, hl, hgo, hn', hm', hp', Bool.false_eq_true, if_false, Bool.not_true]
  rfl
/-- Each core begins the launch's program, with its share of the items. -/
theorem State.launchStart_begins {tid : Nat} {m : Model} {g : Prog} (hm : s.launchMay p (l.live s run) = true) (hp : s.launchProg p (l.live s run) = some (tid, m, g))
    (hc : ((s.part p).cores.take g.cores).all s.coreReady = true) :
    let l := l.live s run
    let its := run.items.filter fun i => l.slots.contains i.slot
    let others := ((s.launchTenants l).filter fun t => t.toNat ≠ tid).map fun t => t.toNat
    s.launchStart p = (((({ s with freeCtr := s.freeCtr + 1 } : State).each (enum ((s.part p).cores.take g.cores)) fun v y =>
        v.onCore y.2 fun k => k.begin_ g (bindSegs m g tid others) l.slots (its.flatMap (v.givenOf g.cores y.1)) (launchWords run l g.cores y.1 (Config.freeNat s.freeCtr))).onMem fun y =>
        { y with bytes := ((s.part p).cores.take g.cores).foldl (fun b c => Mem.writeN b (coreBase c) (slice m.consts g.constOff g.constLen)) y.bytes }).onPart p fun x =>
        { x with run := some { run with launches := { l with started := true } :: rest } }) := by
  have hgo : (l.started || s.holdsLaunches) = false := by rw [hst, hh]; rfl
  have hn' : (s.liveSlots run l).isEmpty = false := List.isEmpty_eq_false_iff.2 hn
  have hm' : s.launchMay p { l with slots := s.liveSlots run l } = true := hm
  have hp' : s.launchProg p { l with slots := s.liveSlots run l } = some (tid, m, g) := hp
  unfold State.launchStart
  simp only [hrun, hl, hgo, hn', hm', hp', hc, Bool.false_eq_true, if_false, Bool.not_true]
  rfl
end

/-- The core at a position is given at most ceil(count / cores) of a group of candidates. -/
theorem State.length_givenOf (s : State) (cores pos : Nat) {it : Item} (hk : it.kind = .pairs ∨ it.kind = .heads) :
    (s.givenOf cores pos it).length ≤ ceilDiv it.seqs cores := by
  unfold State.givenOf
  split
  · exact Nat.zero_le _
  · rcases hk with hk | hk <;> simp only [hk, List.length_map] <;> exact List.length_take_le _ _

section
variable {s : State} {p : Nat}

theorem State.launchEnd_early (h : s.launchOver p = false) (cyc : Nat) (outs : List LaunchOut) : s.launchEnd p cyc outs = s := if_pos (by rw [h]; rfl)
theorem State.launchEnd_over (h : s.launchOver p = true) (cyc : Nat) (outs : List LaunchOut) :
    let v := s.onPart p fun x => { x with run := x.run.map fun r => { r with launches := r.launches.drop 1, cycles := r.cycles + cyc, outs := outs ++ r.outs } }
    let w := v.each (v.part p).cores fun s c => s.onCore c fun k =>
      { k with busy := false, ended := false, prog := [], slots := [], given := [], preempt := false, held := none, atMark := none, loops := [] }
    let y := w.each (w.part p).cores fun s c => if s.underTest c then s.testMove c false else s.dueMove c false
    s.launchEnd p cyc outs = ((y.streamFill p).tryBoundary p).settle := if_neg (by rw [h]; decide)
end

/-- Settles O42. -/
theorem launchesRunAndEnd : Obligations.LaunchesRunAndEnd := by
  unfold Obligations.LaunchesRunAndEnd
  intro s part p x pass
  refine ⟨fun run l rest hrun hl hst hh => congrArg woken (State.launchStart_held hrun hl hst hh),
    fun run l rest hrun hl hst hh => ⟨fun hn => congrArg woken (State.launchStart_passed hrun hl hst hh hn), fun hn => ⟨fun hm => ?waits, fun tid m g hm hp hc => ?begins,
      fun hm hp => ?progless⟩⟩,
    fun k g segs slots given words => ⟨rfl, rfl, rfl, rfl, rfl, rfl, rfl⟩, fun cores pos it hk => s.length_givenOf cores pos hk,
    fun cyc outs h => congrArg woken (State.launchEnd_early h cyc.toNat outs), fun cyc outs h => congrArg woken (State.launchEnd_over h cyc.toNat outs),
    fun run l rest hrun hl hst => State.launchOver_iff hrun hl hst⟩
  case waits => exact congrArg woken (State.launchStart_waits hrun hl hst hh hn hm)
  case begins => exact ⟨Config.freeNat s.freeCtr, congrArg woken (State.launchStart_begins hrun hl hst hh hn hm hp hc)⟩
  case progless => exact congrArg woken (State.launchStart_progless hrun hl hst hh hn hm hp)

/-! ## Landing (R112, R115) -/

section
variable {s : State} {p place : Nat} {l : LandSlot} (hl : (s.part p).land[place]? = some l) (hland : l.landed = false)
  (hwait : (s.part p).waitsFor (.layer l.model l.layer) = false)
include hl hland hwait

theorem State.layerLanded_whole :
    s.layerLanded p place true = (s.onPart p fun x => { x with land := setAt x.land place { l with landed := true } }).streamFill p := by
  unfold State.layerLanded
  simp only [hl, hland, hwait, Bool.or_self, Bool.false_eq_true, if_false, if_true]
theorem State.layerLanded_again (hr : l.retried = false) :
    s.layerLanded p place false = s.onPart p fun x => { x with land := setAt x.land place { l with retried := true } } := by
  unfold State.layerLanded
  simp only [hl, hland, hwait, hr, Bool.or_self, Bool.false_eq_true, if_false, Bool.not_false, if_true]
theorem State.layerLanded_fails (hr : l.retried = true) :
    s.layerLanded p place false = (s.onPart p fun x => { x with land := setAt x.land place { l with retried := false } }).frameError p [] none := by
  unfold State.layerLanded
  simp only [hl, hland, hwait, hr, Bool.or_self, Bool.false_eq_true, if_false, Bool.not_true]
end

/-! ## The pager and the masks (R124, R257) -/

section
variable {s : State} {p : Nat} (hops : (s.part p).pagerOps ≠ []) (hwait : (s.part p).waitsFor .pager = false)
include hops hwait

theorem State.pagerTransferDone_eq : s.pagerTransferDone p = ((match ((s.pagerDone p).part p).run with
    | some run => if run.empty then (s.pagerDone p).boundary p run else (s.pagerDone p).pagerNext p
    | none => (s.pagerDone p).pagerNext p : State)).drainWindows.settle := if_neg (by simp [hops, hwait])
theorem State.pagerTransferDone_standing (hrun : ((s.pagerDone p).part p).run = none) :
    s.pagerTransferDone p = ((s.pagerDone p).pagerNext p).drainWindows.settle := by
  rw [State.pagerTransferDone_eq hops hwait, hrun]
theorem State.pagerTransferDone_empty {run : StepRun} (hrun : ((s.pagerDone p).part p).run = some run) (he : run.empty = true) :
    s.pagerTransferDone p = ((s.pagerDone p).boundary p run).drainWindows.settle := by
  rw [State.pagerTransferDone_eq hops hwait, hrun]
  simp only [he, if_true]
theorem State.pagerTransferDone_running {run : StepRun} (hrun : ((s.pagerDone p).part p).run = some run) (he : run.empty = false) :
    s.pagerTransferDone p = ((s.pagerDone p).pagerNext p).drainWindows.settle := by
  rw [State.pagerTransferDone_eq hops hwait, hrun]
  simp only [he, Bool.false_eq_true, if_false]
end

section
variable {s : State} {slot : SlotNo} {r : Req} (hr : s.req? slot.val = some r)
include hr

theorem exec_grammarMaskReady_early (hb : s.maskBegun r slot.val = false) : exec (.grammarMaskReady slot) s = .next s.woken := by
  change execGrammarMaskReady slot s = _
  unfold execGrammarMaskReady
  simp only [hr, hb, Bool.and_false, Bool.false_eq_true, if_false]
  rfl
theorem exec_grammarMaskReady_begun (hrun : r.running = true) (hg : r.grammar.isSome = true) (hb : s.maskBegun r slot.val = true) :
    exec (.grammarMaskReady slot) s = .next (((s.onReq slot.val fun x => { x with maskReady := true }).tryBoundary r.part.val).settle).woken := by
  change execGrammarMaskReady slot s = _
  unfold execGrammarMaskReady
  simp only [hr, hrun, hg, hb, Bool.and_self, if_true]
  rfl
end

/-! ## Regulated transfers (R131) -/

/-- A resource's transfers that have not gone in the meantime. -/
def State.transfersLeft (s : State) (p res : Nat) : State :=
  s.onPart p fun x => { x with transfers := x.transfers.filter fun t => t.1 ≠ res || !s.transferGone p res t.2 }
/-- A transfer waits no more: what it was for goes on. -/
def State.transferGoes (y : State) (p res : Nat) (t : Nat × Transfer) : State :=
  let y := y.onPart p fun x => { x with transfers := dropFirst (fun z => z == t) x.transfers }
  match t.2.key with
  | .xfer c => y.onCore c fun k => { k with xfers := startXfer res k.xfers }
  | .scan adm c => y.issueScan adm c
  | .fetch n => y.issueFetch n
  | _ => y
/-- The frames of a waiting transfer that the bucket holds tokens for start; an XFER's do not start apart. -/
def State.framesGo (y : State) (p res : Nat) (t : Nat × Transfer) (n : Nat) : State :=
  match t.2.key with
  | .xfer _ => y
  | _ => (y.spend p res n).onPart p fun x => { x with transfers := x.transfers.map fun z => if z == t then (t.1, { t.2 with units := t.2.units - n }) else z }

/-- Tokens of a resource's bucket, where it has one. -/
def State.tokensOf (s : State) (p res : Nat) (r : Regulator) : Int := (((s.part p).regs[res]?).getD r).tokens
/-- Does another partition's transfer wait on the resource? -/
def State.othersWait (s : State) (p res : Nat) : Bool := s.sch.parts.any fun x => x.1 ≠ p && x.2.transfers.any fun t => t.1 == res

section
variable {v : State} {p res units : Nat} {r : Regulator}

theorem State.mayTransfer_held (h : (units : Int) ≤ (v.refill p res).tokensOf p res r) : v.mayTransfer p res units r = (v.refill p res, true) :=
  if_pos (decide_eq_true h)
variable (h : (v.refill p res).tokensOf p res r < (units : Int))
include h
theorem State.mayTransfer_short : v.mayTransfer p res units r = if r.borrow then (v.refill p res).idleOf p res else (v.refill p res, false) :=
  if_neg (by simpa [State.tokensOf] using h)
theorem State.mayTransfer_busy (hb : r.borrow = false ∨ (v.refill p res).othersWait p res = true) : v.mayTransfer p res units r = (v.refill p res, false) := by
  rw [State.mayTransfer_short h]
  cases hbo : r.borrow with
  | false => rfl
  | true => exact if_pos (hb.resolve_left (by simp [hbo]))
theorem State.mayTransfer_borrows (hb : r.borrow = true) (hw : (v.refill p res).othersWait p res = false) :
    v.mayTransfer p res units r = ({ v.refill p res with freeCtr := (v.refill p res).freeCtr + 1 }, bit (Config.freeNat (v.refill p res).freeCtr) 0) := by
  rw [State.mayTransfer_short h, if_pos hb]
  exact if_neg (ne_true_of_eq_false hw)
end

section
variable {s : State} {p res : Nat} {t : Nat × Transfer} {r : Regulator} (ht : ((s.transfersLeft p res).part p).transfers.find? (fun t => t.1 == res) = some t)
  (hr : ((s.transfersLeft p res).part p).regs[res]? = some r)
include ht hr

/-- The first waiting transfer of a resource that is not regulated starts. -/
theorem State.regulatedStart_free (he : r.en = false) : s.regulatedStart p res = (s.transfersLeft p res).transferGoes p res t := by
  unfold State.transfersLeft at ht hr
  unfold State.regulatedStart
  simp only [ht, hr, he, Bool.false_eq_true, if_false, Bool.not_true]
  rfl
theorem State.regulatedStart_starts (he : r.en = true) {w : State} (hw : (s.transfersLeft p res).mayTransfer p res t.2.units r = (w, true)) :
    s.regulatedStart p res = (w.spend p res t.2.units).transferGoes p res t := by
  unfold State.transfersLeft at ht hr hw
  unfold State.regulatedStart
  simp only [ht, hr, he, hw, Bool.false_eq_true, if_false, if_true, Bool.not_true]
  rfl
theorem State.regulatedStart_waits (he : r.en = true) {w : State} (hw : (s.transfersLeft p res).mayTransfer p res t.2.units r = (w, false)) :
    s.regulatedStart p res = w.framesGo p res t (min t.2.units (w.tokensOf p res r).toNat) := by
  unfold State.transfersLeft at ht hr hw
  unfold State.regulatedStart
  simp only [ht, hr, he, hw, if_true, Bool.not_false]
  rfl
end

/-! ## SLOWDOWN (R133) -/

theorem slowdown_zero (obs : Nat) : slowdown obs 0 = 1024 := rfl
theorem slowdown_eq {obs int : Nat} (hpos : 0 < int) (hlt : int < obs) : slowdown obs int = min 65535 (1024 * obs / (obs - int)) := by
  unfold slowdown
  rw [if_neg hpos.ne', Nat.max_eq_left (Nat.sub_pos_of_lt hlt)]

/-- Settles O43. -/
theorem landingPagerAndRegulators : Obligations.LandingPagerAndRegulators := by
  unfold Obligations.LandingPagerAndRegulators
  intro s part p x
  refine ⟨fun place l hl hland hwait => ⟨congrArg woken (State.layerLanded_whole hl hland hwait), fun hr => congrArg woken (State.layerLanded_again hl hland hwait hr),
      fun hr => congrArg woken (State.layerLanded_fails hl hland hwait hr)⟩,
    fun hops hwait hrun => congrArg woken (State.pagerTransferDone_standing hops hwait hrun),
    fun run hops hwait hrun he => congrArg woken (State.pagerTransferDone_empty hops hwait hrun he),
    fun run hops hwait hrun he => congrArg woken (State.pagerTransferDone_running hops hwait hrun he),
    fun slot r hr hb => exec_grammarMaskReady_early hr hb, fun slot r hr hrun hg hb => exec_grammarMaskReady_begun hr hrun hg hb,
    fun res t r => ?transfers, fun obs int => rfl, fun obs int => ⟨slowdown_zero obs, slowdown_eq⟩⟩
  case transfers =>
    intro v w level drop go frames busy ht hr
    refine ⟨fun he => congrArg Host.Outcome.next (State.regulatedStart_free ht hr he),
      fun he hlevel => congrArg Host.Outcome.next (State.regulatedStart_starts ht hr he (State.mayTransfer_held hlevel)),
      fun he hlevel hbusy => congrArg Host.Outcome.next (State.regulatedStart_waits ht hr he (State.mayTransfer_busy hlevel hbusy)),
      fun he hlevel hborrow hbusy => ⟨bit (Config.freeNat w.freeCtr) 0, congrArg Host.Outcome.next ?borrows⟩⟩
    have hmay := State.mayTransfer_borrows hlevel hborrow hbusy
    cases hidle : bit (Config.freeNat w.freeCtr) 0 with
    | true => exact State.regulatedStart_starts ht hr he (hmay.trans (congrArg _ hidle))
    | false => exact State.regulatedStart_waits ht hr he (hmay.trans (congrArg _ hidle))

end Sys2Proof.Machine
end

section
/-! Instructions issue (R33, R50, R84, R85, R94), write no memory as they do (R86, R90), and what those of CTRL and MARK leave (Table 4.11, R94, R95). -/

namespace Sys2Proof.Machine

/-! ## The rows of the core instructions -/

/-- A row of the core instructions is the issue of its class and operation. -/
theorem coreRows_exec : ∀ r ∈ coreRows, ∀ (core : CoreNo) (w : Insn) (s : State), exec (r.row core w) s = woken (s.issue core.val r.cls r.op w) := by
  unfold coreRows
  simp only [List.forall_mem_cons]
  refine ⟨?_, ?_, ?_, ?_, ?_, ?_, ?_, ?_, ?_, ?_, ?_, ?_, ?_, ?_, ?_, ?_, ?_, ?_, ?_, ?_, ?_, ?_, ?_, ?_, ?_, ?_, ?_, ?_, ?_, ?_, ?_, ?_, ?_, ?_, List.forall_mem_nil _⟩ <;>
    exact fun _ _ _ => rfl

section
variable {s : State} {c cls op : Nat} {w : Insn}

theorem State.issue_not (hi : s.issues c cls op w = false) : s.issue c cls op w = s := if_neg (ne_true_of_eq_false hi)
/-- An instruction that issues does what it does with what it sees. -/
theorem State.issue_seen {p : Nat} (hi : s.issues c cls op w = true) (hp : s.partOf c = some p) : s.issue c cls op w = s.after c w (s.performSeen p c w) := by
  unfold State.issue State.run
  rw [if_pos hi, hp]
/-- In chained mode, and where it reads registers alone, an instruction reads its operands as they stand. -/
theorem State.performSeen_stands (hm : (s.core c).lat = false ∨ 5 < cls) (hi : s.issues c cls op w = true) (p : Nat) : s.performSeen p c w = s.perform p c w := by
  refine if_pos ?_
  rw [(State.issues_row hi).1]
  rcases hm with h | h <;> simp [h]
end

/-- Settles O44. -/
theorem instructionsIssueInOrder : Obligations.InstructionsIssueInOrder := by
  unfold Obligations.InstructionsIssueInOrder
  intro r hr core w s c
  refine ⟨fun hi => ?idle, fun p hm hi => State.performSeen_stands hm hi p, fun p hi hp => ?issued⟩
  case idle => rw [coreRows_exec r hr, State.issue_not hi]; rfl
  case issued =>
    rw [coreRows_exec r hr, State.issue_seen hi hp]
    exact ⟨fun h => by rw [h]; rfl, fun t h => by rw [h]; rfl, fun t h => by rw [h]; rfl, fun t pc h => by rw [h]; rfl⟩

/-! ## What issuing keeps (R86, R90) -/

/-- `t` has the memories, the queue pairs, the fabric and the domains of `s`. -/
def State.SameOutside (s t : State) : Prop := t.mem = s.mem ∧ t.host = s.host ∧ t.porch = s.porch ∧ t.fab = s.fab ∧ t.pwr.doms = s.pwr.doms

section
variable {s t u : State}

theorem State.SameOutside.refl (s : State) : s.SameOutside s := ⟨rfl, rfl, rfl, rfl, rfl⟩
theorem State.SameOutside.trans (hst : s.SameOutside t) (htu : t.SameOutside u) : s.SameOutside u := by
  obtain ⟨hmem, hhost, hporch, hfab, hdoms⟩ := hst
  obtain ⟨hmem', hhost', hporch', hfab', hdoms'⟩ := htu
  exact ⟨hmem'.trans hmem, hhost'.trans hhost, hporch'.trans hporch, hfab'.trans hfab, hdoms'.trans hdoms⟩
theorem State.SameOutside.calm (h : s.SameOutside t) (hc : s.calm = true) : t.calm = true := by
  obtain ⟨-, -, hporch, hfab, hdoms⟩ := h
  unfold State.calm State.dom at *
  rwa [hporch, hfab, hdoms]
theorem State.SameOutside.each {α : Type} {f : State → α → State} (hf : ∀ (s : State) x, s.SameOutside (f s x)) (s : State) (l : List α) : s.SameOutside (s.each l f) := by
  induction l generalizing s with
  | nil => exact .refl s
  | cons x l ih => exact (hf s x).trans (ih (f s x))
end

section
variable (s : State)

theorem State.sameOutside_onCore (c : Nat) (f : Core → Core) : s.SameOutside (s.onCore c f) := ⟨rfl, rfl, rfl, rfl, rfl⟩
theorem State.sameOutside_onSch (f : Sch → Sch) : s.SameOutside (s.onSch f) := ⟨rfl, rfl, rfl, rfl, rfl⟩
theorem State.sameOutside_onPart (p : Nat) (f : Part → Part) : s.SameOutside (s.onPart p f) := ⟨rfl, rfl, rfl, rfl, rfl⟩
theorem State.sameOutside_onReq (n : Nat) (f : Req → Req) : s.SameOutside (s.onReq n f) := ⟨rfl, rfl, rfl, rfl, rfl⟩
theorem State.sameOutside_charge (p : Nat) (t : W16) (f : Acct → Acct) : s.SameOutside (s.charge p t f) := ⟨rfl, rfl, rfl, rfl, rfl⟩
theorem State.sameOutside_onPwr {f : Pwr → Pwr} (hf : (f s.pwr).doms = s.pwr.doms) : s.SameOutside (s.onPwr f) := ⟨rfl, rfl, rfl, rfl, hf⟩
theorem State.sameOutside_fresh : s.SameOutside s.fresh.2 := ⟨rfl, rfl, rfl, rfl, rfl⟩
theorem State.sameOutside_refill (p res : Nat) : s.SameOutside (s.refill p res) := by
  unfold State.refill
  split
  · exact .refl s
  · exact s.sameOutside_fresh.trans (State.sameOutside_onPart _ p _)
theorem State.sameOutside_spend (p res n : Nat) : s.SameOutside (s.spend p res n) := s.sameOutside_onPart p _
theorem State.sameOutside_spendExempt (p res n : Nat) : s.SameOutside (s.spendExempt p res n) := by
  unfold State.spendExempt
  split
  · split
    · exact (s.sameOutside_refill p res).trans (State.sameOutside_spend _ p res n)
    · exact .refl s
  · exact .refl s
theorem State.sameOutside_mayTransfer (p res n : Nat) (r : Regulator) : s.SameOutside (s.mayTransfer p res n r).1 := by
  refine (s.sameOutside_refill p res).trans ?_
  unfold State.mayTransfer State.idleOf
  dsimp only
  split_ifs
  · exact .refl _
  · exact .refl _
  · exact State.sameOutside_fresh _
  · exact .refl _
theorem State.sameOutside_regulate (p res n : Nat) (exempt : Bool) (key : TransferKey) (slots : List Nat) : s.SameOutside (s.regulate p res n exempt key slots).1 := by
  unfold State.regulate
  split
  · exact .refl s
  · next r _ =>
    have hmay := s.sameOutside_mayTransfer p res n r
    dsimp only
    split_ifs
    · exact .refl s
    · exact s.sameOutside_spendExempt p res n
    · exact hmay.trans (State.sameOutside_spend _ p res n)
    · exact hmay.trans ((State.sameOutside_onPart _ p _).trans ((State.sameOutside_charge _ p _ _).trans
        (.each (fun s n => s.sameOutside_onReq n _) _ _)))
end

/-- Whatever an instruction leaves, it leaves the memories and all else outside the cores as they are. -/
def CoreStep.Quiet (s : State) : CoreStep → Prop
  | .fault => True
  | .hold t => s.SameOutside t
  | .done t => s.SameOutside t
  | .jump t _ => s.SameOutside t

section
variable (s : State) (p c : Nat) (w : Insn)

theorem State.quiet_sync (op : Nat) : (s.sync p c op w).Quiet s := by
  unfold State.sync
  split
  · exact s.sameOutside_onCore c _
  · unfold State.wait
    dsimp only
    split_ifs
    · exact s.sameOutside_onCore c _
    · exact .refl s
  · unfold State.barrier
    dsimp only
    split_ifs
    · trivial
    · trivial
    · refine .each (fun s i => ?_) s _
      split
      · exact s.sameOutside_onCore _ _
      · exact .refl s
    · exact s.sameOutside_onCore c _
  · unfold State.fenceSync
    split_ifs
    · exact .refl s
    · exact .refl s
theorem State.quiet_loopCtrl (n len : Nat) : (s.loopCtrl c n len).Quiet s := by
  unfold State.loopCtrl
  dsimp only
  split_ifs
  · exact .refl s
  · exact s.sameOutside_onCore c _
theorem State.quiet_setScalar (r v : Nat) : (s.setScalar c r v).Quiet s := s.sameOutside_onCore c _
theorem State.quiet_ctrl : (s.ctrl p c w).Quiet s := by
  unfold State.ctrl
  dsimp only
  split
  case h_1 => exact .refl s
  case h_7 | h_8 => exact s.quiet_loopCtrl c _ _
  case h_9 =>
    split_ifs
    · exact .refl s
    · exact .refl s
  case h_10 => exact s.sameOutside_onCore c _
  case h_11 =>
    split_ifs
    · exact s.sameOutside_onCore c _
    · exact .refl s
  case h_12 => trivial
  all_goals exact s.quiet_setScalar c _ _
theorem State.sameOutside_ramp (b : Bool) : s.SameOutside (if b then s.onPwr fun x => { x with rampWindow := x.rampWindow + 1 } else s) := by
  cases b
  · exact .refl s
  · exact s.sameOutside_onPwr rfl
theorem State.quiet_mma : (s.mma p c w).Quiet s := by
  have hwait : s.SameOutside (s.onPwr fun x => if x.rampWait.contains c then x else { x with rampWait := x.rampWait ++ [c] }) :=
    s.sameOutside_onPwr (by split_ifs <;> rfl)
  have hramp := s.sameOutside_ramp (s.mmaIdle c w)
  unfold State.mma
  split
  · exact .refl s
  · split
    · trivial
    · split
      · exact .refl s
      · split
        · exact hwait
        · exact hramp.trans (State.sameOutside_onCore _ c _)

/-! ### The statistics' states (R75, R88) -/

theorem State.sameOutside_rowState (code addr : Nat) : s.SameOutside (s.rowState c code addr).1 := by
  unfold State.rowState
  split
  · split_ifs
    · exact .refl s
    · exact s.sameOutside_fresh
  · exact s.sameOutside_fresh
theorem State.sameOutside_launchUnit (sel : Bool) (reads : List (Nat × Nat)) (runs : List (Nat × Bytes)) : s.SameOutside (s.launchUnit c sel reads runs) :=
  s.sameOutside_onCore c _
end

theorem State.sameOutside_feedRows {c code base : Nat} {first : Bool} {l : List (Nat × List W32)} {s t : State} {runs : List (Nat × Bytes)}
    (h : s.feedRows c code first base l = some (t, runs)) : s.SameOutside t := by
  induction l generalizing s runs with
  | nil =>
    obtain ⟨rfl, -⟩ := Prod.mk.inj (Option.some.inj h)
    exact .refl s
  | cons x l ih =>
    obtain ⟨i, row⟩ := x
    cases first with
    | true =>
      simp only [State.feedRows, if_true] at h
      split at h
      · exact absurd h (by simp)
      · split at h
        · exact absurd h (by simp)
        · next hl =>
          obtain ⟨rfl, -⟩ := Prod.mk.inj (Option.some.inj h)
          exact (s.sameOutside_onCore c _).trans (ih hl)
    | false =>
      simp only [State.feedRows, Bool.false_eq_true, if_false] at h
      split at h
      · exact absurd h (by simp)
      · split at h
        · exact absurd h (by simp)
        · next hl =>
          obtain ⟨rfl, -⟩ := Prod.mk.inj (Option.some.inj h)
          exact (s.sameOutside_rowState c code _).trans ((State.sameOutside_onCore _ c _).trans (ih hl))
theorem State.sameOutside_finishRows (c code src dst : Nat) (l : List Nat) (s : State) : s.SameOutside (s.finishRows c code src dst l).1 := by
  induction l generalizing s with
  | nil => exact .refl s
  | cons i l ih => exact (s.sameOutside_rowState c _ _).trans (ih _)

section
variable (s : State) (p c : Nat) (w : Insn)

theorem State.quiet_sfu : (s.sfu p c w).Quiet s := by
  unfold State.sfu
  dsimp only
  split_ifs
  · exact .refl s
  · trivial
  · exact .refl s
  · exact (State.sameOutside_finishRows c _ _ _ _ s).trans (State.sameOutside_launchUnit _ c _ _ _)
  · exact s.sameOutside_launchUnit c _ _ _
  · split
    · trivial
    · next h => exact (State.sameOutside_feedRows h).trans (State.sameOutside_launchUnit _ c _ _ _)
theorem State.quiet_vec : (s.vec p c w).Quiet s := by
  unfold State.vec
  dsimp only
  split_ifs
  · trivial
  · exact .refl s
  · exact s.sameOutside_fresh.trans (State.sameOutside_launchUnit _ c _ _ _)
  · exact s.sameOutside_launchUnit c _ _ _
theorem State.quiet_sel : (s.sel p c w).Quiet s := by
  unfold State.sel
  dsimp only
  split_ifs
  · exact .refl s
  · trivial
  · exact .refl s
  · exact s.sameOutside_launchUnit c _ _ _
  · trivial
  · exact s.sameOutside_launchUnit c _ _ _

/-- An XFER that meets no failing frame and no address of no memory (R106, R112). -/
def State.XferSound (s : State) (p c : Nat) (w : Insn) : Prop :=
  (∀ d, s.xferData p c w = some d → d.bad = none)
    ∧ ∀ l, s.segSpan p c (xferDst (s.core c) w) (xferTo (s.core c) w) (xferLen w) = some l → (s.xferPlaces p c w ++ l).all (populated s.leaseSize) = true

theorem State.quiet_xfer (h : s.XferSound p c w) : (s.xfer p c w).Quiet s := by
  obtain ⟨hbad, hall⟩ := h
  unfold State.xfer
  dsimp only
  split
  · trivial
  · next places hspan =>
    split
    · exact .refl s
    · split
      · trivial
      · next d hd =>
        have hnone : (s.xferPlaces p c w ++ places).find? (fun a => !populated s.leaseSize a) = none :=
          List.find?_eq_none.2 fun a ha => by simp [List.all_eq_true.1 (hall places hspan) a ha]
        simp only [hnone, hbad d hd]
        cases xferRes (s.core c) w with
        | none => exact s.sameOutside_onCore c _
        | some r => exact (s.sameOutside_regulate p r _ false (.xfer c) _).trans (State.sameOutside_onCore _ c _)

/-- Every instruction is quiet, an XFER where it is sound. -/
theorem State.quiet_perform (h : Wd.at_ w 127 124 = 1 → s.XferSound p c w) : (s.perform p c w).Quiet s := by
  unfold State.perform
  split
  case h_1 hcls => exact s.quiet_xfer p c w (h hcls)
  case h_2 => exact s.quiet_mma p c w
  case h_3 => exact s.quiet_sfu p c w
  case h_4 => exact s.quiet_vec p c w
  case h_5 => exact s.quiet_sel p c w
  case h_6 => exact s.quiet_sync p c w (Wd.at_ w 123 120)
  case h_7 => exact s.quiet_ctrl p c w
  case h_8 => exact s.sameOutside_onCore c _
  case h_9 => trivial

/-! ### Interleaved mode -/

/-- What an instruction sees differs in bytes and accumulators alone. -/
theorem State.seen_outside : (s.seen c).host = s.host ∧ (s.seen c).porch = s.porch ∧ (s.seen c).fab = s.fab ∧ (s.seen c).pwr = s.pwr
    ∧ { (s.seen c).mem with bytes := s.mem.bytes } = s.mem := by
  unfold State.seen
  dsimp only
  split
  · exact ⟨rfl, rfl, rfl, rfl, rfl⟩
  · exact ⟨rfl, rfl, rfl, rfl, rfl⟩
theorem State.sameOutside_unseen {t : State} (h : (s.seen c).SameOutside t) : s.SameOutside (t.unseen s c) := by
  obtain ⟨hmem, hhost, hporch, hfab, hdoms⟩ := h
  obtain ⟨hhost', hporch', hfab', hpwr', hbytes⟩ := s.seen_outside c
  refine ⟨?_, hhost.trans hhost', hporch.trans hporch', hfab.trans hfab', hdoms.trans (congrArg Pwr.doms hpwr')⟩
  exact (congrArg (fun m : Memory => { m with bytes := s.mem.bytes }) hmem).trans hbytes
theorem State.seen_chained (h : (s.core c).lat = false) : s.seen c = s := by
  unfold State.seen
  exact if_pos (by rw [h]; rfl)

/-- An instruction that sees a sound XFER is quiet. -/
theorem State.quiet_performSeen (h : Wd.at_ w 127 124 = 1 → (s.seen c).XferSound p c w) : (s.performSeen p c w).Quiet s := by
  unfold State.performSeen
  split
  · next hm =>
    refine s.quiet_perform p c w fun h1 => ?_
    have hl : (s.core c).lat = false := by simpa [h1] using hm
    exact s.seen_chained c hl ▸ h h1
  · have hq := (s.seen c).quiet_perform p c w h
    cases hstep : (s.seen c).perform p c w with
    | fault => trivial
    | hold t => rw [hstep] at hq; exact s.sameOutside_unseen c hq
    | done t => rw [hstep] at hq; exact s.sameOutside_unseen c hq
    | jump t pc => rw [hstep] at hq; exact s.sameOutside_unseen c hq
theorem State.sameOutside_after {st : CoreStep} (hf : st ≠ .fault) (h : st.Quiet s) : s.SameOutside (s.after c w st) := by
  cases st with
  | fault => exact absurd rfl hf
  | hold t => exact h.trans (t.sameOutside_onCore c _)
  | done t => exact h.trans (t.sameOutside_onCore c _)
  | jump t pc => exact h.trans (t.sameOutside_onCore c _)
end

/-- Settles O45. -/
theorem issueWritesNoMemory : Obligations.IssueWritesNoMemory := by
  unfold Obligations.IssueWritesNoMemory
  dsimp only
  intro r hr core w s t p hcalm hi hp hf hbad hall hx
  have hrow := (State.issues_row hi).1
  have hquiet := s.quiet_performSeen p core.val w fun h1 => ⟨hbad (hrow.symm.trans h1), hall (hrow.symm.trans h1)⟩
  have hafter := s.sameOutside_after core.val w hf hquiet
  rw [coreRows_exec r hr, State.issue_seen hi hp] at hx
  obtain rfl := (State.woken_calm (hafter.calm hcalm)).symm.trans (Host.Outcome.next.inj hx)
  obtain ⟨hmem, hhost, hporch, -, -⟩ := hafter
  exact ⟨hmem, hhost, hporch⟩

/-! ## CTRL and MARK (Table 4.11, R94, R95) -/

section
variable {s : State} {p c op : Nat} {w : Insn} {st : CoreStep}

/-- An issued instruction of class CTRL does what its OP says. -/
theorem State.issue_ctrl (hp : s.partOf c = some p) (hi : s.issues c 7 op w = true) (hst : Wd.at_ w 123 120 = op → s.ctrl p c w = st) :
    s.issue c 7 op w = s.after c w st := by
  obtain ⟨hcls, hop⟩ := State.issues_row hi
  rw [State.issue_perform hp hi (by decide), ← hst hop]
  unfold State.perform
  rw [hcls]
  rfl
theorem State.issue_mark (hp : s.partOf c = some p) (hi : s.issues c 8 op w = true) : s.issue c 8 op w = s.after c w (s.markInsn p c w) := by
  rw [State.issue_perform hp hi (by decide)]
  unfold State.perform
  rw [(State.issues_row hi).1]
  rfl

theorem State.ctrl_nop (h : Wd.at_ w 123 120 = 0) : s.ctrl p c w = .done s := by
  unfold State.ctrl
  simp only [h]
theorem State.ctrl_loadi (h : Wd.at_ w 123 120 = 1) : s.ctrl p c w = s.setScalar c (Wd.at_ w 119 116) (Wd.at_ w 95 64) := by
  unfold State.ctrl
  simp only [h]
theorem State.ctrl_loadp (h : Wd.at_ w 123 120 = 2) :
    s.ctrl p c w = s.setScalar c (Wd.at_ w 119 116) (((s.core c).words[Wd.at_ w 95 64]?).getD 0).toNat := by
  unfold State.ctrl
  simp only [h]
theorem State.ctrl_addi (h : Wd.at_ w 123 120 = 3) :
    s.ctrl p c w = s.setScalar c (Wd.at_ w 119 116) ((s.core c).scalar (Wd.at_ w 115 112) + Wd.at_ w 95 64) := by
  unfold State.ctrl
  simp only [h]
theorem State.ctrl_add (h : Wd.at_ w 123 120 = 4) :
    s.ctrl p c w = s.setScalar c (Wd.at_ w 119 116) ((s.core c).scalar (Wd.at_ w 115 112) + (s.core c).scalar (Wd.at_ w 111 108)) := by
  unfold State.ctrl
  simp only [h]
theorem State.ctrl_muli (h : Wd.at_ w 123 120 = 5) :
    s.ctrl p c w = s.setScalar c (Wd.at_ w 119 116) ((s.core c).scalar (Wd.at_ w 115 112) * Wd.at_ w 95 64) := by
  unfold State.ctrl
  simp only [h]
theorem State.ctrl_loop (h : Wd.at_ w 123 120 = 6) : s.ctrl p c w = s.loopCtrl c (Wd.at_ w 95 64) (Wd.at_ w 63 32) := by
  unfold State.ctrl
  simp only [h]
theorem State.ctrl_loopr (h : Wd.at_ w 123 120 = 7) : s.ctrl p c w = s.loopCtrl c ((s.core c).scalar (Wd.at_ w 115 112)) (Wd.at_ w 63 32) := by
  unfold State.ctrl
  simp only [h]
theorem State.ctrl_branch (h : Wd.at_ w 123 120 = 8) : s.ctrl p c w =
    if condHolds (Wd.at_ w 107 105) ((s.core c).scalar (Wd.at_ w 115 112)) ((s.core c).scalar (Wd.at_ w 111 108)) then
      .jump s (((s.core c).pc : Int) + 1 + imm32 (Wd.at_ w 95 64)).toNat
    else .done s := by
  unfold State.ctrl
  simp only [h]
theorem State.ctrl_setseg (h : Wd.at_ w 123 120 = 9) : s.ctrl p c w = .done (s.onCore c fun k =>
    { k with segs := modAt k.segs (Wd.at_ w 119 116) fun g =>
      { g with base := g.launchBase + ((s.core c).scalar (Wd.at_ w 115 112) + Wd.at_ w 95 64) % 2 ^ 32 * 4096 } }) := by
  unfold State.ctrl
  simp only [h]
theorem State.ctrl_end (h : Wd.at_ w 123 120 = 10) : s.ctrl p c w =
    if (s.core c).drained then .done (s.onCore c fun k => { k with ended := true }) else .hold s := by
  unfold State.ctrl
  simp only [h]

theorem State.loopCtrl_none {n len : Nat} (h : n = 0) : s.loopCtrl c n len = .jump s ((s.core c).pc + 1 + len) := if_pos h
theorem State.loopCtrl_some {n len : Nat} (h : n ≠ 0) : s.loopCtrl c n len =
    .jump (s.onCore c fun k => { k with loops := ((s.core c).pc + 1, (s.core c).pc + len, n) :: k.loops }) ((s.core c).pc + 1) := if_neg h
end

/-! ### The loop stack (R94) -/

section
variable {k : Core} {first last left pc : Nat} {l : List (Nat × Nat × Nat)}

theorem Core.goto_runsLeft (h : k.loops = (first, last, left + 2) :: l) : k.goto (last + 1) = { k with pc := first, loops := (first, last, left + 1) :: l, held := none } := by
  unfold Core.goto
  rw [h]
  simp [loopBack]
theorem Core.goto_lastRun (h : k.loops = (first, last, 1) :: l) : k.goto (last + 1) = { k with loops := l }.goto (last + 1) := by
  unfold Core.goto
  rw [h]
  simp [loopBack]
theorem Core.goto_within (h : k.loops = (first, last, left) :: l) (hpc : pc ≠ last + 1) : k.goto pc = { k with pc := pc, held := none } := by
  unfold Core.goto
  rw [h]
  simp [loopBack, hpc, ← h]
theorem Core.goto_noLoop (h : k.loops = []) : k.goto pc = { k with pc := pc, held := none } := by
  unfold Core.goto
  rw [h]
  simp [loopBack, ← h]
end

/-- Settles O46. -/
theorem controlInstructions : Obligations.ControlInstructions := by
  unfold Obligations.ControlInstructions
  refine ⟨?rows, fun k first last left l h => ?_, fun k first last l h => Core.goto_lastRun h, fun k pc first last left l h hpc => ?_, fun k pc h => ?_,
    fun k pc => ⟨rfl, rfl, rfl, rfl, rfl⟩⟩
  case rows =>
    dsimp only
    intro s core w p hp
    refine ⟨fun hi => ?nop, fun hi => ?loadi, fun hi => ?loadp, fun hi => ?addi, fun hi => ?add, fun hi => ?muli, fun hi h => ?skip, fun hi h => ?loop, fun hi h => ?skipr,
      fun hi h => ?loopr, fun hi h => ?taken, fun hi h => ?untaken, fun hi => ?setseg, fun hi h => ?ends, fun hi h => ?waits, fun hi => ?mark⟩
    case nop => exact congrArg woken ((State.issue_ctrl hp hi State.ctrl_nop).trans (State.onCore_congr rfl))
    case loadi => exact congrArg woken (State.issue_ctrl hp hi State.ctrl_loadi)
    case loadp => exact congrArg woken (State.issue_ctrl hp hi State.ctrl_loadp)
    case addi => exact congrArg woken (State.issue_ctrl hp hi State.ctrl_addi)
    case add => exact congrArg woken (State.issue_ctrl hp hi State.ctrl_add)
    case muli => exact congrArg woken (State.issue_ctrl hp hi State.ctrl_muli)
    case skip => exact congrArg woken (State.issue_ctrl hp hi fun hop => (State.ctrl_loop hop).trans (State.loopCtrl_none h))
    case loop =>
      refine (congrArg woken (State.issue_ctrl hp hi fun hop => (State.ctrl_loop hop).trans (State.loopCtrl_some h))).trans ?_
      exact congrArg (fun t : State => woken (t.onCore core.val fun x => x.goto ((s.core core.val).pc + 1))) (State.onCore_congr rfl)
    case skipr => exact congrArg woken (State.issue_ctrl hp hi fun hop => (State.ctrl_loopr hop).trans (State.loopCtrl_none h))
    case loopr =>
      refine (congrArg woken (State.issue_ctrl hp hi fun hop => (State.ctrl_loopr hop).trans (State.loopCtrl_some h))).trans ?_
      exact congrArg (fun t : State => woken (t.onCore core.val fun x => x.goto ((s.core core.val).pc + 1))) (State.onCore_congr rfl)
    case taken => exact congrArg woken (State.issue_ctrl hp hi fun hop => (State.ctrl_branch hop).trans (if_pos h))
    case untaken =>
      exact congrArg woken ((State.issue_ctrl hp hi fun hop => (State.ctrl_branch hop).trans (if_neg (ne_true_of_eq_false h))).trans (State.onCore_congr rfl))
    case setseg => exact congrArg woken (State.issue_ctrl hp hi State.ctrl_setseg)
    case ends => exact congrArg woken (State.issue_ctrl hp hi fun hop => (State.ctrl_end hop).trans (if_pos h))
    case waits => exact congrArg woken (State.issue_ctrl hp hi fun hop => (State.ctrl_end hop).trans (if_neg (ne_true_of_eq_false h)))
    case mark => exact congrArg woken (State.issue_mark hp hi)
  · rw [Core.goto_runsLeft h]
    exact ⟨rfl, rfl⟩
  · rw [Core.goto_within h hpc]
    exact ⟨rfl, rfl⟩
  · rw [Core.goto_noLoop h]
    exact ⟨rfl, h⟩

end Sys2Proof.Machine
end

section
/-! Instructions of the DMA agent and of the engines: XFER (R85 to R87, R110 to R112, R131) and MMA (R36, R37, R49, R87, R387). -/

namespace Sys2Proof.Machine

/-! ## From what an instruction does with what it sees to its row (R50) -/

/-- What is left of a state that an instruction made of what it saw. -/
def State.kept (s t : State) (c : Nat) : State := if (s.core c).lat then t.unseen s c else t

section
variable {s t : State} {p c : Nat} {w : Insn}

theorem State.performSeen_done (hcls : Wd.at_ w 127 124 ≤ 5) (h : (s.seen c).perform p c w = .done t) : s.performSeen p c w = .done (s.kept t c) := by
  unfold State.performSeen State.kept
  cases hl : (s.core c).lat with
  | false => rw [State.seen_chained s c hl] at h; simp [h]
  | true => simp [h, Nat.not_lt.2 hcls]
theorem State.performSeen_hold (hcls : Wd.at_ w 127 124 ≤ 5) (h : (s.seen c).perform p c w = .hold t) : s.performSeen p c w = .hold (s.kept t c) := by
  unfold State.performSeen State.kept
  cases hl : (s.core c).lat with
  | false => rw [State.seen_chained s c hl] at h; simp [h]
  | true => simp [h, Nat.not_lt.2 hcls]
theorem State.performSeen_fault (hcls : Wd.at_ w 127 124 ≤ 5) (h : (s.seen c).perform p c w = .fault) : s.performSeen p c w = .fault := by
  unfold State.performSeen
  cases hl : (s.core c).lat with
  | false => rw [State.seen_chained s c hl] at h; simp [h]
  | true => simp [h, Nat.not_lt.2 hcls]

/-- The step of a class of the DMA agent or of a unit. -/
def State.unitStep (u : State) (p c cls : Nat) (w : Insn) : CoreStep :=
  match cls with
  | 1 => u.xfer p c w
  | 2 => u.mma p c w
  | 3 => u.sfu p c w
  | 4 => u.vec p c w
  | _ => u.sel p c w

variable {cls op : Nat} {x : Out} (hx : x = woken (s.issue c cls op w)) (hp : s.partOf c = some p) (hcls : 1 ≤ cls ∧ cls ≤ 5) (hi : s.issues c cls op w = true)

include hcls hi in
theorem State.perform_unitStep (u : State) : u.perform p c w = u.unitStep p c cls w := by
  obtain ⟨h1, h5⟩ := hcls
  unfold State.perform
  rw [(State.issues_row hi).1]
  interval_cases cls <;> rfl
include hx hp hcls hi

theorem unit_done (h : (s.seen c).unitStep p c cls w = .done t) : x = .next ((s.kept t c).onCore c fun k => k.goto (k.pc + 1)).woken := by
  rw [hx, State.issue_seen hi hp, State.performSeen_done ((State.issues_row hi).1 ▸ hcls.2) ((State.perform_unitStep hcls hi _).trans h)]
  rfl
theorem unit_hold (h : (s.seen c).unitStep p c cls w = .hold t) : x = .next ((s.kept t c).onCore c fun k => { k with held := some w }).woken := by
  rw [hx, State.issue_seen hi hp, State.performSeen_hold ((State.issues_row hi).1 ▸ hcls.2) ((State.perform_unitStep hcls hi _).trans h)]
  rfl
theorem unit_fault (h : (s.seen c).unitStep p c cls w = .fault) : x = .next (s.programFault c).woken := by
  rw [hx, State.issue_seen hi hp, State.performSeen_fault ((State.issues_row hi).1 ▸ hcls.2) ((State.perform_unitStep hcls hi _).trans h)]
  rfl
end

/-- The rows of XFER. -/
theorem xferRows_exec : ∀ r ∈ ([⟨.xferCopy, 1, 0⟩, ⟨.xferDecompress, 1, 1⟩, ⟨.xferZeroFill, 1, 2⟩] : List CoreRow), ∀ (core : CoreNo) (w : Insn) (s : State),
    exec (r.row core w) s = woken (s.issue core.val 1 r.op w) := by
  simp only [List.forall_mem_cons]
  exact ⟨fun _ _ _ => rfl, fun _ _ _ => rfl, fun _ _ _ => rfl, List.forall_mem_nil _⟩

/-! ## XFER -/

section
variable {u : State} {p c : Nat} {w : Insn}

/-- An XFER goes into flight on a state `t` that its charge or its error left, with the bytes it will write and the regulator it waits on. -/
def State.flies (u t : State) (p c : Nat) (w : Insn) (runs : List (Nat × Bytes)) (waits : Option Nat) : State :=
  t.onCore c fun k =>
    { k with xfers := k.xfers ++ [{ runs := runs, reads := u.xferReads p c w, sem := if Wd.at_ w 27 27 = 1 then some (Fin.ofNat 16 (Wd.at_ w 26 23)) else none, sel := false, waits := waits }] }
/-- The places an XFER writes. -/
def State.xferSpan (u : State) (p c : Nat) (w : Insn) : Option (List Nat) := u.segSpan p c (xferDst (u.core c) w) (xferTo (u.core c) w) (xferLen w)
/-- The first address of no memory among those an XFER reads and writes. -/
def State.xferNowhere (u : State) (p c : Nat) (w : Insn) (places : List Nat) : Option Nat :=
  (u.xferPlaces p c w ++ places).find? fun a => !populated u.leaseSize a
/-- A frame that fails its check is recorded as an error at the place it was fetched from. -/
def State.xferError (u : State) (p c : Nat) (w : Insn) (o : Nat) : State :=
  u.frameError p (u.core c).slots (u.segPlace p c (xferSrc (u.core c) w) ((xferSrc (u.core c) w).base + o))
/-- Units an XFER is charged for. -/
def xferUnits (w : Insn) : Nat := ceilDiv (xferLen w) 4096

theorem State.xfer_noSpan (hspan : u.xferSpan p c w = none) : u.xfer p c w = .fault := by
  unfold State.xferSpan at hspan
  unfold State.xfer
  simp only [hspan]

variable {places : List Nat} (hspan : u.xferSpan p c w = some places)
include hspan

theorem State.xfer_held (hheld : u.xferHeld p c w = true) : u.xfer p c w = .hold u := by
  unfold State.xferSpan at hspan
  unfold State.xfer
  simp only [hspan, hheld, if_true]
variable (hheld : u.xferHeld p c w = false)
include hheld

theorem State.xfer_noData (hdata : u.xferData p c w = none) : u.xfer p c w = .fault := by
  unfold State.xferSpan at hspan
  unfold State.xfer
  simp only [hspan, hheld, hdata, Bool.false_eq_true, if_false]
variable {d : FrameRun} (hdata : u.xferData p c w = some d)
include hdata

theorem State.xfer_nowhere {a : Nat} (ha : u.xferNowhere p c w places = some a) : u.xfer p c w = .done (u.addrFault p c a) := by
  unfold State.xferSpan at hspan
  unfold State.xferNowhere at ha
  unfold State.xfer
  simp only [hspan, hheld, hdata, ha, Bool.false_eq_true, if_false]
variable (hno : u.xferNowhere p c w places = none)
include hno

theorem State.xfer_free (hbad : d.bad = none) (hres : xferRes (u.core c) w = none) :
    u.xfer p c w = .done (u.flies u p c w (places.zip (pieces 64 d.bytes)) none) := by
  unfold State.xferSpan at hspan
  unfold State.xferNowhere at hno
  unfold State.xfer
  simp only [hspan, hheld, hdata, hno, hbad, hres, Bool.false_eq_true, if_false]
  rfl
theorem State.xfer_regulated {q : Nat} {v : State} {waits : Bool} (hbad : d.bad = none) (hres : xferRes (u.core c) w = some q)
    (hreg : u.regulate p q (xferUnits w) false (.xfer c) (u.core c).slots = (v, waits)) :
    u.xfer p c w = .done (u.flies v p c w (places.zip (pieces 64 d.bytes)) (if waits then some q else none)) := by
  unfold State.xferSpan at hspan
  unfold State.xferNowhere at hno
  unfold xferUnits at hreg
  unfold State.xfer
  simp only [hspan, hheld, hdata, hno, hbad, hres, hreg, Bool.false_eq_true, if_false]
  rfl
theorem State.xfer_badFree {o : Nat} (hbad : d.bad = some o) (hres : xferRes (u.core c) w = none) :
    u.xfer p c w = .done (u.flies (u.xferError p c w o) p c w [] none) := by
  unfold State.xferSpan at hspan
  unfold State.xferNowhere at hno
  unfold State.xfer
  simp only [hspan, hheld, hdata, hno, hbad, hres, Bool.false_eq_true, if_false]
  rfl
theorem State.xfer_badRegulated {o q : Nat} {v : State} {waits : Bool} (hbad : d.bad = some o) (hres : xferRes (u.core c) w = some q)
    (hreg : (u.xferError p c w o).regulate p q (xferUnits w) false (.xfer c) (u.core c).slots = (v, waits)) :
    u.xfer p c w = .done (u.flies v p c w [] (if waits then some q else none)) := by
  unfold State.xferSpan at hspan
  unfold State.xferNowhere at hno
  unfold xferUnits State.xferError at hreg
  unfold State.xfer
  simp only [hspan, hheld, hdata, hno, hbad, hres, hreg, Bool.false_eq_true, if_false]
  rfl
end

section
variable {u : State} {p c : Nat} {w : Insn}

theorem State.xferHeld_eq_false : u.xferHeld p c w = false ↔ (u.core c).xfers.length < 16 ∧ (u.core c).hazard (u.xferReads p c w) (xferWrites (u.core c) c w) = false := by
  unfold State.xferHeld
  rw [Bool.or_eq_false_iff, decide_eq_false_iff_not, Nat.not_le]
theorem State.xferData_copy (h : Wd.at_ w 123 120 = 0) :
    u.xferData p c w = (u.segRead p c (xferSrc (u.core c) w) (xferFrom (u.core c) w) (xferLen w)).map fun b => ⟨b, [], none⟩ := if_pos h
theorem State.xferData_decompress (h : Wd.at_ w 123 120 = 1) : u.xferData p c w =
    (framesRun (fun o => u.segRead p c (xferSrc (u.core c) w) o 4096) (xferLen w) (xferFrom (u.core c) w) (xferLen w)).map fun x =>
      { x with bytes := slice x.bytes 0 (xferLen w) } := by
  unfold State.xferData
  simp only [h, Nat.one_ne_zero, if_false, if_true]
theorem State.xferData_zeroFill (h : Wd.at_ w 123 120 = 2) : u.xferData p c w = some ⟨List.replicate (xferLen w) 0, [], none⟩ := by
  unfold State.xferData
  simp only [h, OfNat.ofNat_ne_zero, OfNat.ofNat_ne_one, if_false]
end

section
variable {rd : Nat → Option Bytes} {fuel off n : Nat} {f : Bytes} (hn : 0 < n) (hf : rd off = some f)
include hn hf

theorem framesRun_good {b : Bytes} (hd : frameDecode f = some b) (hc : frameCheck f b = true) :
    framesRun rd (fuel + 1) off n = (framesRun rd fuel (off + 4096) (n - b.length)).map fun x => ⟨b ++ x.bytes, off :: x.offs, x.bad⟩ := by
  simp only [framesRun, Nat.pos_iff_ne_zero.1 hn, hf, hd, hc, Bool.not_true, Bool.false_eq_true, if_false]
theorem framesRun_bad (h : ∀ b, frameDecode f = some b → frameCheck f b = false) : framesRun rd (fuel + 1) off n = some ⟨[], [off], some off⟩ := by
  cases hd : frameDecode f with
  | none => simp only [framesRun, Nat.pos_iff_ne_zero.1 hn, hf, hd, if_false]
  | some b => simp only [framesRun, Nat.pos_iff_ne_zero.1 hn, hf, hd, h b hd, Bool.not_false, if_true, if_false]
end

section
variable {u : State} {p q units : Nat} {r : Regulator} {key : TransferKey} {slots : List Nat} (hr : (u.part p).regs[q]? = some r)
include hr

theorem State.regulate_off (he : r.en = false) : u.regulate p q units false key slots = (u, false) := by
  unfold State.regulate
  simp only [hr, he, Bool.not_false, if_true]
theorem State.regulate_held (he : r.en = true) (h : (units : Int) ≤ (u.refill p q).tokensOf p q r) :
    u.regulate p q units false key slots = ((u.refill p q).spend p q units, false) := by
  unfold State.regulate
  simp only [hr, he, State.mayTransfer_held h, Bool.not_true, Bool.false_eq_true, if_true, if_false]
theorem State.regulate_waits (he : r.en = true) (h : (u.refill p q).tokensOf p q r < (units : Int)) (hb : r.borrow = false) :
    let late := (u.refill p q).onPart p fun x => { x with transfers := x.transfers ++ [(q, { units := units, key := key })] }
    let ten : W16 := match slots.head?.bind late.req? with | some q => q.tenant | none => 0xFFFF
    u.regulate p q units false key slots =
      ((late.charge p ten fun a => { a with throttle := satAdd 64 a.throttle 1 }).each slots fun s n => s.onReq n fun q => { q with throttled := true }, true) := by
  unfold State.regulate
  simp only [hr, he, State.mayTransfer_busy h (Or.inl hb), Bool.not_true, Bool.false_eq_true, if_false] <;> rfl
end

/-! ## MMA -/

section
variable {u : State} {p c : Nat} {w : Insn}

/-- The passes of an MMA join those of its core, and their arrays' activity rises to its top. -/
def State.passesJoin (u t : State) (c : Nat) (w : Insn) : State :=
  t.onCore c fun k =>
    { k with passes := k.passes ++ (u.mmaSlots c w).map (u.mmaPass c w), activity := (u.mmaSlots c w).foldl (fun l x => setAt l (k.arrayOf x.eng) 8) k.activity }

theorem State.mma_awaitsGroup (hok : sramOk (mmaGroup w, 128) = true) (h : (u.core c).waitsFor c [(mmaGroup w, 128)] = true) : u.mma p c w = .hold u := by
  unfold State.mma
  exact if_pos (by rw [hok, h]; rfl)
variable (hfound : (u.core c).waitsFor c [(mmaGroup w, 128)] = false)
include hfound

theorem State.mma_fault (hok : u.mmaOk c w = false) : u.mma p c w = .fault := by
  unfold State.mma
  simp only [hfound, hok, Bool.and_false, Bool.not_false, Bool.false_eq_true, if_false, if_true]
variable (hok : u.mmaOk c w = true)
include hok

theorem State.mma_hazard (h : (u.core c).hazard ((u.mmaReads c w).map (absRange c)) [] = true) : u.mma p c w = .hold u := by
  unfold State.mma
  simp only [hfound, hok, h, Bool.and_false, Bool.not_true, Bool.false_eq_true, if_false, if_true]
variable (hfree : (u.core c).hazard ((u.mmaReads c w).map (absRange c)) [] = false)
include hfree

theorem State.mma_warm (h : u.mmaIdle c w = false) : u.mma p c w = .done (u.passesJoin u c w) := by
  unfold State.mma
  simp only [hfound, hok, hfree, h, Bool.and_false, Bool.false_and, Bool.not_true, Bool.false_eq_true, if_false]
  rfl
theorem State.mma_ramps (h : u.mmaIdle c w = true) (hroom : u.pwr.rampWindow < 8) :
    u.mma p c w = .done (u.passesJoin (u.onPwr fun x => { x with rampWindow := x.rampWindow + 1 }) c w) := by
  unfold State.mma
  simp only [hfound, hok, hfree, h, Nat.not_le.2 hroom, decide_false, Bool.and_false, Bool.not_true, Bool.false_eq_true, if_false, if_true]
  rfl
theorem State.mma_awaitsRamp (h : u.mmaIdle c w = true) (hfull : 8 ≤ u.pwr.rampWindow) :
    u.mma p c w = .hold (u.onPwr fun x => if x.rampWait.contains c then x else { x with rampWait := x.rampWait ++ [c] }) := by
  unfold State.mma
  simp only [hfound, hok, hfree, h, hfull, decide_true, Bool.and_self, Bool.and_false, Bool.not_true, Bool.false_eq_true, if_false, if_true]
end

theorem getElem?_enum {α : Type} (l : List α) (i : Nat) : (enum l)[i]? = (l[i]?).map fun x => (i, x) := by
  unfold enum
  by_cases h : i < l.length
  · simp [h]
  · simp [Nat.not_lt.1 h]
theorem length_enum {α : Type} (l : List α) : (enum l).length = l.length := by simp [enum]

section
variable (u : State) (c : Nat) (w : Insn) (x : EngSlot)

theorem State.length_mmaActs : (u.mmaActs c w).length = mmaCount (u.core c) w := by simp [State.mmaActs]
theorem State.length_mmaCols : (u.mmaCols c w x).length = 128 := by simp [State.mmaCols]
theorem State.length_mmaPass_rows : (u.mmaPass c w x).rows.length = mmaCount (u.core c) w := by simp [State.mmaPass, length_enum, State.length_mmaActs]
theorem State.mmaPass_rows_get {j i : Nat} {a b : List Nat × List Nat} (ha : (u.mmaActs c w)[j]? = some a) (hb : (u.mmaCols c w x)[i]? = some b) :
    ((u.mmaPass c w x).rows[j]?).bind (fun row => row[i]?) =
      some (column (KMap.getD ((u.core c).accOf x.eng) (accKey x.eng (x.base + j) i) 0) x.accum (columnSegs (mmaFmt w) x.fmt a b)) := by
  simp only [State.mmaPass, List.getElem?_map, getElem?_enum, ha, hb, Option.map_some, Option.bind_some]
end

/-- Settles O48. -/
theorem movesAndPasses : Obligations.MovesAndPasses := by
  unfold Obligations.MovesAndPasses
  dsimp only
  intro s core w p hp
  refine ⟨fun r hr hi => ⟨fun places d hspan hheld hdata hno => ⟨fun hbad hres => ?free, fun q v waits hbad hres hreg => ?regulated, fun o v waits hbad h => ?bad⟩,
      fun hspan => ?noSpan, fun places hspan => ⟨fun hheld => ?held, fun hheld hdata => ?noData, fun d a hheld hdata ha => ?nowhere⟩⟩,
    State.xferHeld_eq_false, fun hi => State.xferData_copy (State.issues_row hi).2, fun hi => State.xferData_zeroFill (State.issues_row hi).2,
    fun hi => State.xferData_decompress (State.issues_row hi).2, fun rd fuel off n f hn hf => ⟨fun b => framesRun_good hn hf, framesRun_bad hn hf⟩,
    fun q r hr => ⟨State.regulate_off hr, State.regulate_held hr, State.regulate_waits hr⟩,
    fun hi hok h => ?group, fun hi hf hok => ?mmaFault, fun hi hf hok => ⟨fun h => ?hazard, fun h => ⟨fun hidle => ?warm, fun hidle hroom => ?ramps, fun hidle hfull => ?ramp⟩⟩,
    State.length_mmaActs _ _ _, fun x => ⟨rfl, rfl, State.length_mmaPass_rows _ _ _ x, State.length_mmaCols _ _ _ x, fun j i a b => State.mmaPass_rows_get _ _ _ x⟩⟩
  case group => exact unit_hold rfl hp (by decide) hi (State.mma_awaitsGroup (p := p) hok h)
  case mmaFault => exact unit_fault rfl hp (by decide) hi (State.mma_fault (p := p) hf hok)
  case hazard => exact unit_hold rfl hp (by decide) hi (State.mma_hazard (p := p) hf hok h)
  case warm => exact unit_done rfl hp (by decide) hi (State.mma_warm (p := p) hf hok h hidle)
  case ramps => exact unit_done rfl hp (by decide) hi (State.mma_ramps (p := p) hf hok h hidle hroom)
  case ramp => exact unit_hold rfl hp (by decide) hi (State.mma_awaitsRamp (p := p) hf hok h hidle hfull)
  all_goals have hx := xferRows_exec r hr core w s
  case free => exact unit_done hx hp (by decide) hi (State.xfer_free hspan hheld hdata hno hbad hres)
  case regulated => exact unit_done hx hp (by decide) hi (State.xfer_regulated hspan hheld hdata hno hbad hres hreg)
  case bad =>
    rcases h with ⟨hres, rfl, rfl⟩ | ⟨q, b, hres, rfl, hreg⟩
    · exact unit_done hx hp (by decide) hi (State.xfer_badFree hspan hheld hdata hno hbad hres)
    · exact unit_done hx hp (by decide) hi (State.xfer_badRegulated hspan hheld hdata hno hbad hres hreg)
  case noSpan => exact unit_fault hx hp (by decide) hi (State.xfer_noSpan hspan)
  case held => exact unit_hold hx hp (by decide) hi (State.xfer_held hspan hheld)
  case noData => exact unit_fault hx hp (by decide) hi (State.xfer_noData hspan hheld hdata)
  case nowhere => exact unit_done hx hp (by decide) hi (State.xfer_nowhere hspan hheld hdata ha)

end Sys2Proof.Machine
end

section
/-! Instructions of the SFU, of VEC and of SEL (R49, R63 to R89). -/

namespace Sys2Proof.Machine

/-! ## VEC (R89) -/

/-- The rows of VEC that have no scalar mask. -/
theorem vecRows_exec : ∀ r ∈ ([⟨.vecAdd, 4, 0⟩, ⟨.vecSubtract, 4, 1⟩, ⟨.vecMultiply, 4, 2⟩, ⟨.vecMaximum, 4, 3⟩, ⟨.vecMinimum, 4, 4⟩, ⟨.vecConvert, 4, 5⟩, ⟨.vecAbsolute, 4, 6⟩] : List CoreRow),
    r.op ≠ 7 ∧ ∀ (core : CoreNo) (w : Insn) (s : State), exec (r.row core w) s = woken (s.issue core.val 4 r.op w) := by
  simp only [List.forall_mem_cons]
  exact ⟨⟨by decide, fun _ _ _ => rfl⟩, ⟨by decide, fun _ _ _ => rfl⟩, ⟨by decide, fun _ _ _ => rfl⟩, ⟨by decide, fun _ _ _ => rfl⟩, ⟨by decide, fun _ _ _ => rfl⟩,
    ⟨by decide, fun _ _ _ => rfl⟩, ⟨by decide, fun _ _ _ => rfl⟩, List.forall_mem_nil _⟩
theorem vecFaultRows_exec : ∀ r ∈ ([⟨.vecAdd, 4, 0⟩, ⟨.vecSelect, 4, 7⟩] : List CoreRow), ∀ (core : CoreNo) (w : Insn) (s : State),
    exec (r.row core w) s = woken (s.issue core.val 4 r.op w) := by
  simp only [List.forall_mem_cons]
  exact ⟨fun _ _ _ => rfl, fun _ _ _ => rfl, List.forall_mem_nil _⟩

section
variable {u : State} {p c : Nat} {w : Insn}

/-- A VEC instruction goes into flight on a state `t` with the rows that `u` gives it. -/
def State.vecFlies (u t : State) (c : Nat) (w : Insn) (free : Bool) : State :=
  t.launchUnit c false ((vecReads w).map (absRange c)) ((vecD w).runs c ((List.range (vecRows w)).map (u.vecRow c w free)))

theorem State.vec_fault (h : ((vecD w).range :: vecReads w).all sramOk = false) : u.vec p c w = .fault := by
  unfold State.vec
  exact if_pos (by rw [h]; rfl)
theorem State.vecRow_binary {op i j : Nat} {x y : W32} (hop : Wd.at_ w 123 120 = op) (hlt : op < 5) (hb : vecB w = 0) (hx : (u.tileRow c (vecA w) i)[j]? = some x)
    (hy : (u.tileRow c (vecBTile w) i)[j]? = some y) : (u.vecRow c w false i)[j]? = some (vecOp op x y) := by
  have h7 : op ≠ 7 := by omega
  have h5 : (op = 5 || op = 6) = false := by simp; omega
  unfold State.vecRow
  simp only [hop, hb, h7, h5, OfNat.zero_ne_ofNat, zero_ne_one, Bool.false_eq_true, if_false, List.getElem?_zipWith, hx, hy]

variable (hok : ((vecD w).range :: vecReads w).all sramOk = true) (hfree : (u.core c).hazard ((vecReads w).map (absRange c)) [absRange c (vecD w).range] = false)
include hok hfree

theorem State.vec_flies (h : Wd.at_ w 123 120 ≠ 7 ∨ vecB w ≠ 2) : u.vec p c w = .done (u.vecFlies u c w false) := by
  have h7 : (Wd.at_ w 123 120 = 7 && vecB w = 2) = false := by
    rcases h with h | h <;> simp [h]
  unfold State.vec
  simp only [hok, hfree, h7, Bool.not_true, Bool.false_eq_true, if_false]
  rfl
theorem State.vec_scalarMask (h7 : Wd.at_ w 123 120 = 7) (hb : vecB w = 2) :
    u.vec p c w = .done (u.vecFlies { u with freeCtr := u.freeCtr + 1 } c w (bit (Config.freeNat u.freeCtr) 0)) := by
  unfold State.vec
  simp only [hok, hfree, h7, hb, Bool.not_true, Bool.false_eq_true, decide_true, Bool.and_self, if_true, if_false]
  rfl
end

/-! ## SFU (R63 to R76, R88) -/

section
variable {u : State} {p c : Nat} {w : Insn}

/-- A first feed of rows within the limit always goes (R75). -/
theorem State.feedRows_first {code base : Nat} {l : List (Nat × List W32)} (h : ∀ x ∈ l, x.2.length ≤ 16777216) (s : State) : s.feedRows c code true base l ≠ none := by
  induction l generalizing s with
  | nil => exact Option.some_ne_none _
  | cons x l ih =>
    have hrow : ¬ 16777216 < 0 + x.2.length := by have := h x (by simp); omega
    simp only [State.feedRows, if_true, hrow, if_false]
    split
    · next hnone => exact absurd hnone (ih (fun x hx => h x (by simp [hx])) _)
    · exact Option.some_ne_none _
theorem State.length_sfuRow (i : Nat) : (u.sfuRow c w i).length = sfuCols w := by
  unfold State.sfuRow
  split
  · simp
  · simp [State.tileRow, sfuIn]
theorem State.feedRows_sfuFed (h : sfuCols w ≤ 4096) : ∃ t runs, u.feedRows c (sfuCode w) true (sfuDst w) (u.sfuFed c w) = some (t, runs) := by
  have hsome : u.feedRows c (sfuCode w) true (sfuDst w) (u.sfuFed c w) ≠ none := by
    refine State.feedRows_first (fun x hx => ?_) u
    obtain ⟨i, -, rfl⟩ := List.mem_map.1 hx
    simp only [List.length_map, length_enum, State.length_sfuRow]
    omega
  obtain ⟨⟨t, runs⟩, ht⟩ := Option.ne_none_iff_exists'.1 hsome
  exact ⟨t, runs, ht⟩

variable (hfound : sfuRec w = true → (u.core c).waitsFor c [(sfuPar w, 16)] = false) (hok : u.sfuOk c w = true) (hfree : u.sfuHeld c w = false)
include hfound hok hfree

theorem State.sfu_runs : u.sfu p c w =
    if Wd.at_ w 123 120 = 2 then
      .done ((u.finishRows c (sfuCode w) (sfuSrc w) (sfuDst w) (List.range (sfuRows w))).1.launchUnit c false ((u.sfuReads c w).map (absRange c))
        (u.finishRows c (sfuCode w) (sfuSrc w) (sfuDst w) (List.range (sfuRows w))).2)
    else if Wd.at_ w 123 120 = 0 then .done (u.launchUnit c false ((u.sfuReads c w).map (absRange c)) ((sfuTile w).runs c (u.sfuOut c w)))
    else match u.feedRows c (sfuCode w) (Wd.at_ w 123 120 == 3) (sfuDst w) (u.sfuFed c w) with
      | none => .fault
      | some (t, runs) => .done (t.launchUnit c false ((u.sfuReads c w).map (absRange c)) runs) := by
  have hwait : (sfuRec w && sramOk (sfuPar w, 16) && (u.core c).waitsFor c [(sfuPar w, 16)]) = false := by
    cases hr : sfuRec w with
    | false => rfl
    | true => simp [hfound hr]
  unfold State.sfu
  simp only [hwait, hok, hfree, Bool.not_true, Bool.false_eq_true, if_false] <;> rfl
theorem State.sfu_fused (hop : Wd.at_ w 123 120 = 0) :
    u.sfu p c w = .done (u.launchUnit c false ((u.sfuReads c w).map (absRange c)) ((sfuTile w).runs c (u.sfuOut c w))) := by
  rw [State.sfu_runs hfound hok hfree, hop]
  rfl
theorem State.sfu_feeds {t : State} {runs : List (Nat × Bytes)} (hop : Wd.at_ w 123 120 = 1)
    (h : u.feedRows c (sfuCode w) false (sfuDst w) (u.sfuFed c w) = some (t, runs)) :
    u.sfu p c w = .done (t.launchUnit c false ((u.sfuReads c w).map (absRange c)) runs) := by
  rw [State.sfu_runs hfound hok hfree, hop]
  exact congrArg (fun x : Option (State × List (Nat × Bytes)) => match x with
    | none => CoreStep.fault
    | some (t, runs) => .done (t.launchUnit c false ((u.sfuReads c w).map (absRange c)) runs)) h
theorem State.sfu_feedsFirst {t : State} {runs : List (Nat × Bytes)} (hop : Wd.at_ w 123 120 = 3)
    (h : u.feedRows c (sfuCode w) true (sfuDst w) (u.sfuFed c w) = some (t, runs)) :
    u.sfu p c w = .done (t.launchUnit c false ((u.sfuReads c w).map (absRange c)) runs) := by
  rw [State.sfu_runs hfound hok hfree, hop]
  exact congrArg (fun x : Option (State × List (Nat × Bytes)) => match x with
    | none => CoreStep.fault
    | some (t, runs) => .done (t.launchUnit c false ((u.sfuReads c w).map (absRange c)) runs)) h
theorem State.sfu_finishes {t : State} {runs : List (Nat × Bytes)} (hop : Wd.at_ w 123 120 = 2)
    (h : u.finishRows c (sfuCode w) (sfuSrc w) (sfuDst w) (List.range (sfuRows w)) = (t, runs)) :
    u.sfu p c w = .done (t.launchUnit c false ((u.sfuReads c w).map (absRange c)) runs) := by
  rw [State.sfu_runs hfound hok hfree, if_pos hop, h]
end

/-! ## SEL (R77 to R82) -/

section
variable {u : State} {p c : Nat} {w : Insn} (hfound : u.selWaits c w = false) (hok : u.selOk c w = true) (hfree : u.selHeld c w = false)
include hfound hok hfree

theorem State.sel_chooses (hop : Wd.at_ w 123 120 = 0) :
    let big := Wd.at_ w 115 115 == 0
    u.sel p c w = .done (u.launchUnit c true ((u.selReads c w).map (absRange c)) [(coreBase c + selDst w, selBytes big (selK w) (selTop big (selK w) (u.selEnts c w)))]) := by
  unfold State.sel
  simp only [hfound, hok, hfree, hop, Bool.not_true, Bool.false_eq_true, if_true, if_false]
theorem State.sel_merges {d : Bool} {a b : List Ent} (hop : Wd.at_ w 123 120 = 1) (ha : u.selList c (selSrc w) = (d, a)) (hb : u.selList c (selMask w) = (d, b)) :
    u.sel p c w = .done (u.launchUnit c true ((u.selReads c w).map (absRange c)) [(coreBase c + selDst w, selBytes d (selK w) (selMergeList d (selK w) a b))]) := by
  unfold State.sel
  simp only [hfound, hok, hfree, hop, ha, hb, Bool.not_true, Bool.false_eq_true, Nat.one_ne_zero, bne_self_eq_false, if_false]
end

/-- Settles O49. -/
theorem vectorAndSelectInstructions : Obligations.VectorAndSelectInstructions := by
  unfold Obligations.VectorAndSelectInstructions
  dsimp only
  intro s core w p hp
  refine ⟨fun r hr hi hok hfree => ?vec, fun hi hok hfree => ⟨fun hb => ?select, fun hb => ⟨bit (Config.freeNat (s.seen core.val).freeCtr) 0, ?mask⟩⟩, fun op i j x y => State.vecRow_binary, fun r hr hi hok => ?vecFault,
    fun hi hf hok hfree => ?fused, fun t runs hi hf hok hfree h => ?feed, fun t runs hi hf hok hfree h => ?first, State.feedRows_sfuFed,
    fun t runs hi hf hok hfree h => ?finish, fun hi hf hok hfree => ?choose, fun d a b hi hf hok hfree ha hb => ?merge⟩
  case vec =>
    obtain ⟨hop, hx⟩ := vecRows_exec r hr
    exact unit_done (hx core w s) hp (by decide) hi (State.vec_flies (p := p) hok hfree (Or.inl ((State.issues_row hi).2 ▸ hop)))
  case select => exact unit_done rfl hp (by decide) hi (State.vec_flies (p := p) hok hfree (Or.inr hb))
  case mask => exact unit_done rfl hp (by decide) hi (State.vec_scalarMask (p := p) hok hfree (State.issues_row hi).2 hb)
  case vecFault => exact unit_fault (vecFaultRows_exec r hr core w s) hp (by decide) hi (State.vec_fault (p := p) hok)
  case fused => exact unit_done rfl hp (by decide) hi (State.sfu_fused (p := p) hf hok hfree (State.issues_row hi).2)
  case feed => exact unit_done rfl hp (by decide) hi (State.sfu_feeds (p := p) hf hok hfree (State.issues_row hi).2 h)
  case first => exact unit_done rfl hp (by decide) hi (State.sfu_feedsFirst (p := p) hf hok hfree (State.issues_row hi).2 h)
  case finish => exact unit_done rfl hp (by decide) hi (State.sfu_finishes (p := p) hf hok hfree (State.issues_row hi).2 h)
  case choose => exact unit_done rfl hp (by decide) hi (State.sel_chooses (p := p) hf hok hfree (State.issues_row hi).2)
  case merge => exact unit_done rfl hp (by decide) hi (State.sel_merges (p := p) hf hok hfree (State.issues_row hi).2 ha hb)

end Sys2Proof.Machine
end

section
/-! What completes on a core, its activity and droops, its pre-emption and its watchdogs (R36, R48, R52, R55, R59, R86, R90, R95 to R99, R364, R392). -/

namespace Sys2Proof.Machine

section
variable {s : State} {c : Nat}

/-! ## Completions (R36, R48, R86, R90) -/

/-- The writes of an instruction are visible. -/
def State.visible (s : State) (x : Write) : State := s.onMem fun m => { m with bytes := writeRuns m.bytes x.runs }
/-- The oldest XFER leaves the flight, its bytes visible, and signals wait for one transfer less. -/
def State.xferLeaves (s : State) (c : Nat) (x : Write) (rest : List Write) : State :=
  (s.visible x).onCore c fun k => { k with xfers := rest, sigs := k.sigs.map fun g => { g with xfers := g.xfers - 1 } }

section
variable {x : Write} {rest : List Write} (hx : (s.core c).xfers = x :: rest) (hw : x.waits = none)
include hx hw

theorem State.xferDone_plain (hsem : x.sem = none) : s.xferDone c = (s.xferLeaves c x rest).tryHeld c := by
  unfold State.xferDone
  simp only [hx, hw, hsem, Option.isSome_none, Bool.false_eq_true, if_false]
  rfl
theorem State.xferDone_raises {i : Fin 16} (hsem : x.sem = some i) (h : (((s.xferLeaves c x rest).core c).sems[i.val]?).getD 0 ≠ 0xFFFF) :
    s.xferDone c = ((s.xferLeaves c x rest).onCore c fun k =>
      { k with sems := setAt k.sems i.val (BitVec.ofNat 16 (((((s.xferLeaves c x rest).core c).sems[i.val]?).getD 0).toNat + 1)) }).tryHeld c := by
  unfold State.xferLeaves State.visible at h ⊢
  unfold State.xferDone
  simp only [hx, hw, hsem, h, Option.isSome_none, Bool.false_eq_true, if_false]
theorem State.xferDone_full {i : Fin 16} (hsem : x.sem = some i) (h : (((s.xferLeaves c x rest).core c).sems[i.val]?).getD 0 = 0xFFFF) :
    s.xferDone c = (({ s.xferLeaves c x rest with freeCtr := (s.xferLeaves c x rest).freeCtr + 1 } : State).onCore c fun k =>
      { k with sems := setAt k.sems i.val (BitVec.ofNat 16 (Config.freeNat (s.xferLeaves c x rest).freeCtr)) }).tryHeld c := by
  unfold State.xferLeaves State.visible at h ⊢
  unfold State.xferDone
  simp only [hx, hw, hsem, h, Option.isSome_none, Bool.false_eq_true, if_false, if_true]
  rfl
end

theorem State.passDone_stalled {e : Nat} (h : (s.core c).stalls = true) : s.passDone c e = s := if_pos h
theorem State.passDone_adds {e at_ : Nat} {x : Pass} (hs : (s.core c).stalls = false) (hx : (s.core c).passes.find? (fun x => x.engine == e) = some x)
    (hat : indexOf (fun x => x.engine == e) (s.core c).passes = some at_) :
    s.passDone c e = (s.onCore c fun k =>
      { k with acc := writePass k.acc x, passes := dropFirst (fun y => y.engine == e) k.passes,
               sigs := k.sigs.map fun g => if at_ < g.passes then { g with passes := g.passes - 1 } else g }).tryHeld c := by
  unfold State.passDone
  simp only [hs, hx, hat, Bool.false_eq_true, if_false]
  rfl
theorem State.unitDone_writes {x : Write} {rest : List Write} (hx : (s.core c).unitOps = x :: rest) :
    s.unitDone c = ((s.visible x).onCore c fun k => { k with unitOps := rest, sigs := k.sigs.map fun g => { g with units := g.units - 1 } }).tryHeld c := by
  unfold State.unitDone
  rw [hx]
  rfl

/-! ## Pre-emption (R95 to R99) -/

/-- One pre-emption more on an account. -/
def Acct.preempted (a : Acct) : Acct := { a with preempt := satAdd 64 a.preempt 1 }
/-- The pre-emption of a core is counted on its partition and on the tenants of its requests. -/
def State.chargePreempt (s : State) (p c : Nat) : State :=
  (s.onPart p fun x => { x with acct := x.acct.preempted }).onSch fun x =>
    { x with tenants := (dedup ((s.core c).slots.filterMap fun n => (s.req? n).map fun r => r.tenant)).foldl (fun m t => KMap.mod m t.toNat fun y => { y with acct := y.acct.preempted }) x.tenants }
/-- A core is saved at its MARK, and stands at it no more. -/
def State.saved (s : State) (p c : Nat) (banks : BitVec 48) (groups : BitVec 32) : State :=
  ((s.saveCore p c banks groups).zeroDead c banks groups).onCore c fun k => { k with preempt := false, atMark := none }

theorem State.preemptSave_saves {p : Nat} {banks : BitVec 48} {groups : BitVec 32} {id : W16} (hp : s.partOf c = some p) (hm : (s.core c).saveMasks = some (banks, groups, id)) :
    s.preemptSave c = let u := (s.saved p c banks groups).chargePreempt p c
      if u.underTest c then u.testMove c true else u.dueMove c true := by
  unfold State.preemptSave
  rw [hp, hm]
  rfl
theorem Core.saveMasks_atMark {k : Core} {m : BitVec 48 × BitVec 32 × W16} (hp : k.preempt = true) (hd : k.drained = true) (hm : k.atMark = some m) : k.saveMasks = some m := by
  unfold Core.saveMasks
  simp only [hp, hd, hm, Bool.not_true, Bool.or_self, Bool.false_eq_true, if_false]
end

section
variable {s : State} {core : CoreNo}

theorem exec_preemptWatchdog_late (hp : (s.core core.val).preempt = true) (hb : (s.core core.val).busy = true) (hm : (s.core core.val).atMark = none) :
    exec (.preemptWatchdog core) s = .next (s.programFault core.val).woken :=
  congrArg woken (if_pos (by rw [hp, hb, hm]; rfl))
theorem exec_preemptWatchdog_idle (hp : (s.core core.val).preempt = false) : exec (.preemptWatchdog core) s = .next s.woken :=
  congrArg woken (if_neg (by rw [hp]; exact Bool.false_ne_true))

/-! ## The sequencer's watchdog (R364) -/

/-- A core whose sequencer makes no progress: a fault of class 1, its step abandoned, one watchdog more; the second retires it. -/
def State.watchdogBites (s : State) (c p : Nat) : State :=
  let t := ((s.faultRec 3 4 c (s.core c).pc 1 (some p) (s.stepSlots p) 0).abandonStep p).onCore c fun k => { k with dogs := k.dogs + 1 }
  if 2 ≤ (s.core c).dogs + 1 then t.retireCore c else t

theorem exec_sequencerWatchdog_bites {p : Nat} (hp : s.partOf core.val = some p) (hb : (s.core core.val).busy = true) (he : (s.core core.val).ended = false)
    (hh : (s.core core.val).held = none) :
    exec (.sequencerWatchdog core) s =
      .next (((s.watchdogBites core.val p).dueMoves ((s.watchdogBites core.val p).part p).cores).settle).woken := by
  refine (show exec (.sequencerWatchdog core) s = execSequencerWatchdog core s from rfl).trans ?_
  unfold execSequencerWatchdog
  simp only [hp, hb, he, hh, Bool.not_true, Bool.or_self, Bool.false_eq_true, if_false]
  rfl

/-! ## Activity and droops (R52, R55, R59, R392) -/

theorem exec_activityDecay_runs {e : Fin 4} (h : (s.core core.val).passes.any (fun x => (s.core core.val).arrayOf x.engine == e.val) = true) :
    exec (.activityDecay core e) s = .next s := congrArg Host.Outcome.next (if_pos h)
theorem exec_activityDecay_idle {e : Fin 4} (h : (s.core core.val).passes.any (fun x => (s.core core.val).arrayOf x.engine == e.val) = false) :
    exec (.activityDecay core e) s = .next (({ s with freeCtr := s.freeCtr + 1 } : State).onCore core.val fun k =>
      { k with activity := modAt k.activity e.val (· - 1), lfsr := setAt k.lfsr e.val (BitVec.ofNat 32 (Config.freeNat s.freeCtr)) }) :=
  congrArg Host.Outcome.next (if_neg (ne_true_of_eq_false h))
theorem exec_droopStretch_begins (hk : (s.core core.val).stretched = false) (hd : s.dom (coreDom core.val) = .on) :
    exec (.droopStretch core) s = .next (s.onCore core.val fun k => { k with stretched := true, droops := satAdd 32 k.droops 1 }) :=
  congrArg Host.Outcome.next (if_neg (by rw [hk, hd]; decide))
theorem exec_droopStretch_again (hk : (s.core core.val).stretched = true) : exec (.droopStretch core) s = .next s :=
  congrArg Host.Outcome.next (if_pos (by rw [hk]; rfl))
end

/-- Settles O50. -/
theorem coresCompleteAndArePreempted : Obligations.CoresCompleteAndArePreempted := by
  unfold Obligations.CoresCompleteAndArePreempted
  dsimp only
  intro s core
  refine ⟨fun x rest hx hw => ⟨fun hsem => ?plain, fun i hsem h => ?raises, fun i hsem h => ⟨BitVec.ofNat 16 (Config.freeNat (s.xferLeaves core.val x rest).freeCtr), ?full⟩⟩, fun e x at_ hs hx hat => ?pass, fun e hs => ?stalled, fun x rest hx => ?unit,
    fun e h => exec_activityDecay_runs h, fun e h => ⟨BitVec.ofNat 32 (Config.freeNat s.freeCtr), exec_activityDecay_idle h⟩, exec_droopStretch_begins, exec_droopStretch_again, rfl, fun p banks groups id hp hm => ?saves,
    fun m => Core.saveMasks_atMark, exec_preemptWatchdog_late, exec_preemptWatchdog_idle, fun p hp hb he hh => ?bites⟩
  case plain => exact congrArg woken (State.xferDone_plain hx hw hsem)
  case raises => exact congrArg woken (State.xferDone_raises hx hw hsem h)
  case full => exact congrArg woken (State.xferDone_full hx hw hsem h)
  case pass => exact congrArg woken (State.passDone_adds hs hx hat)
  case stalled => exact congrArg woken (State.passDone_stalled hs)
  case unit => exact congrArg woken (State.unitDone_writes hx)
  case saves => exact congrArg woken (State.preemptSave_saves hp hm)
  case bites => exact exec_sequencerWatchdog_bites hp hb he hh

end Sys2Proof.Machine
end

section
/-! Retrieval as it goes on: contexts and pages of scans (R143 to R146, R288), passages (R166), publication (R148, R273), and the searches and text fetches of other modules (R346 to R348). -/

namespace Sys2Proof.Machine

/-! ## Scans (R143 to R147, R288) -/

section
variable {s : State} {c : Nat}

/-- The jobs that wait for a controller, by admission number. -/
def State.waitingJobs (s : State) (c : Nat) : List Job :=
  sortBy (fun a b : Job => decide (a.adm.toNat < b.adm.toNat)) (s.ret.jobs.filter fun j => j.queued.contains c)
/-- A job holds a context of a controller. -/
def State.contextTaken (s : State) (c : Nat) (j : Job) : State :=
  (s.onRet fun r => { r with ctx := modAt r.ctx c (· + 1) }).onJob j.adm fun x => { x with queued := x.queued.filter (· ≠ c), holds := x.holds ++ [c] }

theorem State.dispatch_full (h : 64 ≤ (s.ret.ctx[c]?).getD 0) : s.dispatch c = s := if_pos h
section
variable {j : Job} {rest : List Job} (h : (s.ret.ctx[c]?).getD 0 < 64) (hj : s.waitingJobs c = j :: rest)
include h hj

theorem State.dispatch_remote (hr : j.remote.isSome = true) : s.dispatch c = (s.contextTaken c j).issueScan j.adm c := by
  unfold State.waitingJobs at hj
  unfold State.dispatch
  simp only [Nat.not_le.2 h, hj, hr, Bool.false_eq_true, if_true, if_false]
  rfl
theorem State.dispatch_own {t : State} {waits : Bool} (hr : j.remote = none)
    (hreg : (s.contextTaken c j).regulate j.part 2 (4 * (j.reads.filter fun x => x.1 == c).length) false (.scan j.adm c) j.slot.toList = (t, waits)) :
    s.dispatch c = if waits then t else t.issueScan j.adm c := by
  unfold State.waitingJobs at hj
  unfold State.contextTaken at hreg
  unfold State.dispatch
  simp only [Nat.not_le.2 h, hj, hr, hreg, Option.isSome_none, Bool.false_eq_true, if_false]
end

/-- A page of a job comes up, readable or not. -/
def State.pageEnds (t : State) (j : Job) (adm : W64) (c page : Nat) (ok : Bool) : State :=
  ((((if j.remote.isSome then t else t.chargeCellar j.part j.tenant 16384).scorePage adm c page ok).dispatch c).jobResult adm).settle

section
variable {adm : W64} {page : Nat} {j : Job} (hj : s.job? adm = some j)
include hj

theorem State.scanPage_other (readable : Bool) (hread : j.reads.contains (c, page) = false) : s.scanPage adm c page readable = s := by
  unfold State.scanPage
  simp only [hj, hread, Bool.and_false, Bool.false_and, Bool.not_false, if_true]
variable (hhold : j.holds.contains c = true) (hread : j.reads.contains (c, page) = true) (hw : (s.part j.part).waitsFor (.scan adm c) = false)
  (hcel : s.cel.reading (pageKey c page) (.scan adm) = false)
include hhold hread hw hcel

theorem State.scanPage_due (readable : Bool) : s.scanPage adm c page readable =
    (if readable && s.cel.pageReadable c page then s else s.noPage (pageKey c page)).pageEnds j adm c page (readable && s.cel.pageReadable c page) := by
  unfold State.scanPage
  simp only [hj, hhold, hread, hw, hcel, Bool.not_false, Bool.and_self, Bool.not_true, Bool.false_eq_true, if_false]
  rfl
end

/-! ## Passages (R166, R288) -/

section
variable {slot : Nat} {r : Req} {k : Nat} {p : Passage} {ix : Index} (hr : s.req? slot = some r) (hrun : r.running = true) (hstage : r.stage = 6)
  (hnext : s.nextFetch slot r = some (k, p)) (hix : s.index? r.index = some ix)
include hr hrun hstage hnext hix

/-- The pages of a fetch are charged. -/
def State.fetchCharged (s : State) (r : Req) (ix : Index) (p : Passage) : State :=
  s.chargeCellar r.part.val r.tenant (16384 * (ix.fetchPages p.cand.id p.cand.version).length)

theorem State.fetchDone_next (readable : Bool) : s.fetchDone slot readable =
    let ks := ix.fetchPages p.cand.id p.cand.version
    let lost := ks.find? fun k => !s.cel.readable k
    let u := s.fetchCharged r ix p
    ((match (if readable then lost else some (lost.getD (ks.head?.getD 0))), ix.exact p.cand.id p.cand.version with
      | none, some e => u.passageText slot k e.text
      | none, none => u.passageDrop slot k
      | some x, _ => (u.noPage x).passageDrop slot k).stage6Done slot).settle := by
  have hix' : (s.fetchCharged r ix p).index? r.index = some ix := hix
  unfold State.fetchCharged at hix'
  unfold State.fetchDone
  simp only [hr, hrun, hstage, hnext, hix, hix', ne_eq, not_true_eq_false, decide_false, Bool.not_true, Bool.or_self, Bool.false_eq_true, if_false, Option.bind_some]
  rfl
theorem State.fetchDone_text {e : StoreEntry} (hks : (ix.fetchPages p.cand.id p.cand.version).find? (fun k => !s.cel.readable k) = none)
    (he : ix.exact p.cand.id p.cand.version = some e) :
    s.fetchDone slot true = (((s.fetchCharged r ix p).passageText slot k e.text).stage6Done slot).settle := by
  simp only [State.fetchDone_next hr hrun hstage hnext hix, hks, he, if_true]
theorem State.fetchDone_gone (hks : (ix.fetchPages p.cand.id p.cand.version).find? (fun k => !s.cel.readable k) = none)
    (he : ix.exact p.cand.id p.cand.version = none) :
    s.fetchDone slot true = (((s.fetchCharged r ix p).passageDrop slot k).stage6Done slot).settle := by
  simp only [State.fetchDone_next hr hrun hstage hnext hix, hks, he, if_true]
theorem State.fetchDone_unreadable {x : Nat} (readable : Bool) (hks : (ix.fetchPages p.cand.id p.cand.version).find? (fun k => !s.cel.readable k) = some x) :
    s.fetchDone slot readable = ((((s.fetchCharged r ix p).noPage x).passageDrop slot k).stage6Done slot).settle := by
  have hx : (if readable then some x else some ((some x).getD ((ix.fetchPages p.cand.id p.cand.version).head?.getD 0))) = some x := by cases readable <;> rfl
  simp only [State.fetchDone_next hr hrun hstage hnext hix, hks, hx]
end
end

/-! ## Publication (R148, R273) -/

section
variable {s u : State} {i : Nat} {ix jx : Index} {m n : Mutation} {rest more : List Mutation}

/-- The published mutation's index: its buckets are tested for a merge (R159), and a delete marks its passage in the store's page. -/
def State.published (u : State) (i : Nat) (jx : Index) (n : Mutation) (more : List Mutation) : State :=
  let t := u.onIndex i fun x => { (x.apply n) with waiting := more }
  let t := if n.insert then t else t.syncHomes i [jx.homePage n.id]
  ((t.onCel fun c => c.ages fun a => a.kind == .merge && a.index == i).each (jx.touched n) fun s b => match s.index? i with
    | some x => if x.dueNow b then s.makeDue i b else s
    | none => s).markCrowded

theorem State.publish_first (hix : s.index? i = some ix) (hw : ix.waiting = m :: rest) (hjx : (s.placeText i m).index? i = some jx) (hn : jx.waiting = n :: more) :
    s.publish i = if !n.placed || (s.placeText i m).cel.unacked n.writes then s.placeText i m
      else match n.last with
        | some (h, c) => ((s.placeText i m).published i jx n more).completeFor h
            { c with info := c.info ||| infoByte false false false ((s.placeText i m).published i jx n more).degraded }
        | none => (s.placeText i m).published i jx n more := by
  unfold State.publish
  simp only [hix, hw, Option.bind_some, List.head?_cons, hjx, hn]
  rfl
theorem exec_mutationPublish {index : IndexNo} (hix : s.index? index.val = some ix) (hu : ix.unloaded = false) :
    exec (.mutationPublish index) s = .next (s.publish index.val).woken := by
  refine (show exec (.mutationPublish index) s = execMutationPublish index s from rfl).trans ?_
  unfold execMutationPublish
  rw [hix]
  exact congrArg woken (if_neg (ne_true_of_eq_false hu))
theorem exec_mutationPublish_idle {index : IndexNo} (hix : s.index? index.val = some ix) (hw : ix.waiting = []) : exec (.mutationPublish index) s = .next s.woken := by
  cases hu : ix.unloaded with
  | true =>
    refine (show exec (.mutationPublish index) s = execMutationPublish index s from rfl).trans ?_
    unfold execMutationPublish
    rw [hix]
    exact congrArg woken (if_pos hu)
  | false =>
    rw [exec_mutationPublish hix hu]
    unfold State.publish
    simp only [hix, hw, Option.bind_some, List.head?_nil]
end

/-! ## Searches and text fetches of other modules (R346 to R348) -/

section
variable {b : State} {m : MsgHdr} {q : List W32} {k p w : Nat} {f : List FilterTerm}

/-- The index a message of its class names. -/
def ctxIndex (m : MsgHdr) : Nat := m.context.toNat % 64
/-- The search of another module, on this member's own snapshot. -/
def remoteJob (m : MsgHdr) (ix : Index) (adm : W64) (hot : W32) (q : List W32) (k p w : Nat) (f : List FilterTerm) : Job :=
  { adm := adm, slot := none, remote := some m, index := ctxIndex m, snap := ix.seq, query := q, k := k, d := ix.dMargin, p := if p = 0 then ix.pDef else p, w := w,
    filter := f, round := 0, plan := [], queued := [], holds := [], reads := [], lists := [], earlier := [], overrun := false, unreadable := false,
    part := 16, tenant := 0, own := none, members := [], others := [], rounds := 0, cancelled := false, failed := [], hot := hot }

theorem State.searchIn_refused (h : ∀ ix, b.index? (ctxIndex m) = some ix → ix.loading = true ∨ ix.unloaded = true ∨ 65536 ≤ b.ret.memberHolds.length ∨ q.length ≠ ix.dim) :
    b.searchIn m q k p w f = b.reply m 5 .shardError := by
  unfold State.searchIn
  cases hix : b.index? (m.context.toNat % 64) with
  | none => simp only [hix]
  | some ix =>
    have hbad : (ix.loading || ix.unloaded || decide (65536 ≤ b.ret.memberHolds.length) || decide (q.length ≠ ix.dim)) = true := by
      simpa [or_assoc] using h ix hix
    simp only [hix, hbad, if_true]
theorem State.searchIn_runs {ix : Index} {adm : W64} {v : State} (hix : b.index? (ctxIndex m) = some ix) (hl : ix.loading = false) (hu : ix.unloaded = false)
    (hh : b.ret.memberHolds.length < 65536) (hq : q.length = ix.dim) (hv : b.nextAdm (ctxIndex m) = (adm, v)) :
    b.searchIn m q k p w f =
      let j := remoteJob m ix adm v.ret.hotCfg q k p w f
      let t := v.onRet fun r => { r with jobs := r.jobs ++ [j], memberHolds := r.memberHolds ++ [(m.src, m.context, ctxIndex m, ix.seq)] }
      ((t.planRound j 0).settleJob adm).jobResult adm := by
  unfold ctxIndex at hix hv
  unfold State.searchIn
  simp only [hix, hl, hu, Nat.not_le.2 hh, hq, hv, decide_false, ne_eq, not_true_eq_false, Bool.or_self, Bool.false_eq_true, if_false]
  rfl
end

section
variable {s : State} {m : MsgHdr}

theorem State.answered_in {f : State → State} (h : s.departed = false) : s.answered f = f s := if_neg (ne_true_of_eq_false h)

/-- A member has answered a search: its candidates join the others', and its request waits for it no more. -/
def State.memberJoins (v : State) (adm : W64) (j : Job) (src : W16) (cands : List Cand) (rounds : Nat) (snap : W64) (lost : Bool) : State :=
  let v := v.onJob adm fun x => { x with members := x.members.filter (· ≠ src), others := x.others ++ cands.map fun c => { c with member := src },
                                         rounds := max x.rounds rounds, unreadable := x.unreadable || lost }
  match j.slot with
  | some n => v.onReq n fun r => { r with waitMembers := r.waitMembers.filter (· ≠ src), members := if lost then r.members else r.members ++ [(src, snap)] }
  | none => v

theorem State.memberDone_joins {adm : W64} {j : Job} {src : W16} {cands : List Cand} {rounds : Nat} {snap : W64} {lost : Bool} (hj : s.job? adm = some j)
    (hm : j.members.contains src = true) : s.memberDone adm src cands rounds snap lost = ((s.memberJoins adm j src cands rounds snap lost).jobResult adm).settle := by
  unfold State.memberDone
  simp only [hj, hm, Bool.not_true, Bool.false_eq_true, if_false]
  rfl
theorem State.searchReplyIn_asked {cands : List Cand} {rounds : Nat} {snap : W64} {o : OutMsg} {adm : W64} {g1 g2 g3 g4 g5 g6} (ho : s.sent? m 5 = some o)
    (hb : o.body = .shardSearch adm g1 g2 g3 g4 g5 g6) :
    s.searchReplyIn m cands rounds snap = (s.dropOut o).memberDone adm m.src (if m.isError then [] else cands) rounds snap m.isError := by
  unfold State.searchReplyIn
  simp only [ho, hb]
theorem State.searchReplyIn_unasked {cands : List Cand} {rounds : Nat} {snap : W64} (ho : s.sent? m 5 = none) : s.searchReplyIn m cands rounds snap = s := by
  unfold State.searchReplyIn
  rw [ho]

variable {id version : W64} {text : Bytes}

/-- A text fetch that came from another module, for the version it names. -/
theorem State.textIn_asked (hr : m.isReply = false) : s.textIn m id version text =
    match (s.index? (ctxIndex m)).bind fun ix => ix.exact id version with
    | some e =>
      let ks := match s.index? (ctxIndex m) with | some ix => ix.fetchPages id version | none => []
      match ks.find? fun k => !s.cel.readable k with
      | some k => (s.noPage k).reply m 5 .error
      | none => s.reply m 5 (.text version e.text)
    | none => s.reply m 5 .error := by
  unfold State.textIn
  rw [hr]
  rfl
theorem State.textIn_unheld (hr : m.isReply = false) (h : ∀ ix, s.index? (ctxIndex m) = some ix → ix.exact id version = none) :
    s.textIn m id version text = s.reply m 5 .error := by
  have hnone : ((s.index? (ctxIndex m)).bind fun ix => ix.exact id version) = none := Option.bind_eq_none_iff.2 h
  rw [State.textIn_asked hr, hnone]
theorem State.textIn_held {ix : Index} {e : StoreEntry} (hr : m.isReply = false) (hix : s.index? (ctxIndex m) = some ix) (he : ix.exact id version = some e) :
    s.textIn m id version text = match (ix.fetchPages id version).find? fun k => !s.cel.readable k with
      | some k => (s.noPage k).reply m 5 .error
      | none => s.reply m 5 (.text version e.text) := by
  rw [State.textIn_asked hr]
  simp only [hix, Option.bind_some, he]

/-- A passage that awaits this text. -/
def Passage.awaits (m : MsgHdr) (id version : W64) (p : Passage) : Bool :=
  !p.fetched && !p.dropped && p.cand.member == m.src && p.cand.id == id && p.cand.version == version
theorem State.textIn_came {o : OutMsg} {n k : Nat} {r : Req} (hr : m.isReply = true) (ho : s.sent? m 5 = some o)
    (hfind : (s.dropOut o).sch.slots.find? (fun x => x.2.running && x.2.stage == 6 && x.2.passages.any (Passage.awaits m id version)) = some (n, r))
    (hk : indexOf (Passage.awaits m id version) r.passages = some k) :
    s.textIn m id version text = (((if m.isError then (s.dropOut o).passageDrop n k else (s.dropOut o).passageText n k text).stage6Done n).settle) := by
  unfold Passage.awaits at hfind hk
  unfold State.textIn
  simp only [hr, ho, hfind, hk, if_true]
end

/-- Settles O51. -/
theorem retrievalGoesOn : Obligations.RetrievalGoesOn := by
  unfold Obligations.RetrievalGoesOn
  dsimp only
  intro s ctrl index
  refine ⟨fun h => ?full, fun j rest h hj => ⟨fun hr => ?remote, fun t waits hr hreg => ?own⟩, fun adm page j hj hhold hread hw hcel => ?scored, fun adm page readable j hj hread => ?other,
    fun slot r k p ix hr hrun hstage hnext hix => ⟨fun e hks he => ?text, fun hks he => ?gone, fun x hks readable => ?unreadable⟩,
    fun ix m rest hix hu hw jx n more hjx hn => ?publish, fun ix hix hw => exec_mutationPublish_idle hix hw, fun m hturn => ?turn,
    fun m cands rounds snap o adm j g1 g2 g3 g4 g5 g6 hdep ho hb hj hm => ?reply, fun m cands rounds snap hdep ho => ?unasked, fun m id version text hdep hr => ?asked,
    fun m id version text o n r k hdep hr ho hfind hk => ?came⟩
  case full => exact congrArg woken (State.dispatch_full h)
  case remote => exact congrArg woken (State.dispatch_remote h hj hr)
  case own => exact congrArg woken (State.dispatch_own h hj hr hreg)
  case scored =>
    have hdue := fun readable => congrArg woken (State.scanPage_due hj hhold hread hw hcel readable)
    refine ⟨fun h => (hdue true).trans ?_, fun h => (hdue true).trans ?_, hdue false⟩
    · rw [h]; rfl
    · rw [h]; rfl
  case other => exact congrArg woken (State.scanPage_other hj readable hread)
  case text => exact congrArg woken (State.fetchDone_text hr hrun hstage hnext hix hks he)
  case gone => exact congrArg woken (State.fetchDone_gone hr hrun hstage hnext hix hks he)
  case unreadable => exact congrArg woken (State.fetchDone_unreadable hr hrun hstage hnext hix readable hks)
  case publish =>
    have hpub := (exec_mutationPublish hix hu).trans (congrArg woken (State.publish_first hix hw hjx hn))
    refine ⟨fun h => hpub.trans (congrArg woken (if_pos ?_)), fun hp hack => ?_⟩
    · rcases h with h | h <;> simp [h]
    · rw [if_neg (by simp [hp, hack])] at hpub
      exact ⟨fun hl => by rw [hpub, hl]; rfl, fun h k hl => by rw [hpub, hl]; rfl⟩
  case turn =>
    exact ⟨fun q k p w f h => exec_receive_inTurn rfl hturn (State.searchIn_refused h),
      fun q k p w f ix adm v hix hl hu hh hq hv => exec_receive_inTurn rfl hturn (State.searchIn_runs hix hl hu hh hq hv), exec_receive_inTurn rfl hturn rfl⟩
  case reply => exact congrArg woken ((State.answered_in hdep).trans ((State.searchReplyIn_asked ho hb).trans (State.memberDone_joins hj hm)))
  case unasked => exact congrArg woken ((State.answered_in hdep).trans (State.searchReplyIn_unasked ho))
  case asked =>
    refine ⟨fun h => congrArg woken ((State.answered_in hdep).trans (State.textIn_unheld hr h)), fun ix e hix he => ?_⟩
    have hheld := (State.answered_in (f := fun s => s.textIn m id version text) hdep).trans (State.textIn_held hr hix he)
    exact ⟨fun hks => congrArg woken (by rw [hks] at hheld; exact hheld), fun k hks => congrArg woken (by rw [hks] at hheld; exact hheld)⟩
  case came => exact congrArg woken ((State.answered_in hdep).trans (State.textIn_came hr ho hfind hk))

end Sys2Proof.Machine
end

section
/-! Merges and generations (R160 to R164, R170, R273), and the cellar as it goes on (R273 to R295). -/

namespace Sys2Proof.Machine

/-! ## Merges (R160, R161, R273) -/

section
variable {s : State} {ix : Index} {a : Activity}

/-- The records of a bucket's current generation that a merge could read. -/
def State.mergeReads (s : State) (ix : Index) (a : Activity) : List Rec :=
  match (ix.bucket a.bucket).ext with | some e => s.goodRecs ix.dim e a.bad | none => []
/-- Where the extent of a merge's new generation begins. -/
def State.mergeRun (s : State) (ix : Index) (a : Activity) (recs : List Rec) : Nat := s.cel.newRun a.ctrl a.bucket (extentPages ix.dim recs.length)

theorem exec_activityClaim_held {aid : W32} (ha : s.cel.act? aid = some a) (hof : a.ofIndex = true) (hcl : a.claimed = true) :
    exec (.activityClaim aid) s = .next (s.stepIndexAct a.aid).woken := by
  refine (show exec (.activityClaim aid) s = execActivityClaim aid s from rfl).trans ?_
  unfold execActivityClaim
  simp only [ha, hof, if_true]
  unfold State.claimIndexAct
  simp only [hcl, Bool.true_or, if_true]
  rfl

variable {recs : List Rec} {took : List Mud} {full : Bool} (hix : s.index? a.index = some ix) (ha : s.cel.act? a.aid = some a) (hk : a.kind = .merge)
  (hcl : a.claimed = true) (hph : a.phase = 1) (hops : s.cel.opsOf a.aid = 0) (hocc : s.cel.mayOccupy a.aid (s.cel.needs a []) = true)
  (hfold : ix.fold a.bucket (s.mergeReads ix a) a.mergePoint = (recs, took, full))
include hix ha hk hcl hph hops hocc hfold

theorem State.stepIndexAct_merges : s.stepIndexAct a.aid =
    if recs.isEmpty then s.onCel fun c => c.onAct a.aid fun x => { x with phase := 2, took := took, full := full }
    else if Config.dataPages s.ident.variant < s.mergeRun ix a recs + extentPages ix.dim recs.length then s
    else s.onCel fun c => (c.onAct a.aid fun x =>
      { x with phase := 2, ext := some { ctrl := a.ctrl, page := s.mergeRun ix a recs, count := recs.length }, took := took, full := full }).writeExt s.ident.variant a
        (s.mergeRun ix a recs) (pieces 16384 (recs.flatMap Rec.bytes)) := by
  unfold State.mergeReads at hfold
  unfold State.stepIndexAct State.mergeRun
  cases hext : (ix.bucket a.bucket).ext <;> rw [hext] at hfold <;>
  simp only [ha, hix, hcl, hph, hops, hocc, hk, hext, hfold, OfNat.one_ne_ofNat, one_ne_zero, Bool.not_true, decide_false, Bool.or_self, Bool.false_eq_true, Bool.false_and, if_false, if_true, ne_eq,
    not_true_eq_false, reduceCtorEq]
theorem State.stepIndexAct_mergesNone (h : recs = []) :
    s.stepIndexAct a.aid = s.onCel fun c => c.onAct a.aid fun x => { x with phase := 2, took := took, full := full } := by
  rw [State.stepIndexAct_merges hix ha hk hcl hph hops hocc hfold, if_pos (by rw [h]; rfl)]
theorem State.stepIndexAct_mergesSome (h : recs ≠ []) (hroom : s.mergeRun ix a recs + extentPages ix.dim recs.length ≤ Config.dataPages s.ident.variant) :
    s.stepIndexAct a.aid = s.onCel fun c => (c.onAct a.aid fun x =>
      { x with phase := 2, ext := some { ctrl := a.ctrl, page := s.mergeRun ix a recs, count := recs.length }, took := took, full := full }).writeExt s.ident.variant a
        (s.mergeRun ix a recs) (pieces 16384 (recs.flatMap Rec.bytes)) := by
  rw [State.stepIndexAct_merges hix ha hk hcl hph hops hocc hfold, if_neg (by simpa using h), if_neg (Nat.not_lt.2 hroom)]
end

section
variable {s : State} {ix : Index} {i b : Nat} (hix : s.index? i = some ix)
include hix

theorem State.mergeCommit_none (h : s.cel.acts.find? (fun a => a.kind == .merge && a.index == i && a.bucket == b && s.written a) = none) : s.mergeCommit i b = s := by
  unfold State.mergeCommit
  rw [hix, h]
/-- A bucket takes its new generation, the old one readable, and its replicas being written are abandoned. -/
def State.generationTaken (s : State) (i b : Nat) (k : Bucket) (a : Activity) : State :=
  let m := a.mergePoint
  let t := s.onIndex i fun x => { x with
    mud := x.mud.map fun y => if y.bucket == b && y.foldGen == 0 && decide (y.version.toNat ≤ m.toNat) && (a.took.contains y || x.dropped y.id y.version m none)
      then { y with foldGen := BitVec.ofNat 32 (k.gen + 1) } else y,
    dir := (x.setBucket b { k with ext := a.ext, gen := k.gen + 1, old := some (k.ext, k.gen, m, k.hot), hot := none, mergePoint := m, full := a.full, due := false }).dir }
  let v := t.onCel fun c => c.dropAct a.aid
  v.each (v.cel.acts.filter fun y => y.kind == .replica && y.index == i && y.bucket == b) fun s y => s.endIndexAct y

theorem State.mergeCommit_takes {a : Activity} {x : Index} (h : s.cel.acts.find? (fun a => a.kind == .merge && a.index == i && a.bucket == b && s.written a) = some a)
    (hx : (s.generationTaken i b (ix.bucket b) a).index? i = some x) :
    s.mergeCommit i b =
      if x.dueNow b && ((x.mudOf b).any (fun y => decide (a.mergePoint.toNat < y.version.toNat)) || x.tombs.any fun t => t.buckets.contains b && decide (a.mergePoint.toNat < t.n.toNat))
        then (s.generationTaken i b (ix.bucket b) a).makeDue i b else s.generationTaken i b (ix.bucket b) a := by
  unfold State.generationTaken at hx ⊢
  unfold State.mergeCommit
  simp only [hix, h]
  simp only [hx]

/-! ## Old generations and replicas (R162, R164, R170) -/

section
variable {e : Option Extent} {g : Nat} {m : W64} {h : Option Extent} (hold : (ix.bucket b).old = some (e, g, m, h))
include hold

theorem State.retireGen_held (hs : ((s.snapshots i).any fun n => decide (n < m.toNat)) = true) : s.retireGen i b = s := by
  unfold State.retireGen
  simp only [hix, hold, hs, Bool.true_or, if_true]
theorem State.retireGen_goes (hs : ∀ n ∈ s.snapshots i, m.toNat ≤ n)
    (hj : (s.ret.jobs.any fun j => j.index == i && j.own.isNone && j.plan.any fun p => p.bucket == b && p.gen == g) = false) :
    let t := (s.each (e.toList ++ h.toList) fun s x => s.freeExtent ix.dim x).onIndex i fun x => ({ x with
      mud := x.mud.filter fun y => !(y.bucket == b && y.foldGen != 0 && decide (y.foldGen.toNat ≤ g + 1)),
      dir := (x.setBucket b { x.bucket b with old := none }).dir }).retireTombs
    s.retireGen i b = (t.cleanStore i).markCrowded := by
  have hheld : ((s.snapshots i).any fun n => decide (n < m.toNat)) = false := by
    simpa [List.any_eq_false] using hs
  unfold State.retireGen
  simp only [hix, hold, hheld, hj, Bool.or_self, Bool.false_eq_true, if_false]
end

section
variable {a : Activity} (ha : s.cel.acts.find? (fun a => a.kind == .replica && a.index == i && a.bucket == b && s.written a) = some a)
include ha

theorem State.replicaCommit_refused (h : bit s.ret.hotCfg.toNat 16 = false ∨ (ix.bucket b).hot.isSome = true) : s.replicaCommit i b = s.endIndexAct a := by
  unfold State.replicaCommit
  simp only [hix, ha]
  exact if_pos (by rcases h with h | h <;> simp [h])
variable {e : Extent} (hen : bit s.ret.hotCfg.toNat 16 = true) (hhot : (ix.bucket b).hot = none) (he : a.ext = some e)
include hen hhot he

theorem State.replicaCommit_room (h : (s.onCel fun c => c.dropAct a.aid).replicas < 4096) :
    s.replicaCommit i b = (s.onCel fun c => c.dropAct a.aid).onIndex i fun x => x.setBucket b { x.bucket b with hot := some e } := by
  unfold State.replicaCommit
  simp only [hix, ha, hen, hhot, he, Nat.not_le.2 h, Bool.not_true, Option.isSome_none, Bool.or_self, Bool.false_eq_true, if_false]
theorem State.replicaCommit_full {y : Nat × Nat} (h : 4096 ≤ (s.onCel fun c => c.dropAct a.aid).replicas) (hy : (s.onCel fun c => c.dropAct a.aid).coolest = some y) :
    s.replicaCommit i b = ((s.onCel fun c => c.dropAct a.aid).dropReplica y.1 y.2).onIndex i fun x => x.setBucket b { x.bucket b with hot := some e } := by
  unfold State.replicaCommit
  simp only [hix, ha, hen, hhot, he, h, hy, Bool.not_true, Option.isSome_none, Bool.or_self, Bool.false_eq_true, if_false, if_true]
end
end

/-- A new generation holds no more records than CAP, or than the old one held. -/
theorem Index.length_fold_le (ix : Index) (b : Nat) (recs : List Rec) (m : W64) : (ix.fold b recs m).1.length ≤ max ix.cap recs.length := by
  unfold Index.fold
  simp only [List.length_append, List.length_map, List.length_take]
  have hkeep := List.length_filter_le (fun r : Rec => !ix.dropped r.id r.version m (some b)) recs
  omega

/-- Settles O52. -/
theorem mergesAndGenerations : Obligations.MergesAndGenerations := by
  unfold Obligations.MergesAndGenerations
  dsimp only
  intro s index bucket ix hix
  refine ⟨fun aid a recs took full ha hk hi hb hcl hph hops hocc haid hfold => ?merge, fun a ha x hx => ?commit, fun h => ?nothing, fun e g m h hold hs => ?held,
    fun e g m h hold hs hj => ?goes, fun a ha => ⟨fun h => ?refused, fun e hen hhot he => ⟨fun h => ?room, fun y h hy => ?full⟩⟩, fun recs m => Index.length_fold_le _ _ _ _⟩
  case merge =>
    subst haid
    rw [← hb] at hfold ⊢
    have hclaim := exec_activityClaim_held ha (by unfold Activity.ofIndex; rw [hk]; rfl) hcl
    have hix' : s.index? a.index = some ix := hi ▸ hix
    exact ⟨fun h => hclaim.trans (congrArg woken (State.stepIndexAct_mergesNone hix' ha hk hcl hph hops hocc hfold h)),
      fun h hroom => hclaim.trans (congrArg woken (State.stepIndexAct_mergesSome hix' ha hk hcl hph hops hocc hfold h hroom))⟩
  case commit => exact congrArg woken (State.mergeCommit_takes hix ha hx)
  case nothing => exact congrArg woken (State.mergeCommit_none hix h)
  case held => exact congrArg woken (State.retireGen_held hix hold hs)
  case goes => exact congrArg woken (State.retireGen_goes hix hold hs hj)
  case refused => exact congrArg woken (State.replicaCommit_refused hix ha h)
  case room => exact congrArg woken (State.replicaCommit_room hix ha hen hhot he h)
  case full => exact congrArg woken (State.replicaCommit_full hix ha hen hhot he h hy)

end Sys2Proof.Machine
end

section
/-! The cellar as it goes on: flash operations, patrol, activities, erases and losses (R273 to R295). -/

namespace Sys2Proof.Machine

/-! ## Flash operations (R280, R288) -/

section
variable {s : State} {d : Nat} {r : FlashResult} {op : FlashOp}

/-- An idle die starts its next operation. -/
def State.dieStarted (s : State) (d : Nat) : State := s.onCel fun c => c.start s.ident.variant d

theorem State.flashDone_idle (h : ((s.dieStarted d).cel.die d).running = none) : s.flashDone d r = s.dieStarted d := by
  unfold State.dieStarted at h ⊢
  unfold State.flashDone
  simp only [h]
variable (h : ((s.dieStarted d).cel.die d).running = some op)
include h

theorem State.flashDone_misfit (hfit : opFits op.kind r = false) : s.flashDone d r = s.dieStarted d := by
  unfold State.dieStarted at h ⊢
  unfold State.flashDone
  simp only [h, hfit, Bool.not_false, if_true]
theorem State.flashDone_ends (hfit : opFits op.kind r = true) (hst : ∀ st e, r = .read st e → st.val ≠ 5) :
    s.flashDone d r = (((s.dieStarted d).opEnds d op r).actOn op).afterFlash := by
  unfold State.dieStarted at h ⊢
  unfold State.flashDone
  simp only [h, hfit, Bool.not_true, Bool.false_eq_true, if_false]
  cases r with
  | read st e => simp only [hst st e rfl, if_false]
  | _ => rfl
theorem State.flashDone_unreadable {st e} (hr : r = .read st e) (hfit : opFits op.kind r = true) (hst : st.val = 5) :
    s.flashDone d r = ((((s.dieStarted d).opEnds d op r).readFails op).actOn op).afterFlash := by
  subst hr
  unfold State.dieStarted at h ⊢
  unfold State.flashDone
  simp only [h, hfit, hst, Bool.not_true, Bool.false_eq_true, if_false, if_true]
end

/-- An erase that succeeded: its block is empty, its activity done, and the block counts are tested. -/
def State.erased (t : State) (d : Nat) (op : FlashOp) (aid : W32) (a : Activity) : State :=
  (t.onCel fun c => c.onDie d fun x => { x with running := none }).onCel fun c =>
    ((c.eraseBlock t.ident.variant d op.block).dropAct aid).check t.ident.variant d (a.kind == .gc)
theorem State.opEnds_erase {t : State} {d : Nat} {op : FlashOp} {aid : W32} {a : Activity} (hk : op.kind = .erase aid) (ha : t.cel.act? aid = some a) :
    t.opEnds d op (.erase true) = (((t.erased d op aid a).onCel fun c => c.prune d).actDone aid).onCel fun c => c.start t.ident.variant d := by
  have ha' : (t.onCel fun c => c.onDie d fun x => { x with running := none }).cel.act? aid = some a := ha
  have hop : opAid op = some aid := by unfold opAid; rw [hk]
  unfold State.opEnds
  simp only [hk, ha', hop, if_true]
  rfl

/-! ## Patrol, activities and erases (R280, R289, R293) -/

section
variable {s : State} {d : Nat}

theorem State.patrol_lost (h : s.cel.dieLost d = true) : s.patrol d = s := if_pos h
theorem State.patrol_reads {b p : Nat} (h : s.cel.dieLost d = false) (hn : s.cel.patrolNext d = some (b, p)) :
    s.patrol d = s.onCel fun c => (c.onDie d fun x => { x with patrolBlock := b + 1 }).queueOp s.ident.variant d { kind := .patrol, page := 0, block := b, place := p } := by
  unfold State.patrol
  simp only [h, hn, Bool.false_eq_true, if_false]

theorem exec_activityClaim {aid : W32} {a : Activity} (ha : s.cel.act? aid = some a) :
    exec (.activityClaim aid) s = .next (if a.ofIndex then s.claimIndexAct a else s.claimAct aid).woken := by
  refine (show exec (.activityClaim aid) s = execActivityClaim aid s from rfl).trans ?_
  unfold execActivityClaim
  rw [ha]
  rfl
theorem State.claimIndexAct_takes {a x : Activity} (hcl : a.claimed = false) (hmay : s.mayBegin a = true) (hx : s.chooseExtent a = some x) :
    s.claimIndexAct a =
      ((s.onCel fun c => c.takeClaims s.ident.variant x).onCel fun c => c.onAct a.aid fun y => { y with mergePoint := s.snapOf a.index }).stepIndexAct a.aid := by
  unfold State.claimIndexAct
  simp only [hcl, hmay, hx, Bool.not_true, Bool.or_self, Bool.false_eq_true, if_false]
theorem State.claimIndexAct_waits {a : Activity} (h : s.mayBegin a = false ∨ s.chooseExtent a = none) : s.claimIndexAct a = s.stepIndexAct a.aid := by
  unfold State.claimIndexAct
  split
  · rfl
  · next hgo =>
    have hmay : s.mayBegin a = true := by
      cases hm : s.mayBegin a with
      | true => rfl
      | false => exact absurd (by rw [hm, Bool.not_false, Bool.or_true]) hgo
    rw [h.resolve_left (by rw [hmay]; decide)]

variable {die : DieId} {block : W16}

theorem exec_blockErase_erases (hp : (s.cel.block s.ident.variant die.no block.toNat).pages ≠ []) (hv : (s.cel.block s.ident.variant die.no block.toNat).valid = 0)
    (hr : (s.cel.die die.no).readsOn block.toNat = 0) (hret : (s.cel.block s.ident.variant die.no block.toNat).retired = false)
    (hc : (s.cel.block s.ident.variant die.no block.toNat).claim = none) (hl : s.cel.dieLost die.no = false) :
    exec (.blockErase die block) s = .next (s.onCel fun c => c.eraseBlock s.ident.variant die.no block.toNat).woken :=
  congrArg woken (if_neg (by simp [hp, hv, hr, hret, hc, hl]))
theorem exec_blockErase_kept (h : (s.cel.block s.ident.variant die.no block.toNat).pages = [] ∨ (s.cel.block s.ident.variant die.no block.toNat).valid ≠ 0
    ∨ (s.cel.die die.no).readsOn block.toNat ≠ 0 ∨ (s.cel.block s.ident.variant die.no block.toNat).retired = true
    ∨ (s.cel.block s.ident.variant die.no block.toNat).claim ≠ none) : exec (.blockErase die block) s = .next s.woken := by
  refine congrArg woken (if_pos ?_)
  rcases h with h | h | h | h | h
  · simp [h]
  · simp [h]
  · simp [h]
  · simp [h]
  · simp [Option.isSome_iff_ne_none.2 h]
end

/-! ## Losses (R283, R287) -/

section
variable {s : State} {die ctrl chan : Nat}

theorem State.failDie_fails (h : (s.cel.die die).failed = false) : s.failDie die =
    (((s.cellarEvent 1 (die / 64) (die / 4 % 16) (die % 4) 0xFFFFFFFF 0xFFFFFFFF).onCel fun c => c.onDie die fun x => { x with failed := true, rebuilt := false }).clearDie die).onCel fun c =>
      c.nextAct { actOf .rebuild die with urgent := true } := if_neg (ne_true_of_eq_false h)
theorem State.failDie_failed (h : (s.cel.die die).failed = true) : s.failDie die = s := if_pos h
theorem State.loseCtrl_loses (h : (s.cel.lostCtrl[ctrl]?).getD false = false) : s.loseCtrl ctrl =
    (((s.cellarEvent 4 ctrl 0xFF 0xFF 0xFFFFFFFF 0xFFFFFFFF).setDom (49 + ctrl) .off).onCel fun c => { c with lostCtrl := setAt c.lostCtrl ctrl true }).each (List.range 64)
      fun s i => s.clearDie (64 * ctrl + i) := if_neg (ne_true_of_eq_false h)
theorem State.loseCtrl_lost (h : (s.cel.lostCtrl[ctrl]?).getD false = true) : s.loseCtrl ctrl = s := if_pos h

/-- A channel is lost: recorded, its dies cleared. -/
def State.channelGone (s : State) (ctrl chan : Nat) : State :=
  ((s.cellarEvent 3 ctrl chan 0xFF 0xFFFFFFFF 0xFFFFFFFF).onCel fun c => { c with lostChan := KMap.set c.lostChan (16 * ctrl + chan) true }).each (List.range 4)
    fun s i => s.clearDie (dieNo ctrl chan i)
theorem State.loseChannel_loses (h : KMap.has s.cel.lostChan (16 * ctrl + chan) = false) : s.loseChannel ctrl chan =
    if 16 ≤ ((s.channelGone ctrl chan).cel.lostChan.filter fun x => x.1 / 16 == ctrl).length then (s.channelGone ctrl chan).loseCtrl ctrl else s.channelGone ctrl chan :=
  if_neg (ne_true_of_eq_false h)
end

/-- Settles O54. -/
theorem cellarGoesOn : Obligations.CellarGoesOn := by
  unfold Obligations.CellarGoesOn
  dsimp only
  intro s die ctrl
  refine ⟨fun h r => ?idle, fun op r h => ⟨fun hfit => ?misfit, fun hfit hst => ?ends, fun st e hr hfit hst => ?unreadable⟩, fun op aid a h hk ha => ?erase,
    fun b p h hn => ?patrol, fun h => ?patrolLost, fun aid a ha => ?claim, fun block => ⟨exec_blockErase_erases, exec_blockErase_kept⟩,
    fun h => ?dieFails, fun h => ?dieFailed, fun h => ?ctrlLoses, fun h => ?ctrlLost, fun chan h => ?chan⟩
  case idle => exact congrArg woken (State.flashDone_idle h)
  case misfit => exact congrArg woken (State.flashDone_misfit h hfit)
  case ends => exact congrArg woken (State.flashDone_ends h hfit hst)
  case unreadable => exact congrArg woken (State.flashDone_unreadable h hr hfit hst)
  case erase =>
    have hends := State.flashDone_ends (r := .erase true) h (by rw [hk]; rfl) (fun _ _ => nofun)
    exact congrArg woken (hends.trans (congrArg (fun u : State => (u.actOn op).afterFlash) (State.opEnds_erase hk ha)))
  case patrol => exact congrArg woken (State.patrol_reads h hn)
  case patrolLost => exact congrArg woken (State.patrol_lost h)
  case claim =>
    have hclaim := exec_activityClaim ha
    refine ⟨fun hof => hclaim.trans (congrArg woken (if_neg (ne_true_of_eq_false hof))), fun hof hcl => ?_⟩
    rw [hof] at hclaim
    exact ⟨fun x hmay hx => hclaim.trans (congrArg woken (State.claimIndexAct_takes hcl hmay hx)), fun h => hclaim.trans (congrArg woken (State.claimIndexAct_waits h))⟩
  case dieFails => exact congrArg (fun t => woken (State.afterFlash t)) (State.failDie_fails h)
  case dieFailed => exact congrArg (fun t => woken (State.afterFlash t)) (State.failDie_failed h)
  case ctrlLoses => exact congrArg (fun t => woken (State.afterFlash t)) (State.loseCtrl_loses h)
  case ctrlLost => exact congrArg (fun t => woken (State.afterFlash t)) (State.loseCtrl_lost h)
  case chan =>
    have hlost := State.loseChannel_loses h
    exact ⟨fun hn => congrArg (fun t => woken (State.afterFlash t)) (hlost.trans (if_neg (Nat.not_le.2 hn))),
      fun hn => congrArg (fun t => woken (State.afterFlash t)) (hlost.trans (if_pos hn))⟩

end Sys2Proof.Machine
end

section
/-! Faults by class (Tables 15.1, 15.2 and 15.4, R358 to R368). -/

namespace Sys2Proof.Machine

section
variable {s : State} {f : FaultReport}

/-- Is the parity of a report's stack spent, or being spent? -/
def State.paritySpent (s : State) (f : FaultReport) : Bool := s.ras.hbmSpent.getLsbD (f.inst.toNat / 16) || s.ras.hbmRebuild.getLsbD (f.inst.toNat / 16)

/-! ## Class 0 -/

/-- A corrected fault is recorded and counted. -/
def State.corrected (s : State) (f : FaultReport) : State :=
  (s.faultRec f.unit.code f.mech.val f.unitInst f.addr.toNat 0 none [] 0).onRas fun r => { r with corrected := satAdd 64 r.corrected 1 }

theorem exec_faultCorrected_other (h : s.corrects f = false) : exec (.faultCorrected f) s = .next s.woken :=
  congrArg woken (if_pos (by rw [h]; rfl))
theorem exec_faultCorrected (h : s.corrects f = true) : exec (.faultCorrected f) s = .next ((match f.unit with
    | .hbm => if f.lost then ((s.corrected f).loseHbmChannel f.inst.toNat).1 else s.corrected f
    | .attic => (s.corrected f).lineError f.inst.toNat f.addr.toNat
    | _ => s.corrected f)).woken := by
  refine (show exec (.faultCorrected f) s = execFaultCorrected f s from rfl).trans ?_
  unfold execFaultCorrected
  rw [h]
  rfl
theorem exec_faultCorrected_plain (h : s.corrects f = true) (hh : f.unit ≠ .hbm) (ha : f.unit ≠ .attic) : exec (.faultCorrected f) s = .next (s.corrected f).woken := by
  rw [exec_faultCorrected h]
  split
  · next hu => exact absurd hu hh
  · next hu => exact absurd hu ha
  · rfl

theorem exec_faultCorrected_hbm (h : s.corrects f = true) (hu : f.unit = .hbm) :
    exec (.faultCorrected f) s = .next (if f.lost then ((s.corrected f).loseHbmChannel f.inst.toNat).1 else s.corrected f).woken := by
  simp only [exec_faultCorrected h, hu]
theorem exec_faultCorrected_attic (h : s.corrects f = true) (hu : f.unit = .attic) :
    exec (.faultCorrected f) s = .next ((s.corrected f).lineError f.inst.toNat f.addr.toNat).woken := by
  simp only [exec_faultCorrected h, hu]

/-! ## Class 1 -/

/-- The record of a partition whose step a class 1 fault hits. -/
def State.stepFault (s : State) (f : FaultReport) (p : Option Nat) (slots : List Nat) : State := s.faultRec f.unit.code f.mech.val f.unitInst f.addr.toNat 1 p slots 0

theorem exec_faultStep_other (h : stepClass f.unit = false) : exec (.faultStep f) s = .next s.woken :=
  congrArg woken (if_pos (by rw [h]; rfl))
theorem exec_faultStep_hits {p : Nat} {ps : List Nat} (h : stepClass f.unit = true) (hp : s.hitParts f = p :: ps) (hk : f.unit ≠ .textEngine ∨ f.lost = true) :
    let v := (s.each (p :: ps) fun s p => s.stepFault f (some p) (s.stepSlots p)).each (p :: ps) fun s p => s.abandonStep p
    exec (.faultStep f) s = .next (((v.fenceUnit f).each (p :: ps) fun s p => s.dueMoves (s.part p).cores).settle).woken := by
  have hkeep : (f.unit == .textEngine && !f.lost) = false := by
    rcases hk with hk | hk <;> simp [hk]
  refine (show exec (.faultStep f) s = execFaultStep f s from rfl).trans ?_
  unfold execFaultStep
  simp only [h, hp, hkeep, List.isEmpty_cons, Bool.not_true, Bool.false_eq_true, if_false]
  rfl
theorem exec_faultStep_repeats {p : Nat} {ps : List Nat} (hp : s.hitParts f = p :: ps) (hu : f.unit = .textEngine) (hl : f.lost = false) :
    exec (.faultStep f) s = .next (((s.each (p :: ps) fun s p => s.stepFault f (some p) []).each (p :: ps) fun s p => s.dueMoves (s.part p).cores).settle).woken := by
  refine (show exec (.faultStep f) s = execFaultStep f s from rfl).trans ?_
  unfold execFaultStep State.fenceUnit State.stepFault
  simp only [hp, hu, hl, List.isEmpty_cons, Bool.false_eq_true, if_false]
  rfl
theorem exec_faultStep_noPart (h : stepClass f.unit = true) (hp : s.hitParts f = []) :
    exec (.faultStep f) s = .next (((s.stepFault f none []).fenceUnit f).settle).woken := by
  refine (show exec (.faultStep f) s = execFaultStep f s from rfl).trans ?_
  unfold execFaultStep
  simp only [h, hp, List.isEmpty_nil, Bool.not_true, Bool.false_eq_true, if_true, if_false]
  split <;> rfl

theorem State.fenceUnit_engine (hu : f.unit = .engine) :
    let hits := KMap.getD (s.core f.core.val).residue (128 * f.engine.val + f.line.toNat) 0 + 1
    let w := s.onCore f.core.val fun k => { k with residue := KMap.set k.residue (128 * f.engine.val + f.line.toNat) hits }
    s.fenceUnit f = if hits = 3 then w.engineLineFails (4 * f.core.val + f.engine.val) true f.line.toNat 1 else w := by
  unfold State.fenceUnit
  rw [hu]
theorem State.fenceUnit_sram (hu : f.unit = .sram) :
    let errs := KMap.getD (s.core f.core.val).bankErr f.bank.toNat 0 + 1
    let w := s.onCore f.core.val fun k => { k with bankErr := KMap.set k.bankErr f.bank.toNat errs }
    s.fenceUnit f = if errs = 2 then w.retireNow f.core.val else w := by
  unfold State.fenceUnit
  rw [hu]
theorem State.fenceUnit_sequencer (hu : f.unit = .sequencer) :
    let w := s.onCore f.core.val fun k => { k with dogs := k.dogs + 1 }
    s.fenceUnit f = if (s.core f.core.val).dogs + 1 = 2 then w.retireNow f.core.val else w := by
  unfold State.fenceUnit
  rw [hu]
theorem State.fenceUnit_other (he : f.unit ≠ .engine) (hs : f.unit ≠ .sram) (hq : f.unit ≠ .sequencer) : s.fenceUnit f = s := by
  unfold State.fenceUnit
  split
  · next hu => exact absurd hu he
  · next hu => exact absurd hu hs
  · next hu => exact absurd hu hq
  · rfl

/-! ## Class 2 -/

/-- The record of a report of class 2, 3 or 4. -/
def State.instFault (s : State) (f : FaultReport) (cls : Nat) (p : Option Nat) (slots : List Nat) : State :=
  s.faultRec f.unit.code f.mech.val f.inst.toNat f.addr.toNat cls p slots 0
/-- Is the report one of a line whose content is lost: of the attic, or of a stack whose parity is spent? -/
def State.losesLines (s : State) (f : FaultReport) : Bool :=
  match f.unit with
  | .hbm => s.paritySpent f
  | .attic => true
  | _ => false

theorem State.losesLines_iff : s.losesLines f = true ↔ f.unit = .attic ∨ (f.unit = .hbm ∧ s.paritySpent f = true) := by
  unfold State.losesLines
  cases f.unit <;> simp
theorem exec_faultPage_kept (h : s.losesLines f = false) : exec (.faultPage f) s = .next s.woken :=
  congrArg woken (if_pos (show (!s.losesLines f) = true by rw [h]; rfl))
theorem exec_faultPage_loses (h : s.losesLines f = true) :
    let v := s.instFault f 2 (match f.region with | .kvPage => (s.frameOf f).map fun x => x.1 | _ => none) (s.pageSlots f)
    exec (.faultPage f) s = .next (((if f.unit = .attic then v.remapLine f.inst.toNat (v.lineOf f / 4096 * 4096) else v).loseContent f).settle).woken := by
  intro v
  have hif : (if f.unit == .attic then v.remapLine f.inst.toNat (v.lineOf f / 4096 * 4096) else v)
      = if f.unit = .attic then v.remapLine f.inst.toNat (v.lineOf f / 4096 * 4096) else v := by simp only [beq_iff_eq]
  rw [← hif]
  exact congrArg woken (if_neg (show ¬(!s.losesLines f) = true by rw [h]; decide))

/-! ## Class 3 -/

theorem exec_faultFront_merge (hu : f.unit = .mergeUnit) :
    exec (.faultFront f) s = .next (((s.instFault f 3 none [f.slot.val]).repeatFront f.slot.val).settle).woken := by
  refine (show exec (.faultFront f) s = execFaultFront f s from rfl).trans ?_
  unfold execFaultFront State.instFault
  simp only [hu]
  rfl
theorem exec_faultFront_scan (hu : f.unit = .scanUnit) :
    exec (.faultFront f) s = .next (((s.instFault f 3 none [f.slot.val]).onRet fun r =>
      { r with jobs := r.jobs.map fun j => if j.slot == some f.slot.val then j.unitFails (f.inst.toNat % 128) else j }).onReq f.slot.val
        fun r => if r.running then { r with replayed := true } else r).woken := by
  refine (show exec (.faultFront f) s = execFaultFront f s from rfl).trans ?_
  unfold execFaultFront State.instFault
  simp only [hu]
  rfl
theorem exec_faultFront_other (hm : f.unit ≠ .mergeUnit) (hs : f.unit ≠ .scanUnit) : exec (.faultFront f) s = .next s.woken := by
  refine (show exec (.faultFront f) s = execFaultFront f s from rfl).trans (congrArg woken ?_)
  split
  · next hu => exact absurd hu hm
  · next hu => exact absurd hu hs
  · rfl

/-! ## Class 4 -/

/-- A fault beyond sparing is recorded, and the stack that is lost is kept. -/
def State.beyondFault (s : State) (f : FaultReport) : State :=
  (s.instFault f 4 none (s.beyondSlots f)).onRas fun r =>
    { r with beyond := true, hbmLost := if f.unit == .hbm && f.inst.toNat / 16 < 6 then r.hbmLost ||| BitVec.ofNat 6 (2 ^ (f.inst.toNat / 16)) else r.hbmLost }

/-- Is the report one of a loss beyond what sparing mends? -/
def State.beyondSparing (s : State) (f : FaultReport) : Bool :=
  match f.unit with
  | .hbm => f.lost && s.paritySpent f
  | .attic => f.lost
  | _ => false

theorem State.beyondSparing_iff : s.beyondSparing f = true ↔ f.lost = true ∧ (f.unit = .attic ∨ (f.unit = .hbm ∧ s.paritySpent f = true)) := by
  unfold State.beyondSparing
  cases f.unit <;> simp
theorem exec_faultBeyondSparing_kept (h : s.beyondSparing f = false) : exec (.faultBeyondSparing f) s = .next s.woken :=
  congrArg woken (if_pos (show (!s.beyondSparing f) = true by rw [h]; rfl))
theorem exec_faultBeyondSparing (h : s.beyondSparing f = true) : exec (.faultBeyondSparing f) s = .next (
      let v := s.beyondFault f
      let w := if f.region == .replayCopy then v else v.each (KMap.keys v.sch.parts) fun s p => if f.parts.getLsbD p then s.abandonStep p else s
      (if w.sch.evac.isSome && f.region != .replayCopy then w else w.each (s.beyondSlots f) fun s n => s.endReq n stDevice 0).settle).woken :=
  congrArg woken (if_neg (show ¬(!s.beyondSparing f) = true by rw [h]; decide))

variable (h : s.beyondSparing f = true)
include h

/-- What a loss beyond sparing stops: the steps of the partitions hit. -/
def State.beyondStops (s : State) (f : FaultReport) : State :=
  (s.beyondFault f).each (KMap.keys (s.beyondFault f).sch.parts) fun s p => if f.parts.getLsbD p then s.abandonStep p else s
theorem exec_faultBeyondSparing_ends (hr : f.region ≠ .replayCopy) (he : (s.beyondStops f).sch.evac = none) :
    exec (.faultBeyondSparing f) s = .next (((s.beyondStops f).each (s.beyondSlots f) fun s n => s.endReq n stDevice 0).settle).woken := by
  unfold State.beyondStops at he ⊢
  rw [exec_faultBeyondSparing h]
  simp only [beq_eq_false_iff_ne.2 hr, he, Option.isSome_none, Bool.false_and, Bool.false_eq_true, if_false]
theorem exec_faultBeyondSparing_migrates (hr : f.region ≠ .replayCopy) (he : (s.beyondStops f).sch.evac.isSome = true) :
    exec (.faultBeyondSparing f) s = .next ((s.beyondStops f).settle).woken := by
  unfold State.beyondStops at he ⊢
  rw [exec_faultBeyondSparing h]
  simp only [beq_eq_false_iff_ne.2 hr, bne, he, Bool.not_false, Bool.and_self, Bool.false_eq_true, if_false, if_true]
theorem exec_faultBeyondSparing_record (hr : f.region = .replayCopy) :
    exec (.faultBeyondSparing f) s = .next (((s.beyondFault f).endReq f.slot.val stDevice 0).settle).woken := by
  have hslots : s.beyondSlots f = [f.slot.val] := by unfold State.beyondSlots; rw [hr]
  rw [exec_faultBeyondSparing h, hslots, hr]
  simp only [beq_self_eq_true, bne_self_eq_false, Bool.and_false, Bool.false_eq_true, if_true, if_false]
  rfl
end

/-- Settles O55. -/
theorem faultsByClass : Obligations.FaultsByClass := by
  unfold Obligations.FaultsByClass
  dsimp only
  intro s f
  refine ⟨exec_faultCorrected_other, fun h => ⟨exec_faultCorrected_plain h, exec_faultCorrected_hbm h, exec_faultCorrected_attic h⟩, exec_faultStep_other, fun p ps h hp hk => exec_faultStep_hits h hp hk,
    fun p ps hp hu hl => exec_faultStep_repeats hp hu hl, exec_faultStep_noPart, fun v => ⟨State.fenceUnit_engine, State.fenceUnit_sram, State.fenceUnit_sequencer, State.fenceUnit_other⟩,
    fun h => exec_faultPage_loses (State.losesLines_iff.2 h), fun ha hh => ?pageOther, fun hh hs => ?pageSpare, exec_faultFront_merge, exec_faultFront_scan, exec_faultFront_other,
    fun hl hu hr => ?beyond, fun hl hu hr => ?copy, fun h => ?mended, fun stack => rfl⟩
  case pageOther =>
    refine exec_faultPage_kept (Bool.eq_false_iff.2 fun h => ?_)
    rcases State.losesLines_iff.1 h with h | ⟨h, -⟩
    · exact ha h
    · exact hh h
  case pageSpare =>
    refine exec_faultPage_kept (Bool.eq_false_iff.2 fun h => ?_)
    rcases State.losesLines_iff.1 h with h | ⟨-, h⟩
    · exact absurd (hh.symm.trans h) (by decide)
    · exact Bool.false_ne_true (hs.symm.trans h)
  case beyond =>
    have hb := State.beyondSparing_iff.2 ⟨hl, hu⟩
    exact ⟨exec_faultBeyondSparing_ends hb hr, exec_faultBeyondSparing_migrates hb hr⟩
  case copy =>
    have hslots : s.beyondSlots f = [f.slot.val] := by unfold State.beyondSlots; rw [hr]
    rw [← hslots]
    exact exec_faultBeyondSparing_record (State.beyondSparing_iff.2 ⟨hl, hu⟩) hr
  case mended =>
    refine exec_faultBeyondSparing_kept (Bool.eq_false_iff.2 fun hb => ?_)
    obtain ⟨hl, hu⟩ := State.beyondSparing_iff.1 hb
    rcases h with h | ⟨ha, hh⟩
    · exact Bool.false_ne_true (h.symm.trans hl)
    · rcases hu with hu | ⟨hu, hs⟩
      · exact ha hu
      · exact Bool.false_ne_true ((hh hu).symm.trans hs)

end Sys2Proof.Machine
end

section
/-! Links, flits, forwarding, addresses, routes and retries (R329 to R342, R351). -/

namespace Sys2Proof.Machine

/-! ## Ports and lanes (R329, R333, R336) -/

section
variable {s : State} {p : Nat} {peer : W16} {serial : W64} {digest : BitVec 128}

theorem State.linkUp_notReady (h : s.portReady p = false) : s.linkUp p peer serial = s := if_pos (by rw [h]; rfl)
theorem State.linkUp_clash (h : s.portReady p = true) (hv : s.fab.valid = true) (hp : peer = s.fab.addr) :
    s.linkUp p peer serial = if serial.toNat < s.ident.serial.toNat then s.fabricEvent 4 p 0xFF peer serial 0 else s := by
  unfold State.linkUp
  simp only [h, hv, hp, beq_self_eq_true, Bool.and_self, Bool.not_true, Bool.false_eq_true, if_true, if_false]
theorem State.linkUp_exchanges (h : s.portReady p = true) (hp : s.fab.valid = false ∨ peer ≠ s.fab.addr)
    (hroom : s.fab.routes.length < 4095 ∨ KMap.has s.fab.routes peer.toNat = true) :
    s.linkUp p peer serial = (({ s with freeCtr := s.freeCtr + 1 } : State).onPort p fun x =>
      { x with up := true, auth := false, authFail := x.authFail, peer := peer, serial := serial, half := s.fab.goodLanes p == 1 }).sendPort p
        (.certs (BitVec.ofNat 256 (Config.freeNat s.freeCtr))) := by
  have hclash : (s.fab.valid && peer == s.fab.addr) = false := by
    rcases hp with hp | hp <;> simp [hp]
  have hfull : (decide (4095 ≤ s.fab.routes.length) && !KMap.has s.fab.routes peer.toNat) = false := by
    rcases hroom with hr | hr
    · simp [Nat.not_le.2 hr]
    · simp [hr]
  unfold State.linkUp
  simp only [h, hclash, hfull, Bool.not_true, Bool.false_eq_true, if_false]
  rfl

section
variable (hup : (s.port p).up = true) (hauth : (s.port p).auth = false)
include hup hauth

theorem State.authDone_ok :
    let v := ((s.onPort p fun x => { x with auth := true }).onFab fun f => f.learn p (s.port p).peer { dest := (s.port p).peer, hops := 0 }).advertise
    s.authDone p true digest = if s.fab.probing then v.sendPort p (.probe v.fab.addr v.ident.serial) else v := by
  unfold State.authDone
  simp only [hup, hauth, Bool.not_true, Bool.or_self, Bool.false_eq_true, if_true, if_false]
  rfl
theorem State.authDone_fails :
    s.authDone p false digest = (s.onPort p fun x => { x with up := false, authFail := true }).fabricEvent 3 p 0xFF (s.port p).peer (s.port p).serial digest := by
  unfold State.authDone
  simp only [hup, hauth, Bool.not_true, Bool.or_self, Bool.false_eq_true, if_false]
end

theorem State.failLane_again {l : Nat} (h : s.fab.laneFailed.getLsbD l = true) : s.failLane l = (s, false) := if_pos h
theorem exec_laneFail_lostLock (lane : Fin 18) (s : State) : exec (.laneFail lane .lostLock) s = .next (s.failLane lane.val).1.woken := rfl
theorem exec_laneFail_again {lane : Fin 18} (h : s.fab.laneFailed.getLsbD lane.val = true) : exec (.laneFail lane .lostLock) s = .next s.woken := by
  rw [exec_laneFail_lostLock, State.failLane_again h]
theorem exec_laneFail_eighthSend {lane : Fin 18} (h : portOfLane lane.val = some p) : exec (.laneFail lane .eighthSend) s = .next ((s.failLane lane.val).1.retrain p).woken := by
  refine (show exec (.laneFail lane .eighthSend) s = execLaneFail lane .eighthSend s from rfl).trans ?_
  unfold execLaneFail
  rw [h]
  rfl
end

/-! ## Flits (R331, R332, R334) -/

section
variable {s : State} {p : Nat} {b : Bytes}

/-- A flit's acknowledgement and credits are taken in. -/
def State.flitAcked (s : State) (p : Nat) (b : Bytes) : State :=
  s.onPort p fun x => { x with replay := ackReplay x.replay (flitHead b).ack, credits := modAt x.credits (flitHead b).cvc (· + (flitHead b).credits) }
/-- A data flit in order is accepted into its receive buffer. -/
def State.flitHeld (s : State) (p : Nat) (b : Bytes) : State :=
  ((s.flitAcked p b).onPort p fun x => { x with rxSeq := BitVec.ofNat 12 (flitHead b).seq }).onPort p fun x => { x with rxHeld := modAt x.rxHeld (flitHead b).vc (· + 1) }

theorem State.flitIn_down (h : (s.port p).up = false) : s.flitIn p b = s := if_pos (by rw [h]; rfl)
variable (hup : (s.port p).up = true)
include hup

theorem State.flitIn_bad (h : flitOk b = false) : s.flitIn p b = s.sendPort p (.nak (s.port p).rxSeq) := by
  unfold State.flitIn
  simp only [hup, h, Bool.not_true, Bool.not_false, Bool.false_eq_true, if_true, if_false]
variable (hok : flitOk b = true)
include hok

theorem State.flitIn_control (h : (flitHead b).kind ≠ 1 ∨ (s.port p).auth = false) : s.flitIn p b = (s.flitAcked p b).forward := by
  have hc : ((flitHead b).kind ≠ 1 || !(s.port p).auth) = true := by rcases h with h | h <;> simp [h]
  unfold State.flitIn
  simp only [hup, hok, hc, Bool.not_true, Bool.false_eq_true, if_true, if_false]
  rfl
variable (hkind : (flitHead b).kind = 1) (hauth : (s.port p).auth = true)
include hkind hauth

theorem State.flitIn_gap (h : (flitHead b).seq ≠ ((s.port p).rxSeq.toNat + 1) % 4096) :
    s.flitIn p b = ((s.flitAcked p b).sendPort p (.nak (s.port p).rxSeq)).forward := by
  unfold State.flitIn
  simp only [hup, hok, hkind, hauth, h, ne_eq, not_true_eq_false, not_false_eq_true, decide_false, Bool.not_true, Bool.or_self, Bool.false_eq_true, if_true, if_false]
  rfl
theorem State.flitIn_takes (h : (flitHead b).seq = ((s.port p).rxSeq.toNat + 1) % 4096) :
    s.flitIn p b = (((s.flitAcked p b).onPort p fun x => { x with rxSeq := BitVec.ofNat 12 (flitHead b).seq }).takeFlit p (flitHead b) (slice b 8 244)).forward := by
  unfold State.flitIn
  simp only [hup, hok, hkind, hauth, ne_eq, not_true_eq_false, decide_false, Bool.not_true, Bool.or_self, Bool.false_eq_true, if_false, not_not.2 h]
  rfl
end

section
variable {s : State} {p : Nat} {b : Bytes}

/-- Where a packet of this header goes, by its DEST and HOPS. -/
theorem State.packetToward_eq (s : State) (d : Bytes) : s.packetToward d =
    if packetDest d = 0 ∨ packetDest d = 0xFFFF ∨ (s.fab.valid = true ∧ packetDest d = s.fab.addr) then .here else if packetHops d ≤ 1 then .gone else .waiting := by
  unfold State.packetToward
  simp only [Bool.or_eq_true, decide_eq_true_eq, Bool.and_eq_true, beq_iff_eq, or_assoc]

/-- The packet that a first flit begins. -/
def State.packetBegun (s : State) (p : Nat) (b : Bytes) : Transit :=
  let h := flitHead b
  let d := slice b 8 244
  let way := if packetDest d = 0 ∨ packetDest d = 0xFFFF ∨ (s.fab.valid = true ∧ packetDest d = s.fab.addr) then Toward.here else if packetHops d ≤ 1 then .gone else .waiting
  { port := p, vc := h.vc, dest := packetDest d, toward := way, total := packetFlits d, flits := [(true, h.last, if way = .waiting then hopLess d else d)], whole := h.last }
/-- Is a packet of this port and virtual channel still to be completed? -/
def Transit.joins (p vc : Nat) (t : Transit) : Bool := t.port == p && t.vc == vc && !t.whole

section
variable (hup : (s.port p).up = true) (hok : flitOk b = true) (hkind : (flitHead b).kind = 1) (hauth : (s.port p).auth = true)
  (hseq : (flitHead b).seq = ((s.port p).rxSeq.toNat + 1) % 4096)
include hup hok hkind hauth hseq

theorem State.flitIn_first (hf : (flitHead b).first = true) :
    s.flitIn p b = ((s.flitHeld p b).onFab fun f => { f with transit := f.transit ++ [s.packetBegun p b] }).forward := by
  rw [State.flitIn_takes hup hok hkind hauth hseq]
  unfold State.takeFlit
  simp only [hf, if_true, State.packetToward_eq]
  rfl
theorem State.flitIn_joins {n : Nat} (hf : (flitHead b).first = false) (hn : indexOf (Transit.joins p (flitHead b).vc) s.fab.transit = some n) :
    s.flitIn p b = ((s.flitHeld p b).onFab fun f =>
      { f with transit := modAt f.transit n fun t => { t with flits := t.flits ++ [(false, (flitHead b).last, slice b 8 244)], whole := (flitHead b).last } }).forward := by
  have hn' : indexOf (fun t : Transit => t.port == p && t.vc == (flitHead b).vc && !t.whole) (s.flitHeld p b).fab.transit = some n := hn
  rw [State.flitIn_takes hup hok hkind hauth hseq]
  unfold State.flitHeld at hn'
  unfold State.takeFlit
  simp only [hf, hn', Bool.false_eq_true, if_false]
  rfl
theorem State.flitIn_stray (hf : (flitHead b).first = false) (hn : indexOf (Transit.joins p (flitHead b).vc) s.fab.transit = none) :
    s.flitIn p b = ((s.flitHeld p b).freeFlits p (flitHead b).vc 1).forward := by
  have hn' : indexOf (fun t : Transit => t.port == p && t.vc == (flitHead b).vc && !t.whole) (s.flitHeld p b).fab.transit = none := hn
  rw [State.flitIn_takes hup hok hkind hauth hseq]
  unfold State.flitHeld at hn'
  unfold State.takeFlit
  simp only [hf, hn', Bool.false_eq_true, if_false]
  rfl
end
end

/-! ## Forwarding (R338) -/

section
variable {s : State} {n : Nat} {t : Transit} (ht : s.fab.transit[n]? = some t) (hw : t.toward = .waiting)
include ht hw

theorem State.forwardOne_noRoute (hr : KMap.get? s.fab.routes t.dest.toNat = none) :
    s.forwardOne n = (s.setTransit n { t with toward := .gone, flits := t.flits.drop t.flits.length }).freeFlits t.port t.vc t.flits.length := by
  unfold State.forwardOne
  simp only [ht, hw, hr, ne_eq, not_true_eq_false, if_false]
  rfl

/-- May a packet start over a port: open, with room to resend, credits for all of it and no other packet on its way on the channel? -/
def State.packetGoes (s : State) (t : Transit) (q : Nat) : Prop :=
  let y := s.port q
  y.up = true ∧ y.auth = true ∧ y.retraining = false ∧ y.replay.length < 512 ∧ t.total ≤ (y.credits[t.vc]?).getD 0 ∧ ∀ u ∈ s.fab.transit, u.toward = .over q → u.vc ≠ t.vc
omit ht hw in
theorem Port.room_pos {y : Port} : 0 < y.room ↔ y.up = true ∧ y.auth = true ∧ y.retraining = false ∧ y.replay.length < 512 := by
  unfold Port.room
  split
  · next h =>
    simp only [Bool.and_eq_true, Bool.not_eq_true'] at h
    obtain ⟨⟨hup, hauth⟩, hre⟩ := h
    simp only [hup, hauth, hre, true_and]
    omega
  · next h =>
    simp only [Bool.and_eq_true, Bool.not_eq_true'] at h
    refine ⟨fun h0 => absurd h0 (lt_irrefl 0), fun ⟨hup, hauth, hre, _⟩ => absurd ⟨⟨hup, hauth⟩, hre⟩ h⟩
omit ht hw in
theorem State.packetGoes_iff (s : State) (t : Transit) (q : Nat) : s.packetGoes t q ↔
    (0 < (s.port q).room && decide (t.total ≤ ((s.port q).credits[t.vc]?).getD 0) && !(s.fab.transit.any fun u => u.toward == .over q && u.vc == t.vc)) = true := by
  unfold State.packetGoes
  simp only [Bool.and_eq_true, decide_eq_true_eq, Port.room_pos, Bool.not_eq_true', List.any_eq_false, beq_iff_eq, not_and, and_assoc, ne_eq]

variable {r : Route} (hr : KMap.get? s.fab.routes t.dest.toNat = some r)
include hr

theorem State.forwardOne_goes (h : s.packetGoes t r.port) :
    let k := min t.flits.length (512 - (s.port r.port).replay.length)
    s.forwardOne n = ((s.setTransit n { t with toward := .over r.port, flits := t.flits.drop k }).each (t.flits.take k) fun s f => s.sendFlit r.port t.vc f).freeFlits t.port t.vc k := by
  have hroom : (s.port r.port).room = 512 - (s.port r.port).replay.length := by
    obtain ⟨hup, hauth, hre, -⟩ := h
    unfold Port.room
    rw [hup, hauth, hre]
    rfl
  have hgo := (State.packetGoes_iff s t r.port).1 h
  rw [hroom] at hgo
  unfold State.forwardOne State.drainTransit
  simp only [ht, hw, hr, ne_eq, not_true_eq_false, if_false, hroom, hgo, if_true]
theorem State.forwardOne_stays (h : ¬ s.packetGoes t r.port) : s.forwardOne n = s := by
  unfold State.forwardOne
  simp only [ht, hw, hr, ne_eq, not_true_eq_false, if_false]
  exact if_neg (mt (State.packetGoes_iff s t r.port).2 h)
end

section
variable {s : State} {p : Nat} {ack : BitVec 12}

/-- The flits up to an acknowledged SEQ leave the replay buffer. -/
def State.replayAcked (s : State) (p : Nat) (ack : BitVec 12) : State := s.onPort p fun x => { x with replay := ackReplay x.replay ack.toNat }

theorem State.nakIn_down (h : (s.port p).up = false) : s.nakIn p ack = s := if_pos (by rw [h]; rfl)
theorem State.nakIn_resends (hup : (s.port p).up = true) (h : ∀ f ∈ ((s.replayAcked p ack).port p).replay, f.2.1 < 7) :
    s.nakIn p ack = ((s.replayAcked p ack).resend p).forward := by
  have hnone : ((s.replayAcked p ack).port p).replay.find? (fun f => decide (7 ≤ f.2.1)) = none :=
    List.find?_eq_none.2 fun f hf => by simp [h f hf]
  unfold State.replayAcked at hnone ⊢
  unfold State.nakIn
  simp only [hup, hnone, Bool.not_true, Bool.false_eq_true, if_false]
theorem State.nakIn_eighth {f : BitVec 12 × Nat × Bytes} (hup : (s.port p).up = true) (h : ((s.replayAcked p ack).port p).replay.find? (fun f => decide (7 ≤ f.2.1)) = some f) :
    let v := s.replayAcked p ack
    let lane := ((lanesOf p)[if (v.port p).half then (indexOf v.fab.laneGood (lanesOf p)).getD 0 else f.1.toNat % 2]?).getD 0
    s.nakIn p ack = (v.failLane lane).1.retrain p := by
  unfold State.replayAcked at h ⊢
  unfold State.nakIn
  simp only [hup, h, Bool.not_true, Bool.false_eq_true, if_false]

/-! ## Addresses (R335, R336) -/

section
variable {cand : W16} {serial : W64} (hup : (s.port p).up = true) (hauth : (s.port p).auth = true)
include hup hauth

theorem State.probeIn_open : s.probeIn p cand serial =
    let v := s.floodExcept p (.probe cand serial)
    if v.fab.valid && v.fab.addr == cand then v.sendPort p (.probeAnswer cand)
    else if v.fab.probing && v.fab.addr == cand && serial.toNat < v.ident.serial.toNat then v.probe false
    else v := if_neg (by rw [hup, hauth]; decide)
theorem State.probeIn_held (hv : (s.floodExcept p (.probe cand serial)).fab.valid = true) (ha : (s.floodExcept p (.probe cand serial)).fab.addr = cand) :
    s.probeIn p cand serial = (s.floodExcept p (.probe cand serial)).sendPort p (.probeAnswer cand) := by
  rw [State.probeIn_open hup hauth]
  exact if_pos (by simp [hv, ha])
theorem State.probeIn_contested (hv : (s.floodExcept p (.probe cand serial)).fab.valid = false) (hp : (s.floodExcept p (.probe cand serial)).fab.probing = true)
    (ha : (s.floodExcept p (.probe cand serial)).fab.addr = cand) (hs : serial.toNat < (s.floodExcept p (.probe cand serial)).ident.serial.toNat) :
    s.probeIn p cand serial = (s.floodExcept p (.probe cand serial)).probe false := by
  rw [State.probeIn_open hup hauth]
  exact (if_neg (by simp [hv])).trans (if_pos (by simp [hp, ha, hs]))
theorem State.probeIn_other (ha : (s.floodExcept p (.probe cand serial)).fab.addr ≠ cand) : s.probeIn p cand serial = s.floodExcept p (.probe cand serial) := by
  rw [State.probeIn_open hup hauth]
  exact (if_neg (by simp [ha])).trans (if_neg (by simp [ha]))
end

/-! ## Routing and retries (R337, R339, R342, R351) -/

theorem State.routesIn_open {routes : List RouteAdv} {groups : List GroupAdv} (hup : (s.port p).up = true) (hauth : (s.port p).auth = true) :
    let x := s.port p
    let v := s.onFab fun f =>
      let f := (({ dest := x.peer, hops := 0 } : RouteAdv) :: routes).foldl (fun f a => f.learn p x.peer a) f
      { f with heard := (f.heard.filter fun g => !(g.member == x.peer || groups.any fun h => h.member == g.member)) ++ (groups.filter fun g => !(f.valid && g.member == f.addr)),
               links := KMap.set f.links x.peer.toNat ((routes.filter fun a => a.hops == 1).map fun a => a.dest) }
    s.routesIn p routes groups = if v.fab.routes = s.fab.routes then v else v.advertise.forward := if_neg (by rw [hup, hauth]; decide)
theorem State.peerDown_awaits {reporter lost : W16} (h : s.fab.notices.contains (lost, reporter) = false)
    (hnear : KMap.getD ((s.onFab fun f => { f with notices := f.notices ++ [(lost, reporter)] }).flood (.peerDown lost true)).fab.links lost.toNat [] = []) :
    s.peerDown reporter lost true = (s.onFab fun f => { f with notices := f.notices ++ [(lost, reporter)] }).flood (.peerDown lost true) := by
  unfold State.peerDown
  simp only [h, hnear, List.isEmpty_nil, Bool.not_true, Bool.false_and, Bool.or_self, Bool.false_eq_true, if_false]

section
variable {dest : W16} {cls : Nat} {id : W32} {o : OutMsg}
  (ho : s.fab.out.find? (fun o => o.dest == dest && o.cls.toNat == cls && o.msgId == id && !o.reply && o.port.isNone) = some o)
include ho

theorem State.retry_again (hn : o.sends < 4) (hr : KMap.has s.fab.routes dest.toNat = true) :
    s.retry dest cls id = s.onFab fun f => { f with out := f.out.map fun x => if x = o then { x with sends := x.sends + 1 } else x } := by
  unfold State.retry
  simp only [ho, hn, hr, decide_true, Bool.and_self, if_true]
theorem State.retry_unreached (hn : 4 ≤ o.sends) :
    let key := streamKey dest cls
    s.retry dest cls id = ((s.dropOut o).onFab fun f => { f with unreachable := if f.unreachable.contains key then f.unreachable else f.unreachable ++ [key] }).unreached o := by
  unfold State.retry
  simp only [ho, Nat.not_lt.2 hn, decide_false, Bool.false_and, Bool.false_eq_true, if_false]
end
end

/-- Settles O56. -/
theorem linksAndRoutes : Obligations.LinksAndRoutes := by
  unfold Obligations.LinksAndRoutes
  dsimp only
  intro s port
  refine ⟨fun peer serial => ⟨fun h => ?notReady, fun h hp hroom => ⟨Config.freeNat s.freeCtr, ?exchanges⟩, fun h hv hp => ?clash⟩,
    fun digest hup hauth => ⟨?authOk, ?authFails⟩, fun lane h => ?laneAgain, fun lane => exec_laneFail_lostLock lane s, fun lane q h => exec_laneFail_eighthSend h, fun b hup => ⟨fun h => ?bad, fun hok h => ?control,
      fun hok hk ha h => ?gap, fun hok hk ha h => ⟨fun hf => ?first, fun n hf hn => ?joins, fun hf hn => ?stray⟩⟩,
    fun n t ht hw => ⟨State.forwardOne_noRoute ht hw, fun r hr => ⟨State.forwardOne_goes ht hw hr, State.forwardOne_stays ht hw hr⟩⟩,
    fun ack hup => ⟨fun h => ?resends, fun f h => ?eighth⟩, fun h => ?retrained, fun h => ?notRetraining, fun h => ⟨fun b => ?flitDown, fun ack => ?nakDown⟩,
    fun cand serial hup hauth => ⟨fun hv ha => ?held, fun hv hp ha hs => ?contested, fun ha => ?otherAddress⟩, fun h => ?probed, fun routes groups hup hauth => ?routes, rfl, fun dest h => ?expire,
    fun reporter lost => rfl, fun reporter lost h hnear => ?awaits, fun src => rfl, fun dest cls id o hdep ho => ⟨fun hn hr => ?again, fun hn => ?unreached⟩⟩
  case notReady => exact congrArg woken (State.linkUp_notReady h)
  case exchanges => exact congrArg woken (State.linkUp_exchanges h hp hroom)
  case clash => exact congrArg woken (State.linkUp_clash h hv hp)
  case authOk => exact congrArg woken (State.authDone_ok hup hauth)
  case authFails => exact congrArg woken (State.authDone_fails hup hauth)
  case laneAgain => exact exec_laneFail_again h
  case bad => exact congrArg woken (State.flitIn_bad hup h)
  case control => exact congrArg woken (State.flitIn_control hup hok h)
  case gap => exact congrArg woken (State.flitIn_gap hup hok hk ha h)
  case first => exact congrArg woken (State.flitIn_first hup hok hk ha h hf)
  case joins => exact congrArg woken (State.flitIn_joins hup hok hk ha h hf hn)
  case stray => exact congrArg woken (State.flitIn_stray hup hok hk ha h hf hn)
  case resends => exact congrArg woken (State.nakIn_resends hup h)
  case eighth => exact congrArg woken (State.nakIn_eighth hup h)
  case retrained => exact congrArg woken (if_pos h)
  case notRetraining => exact congrArg woken (if_neg (ne_true_of_eq_false h))
  case flitDown => exact congrArg woken (State.flitIn_down h)
  case nakDown => exact congrArg woken (State.nakIn_down h)
  case held => exact congrArg woken (State.probeIn_held hup hauth hv ha)
  case contested => exact congrArg woken (State.probeIn_contested hup hauth hv hp ha hs)
  case otherAddress => exact congrArg woken (State.probeIn_other hup hauth ha)
  case probed => exact congrArg woken (if_pos h)
  case routes => exact congrArg woken (State.routesIn_open hup hauth)
  case expire => exact congrArg woken (if_pos h)
  case awaits => exact congrArg woken (State.peerDown_awaits h hnear)
  case again => exact congrArg woken ((State.answered_in hdep).trans (State.retry_again ho hn hr))
  case unreached => exact congrArg woken ((State.answered_in hdep).trans (State.retry_unreached ho hn))

end Sys2Proof.Machine
end

section
/-! Arrival of messages (R341, R342), mirrors and migrated requests (R349, R350, R352, R353). -/

namespace Sys2Proof.Machine

/-! ## Arrival (R341, R342) -/

section
variable {s : State} {m : MsgHdr} {cls : Nat} {ordered : Bool} {i : Instr}

/-- The number a stream awaits. -/
def State.awaits (s : State) (m : MsgHdr) (cls : Nat) : W32 := KMap.getD s.fab.rxIds (streamKey m.src cls) 0
/-- The messages of a stream that arrived early. -/
def State.earlyOf (s : State) (m : MsgHdr) (cls : Nat) : List (Nat × W32 × Option Instr) := s.fab.early.filter fun e => e.1 == streamKey m.src cls
/-- Has a message arrived early? -/
def State.earlySeen (s : State) (m : MsgHdr) (cls : Nat) : Bool := (s.earlyOf m cls).any fun e => e.2.1 == m.msgId

theorem State.receive_departed (h : s.departed = true) : s.receive m cls ordered i = s := if_pos h
variable (hdep : s.departed = false)
include hdep
theorem State.receive_reply (hr : m.isReply = true) : s.receive m cls ordered i = applyMsg i s :=
  (if_neg (ne_true_of_eq_false hdep)).trans (if_pos hr)
variable (hr : m.isReply = false)
include hr

theorem State.receive_arrives : s.receive m cls ordered i = s.arrive m cls ordered i applyMsg :=
  (if_neg (ne_true_of_eq_false hdep)).trans (if_neg (ne_true_of_eq_false hr))
theorem State.receive_resync (hy : m.isResync = true) :
    let key := streamKey m.src cls
    let v := s.onFab fun f => { f with rxIds := KMap.set f.rxIds key m.msgId, early := f.early.filter fun e => e.1 ≠ key }
    s.receive m cls ordered i = (applyMsg i (v.took m cls)).caughtUp m cls := by
  have hnext : m.msgId = KMap.getD (KMap.set s.fab.rxIds (streamKey m.src cls) m.msgId) (streamKey m.src cls) 0 := by
    unfold KMap.getD
    rw [KMap.get?_set_self]
  rw [State.receive_arrives hdep hr]
  unfold State.arrive State.caughtUp
  simp only [hy, if_true]
  exact if_pos hnext
variable (hy : m.isResync = false) (hn : m.msgId ≠ s.awaits m cls)
include hy hn

theorem State.receive_outOfTurn : s.receive m cls ordered i =
    if m.msgId - s.awaits m cls < 0x80000000 then
      if s.earlySeen m cls then (if ordered then s else applyMsg i s)
      else if ordered then (if (s.earlyOf m cls).length < 64 then s.onFab fun f => { f with early := f.early ++ [(streamKey m.src cls, m.msgId, some i)] } else s)
      else applyMsg i (s.onFab fun f => { f with early := f.early ++ [(streamKey m.src cls, m.msgId, none)] })
    else if ordered then s else applyMsg i s := by
  rw [State.receive_arrives hdep hr]
  unfold State.arrive
  simp only [hy, Bool.false_eq_true, if_false]
  exact if_neg hn
theorem State.receive_discarded (h : 0x80000000 ≤ m.msgId - s.awaits m cls ∨ s.earlySeen m cls = true) :
    s.receive m cls ordered i = if ordered then s else applyMsg i s := by
  rw [State.receive_outOfTurn hdep hr hy hn]
  rcases h with h | h
  · exact if_neg (BitVec.not_lt.2 h)
  · simp only [h, if_true, ite_self]
variable (hlt : m.msgId - s.awaits m cls < 0x80000000) (hseen : s.earlySeen m cls = false)
include hlt hseen

theorem State.receive_heldEarly (ho : ordered = true) (hlen : (s.earlyOf m cls).length < 64) :
    s.receive m cls ordered i = s.onFab fun f => { f with early := f.early ++ [(streamKey m.src cls, m.msgId, some i)] } := by
  simp only [State.receive_outOfTurn hdep hr hy hn, hlt, hseen, ho, hlen, Bool.false_eq_true, if_true, if_false]
theorem State.receive_tooEarly (ho : ordered = true) (hlen : 64 ≤ (s.earlyOf m cls).length) : s.receive m cls ordered i = s := by
  simp only [State.receive_outOfTurn hdep hr hy hn, hlt, hseen, ho, Nat.not_lt.2 hlen, Bool.false_eq_true, if_true, if_false]
theorem State.receive_appliedEarly (ho : ordered = false) :
    s.receive m cls ordered i = applyMsg i (s.onFab fun f => { f with early := f.early ++ [(streamKey m.src cls, m.msgId, none)] }) := by
  simp only [State.receive_outOfTurn hdep hr hy hn, hlt, hseen, ho, Bool.false_eq_true, if_true, if_false]
end

theorem State.catchUp_next {s : State} {key fuel : Nat} {e : Nat × W32 × Option Instr}
    (h : (s.fab.early.find? fun e => e.1 == key && e.2.1 == KMap.getD s.fab.rxIds key 0) = some e) :
    let n := KMap.getD s.fab.rxIds key 0
    let v := s.onFab fun f => { f with rxIds := KMap.set f.rxIds key (n + 1), early := f.early.filter fun x => !(x.1 == key && x.2.1 == n) }
    State.catchUp applyMsg key (fuel + 1) s = State.catchUp applyMsg key fuel (match e.2.2 with | some i => applyMsg i v | none => v) := by
  simp only [State.catchUp, h] <;> rfl
theorem State.answered_departed {s : State} {f : State → State} (h : s.departed = true) : s.answered f = s := if_pos h

/-! ## Mirrors (R349, R350) -/

section
variable {b : State} {m : MsgHdr} {d : MirrorDesc}

/-- May this module take a request over (R349)? -/
def State.takesOver (t : State) (d : MirrorDesc) : Prop :=
  let q := t.qp (qpKey (t.deliveryFn d.part) 0)
  (t.part d.part.val).cores ≠ [] ∧ (t.part d.part.val).raw = false ∧ (∃ x, t.tenant? d.tenant = some x ∧ bit x.mask.toNat d.part.val = true ∧ x.model.modelId = d.modelId)
    ∧ (d.grammarEn = true → KMap.has t.sch.grammars d.grammar.toNat = true) ∧ q.active = true ∧ q.en = true ∧ q.stopped = false

theorem State.mirrorOk_iff : b.mirrorOk d = true ↔ b.takesOver d := by
  unfold State.mirrorOk State.takesOver
  cases b.tenant? d.tenant <;> cases d.grammarEn <;> simp [and_assoc]
/-- Is it the mirror of the message's own request? -/
def Mirror.ofMsg (m : MsgHdr) (x : Mirror) : Bool := x.src == m.src && x.ref == m.context

theorem State.mirrorOpenIn_refused (h : 8192 ≤ b.fab.mirrors.length ∨ ¬ b.takesOver d) : b.mirrorOpenIn m d = b.reply m 6 (.mirrorError m.context.toNat) := by
  refine if_pos ?_
  rcases h with h | h
  · simp [h]
  · simp [Bool.eq_false_iff.2 (mt State.mirrorOk_iff.1 h)]
theorem State.mirrorOpenIn_opens (hlen : b.fab.mirrors.length < 8192) (h : b.takesOver d) :
    let serials := ((List.range 8).filter fun p => (b.port p).up && (b.port p).peer == m.src).map fun p => (b.port p).serial
    b.mirrorOpenIn m d = (b.onBbx fun x => { x with sources := x.sources ++ serials.filter fun y => !(x.sources.contains y) }).onFab fun f =>
      { f with sources := if f.sources.contains m.src then f.sources else f.sources ++ [m.src],
               mirrors := (f.mirrors.filter fun x => !x.ofMsg m) ++ [{ src := m.src, ref := m.context, desc := d }] } :=
  if_neg (by simp [Nat.not_le.2 hlen, State.mirrorOk_iff.2 h])

/-! ## Migrated requests (R352, R353) -/

/-- The delivery queue pair of a mirrored request. -/
def State.deliveryKey (b : State) (d : MirrorDesc) : Nat := qpKey (b.deliveryFn d.part) 0
/-- Has the delivery queue pair no completion entry free? -/
def Qp.full (q : Qp) : Prop := q.active = true ∧ q.stopped = false ∧ q.cqRoom = false

theorem Qp.full_iff {q : Qp} : q.full ↔ (q.active && !q.stopped && !q.cqRoom) = true := by
  unfold Qp.full
  simp [and_assoc]
theorem State.resume_waits (h : (b.qp (b.deliveryKey d)).full) : b.resume d = b.onFab fun f => { f with resuming := f.resuming ++ [d] } :=
  if_pos (Qp.full_iff.1 h)
variable (hfull : ¬ (b.qp (b.deliveryKey d)).full)
include hfull

theorem State.resume_refused (h : ¬ b.takesOver d ∨ b.freeSlot d.part.val = none) :
    b.resume d = (b.onQp (b.deliveryKey d) fun q => { q with inFlight := q.inFlight + 1 }).complete (b.deliveryKey d)
      { tag := d.tag, status := 0x0200, detail := 0, info := infoByte false true false b.degraded, r0 := 0, r1 := 0, r2 := 0, r3 := 0 } := by
  refine (if_neg (mt Qp.full_iff.2 hfull)).trans ?_
  split
  · next hn hok => exact absurd h (by simp [State.mirrorOk_iff.1 hok, hn])
  · rfl
/-- The header of a request taken over. -/
def State.migratedHdr (b : State) (d : MirrorDesc) : Hdr :=
  { fn := b.deliveryFn d.part, qp := 0, flags := 0, part := BitVec.ofNat 8 d.part.val, tag := d.tag, paramLen := 0, rsv := 0, run := (b.qp (b.deliveryKey d)).runs }
/-- A request taken over is admitted as a rebuild. -/
def State.migrated (b : State) (d : MirrorDesc) (n : Nat) (buf out : Bytes) (gq : Nat) (gst : List W16) : State :=
  let g := nextGen (KMap.getD b.sch.gens n 0)
  let r := { newReq b (b.migratedHdr d) (if d.isAsk then .ask else .generate) g (List.replicate (if d.isAsk then 160 else 32) 0 ++ padTo 40 d.sampling ++ padTo 592 d.stop) with
    tenant := d.tenant, grammar := if d.grammarEn then some d.grammar.toNat else none, gState := BitVec.ofNat 16 gq, gStack := gst, prompt := d.prompt,
    emitted := d.tokens, buf := buf, issued := d.bytes.toNat, visible := d.bytes.toNat, phase := 4, stage := 9, migrated := true, rebuild := true, state := .rebuilding }
  let t := (b.onSch fun c => { c with slots := KMap.set c.slots n r, gens := KMap.set c.gens n g }).onQp (b.deliveryKey d) fun q => { q with inFlight := q.inFlight + 1 }
  (((t.writeRecord n).issueText n (out.drop d.bytes.toNat)).mirrorOpen n).publishEntry n false

/-- The text and grammar state of a request taken over, derived again from its tokens. -/
def State.rederived (b : State) (d : MirrorDesc) : Bytes × Bytes × Nat × List W16 :=
  let gr := if d.grammarEn then KMap.get? b.sch.grammars d.grammar.toNat else none
  rederive (b.tenantVocab d.tenant) gr d.stop [] [] (match gr with | some x => x.start | none => 0) [] d.tokens
theorem State.resume_admits {n : Nat} {buf out : Bytes} {gq : Nat} {gst : List W16} (h : b.takesOver d) (hn : b.freeSlot d.part.val = some n)
    (hre : b.rederived d = (buf, out, gq, gst)) : b.resume d = b.migrated d n buf out gq gst := by
  have hgo : b.resume d = b.migrated d n (b.rederived d).1 (b.rederived d).2.1 (b.rederived d).2.2.1 (b.rederived d).2.2.2 := by
    refine (if_neg (mt Qp.full_iff.2 hfull)).trans ?_
    rw [hn, State.mirrorOk_iff.2 h]
    rfl
  rw [hgo, hre]
end

/-- Settles O57. -/
theorem messagesAct : Obligations.MessagesAct := by
  unfold Obligations.MessagesAct
  dsimp only
  intro s m
  refine ⟨fun cls ordered i => ⟨State.receive_departed, State.receive_reply, State.receive_inTurn ordered i, State.receive_resync,
      fun hdep hr hy hn => ⟨fun hlt hseen => ⟨State.receive_heldEarly hdep hr hy hn hlt hseen, State.receive_tooEarly hdep hr hy hn hlt hseen,
        State.receive_appliedEarly hdep hr hy hn hlt hseen⟩, State.receive_discarded hdep hr hy hn⟩, fun fuel e => State.catchUp_next⟩,
    ?rows, fun hdep => ?departed, fun hdep => ?error, fun hturn => ?mirrors, fun hturn d => ⟨fun hfull => ?waits, fun hfull h => ?refused, fun n hfull h hn buf out gq gst hre => ?admits⟩⟩
  case rows =>
    exact ⟨fun _ _ => rfl, fun _ _ => rfl, fun _ => rfl, fun _ => rfl, rfl, rfl, fun _ _ _ _ => rfl, fun _ => rfl, fun _ => rfl, fun _ _ => rfl, fun _ => rfl,
      fun _ _ _ _ _ => rfl, rfl, fun _ => rfl, fun _ _ => rfl, rfl, fun _ => rfl⟩
  case departed =>
    have hgone := fun f => congrArg woken (State.answered_departed (f := f) hdep)
    exact ⟨fun _ _ _ => hgone _, fun _ => hgone _, fun _ => hgone _, fun _ _ _ => hgone _, fun _ _ _ => hgone _, hgone _⟩
  case error => exact congrArg woken (State.answered_in hdep)
  case mirrors =>
    exact ⟨fun d h => exec_receive_inTurn rfl hturn (State.mirrorOpenIn_refused h), fun d hlen h => exec_receive_inTurn rfl hturn (State.mirrorOpenIn_opens hlen h),
      fun toks bytes => exec_receive_inTurn rfl hturn rfl, exec_receive_inTurn rfl hturn rfl⟩
  case waits => exact exec_receive_inTurn rfl hturn (congrArg State.settle (State.resume_waits hfull))
  case refused => exact exec_receive_inTurn rfl hturn (congrArg State.settle (State.resume_refused hfull h))
  case admits => exact exec_receive_inTurn rfl hturn (congrArg State.settle (State.resume_admits hfull h hn hre))

end Sys2Proof.Machine
end

section
/-! Register writes and latched reads (R17, R300), and what the registers read after reset. -/

namespace Sys2Proof.Machine

/-! ## Fields -/

theorem bits_low (v hi : Nat) : bits v hi 0 = v % 2 ^ (hi + 1) := rfl
theorem highWord_append_lowWord (x : W64) : highWord x ++ lowWord x = x := by
  apply BitVec.eq_of_getLsbD_eq
  intro i hi
  rw [BitVec.getLsbD_append]
  unfold highWord lowWord
  split
  · next h => simp [h]
  · next h => simp [show 32 + (i - 32) = i by omega, show i - 32 < 32 by omega]
/-- A word written through a 64-bit operand is the word. -/
theorem setWidth_setWidth_word (v : W32) : (v.setWidth 64).setWidth 32 = v := by
  rw [BitVec.setWidth_setWidth_of_le _ (by decide)]
  exact BitVec.setWidth_eq v

section
variable {s : State} {f : State → State}

theorem State.pfWrite_reached (h : s.reaches 0 = true) : s.pfWrite f = f s := if_pos h
theorem State.pfWrite_unreached (h : s.reaches 0 = false) : s.pfWrite f = s := if_neg (ne_true_of_eq_false h)
theorem State.pfRead_reached (h : s.reaches 0 = true) : s.pfRead f = f s := if_pos h
theorem State.pfRead_unreached (h : s.reaches 0 = false) : s.pfRead f = s.returns 0xFFFFFFFF := if_neg (ne_true_of_eq_false h)

theorem State.readSeqLo_listed {i : Nat} {x : Index} (h : s.index? i = some x) :
    s.readSeqLo i = (s.onIndex i fun x => { x with seqHiLatch := highWord x.seq }).returns (lowWord x.seq) := by
  unfold State.readSeqLo
  rw [h]
theorem State.readSeqLo_unlisted {i : Nat} (h : s.index? i = none) : s.readSeqLo i = s.returns 0 := by
  unfold State.readSeqLo
  rw [h]

/-! ## Writes by offset (R300) -/

variable {fn : Fn} {off width : Nat} {v : W32}

theorem State.regWriteAt_dropped (h : s.reaches fn = false ∨ off % 4 ≠ 0 ∨ width ≠ 32) : s.regWriteAt fn off width v = s := by
  refine if_pos ?_
  rcases h with h | h | h <;> simp [h]
theorem State.regWriteAt_taken (h : s.reaches fn = true) (h4 : off % 4 = 0) :
    s.regWriteAt fn off 32 v = if fn = 0 then s.writePf off v else if off < 0x100000 then s.writeGlb fn off v else s :=
  if_neg (by simp [h, h4])
theorem exec_regWrite_taken {off : W32} {x : W64} (h : s.reaches fn = true) (h4 : off.toNat % 4 = 0) :
    exec (.regWrite fn off 32 x) s =
      .next (if fn = 0 then s.writePf off.toNat (x.setWidth 32) else if off.toNat < 0x100000 then s.writeGlb fn off.toNat (x.setWidth 32) else s).woken :=
  congrArg woken (State.regWriteAt_taken h h4)
theorem State.writePf_gcCfg (v : W32) : s.writePf (0x800004 : W32).toNat v = s.onCel fun c => { c with gcCfg := v } := by
  simp [State.writePf, routeWrite, inst, State.writeGc]
theorem State.writePf_reserved (v : W32) : s.writePf (0x10001C : W32).toNat v = s := by
  simp [State.writePf, routeWrite, inst]
theorem State.writePf_locate (v : W32) : s.writePf (0xC : W32).toNat v = s.onSvc fun x => { x with locate := v.getLsbD 5 } := by
  simp [State.writePf, State.writeGlb, pf]
end

/-- Settles O58. -/
theorem registerAccesses : Obligations.RegisterAccesses := by
  unfold Obligations.RegisterAccesses
  dsimp only
  intro s v i p
  refine ⟨fun h => ?reached, fun h => ?unreached, fun h => ?unreachedOthers, fun fn off width x h => ?dropped, fun fn off x h h4 => ?taken, fun h => ?offsets, highWord_append_lowWord⟩
  case reached =>
    have hw : ∀ f, (Host.Outcome.next (s.pfWrite f) : Out) = .next (f s) := fun f => congrArg Host.Outcome.next (State.pfWrite_reached h)
    have hr : ∀ f, (Host.Outcome.next (s.pfRead f) : Out) = .next (f s) := fun f => congrArg Host.Outcome.next (State.pfRead_reached h)
    exact ⟨hw _, congrArg woken (State.pfWrite_reached h), congrArg woken (State.pfWrite_reached h), hw _, hw _, hw _, hw _, hw _, hw _, hw _, hw _, hw _, fun _ _ => hw _,
      hw _, hw _, hw _, hw _, hw _, fun x hx => (hr _).trans (congrArg Host.Outcome.next (State.readSeqLo_listed hx)),
      fun hx => (hr _).trans (congrArg Host.Outcome.next (State.readSeqLo_unlisted hx)), hr _, hr _⟩
  case unreached =>
    have hw : ∀ f, (Host.Outcome.next (s.pfWrite f) : Out) = .next s := fun f => congrArg Host.Outcome.next (State.pfWrite_unreached h)
    simp only [List.forall_mem_cons]
    exact ⟨hw _, hw _, hw _, hw _, hw _, hw _, hw _, hw _, hw _, hw _, hw _, hw _, hw _, hw _, hw _, List.forall_mem_nil _⟩
  case unreachedOthers =>
    have hr : ∀ f, (Host.Outcome.next (s.pfRead f) : Out) = .next (s.returns 0xFFFFFFFF) := fun f => congrArg Host.Outcome.next (State.pfRead_unreached h)
    refine ⟨congrArg woken (State.pfWrite_unreached h), congrArg woken (State.pfWrite_unreached h), fun _ _ => congrArg Host.Outcome.next (State.pfWrite_unreached h), ?_⟩
    simp only [List.forall_mem_cons]
    exact ⟨hr _, hr _, hr _, List.forall_mem_nil _⟩
  case dropped => exact congrArg woken (State.regWriteAt_dropped (h.imp_right fun h => h.imp_right fun h hw => h (BitVec.eq_of_toNat_eq hw)))
  case taken => exact exec_regWrite_taken h h4
  case offsets =>
    have hw : ∀ off : W32, off.toNat % 4 = 0 → exec (.regWrite 0 off 32 (v.setWidth 64)) s = .next (s.writePf off.toNat v).woken := fun off h4 => by
      have htaken := exec_regWrite_taken (x := v.setWidth 64) h h4
      rwa [setWidth_setWidth_word, if_pos rfl] at htaken
    exact ⟨(hw 0x800004 (by decide)).trans (congrArg woken (State.writePf_gcCfg v)), (hw 0x10001C (by decide)).trans (congrArg woken (State.writePf_reserved v)),
      (hw 0xC (by decide)).trans (congrArg woken (State.writePf_locate v))⟩

/-! ## Reads by offset -/

/-- The register windows of the PF's BAR0, by MiB (Table 12.4). -/
def State.window (s : State) (k w : Nat) : Option Nat :=
  match k with
  | 0x0 => glbRegs s 0 w
  | 0x1 => pwrRegs s w
  | 0x2 => clkRegs s w
  | 0x3 => schRegs s w
  | 0x4 => memRegs s w
  | 0x5 => retRegs s w
  | 0x6 => tblRegs s w
  | 0x7 => txtRegs s w
  | 0x8 => celRegs s w
  | 0x9 => fabRegs s w
  | 0xA => rasRegs s w
  | 0xB => secRegs s w
  | 0xC => bbxRegs s w
  | _ => none

theorem State.regRead_window (s : State) {k w : Nat} (hk : k < 16) (hw : w < 0x100000) (h4 : w % 4 = 0) :
    s.regRead 0 (0x100000 * k + w) 4 = (s.window k w).getD 0xFFFFFFFF := by
  have halign : (0x100000 * k + w) % 4 = 0 := by omega
  have hmod : (0x100000 * k + w) % 0x100000 = w := by omega
  have hdiv : (0x100000 * k + w) / 0x100000 = k := by omega
  have htable : ¬ 0x1000000 ≤ 0x100000 * k + w := by omega
  unfold State.regRead State.regAt
  simp only [halign, hmod, hdiv, htable, ne_eq, not_true_eq_false, decide_false, Bool.false_and, Bool.false_eq_true, if_true, if_false]
  rfl

section
variable {off b n i : Nat} {f : Nat → Nat} {l : List (Nat × Nat × (Nat → Nat))}

theorem lookupReg_here (hi : i < n) : lookupReg (b + 4 * i) ((b, n, f) :: l) = some (f i) := by
  have hin : (decide (b ≤ b + 4 * i) && decide (b + 4 * i < b + 4 * n)) = true := by simp; omega
  have hidx : (b + 4 * i - b) / 4 = i := by omega
  simp only [lookupReg, inst, hin, hidx, if_true]
theorem lookupReg_later (h : b + 4 * n ≤ off) : lookupReg off ((b, n, f) :: l) = lookupReg off l := by
  have hout : (decide (b ≤ off) && decide (off < b + 4 * n)) = false := by simp; omega
  simp only [lookupReg, inst, hout, Bool.false_eq_true, if_false]
end

/-- A register that a window gives at an offset reads so. -/
theorem State.regRead_at (s : State) {off k w x : Nat} (hoff : off = 0x100000 * k + w) (hk : k < 16) (hw : w < 0x100000) (h4 : w % 4 = 0) (hx : s.window k w = some x) :
    s.regRead 0 off 4 = x := by
  rw [hoff, State.regRead_window s hk hw h4, hx]
  rfl

section
variable (s : State) {i : Nat}

theorem schRegs_sched (hi : i < 16) : schRegs s (0x140 + 4 * i) = some ((s.part i).schedNew.getD (s.part i).sched).toNat := by
  unfold schRegs
  rw [lookupReg_later (by omega), lookupReg_later (by omega), lookupReg_here hi]
theorem memRegs_pager (hi : i < 16) : memRegs s (0x100 + 4 * i) = some ((s.part i).pagerNew.getD (s.part i).pager).toNat := by
  unfold memRegs
  rw [lookupReg_later (by omega), lookupReg_later (by omega), lookupReg_later (by omega), lookupReg_later (by omega), lookupReg_here hi]
theorem memRegs_regulator {r : Regulator} (hi : i < 16) (hr : (s.part i).regs[0]? = some r) : memRegs s (0x140 + 4 * i) = some (regWord r) := by
  unfold memRegs
  rw [lookupReg_later (by omega), lookupReg_later (by omega), lookupReg_later (by omega), lookupReg_later (by omega), lookupReg_later (by omega), lookupReg_here hi]
  simp only [hr]
theorem memRegs_windows (hi : i < 16) : memRegs s (0x240 + 4 * i) = some (s.part i).slow.toNat ∧ memRegs s (0x280 + 4 * i) = some (s.part i).stallObs.toNat
    ∧ memRegs s (0x2C0 + 4 * i) = some (s.part i).stallInt.toNat := by
  unfold memRegs
  refine ⟨?_, ?_, ?_⟩
  · iterate 9 rw [lookupReg_later (by omega)]
    exact lookupReg_here hi
  · iterate 10 rw [lookupReg_later (by omega)]
    exact lookupReg_here hi
  · iterate 11 rw [lookupReg_later (by omega)]
    exact lookupReg_here hi
theorem retRegs_overruns_unlisted (hi : i < 64) (hix : s.index? i = none) : retRegs s (0x200 + 4 * i) = some 0 := by
  unfold retRegs
  rw [lookupReg_later (by omega), lookupReg_later (by omega), lookupReg_here hi]
  simp only [hix]
theorem fabRegs_group (hi : i < 64) : fabRegs s (0x200 + 4 * i) = some (KMap.getD s.fab.groups i 0).toNat := by
  unfold fabRegs
  rw [lookupReg_later (by omega), lookupReg_later (by omega), lookupReg_later (by omega), lookupReg_here hi]
theorem secRegs_key (hi : i < 256) : secRegs s (0x1000 + 4 * i) = some (KMap.getD s.boot.keys i 0).toNat := by
  unfold secRegs
  rw [lookupReg_later (by omega), lookupReg_later (by omega), lookupReg_later (by omega), lookupReg_here hi]
end

/-- Settles O59. -/
theorem registersAfterReset : Obligations.RegistersAfterReset := by
  unfold Obligations.RegistersAfterReset
  dsimp only
  have hread := @State.regRead_at State.reset
  refine ⟨rfl, rfl, rfl, rfl, rfl, fun p hp => ?parts, fun i hi => ?indexes, rfl, rfl, rfl, rfl, rfl, rfl, rfl, rfl, fun k hk => ?keys, rfl, rfl, rfl, rfl⟩
  case parts =>
    obtain ⟨hslow, hobs, hint⟩ := memRegs_windows State.reset hp
    exact ⟨hread (k := 3) (by omega) (by decide) (by omega) (by omega) (schRegs_sched _ hp), hread (k := 4) (by omega) (by decide) (by omega) (by omega) (memRegs_pager _ hp),
      hread (k := 4) (by omega) (by decide) (by omega) (by omega) (memRegs_regulator State.reset (r := Regulator.reset) hp rfl), hread (k := 4) (by omega) (by decide) (by omega) (by omega) hslow,
      hread (k := 4) (by omega) (by decide) (by omega) (by omega) hobs, hread (k := 4) (by omega) (by decide) (by omega) (by omega) hint⟩
  case indexes =>
    exact ⟨hread (k := 5) (by omega) (by decide) (by omega) (by omega) (retRegs_overruns_unlisted State.reset hi rfl), hread (k := 9) (by omega) (by decide) (by omega) (by omega) (fabRegs_group _ hi)⟩
  case keys => exact hread (k := 0xB) (by omega) (by decide) (by omega) (by omega) (secRegs_key _ hk)

end Sys2Proof.Machine
end
